-- ==== Sys2Proof/Word.lean ====
section
/-! DEFINITION. Words, bytes and the little-endian images of R6: every multi-byte quantity of a register,
descriptor, record or chain message is little-endian, bit 0 the least significant bit. -/

namespace Sys2Proof

/-- A byte of a wire image, 0 to 255. -/
abbrev Byte := Nat

/-- One field of a wire image: its offset, its size in bytes and its value (a negative value is written in two's
complement, as the signed fields of the tables are). -/
structure Field where
  off : Nat
  size : Nat
  val : Int
deriving DecidableEq, Repr

/-- The low `8 * n` bits of `v`, as a natural number (two's complement). -/
def wrapBits (bits : Nat) (v : Int) : Nat := (v % (2 ^ bits : Nat)).toNat

/-- The `n` bytes of `v`, least significant first (R6). -/
def leBytes : Nat → Nat → List Byte
  | 0, _ => []
  | n + 1, v => v % 256 :: leBytes n (v / 256)

/-- Write `bs` over an image, from offset `off`. -/
def overlay : List Byte → Nat → List Byte → List Byte
  | [], _, _ => []
  | img, 0, [] => img
  | _ :: rest, 0, b :: bs => b :: overlay rest 0 bs
  | a :: rest, off + 1, bs => a :: overlay rest off bs

/-- The image of `len` bytes that holds the given fields, reserved bytes zero (R7). -/
def packFields (len : Nat) (fs : List Field) : List Byte :=
  fs.foldl (fun img f => overlay img f.off (leBytes f.size (wrapBits (8 * f.size) f.val))) (List.replicate len 0)

/-- `v` limited to what `bits` unsigned bits hold: a saturating counter. -/
def satBits (bits v : Nat) : Nat := min v (2 ^ bits - 1)

/-- `v` limited to the interval from `lo` to `hi`. -/
def clampInt (lo hi v : Int) : Int := max lo (min hi v)

/-- The bits `lo` to `lo + n - 1` of a word. -/
def bitsOf (v lo n : Nat) : Nat := v / 2 ^ lo % 2 ^ n

/-- `v` with the field of `n` bits at `lo` set to `x`. -/
def putBits (v lo n x : Nat) : Nat := v - bitsOf v lo n * 2 ^ lo + x % 2 ^ n * 2 ^ lo

/-- `a / b`, rounded up. -/
def ceilDiv (a b : Nat) : Nat := (a + b - 1) / b

/-- `a / b`, rounded to the nearest integer, for a positive divisor (ties away from minus infinity). -/
def roundDiv (a b : Int) : Int := (2 * a + b) / (2 * b)

/-- A complex number, of the words that a sample is made of. -/
structure Cx where
  re : Int := 0
  im : Int := 0
deriving DecidableEq, Repr

end Sys2Proof
end

