-- ==== Sys2Proof/Syntax.lean ====
section
/-! DEFINITION. The commands of the part: one constructor of `Instr` per row of spec/opcode_table.json, with the
operands of its descriptor (Table HIF-8), of its register write, or of the outside event it reports.
A parameter stands as the raw value of its field, so that every range check and every all-ones default of R328 is the
machine's to make. An event carries the HT tick `t` on which it happens and what was measured. -/

namespace Sys2Proof

/-! ## What every command carries -/

/-- A command descriptor without its opcode and parameters (Table HIF-4). `ring` is the command ring it was read from,
`clean` that every reserved field and flag is zero, `readable` that the memory it names could be read; `resAddr` is the result
buffer's address when `res` is set, `dataAddr` that of the block, list, payload, message or image that the command names. -/
structure Desc where
  ring : Nat
  tag : Nat
  dest : Nat
  strict : Bool
  res : Bool
  resSize : Nat
  due : Nat
  clean : Bool
  readable : Bool
  resAddr : Nat := 0
  dataAddr : Nat := 0
deriving DecidableEq, Repr

/-- Half A's or half B's copy of a context (R27, R183). A context that is not paired has copy `a` alone. -/
inductive Copy where
  | a | b
deriving DecidableEq, Repr

/-- A port's direction: `tx` leaves the part on SDO, `rx` enters on SDI (R414). -/
inductive PortDir where
  | tx | rx
deriving DecidableEq, Repr

/-- A Tether port (R422). -/
inductive TetherPort where
  | up | down
deriving DecidableEq, Repr

/-- What a DRAM line of staging or time-shift holds (R372): a record header, or `count` bytes of the payload of the flow's oldest
record, from byte `first`. -/
inductive LinePart where
  | header
  | payload (first count : Nat)
deriving DecidableEq, Repr

/-- Owner of a DRAM line (Table FLW-6, R372). Other data of the control region is a queued Kite frame of a session, the alignment buffer
of a source set, or an entry of the service database, numbered through its services, frequencies and linkage sets. A line of the capture
region holds `count` bytes of the flow's oldest record, from byte `first`. -/
inductive DramOwner where
  | firmware (otherCopyGood : Bool)
  | control (kiteSession : Option Nat) (linkSet : Option Nat) (dbEntry : Option Nat)
  | staging (flow : Nat) (line : LinePart)
  | timeShift (flow : Nat) (line : LinePart)
  | capture (flow first count : Nat)
deriving DecidableEq, Repr

/-! ## Parameters of commands (Table HIF-8, Table HIF-10) -/

/-- HALF_SETUP LEVELLER (Table RFI-7). -/
structure LevellerParams where
  band : Nat
  mode : Nat
  upper : Int
  lower : Int
  dwell : Nat
  attenMin : Nat
  attenMax : Nat
  manual : Nat
deriving DecidableEq, Repr

/-- HALF_SETUP ACC_GPIO (Table RFI-9). -/
structure GpioParams where
  pin : Nat
  function : Nat
  level : Nat
  debounce : Nat
  isoHalf : Nat
  polarity : Nat
  muteLead : Nat
  muteTrail : Nat
deriving DecidableEq, Repr

/-- HALF_SETUP ACC_I2C (R125). -/
structure I2cParams where
  address : Nat
  speed : Nat
  wlen : Nat
  rlen : Nat
  bytes : List Byte
deriving DecidableEq, Repr

/-- CTX_OPEN, CTX_RETUNE and CTX_WATCH (Table HIF-10). `block` holds the AM or FM block, byte 32 first. -/
structure CtxParams where
  ctx : Nat
  type : Nat
  probe : Bool
  prioHigh : Bool
  freq : Nat
  lostTimeout : Nat
  iterMax : Nat
  reserve : Nat
  occupancy : Nat
  block : List Nat
deriving DecidableEq, Repr

/-- SVC_SELECT (Table HIF-8). -/
structure SelParams where
  ctx : Nat
  kind : Nat
  sub : Nat
  byService : Bool
  scids : Nat
  sid : Nat
deriving DecidableEq, Repr

/-- One source of SVC_LINK. -/
structure LinkSource where
  ctx : Nat
  sel : Nat
  rank : Nat
deriving DecidableEq, Repr

/-- The set parameters of Table DEC-6, raw. -/
structure SetParams where
  alignWindow : Nat
  holdBack : Nat
  badHold : Nat
  xfade : Nat
  goodHold : Nat
  blendGood : Nat
deriving DecidableEq, Repr

/-- SVC_FOLLOW_POLICY SET (Table SVC-4). -/
structure FollowParams where
  set : Nat
  ctx : Nat
  sel : Nat
  maxWatch : Nat
  maxMembers : Nat
  scope : Nat
  halves : Nat
  regional : Nat
  promoteCnr : Nat
  promoteTime : Nat
  releaseCnr : Nat
  releaseTime : Nat
  rehomeTime : Nat
  setParams : SetParams
deriving DecidableEq, Repr

/-- SVC_FOLLOW_POLICY SCAN (Table SVC-2). -/
structure ScanParams where
  half : Nat
  raster : Nat
  first : Nat
  last : Nat
  dwell : Nat
  watches : Nat
deriving DecidableEq, Repr

/-- FLOW_CREATE. -/
structure FlowParams where
  flow : Nat
  type : Nat
  subtype : Nat
  source : Nat
  sel : Nat
  blank : Bool
  length : Nat
deriving DecidableEq, Repr

/-- An entry of the flow ring table in host memory, as the part reads it (R342). -/
structure RingEntry where
  base : Nat
  log2 : Nat
  vector : Nat
  flush : Nat
deriving DecidableEq, Repr

/-- FLOW_BIND. `target`: 0 none, 1 flow ring `a`, 2 audio port `a` slot pair `b`, 3 chain address `a`; `remote` is the
remote flow; `entry` is the ring's entry of the flow ring table as read when the command executes; `remoteOk` that the
part at `a` holds a matching flow then (R358). -/
structure BindParams where
  target : Nat
  a : Nat
  b : Nat
  remote : Nat
  entry : RingEntry
  remoteOk : Bool
deriving DecidableEq, Repr

/-- One channel of a Kite configuration (Table KTE-2). -/
structure KiteChannel where
  freq : Nat
  bw : Nat
  sf : Nat
  rate : Nat
  subBand : Nat
  power : Int
  rampLevel : Nat
deriving DecidableEq, Repr

/-- The block that KITE_CONFIG names (Table KTE-1). `clean`: every reserved field is zero. -/
structure KiteBlock where
  extPa : Bool
  capture : Bool
  captureDb : Nat
  ramp : Nat
  lead : Nat
  trail : Nat
  kinds : List Nat
  rxChannel : List Nat
  channels : List KiteChannel
  clean : Bool
deriving DecidableEq, Repr

/-- AUDIO_PORT_CONFIG (Table AUD-1), raw. -/
structure PortParams where
  port : Nat
  format : Nat
  role : Nat
  slots : Nat
  bits : Nat
  clkLead : Nat
  clkTrail : Nat
  mclk : Nat
deriving DecidableEq, Repr

/-- One calibration window (Table CAL-3). -/
structure CalWindow where
  period : Nat
  phase : Nat
  offset : Nat
  length : Nat
deriving DecidableEq, Repr

/-- CLOCK_CONFIG: a field is present when its bit of the valid mask is set. -/
structure ClockParams where
  source : Option Nat
  refFreq : Option Nat
  lockTol : Option Nat
  slewLimit : Option Nat
  nSpll : Option Nat
  nTsyn : Option Nat
  nKsyn : Option Nat
  ppsDelay : Option Int
  stepLimit : Option Nat
  epoch : Option Nat
deriving DecidableEq, Repr

/-- One part that an enumeration walk finds: the address it stored before (none: never addressed) and whether it holds an open
context, a bound flow or a pending scheduled action (R427). -/
structure WalkPart where
  old : Option Nat
  busy : Bool
deriving DecidableEq, Repr

/-- What the enumeration walk meets outside the head: the parts behind its DOWN port, whether the walk returned on the
head's UP port, whether it ended at a break (R443). -/
structure WalkResult where
  parts : List WalkPart
  returned : Bool
  broken : Bool
deriving DecidableEq, Repr

/-- A firmware image as offered: its length, whether its signature verifies, its revision word in the layout of
GEN_FWREV and whether it carries a higher rollback floor (R457). -/
structure ImageOffer where
  bytes : Nat
  signatureOk : Bool
  major : Nat
  minor : Nat
  patch : Nat
  floor : Nat
deriving DecidableEq, Repr

/-- One entry of PLAN_PREPARE (R337). -/
inductive PlanEntry where
  | tilePlan (tile plan : Nat)
  | halfMode (half mode input : Nat)
  | leveller (half : Nat) (p : LevellerParams)
  | antpwr (half setting : Nat)
  | extGain (half : Nat) (gain : Int)
  | ctxOpen (p : CtxParams)
  | ctxWatch (p : CtxParams)
  | ctxRetune (p : CtxParams)
  | ctxClose (ctx : Nat)
  | select (p : SelParams)
  | deselect (p : SelParams)
  | coefSwap (ctx xfade : Nat)
  | syncReset (group syncout phase : Nat)
  | other (opcode : Nat)
deriving DecidableEq, Repr

/-! ## What outside events report -/

/-- One SPLL measurement window (R72, R77): whether every edge was present, whether the reference lies nearest 25.000 MHz rather than
10.000 MHz, its deviation from that nominal against the TCXO and against feedback, in ppb (the slew offset removed from the
second). -/
structure RefWindow where
  complete : Bool
  is25 : Bool
  refPpb : Int
  fbPpb : Int
deriving DecidableEq, Repr

/-- One detector period of a half (R109): the three band readings in 0.5 dB units, whether the period contained a clipped sample, the
level of the converter's composite in 0.1 dBFS (R139, R140), and the converter samples that the period ends with, −8192 to 8191 each: all
16·M of them, or none when the sample path is not followed (R145). -/
structure DetectorPeriod where
  readL : Int
  readV1 : Int
  readV3 : Int
  clipped : Bool
  composite : Int
  samples : List Int
deriving DecidableEq, Repr

/-- End of an I2C transaction (R125): the index of a refused byte, or the bytes read. -/
structure I2cResult where
  nack : Option Nat
  data : List Byte
deriving DecidableEq, Repr

/-- What the background estimator of a half has converged on (R139): its excursions from the last run, interleave gain of three
sub-converters in 0.0001 dB and timing skew of three in fs. -/
structure BgEstimate where
  half : Nat
  gain : List Int
  skew : List Int
deriving DecidableEq, Repr

/-- What a calibration run measured (R135, R141): CAL_RESIDUAL in 0.1 dBc. -/
structure CalResult where
  residual : Int
deriving DecidableEq, Repr

/-- The figures of one quality window (Table CTX-7). `none` is N/A. `idle` holds the noise floor of the most recent idle
interval that ended in this window, and, for DAB, the ticks from its end to the end of the window (R189); every level and floor is
referred to the input of the part, before ext_gain (R107). `agcErrA` and `agcErrB` are the gain errors (0.01 dB) that a fast AGC
measured since it last moved (R185). `broadcast` holds the measured values of Table ANA-7 in its order
(carrier_offset, am_mod_pos, am_mod_neg, dev_peak, mpx_power, pilot_dev, pilot_offset, rds_dev, mp_index, echo_delay,
echo_level), `reception` those of Table DIG-13: freq_offset,
clk_offset, delay_spread, guard_margin, doppler, mode, MSC, SDC, protection levels, interleaving, then the delay and level
of each path of cir_paths. -/
structure QualityMeasure where
  level : Option Int
  cnr : Option Int
  mer : Option Int
  idle : Option (Int × Nat)
  agcErrA : Int
  agcErrB : Int
  aLevel : Option Int
  aQuality : Option Int
  bLevel : Option Int
  bQuality : Option Int
  broadcast : List (Option Int)
  reception : List (Option Int)
deriving DecidableEq, Repr

/-- What CTX_PRESENCE_PASS reports of a copy of a context: what its type's presence test measured (Table CTX-5), in the units that
`Machine.presenceHolds` names. -/
structure PresenceTest where
  copy : Copy
  test : Int
deriving DecidableEq, Repr

/-- What CTX_DETECTION reports of a copy of a context (Table CTX-5): for FM that the 19 kHz pilot is found, for DAB the null symbol found
and the phase reference symbol locked, for DRM the mode found and the time reference cells located; and the gain error (0.01 dB) that the
fast AGC measured since it last moved (R185), and for DAB and DRM the carrier offset found (0.1 Hz). -/
structure DetectTest where
  copy : Copy
  found : Bool
  agcErr : Int
  offset : Int := 0
deriving DecidableEq, Repr

/-- One 2.5 ms block of an AM or FM context (R185, R205): the block CNR of each copy (0.1 dB), the gain error the AGC
measured (0.01 dB), the delay of input B against A (ns), the AM carrier loop's tests for a loss of lock and for lock (R201), the
canceller's output dispersion less its input dispersion (0.1 dB, R219) and the blanker's runs (R202). Where the model follows the
sample path, the last five are what its demodulators find. -/
structure BlockMeasure where
  cnrA : Int
  cnrB : Int
  agcErrA : Int
  agcErrB : Int
  delayNs : Int
  amLost : Bool
  amLock : Bool
  dispersion : Int
  nbRuns : Nat
  nbLong : Nat
deriving DecidableEq, Repr

/-- A service of the database (Table SVC-8, DB_SERVICE kinds: 0 RDS PI, 1 DAB SId 16, 2 DAB SId 32, 3 DRM). -/
structure ServiceKey where
  kind : Nat
  id : Nat
deriving DecidableEq, Repr

/-- Character set of a text, as the standard signals it (R305). -/
inductive Charset where
  | ebuLatin | ucs2 | utf8
deriving DecidableEq, Repr

/-- One item of service information of a FIG, the FAC or an SDC entity (Table SVC-1). What a service item does not carry is none. -/
inductive DbItem where
  | service (key : ServiceKey) (pty ecc : Option Nat) (label : Option (Charset × List Byte))
  | freq (key : ServiceKey) (standard source : Nat) (regional : Bool) (kHz eid : Nat)
  | link (lsn : Nat) (active hard ils : Bool) (members : List ServiceKey)
  | announce (start : Bool) (typeMask : Nat) (alarm test : Bool) (key : ServiceKey) (cluster kHz : Nat)
  | support (key : ServiceKey) (types : Nat)
  | schedule (key : ServiceKey) (standard kHz : Nat) (times : List (Nat × Nat × Nat))
deriving DecidableEq, Repr

/-- One RDS block as the decoder sees it (R224, R225): its 16 information bits, the offset word its syndrome matches
without correction, the offset and length of the burst that a correction would remove, and whether a bit of it was not
decided (R228). Offsets: 0 A, 1 B, 2 C, 3 C', 4 D, 5 E. -/
structure RdsBlock where
  info : Nat
  clean : Option Nat
  burst : Option (Nat × Nat)
  undecided : Bool
deriving DecidableEq, Repr

/-- A FIB, FAC or SDC block as received, with its CRC status. -/
structure CheckedBlock where
  ok : Bool
  bytes : List Byte
deriving DecidableEq, Repr

/-- An item of raw data as it is delivered (Table DIG-4, R253): whether it passed its check, and its bytes. -/
structure RawItem where
  ok : Bool
  bytes : List Byte
deriving DecidableEq, Repr

/-- A subchannel or stream as the multiplex describes it (R240, R253): its number, its coding (size, profile, bit
rate, or the stream's mapping and protection), the service and component it carries, a subchannel's place and size in CUs with its bit
rate in 8 kbit/s, whether it is under conditional access (Table DIG-6), and whether a stream's audio is CELP or HVXC (Table DIG-10). A DAB
coding begins with the profile's form, 0 UEP, 1 EEP-A or 2 EEP-B, and the table index or protection level (Table DIG-5). -/
structure SubDesc where
  sub : Nat
  coding : List Nat
  sid : Nat
  scids : Nat
  start : Nat := 0
  size : Nat := 0
  rate : Nat := 0
  ca : Bool := false
  unsupported : Bool := false
deriving DecidableEq, Repr

/-- One DAB transmission frame (R236-R241). `fibs` are those of the delivered copy; `okA`, `okB` count the good FIBs of each copy of a
paired context and `nullA`, `nullB` say whether its null symbol was found; `preErr` of `preCnt` channel bits of the FIC were in error
(R188). `change` and `occurrence` are those of FIG 0/0 and `next` the organisation announced (R240); `tii` holds identifiers with the level
of their pairs above the null symbol's noise per pair in 0.1 dB (R241). Each item is with the number of the FIB that carries it, each datum
with its SubChId. -/
structure DabFrame where
  nullA : Bool
  nullB : Bool := true
  okA : Nat := 0
  okB : Nat := 0
  preErr : Nat := 0
  preCnt : Nat := 0
  fibs : List CheckedBlock
  cifCount : Nat
  organisation : List SubDesc
  items : List (Nat × DbItem)
  merA : Int
  merB : Int
  agcErrA : Int
  agcErrB : Int
  delayNs : Int
  tii : List (Nat × Nat × Int)
  change : Nat := 0
  occurrence : Option Nat := none
  next : List SubDesc := []
  data : List (Nat × RawItem) := []
deriving DecidableEq, Repr

/-- One DRM transmission frame (R248-R254). `sdc` is present in the first frame of a superframe; `interleave` is the depth of the cell
interleaver in frames, as the FAC signals it. `facA`, `facB` say whether each copy of a paired context passed its own FAC; `mode` (0 A to
4 E), `msc` and `sdcMap` (bits of an axis: 1 4-QAM to 3 64-QAM) are the mapping; `coded` is the coded length of the multiplex frame in
bits (R262), `asks` and `asksB` the iterations that each copy's block asks for before it stops by itself, where the model does not follow
the sample path; `preErr` of `preCnt` channel bits of FAC and SDC were in error (R188). Each item is with the block that carries it: 0
FAC, 1 SDC. -/
structure DrmFrame where
  facA : Bool := true
  facB : Bool := true
  mode : Nat := 0
  msc : Nat := 1
  sdcMap : Nat := 1
  coded : Nat := 0
  asks : Nat := 1
  asksB : Nat := 1
  preErr : Nat := 0
  preCnt : Nat := 0
  fac : CheckedBlock
  sdc : Option CheckedBlock
  occupancy : Nat
  hierarchical : Bool
  interleave : Nat
  streams : List SubDesc
  items : List (Nat × DbItem)
  merA : Int
  merB : Int
  agcErrA : Int
  agcErrB : Int
  delayNs : Int
deriving DecidableEq, Repr

/-- One access unit or audio frame after its check: its length in bytes, PCM frames at 48 kHz it decodes to (R257), its stamp (Table
HTM-5): the HT of the first sample of the transmission frame in which the time de-interleaver completed it, its bytes (R259), and the words
its decoder gives, L before R: for a failed unit, those of the last good spectrum repeated (R258). -/
structure UnitResult where
  ok : Bool
  bytes : Nat
  pcmFrames : Nat
  codec : Nat
  stamp : Nat
  body : List Byte := []
  pcm : List Int := []
deriving DecidableEq, Repr

/-- What the PAD or a text segment of a unit carries: the F-PAD and X-PAD bytes (Table SVC-8), and of the data groups, each with whether its
CRC passes, a segment of a dynamic label, its clear command, DL Plus tags (content type, start, length), or a segment of a DRM text (R307,
R309). -/
inductive PadItem where
  | pad (fpad : Nat) (xpad : List Byte)
  | label (crc toggle : Bool) (segment : Nat) (last : Bool) (set : Charset) (bytes : List Byte)
  | clear (crc : Bool)
  | tags (crc toggle running : Bool) (tags : List (Nat × Nat × Nat))
  | text (crc toggle : Bool) (segment : Nat) (last : Bool) (bytes : List Byte)
deriving DecidableEq, Repr

/-- A MOT segment of PAD with whether its CRC passes (R308): a segment of a header (type 3), of a body (type 4) or of a directory
(type 6). `data` of a header starts at its content type; `bodySize` is read from a header. -/
structure MotSegment where
  transportId : Nat
  header : Bool
  directory : Bool
  segment : Nat
  last : Bool
  data : List Byte
  bodySize : Nat
  crc : Bool := true
deriving DecidableEq, Repr

/-- A DAB+ superframe at the end of its fifth logical frame (R245): whether its fire code passes, and the iterations that each copy's block
asks for before it stops by itself (Table DEC-3), where the model does not follow the sample path. -/
structure PlusFrame where
  fire : Bool
  asks : Nat := 1
  asksB : Nat := 1
deriving DecidableEq, Repr

/-- A Layer II frame (R246), with its channel bit errors (R188) and what its PAD carries; `low` says that its header gives 24 kHz. -/
structure L2Frame where
  sync : Bool
  headerOk : Bool
  scfOk : Bool
  unit : UnitResult
  pads : List PadItem
  mots : List MotSegment
  configChanged : Bool
  preErr : Nat := 0
  preCnt : Nat := 0
  low : Bool := false
deriving DecidableEq, Repr

/-- The result of a block at its deadline (R264, R267), after the iterations that it has received: the fire code after outer decoding, its
units, what each by its number carries, its channel bit errors (R188), the RS codewords corrected and uncorrectable (R260), the audio
parameters of its header (dac_rate, sbr_flag, aac_channel_mode, ps_flag, mpeg_surround_config; none where it does not say), and the raw data
of a DRM stream (R253). -/
structure BlockResult where
  fire : Bool
  preErr : Nat := 0
  preCnt : Nat := 0
  units : List UnitResult
  pads : List (Nat × PadItem)
  mots : List (Nat × MotSegment)
  configChanged : Bool
  fixed : Nat := 0
  lost : Nat := 0
  config : List Nat := []
  data : List RawItem := []
deriving DecidableEq, Repr

/-- What a reconfiguration does to one selection (Table DIG-11). -/
inductive SelChange where
  | none
  | reorganised (coding : List Nat) (start size rate : Nat)
  | coding
  | removed
  | conditionalAccess
  | unsupported
  | movedTo (sub : Nat)
deriving DecidableEq, Repr

/-- A signalled reconfiguration (R255): the CIF count or frame of the change and its effect on each selection. -/
structure Reconf where
  count : Nat
  changes : List (Nat × SelChange)
deriving DecidableEq, Repr

/-- A 1 s audio correlation window of a set member (R278): validity, peak in 1/1000, offset in 1/16 sample, gain in
0.01 dB. -/
structure MatchWindow where
  valid : Bool
  rho : Nat
  offset : Int
  gain : Int
deriving DecidableEq, Repr

/-- A unit of a digital member compared with the branch's anchor (R279). -/
structure UnitMatch where
  memberOk : Bool
  anchorOk : Bool
  equal : Bool
  offset : Int
deriving DecidableEq, Repr

/-- A buffer descriptor that the host posted (Table HIF-12). -/
structure BufferDesc where
  addr : Nat
  size : Nat
  cookie : Nat
deriving DecidableEq, Repr

/-- The flow part of a doorbell fetch: a ring's producer index and the descriptors newly posted. -/
structure FlowDoorbell where
  ring : Nat
  prod : Nat
  bufs : List BufferDesc
deriving DecidableEq, Repr

/-- The doorbell page as one fetch reads it (Table HIF-2), whether the fetch itself succeeded, and the rings on which a DMA
read or write has ended in an error completion, each by its kind (0 command, 1 completion, 2 event, 3 flow) and number (R317). -/
structure DoorbellPage where
  ok : Bool
  cmdProd : List Nat
  cplCons : List Nat
  evtCons : Nat
  flows : List FlowDoorbell
  dmaErrors : List (Nat × Nat) := []
deriving DecidableEq, Repr

/-- A frame of an audio port (R411): the port, and the slot words that its data input carried. -/
structure PortFrame where
  port : Nat
  sdi : List Nat
deriving DecidableEq, Repr

/-- What a pilot chirp re-measured (R388, R391): the demodulator, the level in 0.1 dBm, the frequency in 1/16 bin, the timing in 1/16
chip. -/
structure KitePilot where
  demod : Nat
  level : Int
  freq : Int
  timing : Int
deriving DecidableEq, Repr

/-- A Kite preamble detection (R388, R391): SF, bin, level in 0.1 dBm, frequency in 1/16 bin, timing in 1/16 chip; `pilots` are the pilot
chirps of receptions in progress since the last row. -/
structure KiteDetect where
  sf : Nat
  bin : Int
  level : Int
  freq : Int := 0
  timing : Int := 0
  pilots : List KitePilot := []
deriving DecidableEq, Repr

/-- A decoded Kite header (Table KTE-3), or its failure. `soft`: the soft bits of the header section, symbol by symbol, from which the part
decodes it; the other fields are taken where none are given. -/
structure KiteHeader where
  ok : Bool
  length : Nat
  session : Nat
  cls : Nat
  dir : Nat
  ackreq : Bool
  seq : Nat
  slot : Nat
  soft : List (List Int) := []
  pilots : List KitePilot := []
deriving DecidableEq, Repr

/-- A received Kite payload (R391). `soft`: the soft bits of the payload section, symbol by symbol, from which the part decodes it; where
none are given, `sealed` are the bytes received, and where it is empty too, `micOk` and `plain` say what they opened to. -/
structure KitePayload where
  crcOk : Bool
  micOk : Bool
  snr : Int
  iterations : Nat
  plain : List Byte
  sealed : List Byte := []
  soft : List (List Int) := []
  pilots : List KitePilot := []
deriving DecidableEq, Repr

/-- A link that has gone down (R431): the addresses on its near and far side, the port of the near side that it leaves by being the
row's, and the time that the reroute took, in µs. -/
structure TopologyChange where
  near : Nat
  far : Nat
  rerouteUs : Nat
deriving DecidableEq, Repr

/-- A link that comes up: the addresses on its two sides, whether both ends bear the same name (R424), and the address and identity that
the part behind it announces, with whether it reset while it was away (R428). -/
structure LinkAnnounce where
  sameName : Bool
  near : Nat
  far : Nat
  announced : Option (Nat × Nat)
  wasReset : Bool
deriving DecidableEq, Repr

/-- What a roll call brings to a part other than the head, and to a follower (R438): the head's firmware major version, the part's HT
against the master's in ns and in 1/1024 tick, and the master's G. -/
structure RollPoll where
  fwMajor : Nat
  offsetNs : Int
  offsetTicks1024 : Int
  masterGrid : Int
deriving DecidableEq, Repr

/-- A part's answer to a roll call (Table TET-3). -/
structure RollAnswer where
  fwMajor : Nat
  fwMinor : Nat
  fwPatch : Nat
  epoch : Nat
  htState : Nat
  aligned : Bool
  offsetNs : Int
  claims : Bool
  hopsTime : Nat
  live : Nat
  full : Bool
  ctx : Nat
  lu : Nat
  prog : Nat
deriving DecidableEq, Repr

/-- A time master claim (R434): withdrawn or made, and the claimant's lock. -/
structure Claim where
  claims : Bool
  locked : Bool
deriving DecidableEq, Repr

/-- An event that another part raised (R346), with the head's vector that its routing names (255 none, R349). -/
structure RemoteEvent where
  source : Nat
  code : Nat
  origin : Nat
  seq : Nat
  stamp : Nat
  vector : Nat
  payload : List Field
deriving DecidableEq, Repr

/-- A result block that returns with a completion (R327, R329): length, body, and target list (kind, status, id, detail). -/
structure RemoteBlock where
  bytes : Nat
  body : List Field
  targets : List (Nat × Nat × Nat × Nat)
deriving DecidableEq, Repr

/-- A completion that returns from another part (R327). -/
structure RemoteCompletion where
  tag : Nat
  opcode : Nat
  status : Nat
  execHt : Nat
  result : Nat
  truncated : Bool
  block : Option RemoteBlock
deriving DecidableEq, Repr

/-- A record of a chain-bound flow at its destination (R358): the remote flow, and the header of Table FLW-2. -/
structure RemoteRecord where
  flow : Nat
  origin : Nat
  type : Nat
  subtype : Nat
  flags : Nat
  length : Nat
  ht : Nat
  seq : Nat
  count : Nat
  chans : Nat
deriving DecidableEq, Repr

/-- A chain configuration from the head (R438). -/
structure ChainConfig where
  chainId : Nat
  epoch : Nat
  parts : Nat
  ring : Bool
  timeDisagree : Nat
deriving DecidableEq, Repr

/-- New routes (R431): the links that are broken, each by the address above its break (link k joins part k to the next). -/
structure RouteUpdate where
  breaks : List Nat
deriving DecidableEq, Repr

/-- What the boot search found (R457, R461): the source of the first valid image (0 flash A, 1 flash B, 2 host, 3 chain; none: no valid
image), the image, milliseconds of Oasis time since the last HT was stored, the halves and tiles that failed self-test, the Gondola
block that failed (GEN_BOOT's fail_block, 0 none), and the temperatures of the halves and the Gondola. -/
structure BootOutcome where
  source : Option Nat
  image : ImageOffer
  elapsedMs : Nat
  failedHalves : List Nat
  failedTiles : List Nat
  gondolaFail : Nat
  temps : List Int
deriving DecidableEq, Repr

/-- Outcome of a tile reset (R465): which halves passed, and their bring-up residuals. -/
structure TileResetResult where
  passA : Bool
  passB : Bool
  residualA : Int
  residualB : Int
deriving DecidableEq, Repr

/-! ## The commands -/

/-- A host command with its parameters and without its descriptor: what a scheduled action (R50), a plan and a forwarded
command (R327) hold. One constructor per command row of the table. -/
inductive HostCmd where
  /-- NOP (R333). -/
  | nop
  /-- IDENTIFY (R335). -/
  | identify
  /-- HALF_SETUP_MODE (R23). -/
  | halfSetupMode (half mode input : Nat)
  /-- HALF_SETUP_LEVELLER (R108). -/
  | halfSetupLeveller (half : Nat) (p : LevellerParams)
  /-- HALF_SETUP_ANTPWR (R100). -/
  | halfSetupAntpwr (half setting : Nat)
  /-- HALF_SETUP_EXT_GAIN (R107). -/
  | halfSetupExtGain (half : Nat) (gain : Int)
  /-- ACC_GPIO (R123). -/
  | accGpio (half : Nat) (p : GpioParams)
  /-- ACC_I2C (R125). -/
  | accI2c (half : Nat) (p : I2cParams)
  /-- PLAN_PREPARE (R338). -/
  | planPrepare (plan : Nat) (entries : List PlanEntry)
  /-- PLAN_COMMIT (R340). -/
  | planCommit (plan : Nat)
  /-- PLAN_ABORT (R341). -/
  | planAbort (plan : Nat)
  /-- CTX_OPEN (R171). -/
  | ctxOpen (p : CtxParams)
  /-- CTX_RETUNE (R173). -/
  | ctxRetune (p : CtxParams)
  /-- CTX_CLOSE (R171). -/
  | ctxClose (ctx : Nat)
  /-- CTX_QUERY (R336). -/
  | ctxQuery (ctx : Nat)
  /-- CTX_WATCH (R176). -/
  | ctxWatch (p : CtxParams)
  /-- COEF_LOAD (R157). -/
  | coefLoad (ctx count scale : Nat) (words : List Nat)
  /-- COEF_SWAP (R158). -/
  | coefSwap (ctx xfade : Nat)
  /-- SYNC_ARM_JOIN (R163). -/
  | syncArmJoin (group ctx : Nat)
  /-- SYNC_ARM_LEAVE (R163). -/
  | syncArmLeave (ctx : Nat)
  /-- SYNC_ARM_RESET (R164). -/
  | syncArmReset (group syncout phase : Nat)
  /-- ARM_SYNCIN (R163). -/
  | armSyncin (group every syncout phase : Nat)
  /-- DISARM (R163). -/
  | disarm (group : Nat)
  /-- SVC_SELECT_SELECT (R242). -/
  | svcSelect (p : SelParams)
  /-- SVC_SELECT_DESELECT (R501). -/
  | svcDeselect (p : SelParams)
  /-- SVC_LINK_CREATE (R273). -/
  | svcLinkCreate (set : Nat) (sources : List LinkSource) (p : SetParams)
  /-- SVC_LINK_ADD (R273). -/
  | svcLinkAdd (set : Nat) (source : LinkSource)
  /-- SVC_LINK_REMOVE (R273). -/
  | svcLinkRemove (set ctx sel : Nat)
  /-- SVC_LINK_DELETE (R283). -/
  | svcLinkDelete (set : Nat)
  /-- SVC_LINK_QUERY (R336). -/
  | svcLinkQuery (set : Nat)
  /-- SVC_FOLLOW_SET (R295). -/
  | svcFollowSet (p : FollowParams)
  /-- SVC_FOLLOW_CLEAR (R302). -/
  | svcFollowClear (set : Nat)
  /-- DB_CONFIG (R290). -/
  | dbConfig (age luKeep annMask : Nat)
  /-- DB_DUMP (R291). -/
  | dbDump
  /-- SCAN (R291). -/
  | scan (p : ScanParams)
  /-- FLOW_CREATE (R356). -/
  | flowCreate (p : FlowParams)
  /-- FLOW_BIND (R358). -/
  | flowBind (flow : Nat) (p : BindParams)
  /-- FLOW_SHAPE (R361). -/
  | flowShape (flow weight rate burst : Nat)
  /-- FLOW_DELETE (R359). -/
  | flowDelete (flow : Nat)
  /-- TIMESHIFT_SET (R364). -/
  | timeshiftSet (flow window delay : Nat)
  /-- CAPTURE_START (R370). -/
  | captureStart (mask mode flow bytes : Nat)
  /-- CAPTURE_STOP (R370). -/
  | captureStop (mask : Nat)
  /-- KITE_CONFIG (R376). -/
  | kiteConfig (count : Nat) (block : KiteBlock)
  /-- KITE_SESSION_OPEN (R397). -/
  | kiteSessionOpen (session key peer channel : Nat)
  /-- KITE_SESSION_CLOSE (R397). -/
  | kiteSessionClose (session : Nat)
  /-- KITE_SESSION_UPDATE (R397). -/
  | kiteSessionUpdate (session key channel : Nat)
  /-- KITE_SESSION_FLUSH (R397). -/
  | kiteSessionFlush (session : Nat)
  /-- KITE_SEND (R399). -/
  | kiteSend (session cls length : Nat) (payload : List Nat)
  /-- KITE_BUDGET (R394). -/
  | kiteBudget (subBand cls rate burst : Nat)
  /-- AUDIO_PORT_CONFIG (R402). -/
  | audioPortConfig (p : PortParams)
  /-- AUDIO_PORT_START (R408). -/
  | audioPortStart (port : Nat)
  /-- AUDIO_PORT_STOP (R409). -/
  | audioPortStop (port : Nat)
  /-- CAL_POLICY (R132). -/
  | calPolicy (half auto deltaT : Nat) (windows : List CalWindow)
  /-- CAL_RUN (R134). -/
  | calRun (half : Nat)
  /-- CLOCK_CONFIG (R75). -/
  | clockConfig (p : ClockParams)
  /-- CHAIN_ENUMERATE (R426). -/
  | chainEnumerate (options : Nat) (walk : WalkResult)
  /-- CHAIN_ROLLCALL (R440). -/
  | chainRollcall
  /-- CHAIN_SEND (R442). -/
  | chainSend (dest : Nat) (message : List Nat)
  /-- EVENT_ROUTE_SOURCES (R349). -/
  | eventRouteSources (first last toRing vector : Nat)
  /-- EVENT_ROUTE_VECTOR (R350). -/
  | eventRouteVector (vector holdoff count : Nat)
  /-- FW_LOAD_STAGE (R459). -/
  | fwLoadStage (length : Nat) (image : ImageOffer)
  /-- FW_LOAD_ACTIVATE (R459). -/
  | fwLoadActivate
deriving DecidableEq, Repr

/-- The rows of spec/opcode_table.json, in its order: commands of the host, register writes, and the events that reach
the part or come about inside it. -/
inductive Instr where
  /-- NOP (R333): Command that does nothing and completes. -/
  | nop (d : Desc)
  /-- IDENTIFY (R335): Command that returns variant, capacity, half modes, HT state and DRAM division in a result block. -/
  | identify (d : Desc)
  /-- HALF_SETUP_MODE (R23): HALF_SETUP function MODE sets a half's mode, forms or ends a pair, or changes its delivery. -/
  | halfSetupMode (d : Desc) (half mode input : Nat)
  /-- HALF_SETUP_LEVELLER (R108): HALF_SETUP function LEVELLER sets one band's leveller mode and parameters. -/
  | halfSetupLeveller (d : Desc) (half : Nat) (p : LevellerParams)
  /-- HALF_SETUP_ANTPWR (R100): HALF_SETUP function ANTPWR sets a half's antenna power output. -/
  | halfSetupAntpwr (d : Desc) (half setting : Nat)
  /-- HALF_SETUP_EXT_GAIN (R107): HALF_SETUP function EXT_GAIN sets the external gain subtracted from reported levels. -/
  | halfSetupExtGain (d : Desc) (half : Nat) (gain : Int)
  /-- ACC_GPIO (R123): Accessory action that sets a GPIO's function, level, debounce or ISO_FOLLOW parameters. -/
  | accGpio (d : Desc) (half : Nat) (p : GpioParams)
  /-- ACC_I2C (R125): Accessory action that queues one I2C write-then-read transaction on the accessory bus. -/
  | accI2c (d : Desc) (half : Nat) (p : I2cParams)
  /-- PLAN_PREPARE (R338): Validates a list of plan entries, books capacity and locks the targets. -/
  | planPrepare (d : Desc) (plan : Nat) (entries : List PlanEntry)
  /-- PLAN_COMMIT (R340): Accepts the commit of a prepared plan as a scheduled action in the Plan class. -/
  | planCommit (d : Desc) (plan : Nat)
  /-- PLAN_ABORT (R341): Withdraws a prepared plan, releasing its bookings and locks and aborting a pending commit. -/
  | planAbort (d : Desc) (plan : Nat)
  /-- CTX_OPEN (R171): Opens a context of a given type and frequency in a slot, subject to admission. -/
  | ctxOpen (d : Desc) (p : CtxParams)
  /-- CTX_RETUNE (R173): Changes a context's frequency, type or parameters, with a load test on the difference. -/
  | ctxRetune (d : Desc) (p : CtxParams)
  /-- CTX_CLOSE (R171): Closes a context and releases its slot, LU and decoded programs on execution. -/
  | ctxClose (d : Desc) (ctx : Nat)
  /-- CTX_QUERY (R336): Command that returns a context's sections of state, quality, front end and measures. -/
  | ctxQuery (d : Desc) (ctx : Nat)
  /-- CTX_WATCH (R176): Opens a type 2 watch context that measures level, quality and PI only. -/
  | ctxWatch (d : Desc) (p : CtxParams)
  /-- COEF_LOAD (R157): Reads and validates a coefficient block and loads it into a context's inactive FIR bank. -/
  | coefLoad (d : Desc) (ctx count scale : Nat) (words : List Nat)
  /-- COEF_SWAP (R158): Makes the inactive FIR bank active by a cut or a cross-fade. -/
  | coefSwap (d : Desc) (ctx xfade : Nat)
  /-- SYNC_ARM_JOIN (R163): SYNC_ARM operation that makes a context join a sync group. -/
  | syncArmJoin (d : Desc) (group ctx : Nat)
  /-- SYNC_ARM_LEAVE (R163): SYNC_ARM operation that removes a context from its sync group. -/
  | syncArmLeave (d : Desc) (ctx : Nat)
  /-- SYNC_ARM_RESET (R164): SYNC_ARM operation that resets every member chain of a group on its tick. -/
  | syncArmReset (d : Desc) (group syncout phase : Nat)
  /-- ARM_SYNCIN (R163): SYNC_ARM operation that arms a group reset on the next or every accepted SYNCIN edge. -/
  | armSyncin (d : Desc) (group every syncout phase : Nat)
  /-- DISARM (R163): SYNC_ARM operation that cancels ARM_SYNCIN for a group. -/
  | disarm (d : Desc) (group : Nat)
  /-- SVC_SELECT_SELECT (R242): Selects a DAB subchannel or DRM stream, or a service, for decoding or raw delivery. -/
  | svcSelect (d : Desc) (p : SelParams)
  /-- SVC_SELECT_DESELECT (R501): Ends a selection and releases its decoded program and reserve place. -/
  | svcDeselect (d : Desc) (p : SelParams)
  /-- SVC_LINK_CREATE (R273): Creates a source set of 2-4 sources with the lead as first member. -/
  | svcLinkCreate (d : Desc) (set : Nat) (sources : List LinkSource) (p : SetParams)
  /-- SVC_LINK_ADD (R273): Adds a member in SEEK to a source set. -/
  | svcLinkAdd (d : Desc) (set : Nat) (source : LinkSource)
  /-- SVC_LINK_REMOVE (R273): Removes a non-lead member from a source set. -/
  | svcLinkRemove (d : Desc) (set ctx sel : Nat)
  /-- SVC_LINK_DELETE (R283): Ends a source set and releases its buffered output at once. -/
  | svcLinkDelete (d : Desc) (set : Nat)
  /-- SVC_LINK_QUERY (R336): Returns the state, branch, offset and gain of every member of a set. -/
  | svcLinkQuery (d : Desc) (set : Nat)
  /-- SVC_FOLLOW_SET (R295): Starts a follow policy for a home and reserves its set number. -/
  | svcFollowSet (d : Desc) (p : FollowParams)
  /-- SVC_FOLLOW_CLEAR (R302): Ends a follow policy, closing its contexts and deleting its set. -/
  | svcFollowClear (d : Desc) (set : Nat)
  /-- DB_CONFIG (R290): Sets database age, LU to keep free and announcement mask for the part. -/
  | dbConfig (d : Desc) (age luKeep annMask : Nat)
  /-- DB_DUMP (R291): Emits the whole service database between BEGIN and END marks to every database flow. -/
  | dbDump (d : Desc)
  /-- SCAN (R291): Steps watch contexts across an FM raster to enter confirmed PIs in the database. -/
  | scan (d : Desc) (p : ScanParams)
  /-- FLOW_CREATE (R356): Creates an unbound flow of a type, subtype and source. -/
  | flowCreate (d : Desc) (p : FlowParams)
  /-- FLOW_BIND (R358): Binds a flow to no target, a flow ring, an audio slot pair or a chain destination. -/
  | flowBind (d : Desc) (flow : Nat) (p : BindParams)
  /-- FLOW_SHAPE (R361): Sets a flow's weight, rate and burst. -/
  | flowShape (d : Desc) (flow weight rate burst : Nat)
  /-- FLOW_DELETE (R359): Deletes a flow, discarding staged records and freeing its window and number. -/
  | flowDelete (d : Desc) (flow : Nat)
  /-- TIMESHIFT_SET (R364): Sets a flow's time-shift window and release delay. -/
  | timeshiftSet (d : Desc) (flow window delay : Nat)
  /-- CAPTURE_START (R370): Starts raw capture of named halves into the capture region. -/
  | captureStart (d : Desc) (mask mode flow bytes : Nat)
  /-- CAPTURE_STOP (R370): Stops raw capture on named halves. -/
  | captureStop (d : Desc) (mask : Nat)
  /-- KITE_CONFIG (R376): Replaces the Kite configuration, searching every channel before it applies. -/
  | kiteConfig (d : Desc) (count : Nat) (block : KiteBlock)
  /-- KITE_SESSION_OPEN (R397): Opens a Kite session with key slot, peer and channel, counters at 0. -/
  | kiteSessionOpen (d : Desc) (session key peer channel : Nat)
  /-- KITE_SESSION_CLOSE (R397): Discards a session's queued frames and closes it. -/
  | kiteSessionClose (d : Desc) (session : Nat)
  /-- KITE_SESSION_UPDATE (R397): Sets a session's key slot and channel, resetting counters on a key change. -/
  | kiteSessionUpdate (d : Desc) (session key channel : Nat)
  /-- KITE_SESSION_FLUSH (R397): Discards a session's queued frames. -/
  | kiteSessionFlush (d : Desc) (session : Nat)
  /-- KITE_SEND (R399): Queues a Kite frame on a session from its tick. -/
  | kiteSend (d : Desc) (session cls length : Nat) (payload : List Nat)
  /-- KITE_BUDGET (R394): Sets the rate and burst of one sub-band's airtime bucket for a class. -/
  | kiteBudget (d : Desc) (subBand cls rate burst : Nat)
  /-- AUDIO_PORT_CONFIG (R402): Configures an idle audio port's format, role, slots, clocks and MCLK. -/
  | audioPortConfig (d : Desc) (p : PortParams)
  /-- AUDIO_PORT_START (R408): Schedules a port start with its first data frame at the given tick. -/
  | audioPortStart (d : Desc) (port : Nat)
  /-- AUDIO_PORT_STOP (R409): Stops a port's data and begins its clock trail. -/
  | audioPortStop (d : Desc) (port : Nat)
  /-- CAL_POLICY (R132): Sets calibration auto mode, temperature delta and windows for one or all halves. -/
  | calPolicy (d : Desc) (half auto deltaT : Nat) (windows : List CalWindow)
  /-- CAL_RUN (R134): Fixes calibration runs on a half, every half or the Kite transmitter. -/
  | calRun (d : Desc) (half : Nat)
  /-- CLOCK_CONFIG (R75): Sets HT source, reference, lock tolerances, slew and step limits, pps_delay and epoch. -/
  | clockConfig (d : Desc) (p : ClockParams)
  /-- CHAIN_ENUMERATE (R426): Walks the chain from the head and assigns addresses and chain identity. -/
  | chainEnumerate (d : Desc) (options : Nat) (walk : WalkResult)
  /-- CHAIN_ROLLCALL (R440): Command that returns the latest completed roll call. -/
  | chainRollcall (d : Desc)
  /-- CHAIN_SEND (R442): Sends a message to one or every addressed part on the chain. -/
  | chainSend (d : Desc) (dest : Nat) (message : List Nat)
  /-- EVENT_ROUTE_SOURCES (R349): Sets ring delivery and MSI-X vector for a range of event sources. -/
  | eventRouteSources (d : Desc) (first last toRing vector : Nat)
  /-- EVENT_ROUTE_VECTOR (R350): Sets an MSI-X vector's holdoff and count. -/
  | eventRouteVector (d : Desc) (vector holdoff count : Nat)
  /-- FW_LOAD_STAGE (R459): Reads, verifies and writes a firmware image to the non-running flash slot. -/
  | fwLoadStage (d : Desc) (length : Nat) (image : ImageOffer)
  /-- FW_LOAD_ACTIVATE (R459): Marks the staged slot preferred and schedules a SYSTEM reset. -/
  | fwLoadActivate (d : Desc)
  /-- DOORBELL_FETCH (R320): Fetch of the doorbell page and up to 16 descriptors per command ring, writing HT to the shadow page. -/
  | doorbellFetch (t : Nat) (page : DoorbellPage)
  /-- SCHEDULED_ACTION_EXECUTE (R51): A queued scheduled action reaches its tick and executes in class order on every target. -/
  | scheduledActionExecute (t : Nat)
  /-- TILE_SWITCH_RETURN (R86): After TSYN lock the tile re-aligns, returns to the sample clock and releases contexts from HOLD. -/
  | tileSwitchReturn (t tile : Nat)
  /-- HT_SECONDS_BOUNDARY (R41): An HT second begins: PPSOUT pulses, the Oasis stores HT, Kite superframe starts. -/
  | htSecondsBoundary (t : Nat)
  /-- PPSIN_EDGE (R49): A PPSIN rising edge is classified by cadence and offset and may accept, stray or demand a correction. -/
  | ppsinEdge (t sub : Nat)
  /-- PPS_MISSING (R49): No edge in cadence by 1.001 s: HT becomes UNALIGNED and acquisition restarts. -/
  | ppsMissing (t : Nat)
  /-- HT_SLEW_DONE (R64): A slew has removed its demand and its offset has returned to zero. -/
  | htSlewDone (t : Nat)
  /-- HT_STEP (R66): On the step tick HT takes its corrected value and jumped actions and records are resolved. -/
  | htStep (t : Nat)
  /-- SYNCIN_EDGE (R68): An accepted SYNCIN edge is stamped, reported and fixes armed resets 2048 ticks later. -/
  | syncinEdge (t : Nat)
  /-- SYNCIN_RESET (R68): A SYNCIN-armed group reset executes 2048 ticks after its edge. -/
  | syncinReset (t : Nat)
  /-- SPLL_WINDOW_END (R77): End of an SPLL measurement window judges pull range and frequency comparison. -/
  | spllWindowEnd (t : Nat) (w : RefWindow)
  /-- REFIN_MISSING_EDGE (R78): No REFIN edge within two reference periods declares loss. -/
  | refinMissingEdge (t : Nat)
  /-- SPLL_PHASE_LOCK (R72): The SPLL phase window passes for n_spll cycles and it enters LOCKED. -/
  | spllPhaseLock (t : Nat)
  /-- SPLL_ACQUIRE_TIMEOUT (R76): No phase-window pass within 100 ms in ACQUIRE returns the SPLL to QUALIFY. -/
  | spllAcquireTimeout (t : Nat)
  /-- TSYN_UNLOCK (R90): A TSYN fails frequency comparison in service, freezing and holding its tile. -/
  | tsynUnlock (t tile : Nat)
  /-- TSYN_RELOCK_RETRY (R90): A re-lock from a fresh entry that fails within 100 µs is retried by full band search. -/
  | tsynRelockRetry (t tile : Nat)
  /-- KSYN_UNLOCK (R93): The KSYN loses lock; the PA ramps down and it re-locks from band memory. -/
  | ksynUnlock (t : Nat)
  /-- DETECTOR_PERIOD_END (R110): A 16-tick band detector period ends and AUTO bands may decide a step down. -/
  | detectorPeriodEnd (t half : Nat) (r : DetectorPeriod)
  /-- LEVELLER_DWELL_EXPIRY (R111): A whole dwell below lower steps a band up by 2 dB. -/
  | levellerDwellExpiry (t half band : Nat)
  /-- LEVELLER_STEP_LANDING (R115): An announced attenuator step lands on its tick and contexts apply compensation. -/
  | levellerStepLanding (t half band : Nat)
  /-- ADC_CLIP (R119): A converter sample clips, counted and reported at most every 100 ms. -/
  | adcClip (t half samples : Nat)
  /-- ANTPWR_CURRENT_LIMIT (R101): An antenna output in current limit for 10 ms is switched off. -/
  | antpwrCurrentLimit (t half current : Nat)
  /-- ANTPWR_OPEN (R101): An output drawing under 3 mA for 100 ms raises EV_ANTPWR_OPEN. -/
  | antpwrOpen (t half current : Nat)
  /-- GPIO_EDGE (R123): An IN pin level held for debounce plus one ticks is accepted and reported. -/
  | gpioEdge (t pin level : Nat)
  /-- I2C_TRANSACTION_START (R125): A queued I2C transaction drives START once the bus is free. -/
  | i2cTransactionStart (t : Nat)
  /-- I2C_TRANSACTION_DONE (R125): An I2C transaction ends with data, or aborts on NACK. -/
  | i2cTransactionDone (t : Nat) (r : I2cResult)
  /-- I2C_CLOCK_HELD (R125): SCL held low beyond 25 ms aborts the transaction and frees the bus. -/
  | i2cClockHeld (t : Nat)
  /-- TEMP_SENSOR_READ (R131): Every 100 ms each sensor is read and halves are judged due for calibration. -/
  | tempSensorRead (t sensor : Nat) (reading : Int)
  /-- CAL_RUN_START (R133): A placed or fixed run starts on its tick, opening the isolation switch. -/
  | calRunStart (t half : Nat)
  /-- CAL_PHASE_END (R135): A phase of the run sequence ends and the next begins. -/
  | calPhaseEnd (t half : Nat)
  /-- CAL_RUN_END (R137): A run completes, records CAL_LAST_T and starts its correction ramp. -/
  | calRunEnd (t half : Nat) (r : CalResult)
  /-- CAL_RAMP_INCREMENT (R137): Every 256 ticks the correction ramp moves one increment. -/
  | calRampIncrement (t half : Nat)
  /-- BG_CONVERGED (R139): The background estimator converges on a half. -/
  | bgConverged (t : Nat) (e : BgEstimate)
  /-- BG_HELD (R140): An estimator not converged 3.6 s after bring-up or tile reset reports held. -/
  | bgHeld (t half : Nat)
  /-- KITE_CAL_RUN (R144): A Kite loopback calibration run starts in a free DOWNLINK window or on CAL_RUN. -/
  | kiteCalRun (t : Nat)
  /-- KITE_CAL_DONE (R144): A Kite run ends and new corrections apply from the next frame. -/
  | kiteCalDone (t : Nat) (image leakage : Int)
  /-- CTX_PRESENCE_PASS (R180): The presence test passes and a context enters ACQUIRE. -/
  | ctxPresencePass (t ctx : Nat) (p : PresenceTest)
  /-- CTX_DETECTION (R180): The detection trigger passes and a context enters DETECTED, freezing its AGC. -/
  | ctxDetection (t ctx : Nat) (d : DetectTest)
  /-- CTX_CONFIRMATION (R180): Confirmation passes and a context enters TRACK. -/
  | ctxConfirmation (t ctx : Nat) (copy : Copy)
  /-- CTX_LOSS (R180): The loss criterion takes a context from TRACK to LOST. -/
  | ctxLoss (t ctx : Nat) (copy : Copy)
  /-- ACQUIRE_TIMEOUT (R179): Acquire timeout returns a context to SEARCH. -/
  | acquireTimeout (t ctx : Nat) (copy : Copy)
  /-- CONFIRM_TIMEOUT (R179): Confirm timeout returns a context to ACQUIRE. -/
  | confirmTimeout (t ctx : Nat) (copy : Copy)
  /-- LOST_TIMEOUT (R179): lost_timeout runs out and a context returns to SEARCH. -/
  | lostTimeout (t ctx : Nat) (copy : Copy)
  /-- HOLD_END (R181): A HOLD interval ends and contexts resume their held state. -/
  | holdEnd (t half : Nat)
  /-- QUALITY_WINDOW_END (R187): A quality window ends and its report is produced. -/
  | qualityWindowEnd (t ctx : Nat) (q : QualityMeasure)
  /-- AM_FM_BLOCK (R185): A 2.5 ms block boundary updates AGC, soft mute, blend, pilot and canceller guard. -/
  | amFmBlock (t ctx : Nat) (b : BlockMeasure)
  /-- XFADE_DONE (R158): A cross-fade reaches output N and the old bank becomes inactive. -/
  | xfadeDone (t ctx : Nat)
  /-- PILOT_ABSENT (R210): No pilot found 40 ms after ACQUIRE declares it absent. -/
  | pilotAbsent (t ctx : Nat)
  /-- PILOT_LOCK (R210): The pilot loop locks and stereo decoding starts. -/
  | pilotLock (t ctx : Nat)
  /-- PILOT_LOST (R210): A locked pilot is lost and the stereo decoder falls to mono. -/
  | pilotLost (t ctx : Nat)
  /-- RDS_BLOCK (R225): An RDS block is received, syndrome-checked and corrected or marked uncorrectable. -/
  | rdsBlock (t ctx : Nat) (b : RdsBlock)
  /-- DAB_FRAME (R240): A DAB transmission frame is demodulated and its FIC decoded. -/
  | dabFrame (t ctx : Nat) (f : DabFrame)
  /-- SELECTION_ABSENT (R242): A selection not described after 10 frames or 3 superframes in TRACK ends ABSENT. -/
  | selectionAbsent (t ctx sel : Nat)
  /-- DABPLUS_SUPERFRAME (R245): A DAB+ superframe completes and its fire code and units are checked. -/
  | dabplusSuperframe (t ctx sel : Nat) (f : PlusFrame)
  /-- L2_FRAME (R246): A Layer II frame is found and checked. -/
  | l2Frame (t ctx sel : Nat) (f : L2Frame)
  /-- DRM_FRAME (R250): A DRM transmission frame ends and its FAC is decoded. -/
  | drmFrame (t ctx : Nat) (f : DrmFrame)
  /-- MUX_RECONF (R255): A signalled reconfiguration takes effect at its CIF or frame. -/
  | muxReconf (t ctx : Nat) (r : Reconf)
  /-- BLOCK_DEADLINE (R264): An iterated block reaches its deadline and its units are released. -/
  | blockDeadline (t ctx sel : Nat) (r : BlockResult)
  /-- POOL_SATURATED (R194): More than 1 % of a half's blocks are cut short in 1 s. -/
  | poolSaturated (t half : Nat)
  /-- POOL_CLEAR (R194): 10 s with no block cut short clears saturation. -/
  | poolClear (t half : Nat)
  /-- LINK_MATCH_WINDOW (R278): A 1 s audio correlation window is judged for a set member. -/
  | linkMatchWindow (t set ctx sel : Nat) (w : MatchWindow)
  /-- LINK_UNIT_MATCH (R279): A digital unit is compared with the branch anchor for a member. -/
  | linkUnitMatch (t set ctx sel : Nat) (u : UnitMatch)
  /-- LINK_NO_MATCH (R277): A member in SEEK without candidate for 30 s raises NO_MATCH. -/
  | linkNoMatch (t set ctx sel : Nat)
  /-- LINK_BLEND (R282): A set blends to another branch after bad_hold or good_hold. -/
  | linkBlend (t set : Nat)
  /-- FOLLOW_EVALUATION (R296): Every 100 ms each follow policy is evaluated for watches, promotion, release and re-homing. -/
  | followEvaluation (t : Nat)
  /-- FOLLOW_ACTION_EXECUTE (R296): A context action decided by following executes 2048 ticks later. -/
  | followActionExecute (t : Nat)
  /-- SCAN_DWELL_END (R291): A scan watch's dwell ends and it steps to the next channel. -/
  | scanDwellEnd (t : Nat)
  /-- DB_ENTRY_AGED (R287): A database entry unconfirmed for db_age is removed. -/
  | dbEntryAged (t : Nat)
  /-- MOT_OBJECT_TIMEOUT (R308): A MOT object incomplete 60 s after its last segment is dropped. -/
  | motObjectTimeout (t ctx sel transportId : Nat)
  /-- RECORD_CLOSE_TIMEOUT (R354): A variable record closes 50 ms after its first item. -/
  | recordCloseTimeout (t flow : Nat)
  /-- EGRESS_RECORD_START (R363): A free link picks the backlogged flow with the smallest finish tag and sends its record. -/
  | egressRecordStart (t link : Nat)
  /-- BUFFER_FLUSH (R344): A buffer's flush time passes and it is returned FLUSHED. -/
  | bufferFlush (t ring : Nat)
  /-- MEMBER_UNDERRUN (R367): A sync group member's content is not staged at its release point and is filled. -/
  | memberUnderrun (t flow span : Nat)
  /-- DRAM_CORRECTED (R371): A read corrects a DRAM line and rewrites it. -/
  | dramCorrected (t line channel : Nat)
  /-- DRAM_UNCORRECTABLE (R372): A DRAM line cannot be corrected and is handled by owner region. -/
  | dramUncorrectable (t line channel : Nat) (owner : DramOwner)
  /-- MSIX_HOLDOFF_EXPIRY (R350): A vector's holdoff passes since its first pending trigger and its message is sent. -/
  | msixHoldoffExpiry (t vector : Nat)
  /-- MSIX_UNMASK (R350): Unmasking a vector with its pending bit set sends its message. -/
  | msixUnmask (t vector : Nat)
  /-- KITE_CONFIG_APPLY (R376): After the channel search the new Kite configuration takes effect on a seconds boundary. -/
  | kiteConfigApply (t : Nat)
  /-- KITE_DECISION (R392): At an uncommitted slot boundary the part decides whether a head frame starts. -/
  | kiteDecision (t : Nat)
  /-- KITE_TX_END (R383): A transmitted frame's ramp-down ends and its status is reported. -/
  | kiteTxEnd (t : Nat)
  /-- KITE_WINDOW_BOUNDARY (R387): A Kite window begins and the receiver hops to its rx channel. -/
  | kiteWindowBoundary (t : Nat)
  /-- KITE_DETECTION (R390): A preamble detection is arbitrated onto a demodulator or counted missed. -/
  | kiteDetection (t : Nat) (p : KiteDetect)
  /-- KITE_SYNC_DONE (R389): Down-chirps and mode chirp are found and the demodulator enters HEADER. -/
  | kiteSyncDone (t demod shift : Nat) (pilots : List KitePilot)
  /-- KITE_SYNC_TIMEOUT (R389): Down-chirps not found within 10 symbol times frees the demodulator. -/
  | kiteSyncTimeout (t demod : Nat)
  /-- KITE_HEADER_DONE (R389): The header decodes or fails its CRC. -/
  | kiteHeaderDone (t demod : Nat) (h : KiteHeader)
  /-- KITE_PAYLOAD_DONE (R391): The last payload symbol is decoded and the frame is checked and delivered. -/
  | kitePayloadDone (t demod : Nat) (r : KitePayload)
  /-- AUDIO_CLOCK_START (R408): A port's clock start tick arrives and it enters LEAD. -/
  | audioClockStart (t port : Nat)
  /-- AUDIO_FIRST_FRAME (R408): The first data frame begins and the port enters RUN. -/
  | audioFirstFrame (t port : Nat)
  /-- AUDIO_TRAIL_END (R409): CLK_TRAIL frames pass and the port becomes IDLE. -/
  | audioTrailEnd (t port : Nat)
  /-- AUDIO_FS_EDGE (R416): A slave FS edge is checked against the BCLK count. -/
  | audioFsEdge (t port bclks : Nat) (edge : Bool)
  /-- AUDIO_SLIP (R414): A slave FIFO fill limit drops or repeats one frame. -/
  | audioSlip (t port fill : Nat) (dir : PortDir)
  /-- AUDIO_XRUN (R417): An underrun or overrun realigns the port or enters HAZARD. -/
  | audioXrun (t port : Nat) (dir : PortDir) (overrun : Bool) (cause : Nat)
  /-- AUDIO_STALL (R415): No BCLK edge for 2048 ticks stalls a slave port. -/
  | audioStall (t port : Nat)
  /-- AUDIO_RESUME (R415): BCLK returns and the port checks alignment and resumes. -/
  | audioResume (t port : Nat) (aligned : Bool)
  /-- TETHER_LINK_DOWN (R431): A port sees no valid cell for 100 µs and the chain reroutes. -/
  | tetherLinkDown (t : Nat) (port : TetherPort) (topology : TopologyChange)
  /-- TETHER_LINK_UP (R428): A link trains and an addressed part announces itself to the head. -/
  | tetherLinkUp (t : Nat) (port : TetherPort) (up : LinkAnnounce)
  /-- ROLL_CALL (R438): Every 100 ms the head polls every part and resolves disagreements. -/
  | rollCall (t : Nat) (p : RollPoll)
  /-- ROLL_CALL_ANSWER (R438): A part's roll call answer reaches the head. -/
  | rollCallAnswer (t addr : Nat) (a : RollAnswer)
  /-- MASTER_CLAIM (R434): A time master claim arrives and the master is elected. -/
  | masterClaim (t addr : Nat) (c : Claim)
  /-- STEP_NOTICE (R437): A follower receives the master's step notice and steps. -/
  | stepNotice (t : Nat) (steps grid : Int)
  /-- CHAIN_TRANSFER_ACK (R432): A destination acknowledges a chain transfer and the origin releases it. -/
  | chainTransferAck (t seq : Nat) (status : Nat)
  /-- CHAIN_MSG_DELIVERY (R442): A chain message is written to a message slot at its destination. -/
  | chainMsgDelivery (t src seq : Nat) (message : List Nat)
  /-- CHAIN_COMMAND_ARRIVAL (R327): A forwarded command reaches the part at its dest. -/
  | chainCommandArrival (t src seq : Nat) (late : Bool) (d : Desc) (c : HostCmd)
  /-- TETHER_DC_FAULT (R425): A DC pair in current limit for 10 ms is switched off. -/
  | tetherDcFault (t : Nat) (port : TetherPort)
  /-- TETHER_DC_RETRY (R425): Once a second a faulted DC pair source is retried. -/
  | tetherDcRetry (t : Nat) (port : TetherPort) (limited : Bool)
  /-- VIN_START (R447): VIN above 10.8 V for 5 ms begins power-on sequencing. -/
  | vinStart (t vin : Nat)
  /-- BRACE_ENTRY (R449): VIN below warning for 10 µs enters BRACE. -/
  | braceEntry (t vin : Nat)
  /-- BRACE_EXIT (R450): VIN above warning plus 200 mV for 1 ms ends BRACE. -/
  | braceExit (t vin vinMin : Nat)
  /-- BRACE_VIN_LOW (R450): After 1 s in BRACE EV_PMU_FAULT VIN_LOW is raised. -/
  | braceVinLow (t : Nat)
  /-- VIN_RESET (R446): VIN below 9.6 V for 2 µs resets the part with scope SYSTEM. -/
  | vinReset (t vin : Nat) (dcPresent : Bool)
  /-- VIN_OVER_VOLTAGE (R446): VIN above 14.5 V for 10 µs resets the part. -/
  | vinOverVoltage (t vin : Nat)
  /-- POWER_RESET (R453): VIN and every DC pair absent reset the Oasis. -/
  | powerReset (t : Nat)
  /-- RAIL_TRIP (R448): A rail monitor trips and the group is removed or the part reset. -/
  | railTrip (t group value : Nat) (overCurrent : Bool)
  /-- WATCHDOG_EXPIRY (R453): A control processor fails its watchdog for 500 ms. -/
  | watchdogExpiry (t cpu : Nat)
  /-- PORST_N (R453): PORST_N low resets with scope SYSTEM. -/
  | porstN (t : Nat)
  /-- HOST_RESET (R454): FLR, hot reset, link disable or PERST_N resets the host interface and host state. -/
  | hostReset (t : Nat)
  /-- BOOT_IMAGE_SEARCH (R457): The boot ROM tries chain, flash and host sources for a valid image. -/
  | bootImageSearch (t : Nat) (b : BootOutcome)
  /-- BOOT_WAIT_TIMEOUT (R457): No valid image within 10 s asserts ALERT_N. -/
  | bootWaitTimeout (t : Nat)
  /-- FIRST_LIGHT (R460): Boot reaches first light in status REDUCED. -/
  | firstLight (t : Nat)
  /-- PART_FULL (R463): All FULL conditions hold and the part becomes FULL. -/
  | partFull (t : Nat)
  /-- QUARANTINE_REBOOT (R458): 1 s after quarantine the part resets to chain-boot the head's image. -/
  | quarantineReboot (t : Nat)
  /-- CHAIN_BOOT_TIMEOUT (R458): No chain image within 2 s; boot from flash and clear the request. -/
  | chainBootTimeout (t : Nat)
  /-- FW_ACTIVATE_RESET (R459): 10 ms after ACTIVATE completes the part resets with scope SYSTEM. -/
  | fwActivateReset (t : Nat)
  /-- TILE_LINK_FAULT (R464): A tile link down for 10 ms or retrained 4 times fences the tile. -/
  | tileLinkFault (t tile detail : Nat)
  /-- MEMORY_FAULT (R464): An uncorrectable or excessive memory error in a half fences it. -/
  | memoryFault (t half detail : Nat)
  /-- CONVERTER_STUCK (R464): No change of output code for 4096 samples fences a half. -/
  | converterStuck (t half : Nat)
  /-- TILE_RESET_DONE (R465): A tile reset completes and passing halves return PARKED. -/
  | tileResetDone (t tile : Nat) (r : TileResetResult)
  /-- HIF_ENABLE (R472): Writing enable 1 validates the HIF configuration and starts fetching. -/
  | hifEnable (t : Nat)
  /-- HIF_DISABLE (R474): Writing enable 0 stops fetching and quiesces DMA. -/
  | hifDisable (t : Nat)
  /-- HIF_LOCK (R482): Writing lock 1 locks the RWL registers until a HOST reset. -/
  | hifLock (t : Nat)
  /-- HIF_QUIESCED (R474): DMA writes in progress complete and quiesced becomes 1. -/
  | hifQuiesced (t : Nat)
  /-- HIF_NUDGE (R320): Any write triggers a doorbell fetch within 0.5 µs. -/
  | hifNudge (t value : Nat)
  /-- PMU_VIN_WARN (R475): Write of a new warning threshold applies from the next VIN sample. -/
  | pmuVinWarn (t value : Nat)
  /-- TET_TIME_DISAGREE (R477): Write on the head increments the configuration epoch for the next roll call. -/
  | tetTimeDisagree (t value : Nat)
  /-- SEC_KEY_WRITE (R479): SEC_KEY_CMD WRITE stores the data registers in a key slot. -/
  | secKeyWrite (t slot : Nat)
  /-- SEC_KEY_ERASE (R479): SEC_KEY_CMD ERASE empties a key slot. -/
  | secKeyErase (t slot : Nat)
  /-- SEC_HBOOT_GO (R480): Offers a host image to the boot ROM while it waits at stage 3. -/
  | secHbootGo (t : Nat) (image : ImageOffer)
  /-- DBG_LOCK_TEST (R481): Starts a phase-window lock test on a synthesizer. -/
  | dbgLockTest (t target : Nat)
  /-- DBG_LOCK_TEST_DONE (R481): A lock test ends and reports pass and longest run. -/
  | dbgLockTestDone (t longest : Nat)
  /-- DBG_TILE_RESET (R465): Requests a TILE reset, refused unless every half is fenced or parked. -/
  | dbgTileReset (t tile : Nat)
  /-- REGISTER_WRITE (R471): Write to any other register, refused and logged in GEN_WERR when out of range. -/
  | registerWrite (t offset width value : Nat)
  /-- MUTE_LEAD (R126): At C minus MUTE_LEAD before a planned calibration run, ISO_FOLLOW pins assert and the half's contexts enter HOLD. -/
  | muteLead (t half : Nat)
  /-- MUTE_TRAIL (R126): MUTE_TRAIL ticks after the isolation switch closes, the ISO_FOLLOW pin de-asserts. -/
  | muteTrail (t pin : Nat)
  /-- KSYN_RELOCK (R93): After a loss of lock the KSYN re-locks from band memory under the phase-window rule and transmission may resume. -/
  | ksynRelock (t : Nat)
  /-- VIN_OVER_VOLTAGE_RELEASE (R446): After an over-voltage trip, VIN below 13.8 V for 5 ms ends the rails-off hold and power-on
  sequencing begins. -/
  | vinOverVoltageRelease (t vin : Nat)
  /-- FW_LOAD_STAGE_DONE (R459): Flash programming and read-back verification of a staged image finish and FW_LOAD STAGE completes. -/
  | fwLoadStageDone (t : Nat) (verified : Bool)
  /-- CHAIN_COMPLETION_ARRIVAL (R327): A completion and result block from a remote part arrive at the head and are written to the issuing
  completion ring. -/
  | chainCompletionArrival (t src seq : Nat) (c : RemoteCompletion)
  /-- CHAIN_EVENT_ARRIVAL (R346): An event raised on another part arrives at the head and is written to the head's event ring. -/
  | chainEventArrival (t src seq : Nat) (e : RemoteEvent)
  /-- CHAIN_RECORD_ARRIVAL (R358): A record of a chain-bound flow arrives at its destination part and is staged under the remote flow's
  binding. -/
  | chainRecordArrival (t src : Nat) (r : RemoteRecord)
  /-- CHAIN_CONFIG_ARRIVAL (R438): A part receives the head's chain configuration and applies it on one tick, leaving STALE. -/
  | chainConfigArrival (t : Nat) (c : ChainConfig)
  /-- CHAIN_ROUTE_UPDATE (R431): A part receives new routes from the head after a break or heal and resends unacknowledged items by them. -/
  | chainRouteUpdate (t : Nat) (r : RouteUpdate)
  /-- CHAIN_ENUMERATION_WALK (R426): The enumeration walk reaches a part, which takes its address and chain identity into its Oasis. -/
  | chainEnumerationWalk (t addr chainId epoch : Nat)
  /-- MASTER_SECONDS_MARKER (R81): The time master's seconds marker reaches a follower, taking PPSIN's place for re-phase and for chain
  correction steps. -/
  | masterSecondsMarker (t sub : Nat) (delayNs : Nat)
  /-- AUDIO_PORT_FRAME (R411): A frame of a running port begins; each slot pair presents its due sample or counts a content underrun. -/
  | audioPortFrame (t : Nat) (f : PortFrame)
deriving DecidableEq, Repr

end Sys2Proof
end

