-- ==== Sys2Proof/Decode.lean ====
section
/-! DEFINITION. The command that a word spells by the bits of spec/opcode_table.json. The table gives no row any bits:
its rows are host commands, whose descriptors of Table HIF-4 are longer than any word of the table, and events, which have no
encoding. No word therefore spells a command. -/

namespace Sys2Proof

/-- The command that the word spells: none, since no row of the table gives bits. -/
def decodeTableWord (_nbits _w : Nat) : Option Instr := none

end Sys2Proof
end

