-- ==== Sys2Proof/Config.lean ====
section
/-! DEFINITION. What the spec leaves open: free values with no body, so that nothing can be proved of their value.
Each is named in the assumption log. -/

namespace Sys2Proof.Config

/-- VCO band code of a TSYN or KSYN found by a band search (R84, R92): the spec gives no value. The argument numbers
the search. (DESIGN CHOICE, log 10) -/
opaque bandCode : Nat → Nat

/-- VCO tuning-word preset of a band search (R84). (DESIGN CHOICE, log 10) -/
opaque tuningPreset : Nat → Nat

/-- The 48-bit DCO word for a deviation from nominal in ppb (R71): the spec gives its range and no scale. (DESIGN CHOICE, log 10) -/
opaque dcoWord : Int → BitVec 48

/-- CRC-32 over the words of a bank (R157): the spec names no polynomial. (DESIGN CHOICE, log 10) -/
opaque crc32 : List Nat → Nat

/-- A correction that a calibration run measures (R135, R142): the spec gives no values. The arguments number the run and the item, as
`Machine.CalItem` counts them. (DESIGN CHOICE, log 10) -/
opaque coefficient : Nat → Nat → Int

/-- The fixed delay of the AM demodulator (argument 0) and of the FM demodulator (argument 1), in ticks, that R195 removes
from stamps: the spec gives no value. (DESIGN CHOICE, log 10) -/
opaque demodDelay : Nat → Nat

/-- A measured value that no row reports (a quality window that a close or a fence cuts short, R187). (DESIGN CHOICE, log 10) -/
opaque measured : Nat → Int

/-- What a fast AGC adds to its gain, in 0.01 dB, when it measured an error over an interval: the error, the interval and the time
constant in ticks (R185). The spec gives the time constant and no arithmetic. (DESIGN CHOICE, log 10) -/
opaque fastAgc : Int → Nat → Nat → Int

/-- AES-128 of a 16-byte block under a 16-byte key (FIPS 197, R398). (DESIGN CHOICE, log 10) -/
opaque aes128 : List Nat → List Nat → List Nat

/-! ## Signal arithmetic: the spec gives the stages, their widths and their loops, and neither roundings nor coefficients -/

/-- The whole number that a stage takes for a quotient (R145, R151-R155): the spec gives no rounding. (DESIGN CHOICE, log 10) -/
opaque round : Int → Nat → Int

/-- Coefficient `i` of the slicer's prototype of 768 taps (R145). (DESIGN CHOICE, log 10) -/
opaque slicerTap : Nat → Int

/-- What the slicer's sums are divided by to give 20-bit words (R145). (DESIGN CHOICE, log 10) -/
opaque slicerUnit : Nat

/-- Coefficient `i` of the 23 of a half-band (R154). (DESIGN CHOICE, log 10) -/
opaque halfBandTap : Nat → Int

/-- What a half-band's sum is divided by (R154). (DESIGN CHOICE, log 10) -/
opaque halfBandUnit : Nat

/-- Coefficient of the default final FIR (R156): by configuration, channel bandwidth in Hz and index. (DESIGN CHOICE, log 10) -/
opaque defaultTap : Nat → Nat → Nat → Int

/-- Whether the 18-bit sine of a 32-bit phase is rounded up (R151, R152): the spec gives its width and no rounding. (DESIGN CHOICE, log 10)
-/
opaque sineUp : Nat → Bool

/-- One step of a filter whose coefficients the spec does not give: its kind as `Machine.FilterKind` counts them, its state and the input;
the output and the next state. (DESIGN CHOICE, log 10) -/
opaque filter : Nat → Int → Int → Int × Int

/-- The magnitude of a complex word. (DESIGN CHOICE, log 10) -/
opaque magnitude : Int → Int → Int

/-- The phase of a complex word, in 2^−32 turns from −2^31 to 2^31 − 1. (DESIGN CHOICE, log 10) -/
opaque angle : Int → Int → Int

/-- The linear factor of a gain in 0.01 dB, with 16 fractional bits (R184, R205). (DESIGN CHOICE, log 10) -/
opaque dbGain : Int → Int

/-- The linear power ratio of a CNR in 0.1 dB, with 16 fractional bits (R27, R281). (DESIGN CHOICE, log 10) -/
opaque linear : Int → Int

/-- 10 log of a ratio of powers, in 0.1 dB (R219). (DESIGN CHOICE, log 10) -/
opaque decibels : Int → Int → Int

/-- 10 log of a ratio of powers, in 0.01 dB (R184). (DESIGN CHOICE, log 10) -/
opaque centibels : Int → Int → Int

/-- Power of the carrier line, and of the noise in the noise bandwidth by its density between the modulation lines, over an AM context's
samples (R188). (DESIGN CHOICE, log 10) -/
opaque amLine : List (Int × Int) → Nat × Nat

/-- The level at RFIN in 0.1 dBµV, before ext_gain, of a signal at full scale of a chain's outputs, by context type and plan (R188).
(DESIGN CHOICE, log 10) -/
opaque fullScale : Nat → Nat → Int

/-- The peak deviation of an RDS subcarrier in 0.01 kHz, by the sum of the magnitudes of its coherent MPX samples (2^−32 turn at 384 kS/s)
and their number (R222). (DESIGN CHOICE, log 10) -/
opaque rdsDeviation : Int → Nat → Int

/-- What the 26 bits of an RDS block say, first bit first, with the generator and the offset words of IEC 62106: the offset whose syndrome
they match without correction (R224). (DESIGN CHOICE, log 10) -/
opaque rdsClean : List Bool → Option Nat

/-- The burst of at most 5 bits that a correction of such a block would remove: the offset, its length, and the 16 information bits then
(R225). (DESIGN CHOICE, log 10) -/
opaque rdsBurst : List Bool → Option (Nat × Nat × Nat)

/-- Proportional and integral gain of a second-order loop, with 32 fractional bits, by its bandwidth in 0.1 Hz and its rate (R201, R210,
R238). (DESIGN CHOICE, log 10) -/
opaque loopGain : Nat → Nat → Int × Int

/-- How far the RDS bit clock moves at a bit, in 2^−32 turn of the subcarrier, by the sums of the bit's two halves (R223). (DESIGN CHOICE,
log 10) -/
opaque bitTiming : Int → Int → Int

/-- Tap `i` of the eight of the fractional resampler at a fraction of 2^−32 sample, with 17 fractional bits (R238). (DESIGN CHOICE, log 10)
-/
opaque fractionTap : Nat → Nat → Int

/-- Carrier −768 + k of the phase reference symbol (EN 300 401, R237). (DESIGN CHOICE, log 10) -/
opaque prs : Nat → Int × Int

/-- The place in the frequency interleaver of DAB carrier `k` of 1,536: the number of its QPSK symbol (EN 300 401). (DESIGN CHOICE, log 10)
-/
opaque carrierPlace : Nat → Nat

/-- CIFs by which the time interleaver delays bit `i` modulo 16 of a logical frame (EN 300 401). (DESIGN CHOICE, log 10) -/
opaque cifDelay : Nat → Nat

/-- The offset of a transmitter's sample clock in ppb, by the references of two frames in turn (R238, R250). (DESIGN CHOICE, log 10) -/
opaque clockOffset : List (Int × Int) → List (Int × Int) → Int

/-- The variance v(k) from its three estimates: of the frame, of the FIC's decisions, of the decoders' running average (R239).
(DESIGN CHOICE, log 10) -/
opaque variance : Int → Int → Int → Int

/-- The FIC's coded bits as its decoder's decisions give them again, by its soft bits (R239, R240). (DESIGN CHOICE, log 10) -/
opaque ficCode : List Int → List Bool

/-- Soft bits of a logical frame at the mother rate, by the subchannel's coding (R265). (DESIGN CHOICE, log 10) -/
opaque depuncture : List Nat → List Int → List Int

/-- siso_decode: LLRs of a logical frame's information bits, energy dispersal removed, by channel and a priori LLRs (R265).
(DESIGN CHOICE, log 10) -/
opaque sisoDecode : List Int → List Int → List Int

/-- The channel bits of a logical frame of a coding, by its information bits (R270). (DESIGN CHOICE, log 10) -/
opaque encode : List Nat → List Bool → List Bool

/-- Whether the fire code of a superframe of decoded bytes passes (TS 102 563, R245). (DESIGN CHOICE, log 10) -/
opaque fireCode : List Nat → Bool

/-- The access units of a superframe of decoded bytes, each with whether its CRC passes, and the bytes (TS 102 563, R245).
(DESIGN CHOICE, log 10) -/
opaque accessUnits : List Nat → List (Bool × List Nat)

/-- Whether the time reference cells of a DRM symbol are located, by the power of their correlation and their power (ES 201 980, R250): the
spec gives no threshold. (DESIGN CHOICE, log 10) -/
opaque timeLocated : Nat → Nat → Bool

/-- rs_decode of a codeword of 120 bytes with erasures at some places (TS 102 563, R265, R266). (DESIGN CHOICE, log 10) -/
opaque rsDecode : List Nat → List Nat → Option (List Nat)

/-- The reference of a kind (0 frequency, 1 gain, 2 time) on a carrier of a symbol, by DRM mode and occupancy, with 17 fractional bits
(ES 201 980, R250, R252). (DESIGN CHOICE, log 10) -/
opaque drmReference : Nat → Nat → Nat → Nat → Int → Option (Int × Int)

/-- The carriers from the lowest to the highest of a DRM mode and occupancy (ES 201 980). (DESIGN CHOICE, log 10) -/
opaque drmCarriers : Nat → Nat → List Int

/-- The cells (symbol, carrier) of the FAC (0), the SDC (1) or the MSC (2) of a DRM frame of a mode and occupancy (ES 201 980).
(DESIGN CHOICE, log 10) -/
opaque drmCells : Nat → Nat → Nat → List (Nat × Int)

/-- Where cell `i` of a multiplex frame is found by the cell de-interleaver: frames back, and the number of the MSC cell (ES 201 980).
(DESIGN CHOICE, log 10) -/
opaque cellOrder : Nat → Nat → Nat × Nat

/-- An axis of a QAM cell: the amplitude, with 17 fractional bits, of a label of some bits, the first level the most significant
(ES 201 980). (DESIGN CHOICE, log 10) -/
opaque axisPoint : Nat → Nat → Int

/-- The coded bits of a level as its decoder's decisions give them again, by the coding, the channel (0 FAC, 1 SDC, 2 MSC) and level, and
its soft bits (R252, R269). (DESIGN CHOICE, log 10) -/
opaque levelCode : List Nat → Nat → Nat → List Int → List Bool

/-- Wiener weights, with 16 fractional bits, of several references for a cell: in time (0) or frequency (1), the guard interval in samples,
the places of the references and of the cell (R252). (DESIGN CHOICE, log 10) -/
opaque wiener : Nat → Nat → List Int → Int → List Int

/-- A word projected on the circle of the AGC's target (R184, R216). (DESIGN CHOICE, log 10) -/
opaque decision : Int → Int → Int × Int

/-- The square of the modulus of that circle. (DESIGN CHOICE, log 10) -/
opaque decisionPower : Nat

/-- The weight, with 16 fractional bits, of sample `i` of `n` of a fade (R197, R198): the spec gives no law. (DESIGN CHOICE, log 10) -/
opaque fadeWeight : Nat → Nat → Int

/-- The bits that an underrun or overrun of a port loses, where no FS edge tells (R417): the spec gives no number. (DESIGN CHOICE, log 10) -/
opaque bitsLost : Nat → Nat

/-- Code points of RDS text by the basic set and its EBU tables (IEC 62106): none where a character has no rendering (R305).
(DESIGN CHOICE, log 10) -/
opaque rdsPoints : List Nat → List (Option Nat)

/-- Code point of a byte of DAB's EBU Latin set (TS 101 756, R305). (DESIGN CHOICE, log 10) -/
opaque ebuLatin : Nat → Option Nat

/-- The announcement types of traffic, as ann_mask numbers them: the spec refers TA to no type (R311). (DESIGN CHOICE, log 10) -/
opaque trafficTypes : Nat

/-- The cause code of EV_LINK_MEMBER (R277): the spec names a cause code and gives no codes. The argument numbers the cause as
`Machine.LinkCause` lists them. (DESIGN CHOICE, log 10) -/
opaque linkCause : Nat → Nat

end Sys2Proof.Config
end

