-- ==== Sys2Proof/Machine/TimeState.lean ====
section
/-! DEFINITION. State of the identity, house time, clock synthesis, scheduled actions and the host interface (chapters 00,
01, 02, 03 and 12 of the spec). The default of a field is its value after reset; each field cites the rule that names it. -/

namespace Sys2Proof.Machine

/-! ## Identity (00, 01) -/

/-- The variants of Table SCO-1 (R1). -/
inductive Variant where
  | bh2820 | bh2840 | bh2880
deriving DecidableEq, Repr

/-- Firmware revision (R5). -/
structure Firmware where
  major : Nat := 0
  minor : Nat := 0
  patch : Nat := 0
deriving DecidableEq, Repr

/-- Fused and running identity (R1-R5), and the part status of R462 and R463. (DESIGN CHOICE, log 3) -/
structure Ident where
  variant : Variant := .bh2880
  gradeI : Bool := false
  siliconLetter : Nat := 66
  siliconDigit : Nat := 48
  fw : Firmware := {}
  full : Bool := false
deriving DecidableEq, Repr

/-! ## House time and clock synthesis (02, 03) -/

/-- HT sources of Table HTM-2 (R43), in their coding order. -/
inductive HtSource where
  | loc | chain | free
deriving DecidableEq, Repr

/-- HT states of Table HTM-2 (R43), in the coding order of Table HIF-9. -/
inductive HtState where
  | locked | follow | coast | free
deriving DecidableEq, Repr

/-- SPLL states of Table CLK-5 (R76). -/
inductive SpllState where
  | qualify | acquire | relock | locked | holdover | free
deriving DecidableEq, Repr

/-- A slew in progress (R64): its demand in 1/1024 tick, the elapsed tick it began on, the frequency offset it began from and the
largest it reaches, in ppb, and the ticks of its three parts: to the largest offset, on it, and back to zero. -/
structure Slew where
  demand : Int
  since : Nat
  from_ : Int := 0
  peak : Int := 0
  up : Nat := 0
  flat : Nat := 0
  down : Nat := 0
deriving DecidableEq, Repr

/-- The SPLL's phase term at work (R64): the demand it removes in 1/1024 tick, the elapsed ticks on which its offset is applied and
removed, and the offset in ppb. -/
structure PhaseTerm where
  demand : Int
  since : Nat
  until_ : Nat
  offset : Int
deriving DecidableEq, Repr

/-- A step that waits for its step tick (R63, R66). `tick` is the old count of the step tick (`none`: the next PPSIN edge, or the
master's next seconds marker); `steps` the whole ticks, or `epoch` the second number that an epoch set places there; `rem` the
sub-tick remainder in 1/1024 tick; `edge` that the step tick is a PPSIN edge; `grid` the master's G that a follower takes (R437). -/
structure Step where
  tick : Option Nat
  steps : Int
  rem : Int
  epoch : Option Nat
  grid : Option Int
  edge : Bool := false
deriving DecidableEq, Repr

/-- HT and its corrections (R40-R47, R61-R66, R148). `elapsed` counts every tick and never steps: the model's own clock
for intervals; `steps` the steps that wait, the oldest demand first. (DESIGN CHOICE, log 9) -/
structure Clock where
  ht : Nat := 0
  elapsed : Nat := 0
  grid : Int := 0
  source : HtSource := .loc
  state : HtState := .coast
  aligned : Bool := false
  slewLimit : Nat := 20
  stepLimit : Nat := 2000
  ppsDelay : Int := 0
  slew : Option Slew := none
  steps : List Step := []
  phaseTerm : Option PhaseTerm := none
deriving DecidableEq, Repr

/-- PPSIN cadence (R49, R81). Instants are elapsed ticks times 1024, plus the sub-tick of the edge. -/
structure Pps where
  acquiring : Bool := true
  afterMissing : Bool := false
  count : Nat := 0
  prev : Option Nat := none
  accepted : Option Nat := none
  offsets : List Int := []
  strays : Nat := 0
  rePhased : Bool := false
deriving DecidableEq, Repr

/-- A group armed by ARM_SYNCIN (R163). -/
structure Armed where
  every : Bool
  syncout : Bool
  phase : Nat
deriving DecidableEq, Repr

/-- A group reset that an accepted SYNCIN edge has fixed to an elapsed tick (R68). -/
structure SyncReset where
  due : Nat
  group : Nat
  arm : Armed
deriving DecidableEq, Repr

/-- SYNCIN (R68): the last accepted edge, the edges ignored since reset, armed groups, resets fixed; `resets` holds the
elapsed tick of each group's last reset (R164); `lost` the contexts that fences have taken from groups: group, context, and the
acceptance order next given then (R57, R164). -/
structure Syncin where
  last : Option Nat := none
  ignored : Nat := 0
  armed : List (Nat × Armed) := []
  pending : List SyncReset := []
  resets : List (Nat × Nat) := []
  lost : List (Nat × Nat × Nat) := []
deriving DecidableEq, Repr

/-- The SPLL (R71, R75, R76). `refAuto` lets QUALIFY choose the reference frequency (R476). The DCO word is held as the deviation from
nominal in ppb that `Config.dcoWord` codes in 48 bits; `held` is the word at the end of the last window that passed both
measurements (R79), `tolNow` the LOCK_TOL of the window in progress (R75); `boot` is CLK_BOOT_SRC as it stood at the boot, and `autoRef`
the frequency that ref AUTO has taken (R476). (DEDUCED, log 16) -/
structure Spll where
  state : SpllState := .qualify
  dco : Int := 0
  held : Int := 0
  everLocked : Bool := false
  entered : Nat := 0
  ref25 : Bool := false
  refAuto : Bool := true
  boot : Nat := 0
  autoRef : Option Bool := none
  lockTol : Nat := 20
  tolNow : Nat := 20
  nSpll : Nat := 512
  nTsyn : Nat := 512
  nKsyn : Nat := 512
deriving DecidableEq, Repr

/-- An entry of the KSYN's band memory (R92): its band code as a search number of `Config`, and the Gondola temperature at the time. -/
structure KsynEntry where
  band : Nat
  temp : Int
deriving DecidableEq, Repr

/-- The KSYN (R71, R91-R93): the channel it is tuned to, the elapsed tick from which its phase window counts, its control word (integer
and 24-bit fractional divider, band code, output divider), whether its tuning word is frozen (R74), and its band memory by channel. -/
structure Ksyn where
  locked : Bool := false
  channel : Option Nat := none
  relocking : Bool := false
  since : Nat := 0
  intDiv : Nat := 0
  fracDiv : Nat := 0
  outDiv : Nat := 0
  band : Nat := 0
  frozen : Bool := false
  memory : List (Nat × KsynEntry) := []
deriving DecidableEq, Repr

/-- Output pulses (R69, R70): the elapsed tick on which the running pulse ends; the pins of the Kite front end (R384): `kpaRamp` is
the level of KPA_RAMP in 2^−16 of 1/255 of full scale. -/
structure Pins where
  ppsoutEnd : Option Nat := none
  syncoutEnd : Option Nat := none
  kpaEn : Bool := false
  klnaEn : Bool := false
  kpaRamp : Nat := 0
deriving DecidableEq, Repr

/-! ## Scheduled actions (02) -/

/-- Where a command came from: a command ring of this part, or another part of the chain (R327); `late` that it is a late action
that executes on a later tick, so that ST_OK becomes ST_LATE (R56). -/
inductive Origin where
  | ring
  | remote (src seq : Nat)
  | late (origin : Origin)
deriving DecidableEq, Repr

/-- An entry of the scheduled-action queue (R52): the command with its descriptor, the HT of its tick, whether R56 moved
it there, and its acceptance order (R58). -/
structure Action where
  order : Nat
  due : Nat
  late : Bool
  desc : Desc
  origin : Origin
  cmd : HostCmd
deriving DecidableEq, Repr

/-- The scheduled-action queue (R53). -/
structure Sched where
  queue : List Action := []
  high : Bool := false
  nextOrder : Nat := 0
deriving DecidableEq, Repr

/-! ## Host interface (12) -/

/-- An entry of a result block's target list (R329). -/
structure Target where
  kind : Nat
  status : Nat
  id : Nat
  detail : Nat
deriving DecidableEq, Repr

/-- A result block (R329): opcode, body as fields at their offsets in the block, the length of header and body, the sizes
of the whole entries that follow the fixed body, and the target list. -/
structure ResultBlock where
  opcode : Nat
  bytes : Nat
  body : List Field
  targets : List Target
  addr : Nat := 0
deriving DecidableEq, Repr

/-- A completion (Table HIF-6), with its result block when one was written. -/
structure Completion where
  ring : Nat
  tag : Nat
  opcode : Nat
  status : Nat
  execHt : Nat
  result : Nat
  src : Nat
  trunc : Bool
  block : Option ResultBlock
deriving DecidableEq, Repr

/-- An event (R346). -/
structure Event where
  source : Nat
  origin : Nat
  code : Nat
  seq : Nat
  stamp : Nat
  payload : List Field
deriving DecidableEq, Repr

/-- A command ring (R315-R317, R471): configuration, the host's producer index as fetched, the part's consumer index. -/
structure CmdRing where
  base : Nat := 0
  log2 : Nat := 0
  prod : Nat := 0
  cons : Nat := 0
  stopped : Bool := false
deriving DecidableEq, Repr

/-- A completion ring: the part's producer index, the host's consumer index as fetched, completions held (R324). -/
structure CplRing where
  base : Nat := 0
  log2 : Nat := 0
  vector : Nat := 255
  prod : Nat := 0
  cons : Nat := 0
  stopped : Bool := false
  held : List Completion := []
deriving DecidableEq, Repr

/-- The event ring, with the events held, each with its vector, the number dropped (R347) and the 16-bit sequence number
(R346). -/
structure EvtRing where
  base : Nat := 0
  log2 : Nat := 0
  prod : Nat := 0
  cons : Nat := 0
  stopped : Bool := false
  held : List (Event × Nat) := []
  dropped : Nat := 0
  seq : Nat := 0
deriving DecidableEq, Repr

/-- The buffer that a flow ring is filling (R343, R344). -/
structure OpenBuffer where
  desc : BufferDesc
  used : Nat
  records : Nat
  first : Nat
deriving DecidableEq, Repr

/-- A flow ring in use (R342-R345): its entry as read, indices, posted buffers, the open buffer, and the last
EV_RING_TOO_SMALL with the records dropped since. -/
structure FlowRing where
  entry : RingEntry
  prod : Nat := 0
  cons : Nat := 0
  stopped : Bool := false
  posted : List BufferDesc := []
  current : Option OpenBuffer := none
  smallAt : Option Nat := none
  smallDrops : Nat := 0
deriving DecidableEq, Repr

/-- Routing of an event source (R349): whether it goes to the ring, and its vector (255 none). -/
structure Route where
  toRing : Bool := true
  vector : Nat := 0
deriving DecidableEq, Repr

/-- An MSI-X vector (R350): holdoff in microseconds, count, triggers pending and the elapsed tick of the first, the
table entry (address, data, mask) and the pending bit. (PRESUMED, log 6) -/
structure Vector where
  holdoff : Nat := 0
  count : Nat := 1
  triggers : Nat := 0
  since : Option Nat := none
  addr : Nat := 0
  data : Nat := 0
  masked : Bool := true
  pba : Bool := false
deriving DecidableEq, Repr

/-- HIF_CTRL and the page registers (R472-R474, R482), and the doorbell pass (R317-R320), with the elapsed ticks of
the enable, from which DB_POLL periods count, and of the latest fetch since. (DESIGN CHOICE, log 38) -/
structure Hif where
  enable : Bool := false
  lock : Bool := false
  quiesced : Bool := true
  cfgErr : Nat := 0
  errRing : Nat := 0
  everEnabled : Bool := false
  dbPoll : Nat := 8
  dbPage : Nat := 0
  shadowPage : Nat := 0
  flqTable : Nat := 0
  cmdq : List CmdRing := List.replicate 4 {}
  cplq : List CplRing := List.replicate 4 {}
  evq : EvtRing := {}
  flq : List (Nat × FlowRing) := []
  routes : List (Nat × Route) := []
  vectors : List (Nat × Vector) := []
  fetchSeq : Nat := 0
  shadowHt : Nat := 0
  fetchAgain : Bool := false
  enabledAt : Nat := 0
  fetchedAt : Option Nat := none
  fetchFails : Nat := 0
  changed : List Nat := []
deriving DecidableEq, Repr

end Sys2Proof.Machine
end

