-- ==== Sys2Proof/Machine/FrontState.lean ====
section
/-! DEFINITION. State of the tiles, the halves, calibration and the contexts (chapters 03 to 10 of the spec). The default of
a field is its value after reset; each structure cites the rules that name its fields. -/

namespace Sys2Proof.Machine

/-! ## Tiles (03) -/

/-- A TSYN band-memory entry (R84): band code and tuning preset as numbers of `Config.bandCode` and `Config.tuningPreset`, and the
highest temperature of the two halves when it was written (0.25 °C). (DESIGN CHOICE, log 5) -/
structure BandEntry where
  band : Nat := 0
  preset : Nat := 0
  temp : Int := 100
deriving DecidableEq, Repr

/-- What PLAN_PREPARE has loaded into a TSYN's shadow registers (R85): the plan, whose M is the divider, the band code and the preset,
and the number of the prepared plan. -/
structure Shadow where
  plan : Nat
  band : Nat
  preset : Nat
  by_ : Nat
deriving DecidableEq, Repr

/-- Why a tile is on the cradle clock (R86, R81, R90, R465). -/
inductive SwitchKind where
  | planFast | planSearch | rePhase | relockFast | relockSearch
deriving DecidableEq, Repr

/-- A tile switch in progress (R86-R90): the elapsed tick T it began on, its kind and the plan it ends on; the prepared plan
whose commit switches the tile. -/
structure TileSwitch where
  start : Nat
  kind : SwitchKind
  plan : Nat
  byPlan : Option Nat
deriving DecidableEq, Repr

/-- An Erg tile (R71, R83-R90, R464, R465). `band` and `preset` are its TSYN's live band code and tuning-word preset, as numbers of
`Config`; `frozen` says that the tuning word is frozen (R74); `unlocks` holds the elapsed ticks of the losses of lock of the last
second. -/
structure Tile where
  plan : Nat := 1
  memory : List BandEntry := List.replicate 3 {}
  shadow : Option Shadow := none
  band : Nat := 0
  preset : Nat := 0
  frozen : Bool := false
  switch : Option TileSwitch := none
  unlocks : List Nat := []
  railOff : Bool := false
  inReset : Bool := false
deriving DecidableEq, Repr

/-! ## Halves (01, 04, 05) -/

/-- Half modes of Table ARC-4 (R22), in the coding order of Table HIF-9. -/
inductive HalfMode where
  | independent | combine | standby | parked | fenced
deriving DecidableEq, Repr

/-- Leveller modes of Table RFI-7 (R108), in their coding order. -/
inductive LevMode where
  | auto | hold | manual
deriving DecidableEq, Repr

/-- A step announced for its landing tick (R112): elapsed landing tick and new attenuation. -/
structure LevStep where
  landing : Nat
  atten : Nat
deriving DecidableEq, Repr

/-- One band's leveller (R108-R117, R124). `reading` is in 0.5 dB; `belowSince` is the elapsed tick the dwell counts from;
`lastDelta` what the last step to land added. The compensation of R115 is the inverse of `atten`. (DESIGN CHOICE, log 5) -/
structure Band where
  mode : LevMode := .auto
  upper : Int := -6
  lower : Int := -18
  dwell : Nat := 50
  attenMin : Nat := 0
  attenMax : Nat := 30
  manual : Nat := 0
  atten : Nat := 0
  reading : Int := -80
  steps : List LevStep := []
  lastLanding : Option Nat := none
  belowSince : Nat := 0
  limitRaised : Bool := false
  manualPending : Bool := false
  stepsUp : Nat := 0
  stepsDown : Nat := 0
  lastDelta : Int := 0
deriving DecidableEq, Repr

/-- ANTPWRn settings of Table RFI-2 (R100). -/
inductive AntPower where
  | off | v5 | v12
deriving DecidableEq, Repr

/-- Causes of a calibration run (Table CAL-6, R141). -/
inductive CalCause where
  | bringUp | temperature | command
deriving DecidableEq, Repr

/-- A run placed under R133 or fixed under R134: its planned start in elapsed ticks, its cause, the CAL_RUN command it
belongs to, whether its HOLD and pins have been asserted ahead of it (R126, R136), and the elapsed tick of the decision. -/
structure PlacedRun where
  start : Nat
  cause : CalCause
  command : Option Nat
  asserted : Bool
  decided : Nat
deriving DecidableEq, Repr

/-- Phases of a run (Table CAL-4). -/
inductive CalPhase where
  | isolate | offsets | interleave | leveller | residual | reconnect
deriving DecidableEq, Repr

/-- A run in progress (R135): elapsed start tick, HT of the start, the pass (a bring-up run has four, R143) and phase, cause,
command. -/
structure CalRunning where
  start : Nat
  ht : Nat
  pass : Nat
  phase : CalPhase
  cause : CalCause
  command : Option Nat
deriving DecidableEq, Repr

/-- A correction ramp (R137): increments done of 6144, the elapsed tick of the next, and whether it is paused (`next` is then the
ticks left to it). -/
structure CalRamp where
  done : Nat
  next : Nat
  paused : Bool
deriving DecidableEq, Repr

/-- The background estimator states of Table CAL-6 (R141). -/
inductive BgState where
  | converging | converged | paused | limit | held
deriving DecidableEq, Repr

/-- A half's calibration (R129-R141). `started` is set once a run has started since the half became due (R131); `bg` is the
estimator's state beneath a pause; `corr` and `corrNew` are the runs (numbers of `Config.coefficient`) whose corrections are in use and
ramped to, `corrDet` the run whose detector offsets are in use (R137); `fine` and `fineNew` are the estimator's excursions from them, three
gains (0.0001 dB) and three skews (fs), in use and ramped to by `fineRamp` (R139); `bringUpOwed` that the bring-up run has not completed
(R138, R143). (DESIGN CHOICE, log 5) -/
structure HalfCal where
  auto : Bool := true
  deltaT : Nat := 4
  windows : List CalWindow := [{ period := 1, phase := 0, offset := 0, length := 24576000 }]
  due : Bool := false
  overdue : Bool := false
  started : Bool := false
  placed : List PlacedRun := []
  run : Option CalRunning := none
  ramp : Option CalRamp := none
  ended : Option (Nat × Nat) := none
  corr : Nat := 0
  corrNew : Nat := 0
  corrDet : Nat := 0
  fine : List Int := List.replicate 6 0
  fineNew : List Int := List.replicate 6 0
  fineRamp : Option CalRamp := none
  bringUpOwed : Bool := false
  count : Nat := 0
  lastHt : Nat := 0
  lastT : Int := 100
  residual : Int := 0
  cause : CalCause := .bringUp
  bg : BgState := .converging
  bgSince : Nat := 0
deriving DecidableEq, Repr

/-- The iteration pool: the elapsed tick up to which it has worked (R192), and the counters of its judging interval (R194). -/
structure PoolCount where
  cursor : Nat := 0
  since : Nat := 0
  blocks : Nat := 0
  short : Nat := 0
  lastShort : Nat := 0
  saturated : Bool := false
deriving DecidableEq, Repr

/-- A half (R13, R22-R26, R97-R128). `diversity` is the input arrangement while half A of a pair; `restored` that a tile
reset restored it and its bg_state has not yet been converged or held (R465); `clipped` that its last detector period, or a sample
since, clipped (R139); `clips` the elapsed ticks of the last clipped samples (R203), `slicer` the last 768 converter samples, newest first
(R145).
(DESIGN CHOICE, log 5) -/
structure Half where
  mode : HalfMode := .independent
  diversity : Bool := false
  isoOpen : Bool := false
  tone : Bool := false
  antpwr : AntPower := .off
  antCurrent : Nat := 0
  antOpenRaised : Bool := false
  extGain : Int := 0
  bands : List Band := List.replicate 3 {}
  clipSamples : Nat := 0
  clipPeriods : Nat := 0
  overloadAt : Option Nat := none
  overloadFirst : Option Nat := none
  overloadCount : Nat := 0
  clipped : Bool := false
  clips : List Nat := []
  slicer : List Int := []
  temp : Int := 100
  cal : HalfCal := {}
  pool : PoolCount := {}
  restored : Bool := false
  fenceCause : Option Nat := none
deriving DecidableEq, Repr

/-! ## Calibration commands and the Kite transmitter (05) -/

/-- The state of a half within a CAL_RUN command (R134). -/
structure CalTarget where
  half : Nat
  status : Nat
  finished : Bool
  ran : Bool
deriving DecidableEq, Repr

/-- A CAL_RUN that has executed and not completed (R134): the acceptance order that names it, its descriptor, origin, what it named,
execution HT, the HT of its first run's start and its targets. -/
structure CalCommand where
  id : Nat
  desc : Desc
  origin : Origin
  half : Nat
  execHt : Nat
  startHt : Option Nat
  targets : List CalTarget
deriving DecidableEq, Repr

/-- The Kite transmitter's calibration (R144): the elapsed tick since which a run has been wanted with its cause, the elapsed start
of the run in progress with its HT and cause, the CAL_RUN that waits, the record, and the runs (numbers of `Config.coefficient`) whose
I/Q and LO leakage corrections the transmitter uses and takes from its next frame on. (DESIGN CHOICE, log 5) -/
structure KiteCal where
  dueSince : Option Nat := none
  dueCause : CalCause := .temperature
  running : Option Nat := none
  runCause : CalCause := .bringUp
  startHt : Nat := 0
  command : Option Nat := none
  count : Nat := 0
  lastHt : Nat := 0
  lastT : Int := 100
  image : Int := 0
  leakage : Int := 0
  cause : CalCause := .bringUp
  corr : Nat := 0
  corrNew : Nat := 0
deriving DecidableEq, Repr

/-! ## Contexts (06, 07) -/

/-- The states of Table CTX-3 (R178), in their coding order. -/
inductive CtxState where
  | closed | search | acquire | detected | track | hold | lost | fenced
deriving DecidableEq, Repr

/-- Why an interval of HOLD runs (R136, R86, R90, R81, R340). -/
inductive HoldCause where
  | calibration | tile | plan
deriving DecidableEq, Repr

/-- AM parameters, decoded (Table ANA-3, R196). -/
structure AmCfg where
  detector : Nat := 0
  audBw : Nat := 0
  deemph : Nat := 0
  nb : Nat := 0
  nbThresh : Nat := 0
  muteStart : Nat := 0
  muteDepth : Nat := 0
deriving DecidableEq, Repr

/-- FM parameters, decoded (Table ANA-4, R207). -/
structure FmCfg where
  deemph : Nat := 0
  blendHi : Nat := 0
  blendLo : Nat := 0
  forceMono : Bool := false
  muteStart : Nat := 0
  muteDepth : Nat := 0
  mpc : Bool := false
  muAcq : Nat := 0
  muTrack : Nat := 0
  rdsStd : Nat := 0
  rdsCorr : Nat := 0
deriving DecidableEq, Repr

/-- A context's parameters (R334), decoded and with their defaults applied. -/
structure CtxCfg where
  type : Nat
  freq : Nat
  probe : Bool := false
  prioHigh : Bool := false
  lostTimeout : Nat := 20
  iterMax : Nat := 4
  reserve : Nat := 0
  occupancy : Nat := 0
  am : AmCfg := {}
  fm : FmCfg := {}
deriving DecidableEq, Repr

/-- A coefficient bank (R155-R157): the words the host loaded, or the part's default set of the configuration `conf` and the bandwidth
`width` with which the chain took it. -/
structure Bank where
  words : Option (List Nat) := none
  conf : Nat := 0
  width : Nat := 0
  scale : Nat := 0
deriving DecidableEq, Repr

/-- A cross-fade (R158): its length N and the elapsed tick of its first output. -/
structure Fade where
  len : Nat
  first : Nat
deriving DecidableEq, Repr

/-- A context's DDC chain (R147-R166). `zeroed` is the elapsed tick of the last zeroing, `settle` that of the last cause of
SETTLING, `phase` the NCO accumulator set by the last zeroing. -/
structure ChainState where
  bin : Nat := 0
  word : Int := 0
  phase : Nat := 0
  plan : Nat := 1
  zeroed : Nat := 0
  settle : Nat := 0
  bank0 : Bank := {}
  bank1 : Bank := {}
  active1 : Bool := false
  fade : Option Fade := none
  firSat : Nat := 0
deriving DecidableEq, Repr

/-- How a copy's DDC chain is set from an elapsed tick on (R147-R166): the context's parameters and chain, whether the chain is zeroed
then, and whether zeros feed it (R136). -/
structure PathSet where
  since : Nat
  zero : Bool
  zeros : Bool
  cfg : CtxCfg
  chain : ChainState
deriving DecidableEq, Repr

/-- The registers of one DDC chain (Table CHN-2): the NCO's accumulator, the five integrators and five combs of the CIC, the delay lines
of the half-bands and of the final FIR (newest word first), and the outputs not yet used, each with its elapsed grid tick. `fed` says that
bin samples have reached the chain, up to the elapsed tick `fedTo`, `set` how it is set and `ops` the settings that its next samples meet;
`wait` is the elapsed grid tick of the output that waits for it, with its FIR phase (R149). -/
structure Path where
  fed : Bool := false
  set : Option PathSet := none
  ops : List PathSet := []
  phase : Nat := 0
  cicI : List Cx := List.replicate 5 {}
  cicC : List Cx := List.replicate 5 {}
  halves : List (List Cx) := List.replicate 4 []
  line : List Cx := []
  wait : Option (Nat × Nat) := none
  out : List (Nat × Cx) := []
  fedTo : Nat := 0
deriving DecidableEq, Repr

/-- A sample in the blanker's window (R202, R203): its elapsed tick, the sample, whether it exceeds the reference, and whether it lies by a
clipped converter sample. -/
structure BlankCell where
  tick : Nat
  x : Cx
  high : Bool
  clip : Bool
deriving DecidableEq, Repr

/-- The AM demodulator (R200-R204): the powers of the last 512 samples, the blanker's window, whose first `past` samples have left it, the
carrier loop's phase and frequency (2^−32 turn, a sample) with the squared phase errors and the count of each of the last 16 blocks, the
carrier estimate, the states of its filters, and the window's modulation peaks in 0.1 % (R222). `blanked` are the ticks of the samples of
the last block that are blanked as far as is known. -/
structure AmPath where
  powers : List Nat := []
  cells : List BlankCell := []
  past : Nat := 0
  blanked : List Nat := []
  phase : Nat := 0
  freq : Int := 0
  errs : List (Int × Nat) := []
  carrier : Int := 0
  carrierF : Int := 0
  ssbRe : Int := 0
  ssbIm : Int := 0
  high : Int := 0
  low : Int := 0
  deemph : Int := 0
  modPos : Int := 0
  modNeg : Int := 0
deriving DecidableEq, Repr

/-- The RDS demodulator (R223): the Costas loop's phase and frequency (2^−32 turn, a sample), the bit clock (48 turns of the subcarrier a
bit), the sums of the two halves of the bit in progress and whether it is decided, the last biphase symbol, and the last 26 bits, newest
first, `none` where undecided; the sum of the coherent samples' magnitudes in the quality window, and their number (R222). -/
structure RdsPath where
  phase : Nat := 0
  freq : Int := 0
  clock : Int := 0
  first : Int := 0
  second : Int := 0
  open_ : Bool := false
  last : Bool := false
  bits : List (Option Bool) := []
  level : Int := 0
  cnt : Nat := 0
deriving DecidableEq, Repr

/-- The FM demodulator (Table ANA-5): the canceller's last inputs and decisions, its taps and how many samples they have adapted; the last
limited sample; the carrier offset in use with the sum and count of the window in progress; the MPX filter; the pilot loop's phase and
frequency with injection and phase error of each of the last 40 blocks; the window's highest deviation and sums of squared modulus errors
(R222); the sum of squares and the number of MPX samples of the window, and of each of the last 600 windows in TRACK; the RDS demodulator;
the audio and de-emphasis filters of M and S. -/
structure FmPath where
  xs : List Cx := []
  ds : List Cx := []
  ff : List Cx := []
  fb : List Cx := []
  adapted : Nat := 0
  last : Cx := {}
  offset : Int := 0
  sum : Int := 0
  cnt : Nat := 0
  mpx : Int := 0
  phase : Nat := 0
  freq : Int := 0
  pilots : List (Int × Int) := []
  peak : Nat := 0
  eOut : Int := 0
  eIn : Int := 0
  mpxSum : Int := 0
  mpxCnt : Nat := 0
  mpxPast : List (Int × Nat) := []
  rds : RdsPath := {}
  audioM : Int := 0
  audioS : Int := 0
  deemphM : Int := 0
  deemphS : Int := 0
deriving DecidableEq, Repr

/-- A CIF as its symbols were demodulated (R239): the elapsed tick of its end, its soft bits, the differential products of each symbol
by carrier, none for one in HOLD or SETTLING, with the amplitude of their ideal points, and whether its copy was in TRACK (R28). -/
structure CifSoft where
  stop : Nat
  soft : List Int
  z : List (List Cx)
  amp : Int
  track : Bool := true
deriving DecidableEq, Repr

/-- A DRM frame that waits in the cell de-interleaver (R252): the elapsed tick of its end, mode and occupancy, the received cells by symbol
and carrier, the channel at its references and at the cells that decisions have made references, and the noise power. -/
structure DrmGrid where
  stop : Nat
  mode : Nat
  occ : Nat
  cells : List (Nat × Int × Cx)
  refs : List (Nat × Int × Cx)
  noise : Nat
deriving DecidableEq, Repr

/-- The OFDM demodulator of a DAB or DRM copy (R237-R239, R250-R252). `mode` is the DRM mode decided (R250); `freq` (2^−32 turn a sample)
with the phase, and `rate` (ppb) are what the rotator and the resampler correct; `start` is the FFT window's place in 1/16 sample,
`startWant` a larger move that one frame asked for, `shiftWant` a carrier shift that one PRS asked for; `frame` the elapsed start of the
frame in progress and `next` its next symbol; `prs` the references of the last frame, `last` the cells of the last symbol; `fic` the FIC's
products and soft bits so far; `errs` the frame's sums of squared errors by carrier and `ampSum` that of amplitudes over its `whole`
symbols without HOLD and SETTLING; `vFrame`, `vFic`, `vMean` the variances by carrier and `amp` the amplitude of the ideal points; `sym`
the symbols of the CIF in progress; `cifs` and `grids` what the de-interleaver holds, newest first; `ideal` and `error` the powers of the
window's MER, `ficErr` the errors of the last FIC and its channel bits; `powers` the powers over the last 64-sample spans, newest first,
with the span in progress. -/
structure OfdmPath where
  mode : Option Nat := none
  freq : Int := 0
  phase : Nat := 0
  rate : Int := 0
  start : Int := 0
  startWant : Option Int := none
  shiftWant : Option Int := none
  frame : Nat := 0
  next : Nat := 1
  prs : List Cx := []
  last : List Cx := []
  fic : List (List Cx) := []
  ficSoft : List Int := []
  errs : List Int := []
  ampSum : Int := 0
  whole : Nat := 0
  amp : Int := 0
  vFrame : List Int := []
  vFic : List Int := []
  vMean : List Int := []
  sym : List (List Cx × List Int) := []
  cifs : List CifSoft := []
  grids : List DrmGrid := []
  ideal : Int := 0
  error : Int := 0
  ficErr : Option (Nat × Nat) := none
  powers : List Nat := []
  span : List Nat := []
deriving DecidableEq, Repr

/-- How far a copy's signal has met the criteria of Table CTX-5 since its last entry into SEARCH (R180): consecutive 2.5 ms blocks
below 3 dB (`low`) and at 6 dB or more (`high`), DAB frames in a row without a good FIB and without a null symbol, the good FIBs of
the last frame, FACs in a row that passed and that failed. -/
structure Criteria where
  low : Nat := 0
  high : Nat := 0
  noFib : Nat := 0
  noNull : Nat := 0
  fibs : Nat := 0
  facOk : Nat := 0
  facBad : Nat := 0
deriving DecidableEq, Repr

/-- Pilot states (R210). -/
inductive Pilot where
  | searching | absent | found | locked
deriving DecidableEq, Repr

/-- What a copy's own samples have shown in the quality window (Table CTX-7): the power before the AGC by which the level is told with the
number of samples behind it, the signal and the noise by which the CNR is told, and the MER in 0.1 dB. -/
structure Meter where
  power : Int := 0
  cnt : Nat := 0
  signal : Int := 0
  noise : Int := 0
  mer : Option Int := none
deriving DecidableEq, Repr

/-- One copy's life cycle and AGC (R179-R181, R183-R186). `entered` is the elapsed tick of the entry into the state,
moved on by the length of each HOLD; `searched` that of the last entry into SEARCH; `agc` is in 0.01 dB; `boundary` the elapsed tick from
which the AGC measures; `settle` that of the copy's own last cause of SETTLING, `out` its own intervals of HOLD and SETTLING that have
ended; `pilot`, `amLocked` and `amFallback` are its own loops' decisions (R201, R210), `mpcBad` the blocks in a row in which its canceller
diverged (R219), `meter` its quality figures; `path`, `am`, `fm` and `ofdm` are the registers of its DDC chain and of its demodulators. -/
structure CopyState where
  state : CtxState := .search
  held : CtxState := .search
  holds : List HoldCause := []
  holdFrom : Nat := 0
  entered : Nat := 0
  searched : Nat := 0
  agc : Int := 0
  agcFrozen : Bool := false
  boundary : Nat := 0
  settle : Nat := 0
  out : List (Nat × Nat) := []
  seen : Criteria := {}
  pilot : Pilot := .searching
  amLocked : Bool := false
  amFallback : Bool := false
  mpcBad : Nat := 0
  meter : Meter := {}
  path : Path := {}
  am : AmPath := {}
  fm : FmPath := {}
  ofdm : OfdmPath := {}
deriving DecidableEq, Repr

/-- A report of Table CTX-8 (R190) as field values. -/
structure Report where
  winStart : Nat
  state : CtxState
  type : Nat
  level : Option Int
  cnr : Option Int
  mer : Option Int
  floor : Option Int
  floorAge : Nat
  preErr : Option (Nat × Nat)
  postErr : Option (Nat × Nat)
  agc : Int
  atten : Nat
  iterMean : Nat
  iterShort : Nat
  clip : Nat
  valid : Nat
  aLevel : Option Int
  aQuality : Option Int
  bLevel : Option Int
  bQuality : Option Int
  pairSel : Nat
  pairDelay : Int
deriving DecidableEq, Repr

/-- The quality window in progress (R187-R190). `changing` says that the window ends at the first start of a new kind;
`clipBase` and `clipBaseB` hold the clipped detector periods of half A and half B at its start; the four counts are those of
Table CTX-7. `runs` are the last window's runs blanked, runs too long to blank, and canceller resets (R222), `resetBase` the resets when it
began. Instants are elapsed ticks. -/
structure QualityWindow where
  start : Nat := 0
  startHt : Nat := 0
  counted : Nat := 0
  changing : Bool := false
  clipBase : Nat := 0
  clipBaseB : Nat := 0
  preErr : Nat := 0
  preCnt : Nat := 0
  postErr : Nat := 0
  postCnt : Nat := 0
  searchOnly : Bool := true
  presence : Bool := false
  floor : Option Int := none
  floorEnd : Option Nat := none
  iterSum : Nat := 0
  iterBlocks : Nat := 0
  iterShort : Nat := 0
  last : Option Report := none
  broadcast : List (Option Int) := []
  reception : List (Option Int) := []
  blend : Nat := 0
  mute : Nat := 0
  runs : Nat × Nat × Nat := (0, 0, 0)
  resetBase : Nat := 0
deriving DecidableEq, Repr

/-- The multipath canceller (R216-R221). -/
inductive Mpc where
  | off | waiting | adapting | frozen
deriving DecidableEq, Repr

/-- An audio sample of a context as a source set takes it (R281): its elapsed tick, mono and difference words before blend and soft mute,
the signal and noise power of the input samples it comes from, whether its pilot is locked, whether it is in TRACK and not held, and the
blend (1/800) and attenuation (0.01 dB) that the context itself applies to it. -/
structure Tap where
  tick : Nat
  mono : Int
  side : Int
  power : Int
  noise : Int
  pilot : Bool
  on_ : Bool
  blend : Int
  mute : Int
deriving DecidableEq, Repr

/-- AM and FM reception (R197-R222). `mute` in 0.1 dB, `blend` in 1/800, `blockCnr` the block CNR of R205 in 0.1 dB, `lowAt` the elapsed
tick of the last block below 20 dB (R278); `past` holds the states of the context, each with its first elapsed tick, newest first, by which
its content is flagged and faded (R197); `fades` the spans faded out ahead of a planned HOLD (R198); `erased` the intervals of calibration
HOLD (R136); `audio` the audio samples not yet used, each with its elapsed grid tick and its channels, `heardTo` the elapsed end of the
last block they were computed from, and `taps` those that source sets take. -/
structure Analogue where
  mute : Nat := 0
  muteRunning : Bool := false
  blend : Nat := 0
  fallbacks : Nat := 0
  nbRuns : Nat := 0
  nbLong : Nat := 0
  mpc : Mpc := .off
  mpcResets : Nat := 0
  mpcEventAt : Option Nat := none
  blockCnr : Int := 0
  lowAt : Option Nat := none
  pendingFm : Option FmCfg := none
  past : List (Nat × CtxState) := []
  fades : List (Nat × Nat) := []
  erased : List (Nat × Nat) := []
  audio : List (Nat × List Int) := []
  heardTo : Nat := 0
  taps : List Tap := []
deriving DecidableEq, Repr

/-- What RDS groups have carried beyond the PI (R286, R288, R306): the value that each item last had, the accepted segments of the PS and of
the radiotext with the latter's A/B flag and version, what was last delivered, rt_seq, the group type of RT+ with tags that wait for their
text, the accepted flags, and for each PI the AF list in progress and the last whole one. -/
structure RdsText where
  seen : List (Nat × Nat) := []
  ps : List (Nat × Nat) := []
  psSent : Option (List Nat) := none
  rt : List (Nat × List Nat) := []
  rtKind : Option Nat := none
  rtSent : Option (Nat × List Nat) := none
  rtSeq : Nat := 0
  plusType : Option Nat := none
  plusHeld : Option (List Nat) := none
  plusSent : Option (List Nat) := none
  flags : List (Nat × Nat) := []
  flagsSent : List (Nat × Nat) := []
  afNow : List (Nat × List (Nat × Nat)) := []
  afLast : List (Nat × List (Nat × Nat)) := []
deriving DecidableEq, Repr

/-- RDS reception (R223-R230, R312). Unsynchronised, `lastClean` is the offset of the last block that passed its syndrome and `cleanAt` the
elapsed tick of its end; synchronised, `position` is the place of the next block in its group. `group` holds the blocks of the group so far
(information, offset, status), `window` the last 32 block results, newest first, true for uncorrectable, `erased` that the group so far
holds an undecided bit, `piLow` that the candidate PI came with at most 2 bits corrected (R286). `ptyCode` and `ptyRun` count equal alarm
codes of PTY, `ptyOff` the groups that deny a running alarm. -/
structure Rds where
  text : RdsText := {}
  synced : Bool := false
  lastClean : Option Nat := none
  cleanAt : Nat := 0
  position : Nat := 0
  erased : Bool := false
  window : List Bool := []
  pi : Option Nat := none
  piCandidate : Option Nat := none
  piLow : Bool := false
  piTimes : Nat := 0
  group : List (Nat × Nat × Nat) := []
  ptyCode : Nat := 0
  ptyRun : Nat := 0
  ptyOff : Nat := 0
  alarm : Option Nat := none
deriving DecidableEq, Repr

/-- A pair's delivery (R27-R30): the copy delivered, whether by Table ARC-5, whether R29 excludes the context from combining, the
elapsed tick of the boundary of R28 on which a change of the copies' states takes effect, the span of excess counted for R30, the
measured delay. -/
structure Delivery where
  copy : Copy := .a
  combined : Bool := true
  far : Bool := false
  due : Option Nat := none
  excessSince : Option Nat := none
  delayNs : Int := 0
  switches : Nat := 0
deriving DecidableEq, Repr

/-! ## DAB and DRM (09) -/

/-- The states of a selection (R242, R244, R253, R255). -/
inductive SelState where
  | waiting | filling | decoding
deriving DecidableEq, Repr

/-- The text message of a selection (R307, R309): its toggle, the segments received under it and the number of the last, the message last
delivered with its number, and tags that wait for the message they refer to. -/
structure Message where
  toggle : Option Bool := none
  segments : List (Nat × List Byte) := []
  last : Option Nat := none
  set : Charset := .utf8
  sent : Option (List Byte) := none
  seq : Nat := 0
  held : List (List Byte) := []
deriving DecidableEq, Repr

/-- A selection of a DAB or DRM context (R170, R242-R247, R253-R259). `start` and `size` are its subchannel's place in a CIF in CUs, `rate`
its bit rate in 8 kbit/s. `sel` is the SubChId or stream, 255 while a service is not resolved; `since` the elapsed tick of its execution;
`missing` the frames in TRACK without a description; `fill` the elapsed tick its first CIF or frame was fed; `conceal` the units to conceal
after a change of configuration; `failRun` the failed units since the last good one, `failLen` their PCM frames and `failAt` the elapsed
tick of the last release of one; `config` the audio parameters in use (R245), `fade` the PCM frames of a fade-in still to come (R257,
R258), `l2At` the elapsed end of the last Layer II frame, `raw` the raw data last delivered with its stamp, `units` the units released,
newest first, with their elapsed stamps, while a set may want them (R280), `seen` what Table DIG-13 counts in the window: channel bit
errors and bits, RS codewords corrected and uncorrectable, and `seenLast` that of the last window. -/
structure Selection where
  sel : Nat
  kind : Nat
  byService : Bool
  sid : Nat
  scids : Nat
  audio : Bool
  start : Nat := 0
  size : Nat := 0
  rate : Nat := 0
  since : Nat := 0
  state : SelState := .waiting
  missing : Nat := 0
  fill : Nat := 0
  coding : List Nat := []
  synced : Bool := false
  syncFails : Nat := 0
  conceal : Nat := 0
  failRun : Nat := 0
  failLen : Nat := 0
  failAt : Option Nat := none
  failed : Nat := 0
  config : List Nat := []
  fade : Nat := 0
  l2At : Option Nat := none
  raw : List (Nat × RawItem) := []
  units : List (Nat × UnitResult) := []
  seen : Nat × Nat × Nat × Nat := (0, 0, 0, 0)
  seenLast : Option (Nat × Nat × Nat × Nat) := none
  motDropped : Nat := 0
  text : Message := {}
deriving DecidableEq, Repr

/-- DAB and DRM reception (R236-R260). `cif` is the CIF count of the last CIF decoded, once one has been (`cifKnown`); `change`,
`occurrence` and `next` what the FIC announces (R240); `mode` the DRM mode in use; `tiiPast` the last 16 null symbols with TII;
`frameStart` the elapsed tick on which the last frame began; `alarm` the test flag and the service of the alarm that runs, `alarmAt` the
elapsed tick of the last FIG that keeps it, `alarmClear` the SDC blocks that clear it. -/
structure Digital where
  cif : Nat := 0
  cifKnown : Bool := false
  change : Nat := 0
  occurrence : Option Nat := none
  next : List SubDesc := []
  mode : Option Nat := none
  tiiPast : List (List (Nat × Nat × Int)) := []
  organisation : List SubDesc := []
  reconfigs : Nat := 0
  occSignalled : Nat := 255
  frameStart : Nat := 0
  alarm : Option (Bool × ServiceKey) := none
  alarmAt : Nat := 0
  alarmClear : Nat := 0
  tii : List (Nat × Nat × Int) := []
deriving DecidableEq, Repr

/-- A context (chapters 06 to 09). `holdSpans` and `settleSpans` hold its intervals of HOLD and SETTLING that have ended and that the
window in progress still counts. -/
structure Ctx where
  cfg : CtxCfg
  a : CopyState := {}
  b : Option CopyState := none
  chain : ChainState := {}
  group : Option Nat := none
  quality : QualityWindow := {}
  holdSpans : List (Nat × Nat) := []
  settleSpans : List (Nat × Nat) := []
  ana : Analogue := {}
  rds : Rds := {}
  dig : Digital := {}
  sels : List Selection := []
  pair : Delivery := {}
  opened : Nat := 0
  watchPolicy : Option Nat := none
deriving DecidableEq, Repr

end Sys2Proof.Machine
end

