-- ==== Sys2Proof/Machine/HostState.lean ====
section
/-! DEFINITION. State of the accessory pins, plans, flows, egress, DRAM and what the part has written to host memory
(chapters 04, 12 and 13 of the spec). The default of a field is its value after reset. -/

namespace Sys2Proof.Machine

/-! ## Accessory pins and bus (04) -/

/-- GPIO functions of Table RFI-9 (R123), in their coding order. -/
inductive GpioFunction where
  | input | output | isoFollow
deriving DecidableEq, Repr

/-- One GPIO (R123, R126). `muteUntil` is the elapsed tick on which a mute trail ends. (DESIGN CHOICE, log 5) -/
structure Gpio where
  function : GpioFunction := .input
  level : Nat := 0
  debounce : Nat := 0
  half : Nat := 0
  activeLow : Bool := false
  lead : Nat := 512
  trail : Nat := 512
  asserted : Bool := false
  muteUntil : Option Nat := none
  acceptedAt : Option Nat := none
deriving DecidableEq, Repr

/-- An accessory-bus transaction (R125) with the command that asked for it. -/
structure I2cJob where
  desc : Desc
  origin : Origin
  params : I2cParams
  execHt : Nat
deriving DecidableEq, Repr

/-- The accessory bus (R125): transactions queued in execution order, and the one on the bus. -/
structure I2cBus where
  queue : List I2cJob := []
  busy : Option I2cJob := none
deriving DecidableEq, Repr

/-! ## Plans (12) -/

/-- A prepared plan (R337-R341): its entries in list order. -/
structure Plan where
  entries : List PlanEntry
deriving DecidableEq, Repr

/-- A committed plan whose tiles have not all returned (R340): the contexts held. -/
structure PlanHold where
  plan : Nat
  tiles : List Nat
  ctxs : List Nat
deriving DecidableEq, Repr

/-! ## Flows (13) -/

/-- An item of a variable record (R304, R353, Table CTX-8, Table KTE-11): its length in bytes, its fields, and raw bytes from `bodyAt` on.
-/
structure Item where
  bytes : Nat
  fields : List Field
  body : List Byte
  bodyAt : Nat := 0
deriving DecidableEq, Repr

/-- A record (Table FLW-2) with its items; `tau` is S − G at stamping (R364), `zeros` the payload bytes, by first and count, that are
delivered as zeros, because settled samples are blanked or a DRAM line was lost (R167, R372), `data` runs of sample words, each from a
payload unit on, as far as converter samples have been given. (DESIGN CHOICE, log 13) -/
structure Record where
  flow : Nat
  flags : Nat
  length : Nat
  ht : Nat
  tau : Int
  seq : Nat
  type : Nat
  subtype : Nat
  origin : Nat
  count : Nat
  chans : Nat
  plan : Nat
  items : List Item
  zeros : List (Nat × Nat) := []
  data : List (Nat × List Int) := []
deriving DecidableEq, Repr

/-- A record being filled (R354). `first` is the elapsed tick of its first item. (DESIGN CHOICE, log 13) -/
structure OpenRecord where
  ht : Nat
  tau : Int
  first : Nat
  count : Nat
  bytes : Nat
  flags : Nat
  chans : Nat
  plan : Nat
  items : List Item
  zeros : List (Nat × Nat) := []
  data : List (Nat × List Int) := []
deriving DecidableEq, Repr

/-- Targets of R358. -/
inductive FlowTarget where
  | none
  | ring (r : Nat)
  | port (p k : Nat)
  | chain (a g : Nat)
deriving DecidableEq, Repr

/-- A flow (R351-R369). `rate` none is unlimited; `ballast` is in 2^−16 byte; `produced` is the elapsed tick up to which
fixed content has been produced; `filled` the τ up to which R367 has filled; `everBound` that the flow has been bound before. -/
structure Flow where
  type : Nat
  subtype : Nat
  source : Nat
  sel : Nat
  blank : Bool
  length : Nat
  target : FlowTarget := .none
  weight : Nat := 256
  rate : Option Nat := none
  burst : Nat := 65536
  ballast : Int := 4294967296
  accrued : Nat := 0
  tag : Nat := 0
  backlogged : Bool := false
  window : Nat := 0
  delay : Nat := 0
  windowBytes : Nat := 0
  seq : Nat := 0
  disc : Bool := false
  opened : Option OpenRecord := none
  staged : List Record := []
  produced : Nat := 0
  dropped : Nat := 0
  droppedBytes : Nat := 0
  overflowAt : Option Nat := none
  filled : Option Int := none
  itemCnt : Nat := 0
  everBound : Bool := false
deriving DecidableEq, Repr

/-- The egress links of R360: PCIe, Tether UP, Tether DOWN, each with its virtual time (R363). (DESIGN CHOICE, log 43) -/
structure Egress where
  pcie : Nat := 0
  up : Nat := 0
  down : Nat := 0
deriving DecidableEq, Repr

/-- Captured groups of 4 ticks that have not left the capture region (R353, R370): how many, the HT and τ of the first, their
flags, the plan they were sampled at, whether the first follows idled ticks, whether all are idled ticks and so zeros, and the converter
samples, as far as they have been given. (DESIGN CHOICE, log 13) -/
structure CapSpan where
  n : Nat
  ht : Nat
  tau : Int
  flags : Nat
  plan : Nat
  disc : Bool
  idle : Bool := false
  data : List Int := []
deriving DecidableEq, Repr

/-- A raw capture on one half (R370). `produced` is the elapsed tick up to which it has been followed, `size` and `written` are
bytes, `extra` the flags of ticks that already lie in the next group, `disc` that the next group follows idled ticks, `opened` the
record being filled, `samples` the converter samples of the latest ticks, each with its elapsed tick. -/
structure Capture where
  half : Nat
  circular : Bool
  flow : Nat
  size : Nat
  produced : Nat
  written : Nat := 0
  extra : Nat := 0
  disc : Bool := false
  spans : List CapSpan := []
  opened : Option OpenRecord := none
  stopped : Bool := false
  samples : List (Nat × List Int) := []
deriving DecidableEq, Repr

/-- DRAM (R368, R371-R373): capacity, retired pages, and the counts of corrected lines. (DESIGN CHOICE, log 3) -/
structure Dram where
  installed : Nat := 32768
  pageHits : List Nat := []
  retired : List Nat := []
  corrected : Nat := 0
  correctedTotal : Nat := 0
  correctedAt : Option Nat := none
  firmwareBad : Bool := false
deriving DecidableEq, Repr

/-! ## What the part has written to host memory (12) -/

/-- A buffer returned to the host (Table HIF-12). -/
structure ReturnedBuffer where
  ring : Nat
  desc : BufferDesc
  used : Nat
  records : Nat
  done : Bool
  flushed : Bool
  emptied : Bool
deriving DecidableEq, Repr

/-- An entry of the message area (R442). -/
structure MessageSlot where
  slot : Nat
  src : Nat
  seq : Nat
  body : List Nat
deriving DecidableEq, Repr

/-- One write by DMA, or the message of an MSI-X vector. -/
inductive HostWrite where
  | dma (addr : Nat) (bytes : List Byte)
  | msix (vector : Nat)
deriving DecidableEq, Repr

/-- What the part has written to host memory and the MSI-X messages it has sent, newest first (R323): `writes` as bytes at their
addresses, in one order; the other lists by what they hold. (DESIGN CHOICE, log 60) -/
structure HostOut where
  writes : List HostWrite := []
  completions : List Completion := []
  events : List Event := []
  records : List (Nat × Record) := []
  buffers : List ReturnedBuffer := []
  messages : List Nat := []
  slots : List MessageSlot := []
deriving DecidableEq, Repr

end Sys2Proof.Machine
end

