-- ==== Sys2Proof/Machine/LinkState.lean ====
section
/-! DEFINITION. State of source sets, service following, the Kite link, the audio ports, the Tether chain, power, boot and
the set-up registers (chapters 10, 11, 14, 15, 16, 17 and 18 of the spec). The default of a field is its value after
reset. -/

namespace Sys2Proof.Machine

/-! ## Iterated blocks and source sets (10) -/

/-- A block that waits for its deadline (R262-R267): its context, selection and copy, the half whose pool iterates it, the elapsed ticks
from which the pool may serve it and of its deadline, whether superframe synchronisation was held when it arrived, and whether the pool's
figures count it (the first audio stream of a DRM multiplex frame counts for the frame). `coded` is its coded length in bits, `limit` its
iteration limit, `asks` the iterations after which it stops by itself or at that limit, once `settled`, `done` those it has received,
`high` its pool_prio. `soft` holds the LLRs of a superframe's logical frames, `cells` those of a multiplex frame by source, with the levels
of its mapping; `base` is the end of its last CIF or frame. `wait` is the hold_back that its set puts on it (R283), `both` says that the
two copies of its pair are summed in it, `alone` that it is a set's lead's own decode beside the combined one (R280). -/
structure IterBlock where
  ctx : Nat
  sel : Nat
  copy : Copy := .a
  half : Nat := 0
  ready : Nat := 0
  deadline : Nat
  held : Bool
  counts : Bool
  coded : Nat := 0
  limit : Nat := 1
  asks : Nat := 1
  settled : Bool := true
  done : Nat := 1
  high : Bool := false
  soft : List (List Int) := []
  cells : List (List (Option (Cx × Cx × Nat))) := []
  levels : Nat := 0
  coding : List Nat := []
  words : Nat := 0
  depth : Nat := 0
  base : Nat := 0
  wait : Nat := 0
  both : Bool := false
  alone : Bool := false
deriving DecidableEq, Repr

/-- Member states of Table DEC-7 (R277), in their coding order. -/
inductive MemberState where
  | idle | seek | verify | joined
deriving DecidableEq, Repr

/-- Branches of R275. Digital branches are told apart by standard, codec kind and coding. -/
inductive Branch where
  | am
  | fm
  | digital (kind : Nat) (coding : List Nat)
deriving DecidableEq, Repr

/-- A member of a source set (R272-R281). Offsets are in 1/16 sample, the gain in 0.01 dB; `good` counts matching windows or
units of the candidate or proof, `bad` contradicting windows of a JOINED member. -/
structure Member where
  ctx : Nat
  sel : Nat
  rank : Nat
  state : MemberState := .idle
  branch : Branch := .fm
  offset : Int := 0
  joinedAt : Int := 0
  candidate : Option Int := none
  good : Nat := 0
  bad : Nat := 0
  gain : Int := 0
  units : Nat := 0
  seekSince : Nat := 0
  noMatch : Bool := false
deriving DecidableEq, Repr

/-- The parameters of Table DEC-6, decoded: tenths of a second, 2.5 ms units for bad_hold, samples for xfade. -/
structure SetCfg where
  alignWindow : Nat := 30
  holdBack : Nat := 20
  xfade : Nat := 4800
  badHold : Nat := 100
  goodHold : Nat := 5
  blendGood : Nat := 20
deriving DecidableEq, Repr

/-- How a branch of a set has been judged (R282): bad or good since an elapsed tick. -/
structure BranchJudge where
  branch : Branch
  bad : Bool
  since : Nat
  failedAt : Option Nat
deriving DecidableEq, Repr

/-- A cross-fade between branches (R282): its first tick and the tick after its last, and the branches it leads from and to. -/
structure Blend where
  start : Nat
  stop : Nat
  old : Branch
  new : Branch
deriving DecidableEq, Repr

/-- A source set (R272-R284). `active` is the active branch; `fadeEnd` the elapsed tick on which a blend ends; `policy` that a follow
policy owns it. Its output is produced hold_back late, so it keeps its blends and the flags of its output, each from an elapsed tick on,
newest first, up to `mark`. -/
structure SourceSet where
  cfg : SetCfg
  members : List Member
  reference : Nat := 0
  active : Branch
  fadeEnd : Option Nat := none
  blends : List Blend := []
  past : List (Nat × Nat) := []
  mark : Nat := 0
  judge : List BranchJudge := []
  policy : Bool := false
deriving DecidableEq, Repr

/-! ## Service database and following (11) -/

/-- A service of the database (R285-R287). `traffic` is TP, with 2 for TA, `support` the announcement types that FIG 0/18 gives it. -/
structure DbService where
  key : ServiceKey
  heard : Bool
  pty : Nat
  ecc : Nat
  label : List Byte
  confirmed : Nat
  traffic : Nat := 0
  support : Nat := 0
deriving DecidableEq, Repr

/-- A frequency of a service. `schedule` holds when it is in use, as SDC entity 4 gives it: days, start and length in minutes (R285). -/
structure DbFreq where
  key : ServiceKey
  standard : Nat
  source : Nat
  regional : Bool
  heard : Bool
  kHz : Nat
  eid : Nat
  confirmed : Nat
  schedule : List (Nat × Nat × Nat) := []
deriving DecidableEq, Repr

/-- A linkage set. -/
structure DbLink where
  lsn : Nat
  active : Bool
  hard : Bool
  ils : Bool
  members : List ServiceKey
  confirmed : Nat
deriving DecidableEq, Repr

/-- An announcement or alarm that has started and not ended (R311, R312). -/
structure ActiveNotice where
  ctx : Nat
  sel : Nat
  alarm : Bool
  key : ServiceKey
  typeMask : Nat
deriving DecidableEq, Repr

/-- The service database with its settings (R285-R290) and its overflow counts. -/
structure Database where
  services : List DbService := []
  freqs : List DbFreq := []
  links : List DbLink := []
  age : Nat := 15
  luKeep : Nat := 8
  annMask : Nat := 65535
  next : Option (Nat × Nat × Nat) := none
  fullAt : Option Nat := none
  dropped : Nat := 0
  notices : List ActiveNotice := []
deriving DecidableEq, Repr

/-- Candidate states of Table SVC-3 (R293), in their coding order. -/
inductive CandState where
  | candidate | watching | verified | member | rejected
deriving DecidableEq, Repr

/-- A candidate of a follow policy (R293-R298): the service and channel it stands for, its place in the order of R294, the context
that works for it, and what the evaluations have counted: how long it has been watched, at or above promote_cnr, below
release_cnr and away from TRACK. `pending` is set while a decided action has not executed;
`barred` is the elapsed tick on which a BARRED one returns. CNR is in 0.1 dB. -/
structure Candidate where
  key : ServiceKey
  standard : Nat
  kHz : Nat
  source : Nat
  state : CandState := .candidate
  ctx : Option Nat := none
  cnr : Int := -1000
  watched : Nat := 0
  good : Nat := 0
  bad : Nat := 0
  away : Nat := 0
  barred : Nat := 0
  pending : Bool := false
deriving DecidableEq, Repr

/-- Context actions that following decides (R296, R297, R298, R299). `slot` is the slot that an open takes; `cfg` the parameters
that a context will have. -/
inductive FollowAct where
  | open_ (slot : Nat) (cfg : CtxCfg)
  | retune (ctx : Nat) (cfg : CtxCfg)
  | close (ctx : Nat)
  | promote (ctx : Nat) (cfg : CtxCfg)
  | release (ctx : Nat) (cfg : Option CtxCfg)
  | rehome (kHz : Nat)
deriving DecidableEq, Repr

/-- A decided action of a policy with the elapsed tick on which it executes. -/
structure FollowDue where
  due : Nat
  set : Nat
  act : FollowAct
deriving DecidableEq, Repr

/-- A follow policy (R293-R302), its parameters with their defaults: `failing` counts the evaluations of a failing home. -/
structure Follow where
  params : FollowParams
  setCfg : SetCfg
  key : Option ServiceKey := none
  candidates : List Candidate := []
  failing : Nat := 0
  noSlotAt : Option Nat := none
deriving DecidableEq, Repr

/-- A SCAN in progress (R291): its watch contexts with the channels (kHz) they stand on, the channels left, the channels on which
a PI was heard, the elapsed tick on which the dwell ends. -/
structure ScanRun where
  desc : Desc
  origin : Origin
  execHt : Nat
  ctxs : List (Nat × Nat)
  left : List Nat
  found : Nat
  dwell : Nat
  dwellEnd : Nat
deriving DecidableEq, Repr

/-- A MOT object being assembled (R308): the segments of its header and of its body, each with the number of the last once it is
known. -/
structure MotObject where
  ctx : Nat
  sel : Nat
  transportId : Nat
  head : List (Nat × List Byte) := []
  headLast : Option Nat := none
  body : List (Nat × List Byte) := []
  bodyLast : Option Nat := none
  bodySize : Nat := 0
  lastAt : Nat
deriving DecidableEq, Repr

/-- A MOT object delivered or dropped (R308): a delivered one is not delivered again within 10 minutes, a dropped one is counted
once. -/
structure MotDone where
  ctx : Nat
  sel : Nat
  transportId : Nat
  size : Nat
  delivered : Bool
  doneAt : Nat
deriving DecidableEq, Repr

/-- Service following (11). -/
structure Service where
  db : Database := {}
  policies : List (Nat × Follow) := []
  actions : List FollowDue := []
  scans : List ScanRun := []
  mots : List MotObject := []
  motsDone : List MotDone := []
deriving DecidableEq, Repr

/-! ## Kite link (14) -/

/-- A queued Kite frame (R399): its frame counter and the tag of its KITE_SEND. -/
structure KiteFrame where
  cls : Nat
  length : Nat
  payload : List Nat
  seq : Nat
  tag : Nat
  deferred : Bool := false
deriving DecidableEq, Repr

/-- A Kite session (R397, R398). `finish` is the finish tag of R393, `tagged` that it stands for the head frame. -/
structure KiteSession where
  key : Nat
  peer : Nat
  channel : Nat
  txCount : Nat := 0
  rxLast : Option Nat := none
  authFails : Nat := 0
  queue : List KiteFrame := []
  finish : Nat := 0
  eligible : Bool := false
  tagged : Bool := false
deriving DecidableEq, Repr

/-- An airtime bucket (R394). The balance is in 10^−6 tick; `accrued` is the elapsed tick up to which it has accrued. -/
structure Bucket where
  rate : Nat := 0
  burst : Nat := 0
  balance : Int := 0
  accrued : Nat := 0
  eventAt : Option Nat := none
deriving DecidableEq, Repr

/-- A chirp (R377): a down-chirp or an up-chirp, with its shift. -/
structure Chirp where
  down : Bool := false
  shift : Nat := 0
deriving DecidableEq, Repr

/-- A frame that has been decided (R383, R392): its elapsed start and end, the HT of its start, the elapsed tick from which the
receiver is blind for it, whether it has begun, its chirps and the top level of KPA_RAMP. (DESIGN CHOICE / DEDUCED, log 63) -/
structure KiteTx where
  session : Nat
  frame : KiteFrame
  channel : Nat
  sf : Nat
  subBand : Nat
  power : Int
  start : Nat
  startHt : Nat
  finish : Nat
  blind : Nat
  begun : Bool := false
  chirps : List Chirp := []
  rampLevel : Nat := 0
deriving DecidableEq, Repr

/-- Demodulator states of R389. -/
inductive DemodState where
  | free | sync | header | payload
deriving DecidableEq, Repr

/-- A Kite demodulator (R389-R391): the SF, bin and level of its reception, its frequency in 1/16 bin and timing in 1/16 chip, the elapsed
tick of the detection, the HT of the first preamble chirp, the payload rate and the header. -/
structure Demod where
  state : DemodState := .free
  sf : Nat := 7
  bin : Int := 0
  level : Int := 0
  freq : Int := 0
  timing : Int := 0
  since : Nat := 0
  stamp : Nat := 0
  rate : Nat := 0
  head : Option KiteHeader := none
deriving DecidableEq, Repr

/-- A configuration whose channels the KSYN searches (R376). -/
structure KitePending where
  block : KiteBlock
  count : Nat
  desc : Desc
  origin : Origin
deriving DecidableEq, Repr

/-- The Kite link (R374-R401). Buckets are numbered 3 × sub-band + class; `txs` are the frame on air and one decided to follow it;
`committed` is the elapsed tick from which the part decides again; `rxChannel` the channel it listens on; `frameHt` the HT of the
superframe in progress; `dropSeen` the counters that the last EV_KITE_RX_DROP reported; `rampDown` an abort's ramp-down: the elapsed tick
of its start and the level of KPA_RAMP it falls from; `hopAt` the elapsed tick of its end, on which the KSYN hops (R93). -/
structure Kite where
  cfg : Option KiteBlock := none
  pending : Option KitePending := none
  sessions : List (Nat × KiteSession) := []
  buckets : List (Nat × Bucket) := []
  vtime : List Nat := [0, 0, 0]
  txs : List KiteTx := []
  committed : Nat := 0
  demods : List Demod := List.replicate 8 {}
  rxChannel : Option Nat := none
  blindUntil : Nat := 0
  counters : List Nat := List.replicate 16 0
  dropAt : Option Nat := none
  dropSeen : List Nat := List.replicate 16 0
  frameHt : Nat := 0
  rampDown : Option (Nat × Nat) := none
  hopAt : Option Nat := none
deriving DecidableEq, Repr

/-! ## Audio ports (15) -/

/-- Port states (R407). -/
inductive PortState where
  | idle | lead | run | hazard | stalled | trail
deriving DecidableEq, Repr

/-- An audio port's configuration (Table AUD-1, R402). -/
structure PortCfg where
  format : Nat
  slave : Bool
  slots : Nat
  bits : Nat
  clkLead : Nat
  clkTrail : Nat
  mclk : Nat
deriving DecidableEq, Repr

/-- What the clock start of a port start found (R409, R410): it leads, the port was not IDLE, or a stop came in the lead. -/
inductive StartVerdict where
  | lead | busy | aborted
deriving DecidableEq, Repr

/-- A port start whose clock start has come (R408): the HT of its first data frame, and its command once its tick has come. -/
structure PortStart where
  verdict : StartVerdict
  due : Nat
  job : Option (Desc × Origin) := none
deriving DecidableEq, Repr

/-- A slot pair of a port (R411): its flow (none once that has left it), the presentation delay in ticks fixed at the first record
staged, and the τ of the last sample presented. -/
structure SlotPair where
  pair : Nat
  flow : Option Nat
  delay : Option Int := none
  last : Option Int := none
deriving DecidableEq, Repr

/-- What a slot pair carries in a frame (R405, R411): sample `index` of the record `seq` of a flow, with its 24-bit words as far as they are
known; `mono` sends it in both slots. (DESIGN CHOICE, log 13) -/
structure PairOut where
  pair : Nat
  flow : Nat
  seq : Nat
  index : Nat
  mono : Bool
  words : List Int := []
deriving DecidableEq, Repr

/-- An audio port (R402-R421). `held` is the state before STALLED, `stallDue` the elapsed tick up to which a stall has been followed;
`frame` counts the frames begun since the first data frame; `good` and `locked` follow the word counter in LEAD; `lastTx` and `lastRx` are
the frames of the last slips, `slipped` that the next input frame carries SLIPPED, `lastIn` the slot words of the last one; `out` is what
the last frame carried, a pair without an entry sending zeros. Counters: slips (transmit drop and repeat, receive drop and repeat),
underruns and overruns by cause, content underruns by pair. `skew` is by how many bits of a frame the slots are shifted against FS since the
word counter was locked (R417). -/
structure Port where
  cfg : Option PortCfg := none
  state : PortState := .idle
  held : PortState := .idle
  start : Option PortStart := none
  trailEnd : Option Nat := none
  frame : Nat := 0
  good : Nat := 0
  locked : Bool := false
  stalledAt : Nat := 0
  stallDue : Nat := 0
  pairs : List SlotPair := []
  out : List PairOut := []
  txFill : Nat := 16
  rxFill : Nat := 16
  lastTx : Option Nat := none
  lastRx : Option Nat := none
  slipped : Bool := false
  lastIn : List Nat := []
  counters : List Nat := List.replicate 16 0
  skew : Nat := 0
deriving DecidableEq, Repr

/-! ## Tether chain (16) -/

/-- A Tether port's link (R422-R425, R431). -/
structure TetherLink where
  up : Bool := false
  wiring : Bool := false
  dcOn : Bool := true
  dcFault : Bool := false
deriving DecidableEq, Repr

/-- What the head knows of a part (R438, Table TET-3). -/
structure Peer where
  answered : Bool := false
  quarantined : Bool := false
  stale : Bool := false
  silent : Bool := false
  missed : Nat := 0
  answer : Option RollAnswer := none
deriving DecidableEq, Repr

/-- A completed roll call (R440): its HT, the head's epoch, the parts enumerated, the master, the ring code, the advertised capacity,
and the parts with their addresses. -/
structure RollCall where
  ht : Nat
  epoch : Nat
  parts : Nat
  master : Nat
  ring : Nat
  advCtx : Nat
  advLu : Nat
  advProg : Nat
  entries : List (Nat × Peer)
deriving DecidableEq, Repr

/-- What a chain transfer carries (R432). -/
inductive TransferItem where
  | command (desc : Desc) (late : Bool) (cmd : HostCmd)
  | completion (c : Completion)
  | event (e : Event) (vector : Nat)
  | message (body : List Nat)
  | record (flow : Nat) (r : Record)
  | notice (steps grid : Int)
  | config (c : ChainConfig)
  | claim (c : Claim)
deriving DecidableEq, Repr

/-- An unacknowledged transfer (R432): its link sequence, its destination (0xFFFF every part), how often it has been sent. -/
structure Transfer where
  seq : Nat
  dest : Nat
  item : TransferItem
  sends : Nat := 1
deriving DecidableEq, Repr

/-- A CHAIN_SEND that waits for its acknowledgements (R442): the transfers that are out, the targets that failed, whether it names
one destination. -/
structure ChainSend where
  desc : Desc
  origin : Origin
  waiting : List Nat
  failed : List Target
  single : Bool
deriving DecidableEq, Repr

/-- The Tether chain as this part holds it (R422-R444). `parts` counts the parts of the latest configuration; `breaks` are the links that
are down, link k joining part k to the next; `claims` are the claims of other parts; `master` is the elected one, a lone part with source
LOCAL being its own; `rollAt` is the elapsed tick of a roll call still open; `offsetRun` counts consecutive roll calls that disagree;
`rebootAt` is the elapsed tick of the reset that follows QUARANTINE; `nextSeq` numbers transfers; `seen` are the transfers received and
`records` the records, by source and sequence; `acks` what was acknowledged, newest first: source, sequence, status; `forwarded` are the
commands forwarded and not completed. -/
structure Chain where
  addr : Option Nat := none
  chainId : Nat := 0
  parts : Nat := 1
  ring : Bool := false
  breaks : List Nat := []
  epoch : Nat := 0
  applied : Nat := 0
  timeDisagree : Nat := 1000
  up : TetherLink := {}
  down : TetherLink := {}
  peers : List (Nat × Peer) := []
  claims : List (Nat × Claim) := []
  master : Option Nat := some 0
  masterLocked : Bool := false
  rollAt : Option Nat := none
  rollHt : Nat := 0
  rollcall : Option RollCall := none
  offsetNs : Int := 0
  offsetRun : Nat := 0
  quarantined : Bool := false
  rebootAt : Option Nat := none
  transfers : List Transfer := []
  nextSeq : Nat := 0
  seen : List (Nat × Nat) := []
  records : List (Nat × Nat × Nat) := []
  acks : List (Nat × Nat × Nat) := []
  forwarded : List (Nat × Desc × Nat) := []
  sends : List ChainSend := []
  msgSeq : Nat := 0
deriving DecidableEq, Repr

/-! ## Power, boot and the Oasis (17) -/

/-- Thermal levels of Table PWR-4 (R451), in their coding order. -/
inductive ThermalLevel where
  | normal | warm | throttle | critical
deriving DecidableEq, Repr

/-- A temperature sensor (R131, R451), in 0.25 °C: the sixteen halves and the Gondola. (DESIGN CHOICE, log 5) -/
structure Sensor where
  reading : Int := 100
  highest : Int := 100
  level : ThermalLevel := .normal
deriving DecidableEq, Repr

/-- BRACE in progress (R449, R450, R475): the elapsed ticks of its entry, of the first sample below the warning, and from which its exit can
qualify, the lowest sample (mV), whether VIN_LOW has been raised. -/
structure Brace where
  entered : Nat
  qualify : Nat
  since : Int
  vinMin : Nat
  lowRaised : Bool := false
deriving DecidableEq, Repr

/-- The rail groups with `n` tile groups up, in the order of Table PWR-1: Oasis, Gondola, DRAM, eight tiles, Kite. -/
def groupsUp (n : Nat) : List Bool := [true, true, true] ++ (List.range 8).map (fun t => decide (t < n)) ++ [true]

/-- Power (R445-R451). VIN is in mV, the warning in 0.1 V; `railsUp` is false while the main rails are off, `groups` says of each rail
group, in the order of Table PWR-1, whether it is up, `overVoltage` and `hot` say what keeps the main rails off; `vinMin` is the lowest
sample since power-on sequencing, `bootMin` since the last boot; `resetAt` is the elapsed tick of a requested reset (R372, R459). (DESIGN
CHOICE, log 5) -/
structure Power where
  vin : Nat := 12000
  vinMin : Nat := 12000
  bootMin : Nat := 12000
  warn : Nat := 110
  brace : Option Brace := none
  railsUp : Bool := true
  groups : List Bool := groupsUp 0
  overVoltage : Bool := false
  hot : Bool := false
  sensors : List Sensor := List.replicate 17 {}
  resetAt : Option Nat := none
deriving DecidableEq, Repr

/-- Boot progress (R457-R463, GEN_BOOT): the stage, the source, the failing block, the elapsed tick of reset release and of the latest
change of stage, whether the booted slot is a fallback, whether 10 s have passed without an image. -/
structure Boot where
  stage : Nat := 0
  source : Nat := 0
  failBlock : Nat := 0
  released : Nat := 0
  since : Nat := 0
  fallback : Bool := false
  noImage : Bool := false
deriving DecidableEq, Repr

/-- A fault that reset the part, for the EV_PMU_FAULT of the next boot (R448): cause, rail group, value, HT. -/
structure PmuFault where
  cause : Nat
  group : Nat
  value : Nat
  ht : Nat
deriving DecidableEq, Repr

/-- The Oasis domain (Table PWR-7, R44, R45, R453, R476). `lastAt` is the elapsed tick on which the HT was stored; `log` the events
logged, newest first; `rebootHt` the HT of the last reset that QUARANTINE made (R458). -/
structure Oasis where
  addr : Option Nat := none
  chainId : Nat := 0
  lastHt : Option Nat := none
  lastAt : Nat := 0
  log : List Event := []
  logHead : Nat := 0
  resetCause : Nat := 255
  resetItem : Nat := 255
  resetHt : Nat := 0
  resetVin : Nat := 0
  resetFault : Option PmuFault := none
  slot : Nat := 0
  preferred : Nat := 0
  failedBoots : List Nat := [0, 0]
  chainBoot : Bool := false
  rebootHt : Option Nat := none
  bootSrc : Nat := 0
deriving DecidableEq, Repr

/-- FW_LOAD and the SPI flash (R459): the STAGE in progress, whether a staged image is present for ACTIVATE, and the images of the two
slots. (DESIGN CHOICE, log 7) -/
structure Flash where
  staging : Option (Desc × Origin × ImageOffer) := none
  staged : Bool := false
  images : List (Option ImageOffer) := [none, none]
deriving DecidableEq, Repr

/-! ## Registers (18) -/

/-- BAR0 registers that no other structure holds (R471, R477, R479-R481). -/
structure Regs where
  scratch : Nat := 0
  werrOffset : Nat := 0
  werrValid : Bool := false
  chainId : Nat := 0
  timeDisagree : Nat := 1000
  msgBase : Nat := 0
deriving DecidableEq, Repr

/-- The SEC block (R479, R480). `held` lists the key slots that hold a key, with the key's four words. (DESIGN CHOICE, log 3) -/
structure Sec where
  keyData : List Nat := [0, 0, 0, 0]
  held : List (Nat × List Nat) := []
  result : Nat := 0
  slot : Nat := 0
  rollback : Nat := 0
  hbootAddr : Nat := 0
  hbootLen : Nat := 0
  hbootState : Nat := 0
deriving DecidableEq, Repr

/-- The DBG block (R481). `busy` is the elapsed tick on which the running lock test began; `tileRefused` the refused bits of
DBG_TILE_STATUS. -/
structure Dbg where
  busy : Option Nat := none
  target : Nat := 0
  pass : Bool := false
  longest : Nat := 0
  tileRefused : Nat := 0
deriving DecidableEq, Repr

end Sys2Proof.Machine
end

