-- ==== Sys2Proof/Machine/State.lean ====
section
/-! DEFINITION. The state of the block: the part as the spec describes it, and the queue of commands that wait. Plain data.
Also the two ways a command can stop, and the state after reset. -/

namespace Sys2Proof.Machine

/-- Everything the spec gives the part. (DESIGN CHOICE, log 10) -/
structure Part where
  ident : Ident := {}
  clock : Clock := {}
  pps : Pps := {}
  syncin : Syncin := {}
  spll : Spll := {}
  ksyn : Ksyn := {}
  pins : Pins := {}
  sched : Sched := {}
  tiles : List Tile := List.replicate 8 {}
  halves : List Half := List.replicate 16 {}
  ctxs : List (Nat × Ctx) := []
  calCommands : List CalCommand := []
  kiteCal : KiteCal := {}
  gpio : List Gpio := List.replicate 16 {}
  i2c : I2cBus := {}
  plans : List (Nat × Plan) := []
  planHolds : List PlanHold := []
  blocks : List IterBlock := []
  sets : List (Nat × SourceSet) := []
  service : Service := {}
  hif : Hif := {}
  flows : List (Nat × Flow) := []
  egress : Egress := {}
  captures : List Capture := []
  dram : Dram := {}
  kite : Kite := {}
  ports : List Port := List.replicate 8 {}
  mclk : Nat := 0
  chain : Chain := {}
  power : Power := {}
  boot : Boot := {}
  oasis : Oasis := {}
  flash : Flash := {}
  regs : Regs := {}
  sec : Sec := {}
  dbg : Dbg := {}
  host : HostOut := {}
  free : Nat := 0
deriving DecidableEq, Repr

/-- The block with its queue of waiting commands, first in, first out. -/
structure State where
  part : Part := {}
  pending : List Instr := []
deriving DecidableEq, Repr

/-- How the machine can stop with a fault. (DESIGN CHOICE, log 4) -/
inductive Fault where
  /-- Raised by an event row that names a tile, a half, a port, a pin or a sensor that the part does not have (R1, R12): no such
  event can reach the part. Safe: the hardware has nothing that could raise it. -/
  | notFitted
deriving DecidableEq, Repr

/-- Why a command has no meaning. -/
inductive Refusal where
  /-- Raised by an arm of `exec` whose meaning has not been written. Safe: nothing can be proved of the command. -/
  | notModelled (mnemonic : String)
deriving DecidableEq, Repr

/-- The machine right after the release of a reset of scope POWER: the boot ROM has not yet searched for an image
(R456, R457); every other field is the default that its structure gives. (DESIGN CHOICE, log 1 and 3) -/
def State.reset : State := {}

end Sys2Proof.Machine
end

