-- ==== Sys2Proof/Machine/Operands.lean ====
section
/-! DEFINITION. Operand forms: the statuses of Table HIF-7, the all-ones defaults of R328, the class, lead and opcode of each
command (Tables HIF-8 and HTM-3), and what a command names. -/

namespace Sys2Proof.Machine

/-! ## Completion statuses (Table HIF-7, R332) -/

abbrev stOk : Nat := 0x00
abbrev stBusy : Nat := 0x01
abbrev stBadParam : Nat := 0x02
abbrev stNoCapacity : Nat := 0x03
abbrev stNoContext : Nat := 0x04
abbrev stCoefBusy : Nat := 0x05
abbrev stPrepareFail : Nat := 0x06
abbrev stLate : Nat := 0x07
abbrev stFenced : Nat := 0x08
abbrev stFrameTooLong : Nat := 0x09
abbrev stQuarantined : Nat := 0x0A
abbrev stPartial : Nat := 0x0B
abbrev stUnsupported : Nat := 0x0C
abbrev stAborted : Nat := 0x0D

/-- Ticks of an HT second (R40). -/
abbrev ticksPerSecond : Nat := 24576000

/-- The all-ones value of a field of `bytes` bytes selects the default (R328). (DESIGN CHOICE / DEDUCED, log 19) -/
def orDefault (bytes default v : Nat) : Nat := if v = 2 ^ (8 * bytes) - 1 then default else v

/-- The first failing check of an ordered list, or ST_OK. -/
def firstStatus : List (Bool × Nat) → Nat
  | [] => stOk
  | (bad, st) :: rest => if bad then st else firstStatus rest

/-- Classes of Table HTM-3. -/
inductive Class where
  | accessory | plan | half | context | filter | reset | close | calibration | flow | audio | kite
deriving DecidableEq, Repr

/-- Position in the order of Table HTM-4. -/
def Class.order : Class → Nat
  | .accessory => 1
  | .plan => 2
  | .half => 2
  | .context => 3
  | .filter => 4
  | .reset => 5
  | .close => 6
  | .calibration => 7
  | .flow => 8
  | .audio => 9
  | .kite => 10

/-- The lead of a class in ticks (Table HTM-3), apart from AUDIO_PORT_START. -/
def Class.lead : Class → Nat
  | .accessory => 512
  | .plan => 24576
  | .flow => 1024
  | _ => 2048

/-- The opcode of a command (Table HIF-8). -/
def opcodeOf : HostCmd → Nat
  | .nop => 0x01
  | .identify => 0x02
  | .halfSetupMode _ _ _ => 0x10
  | .halfSetupLeveller _ _ => 0x10
  | .halfSetupAntpwr _ _ => 0x10
  | .halfSetupExtGain _ _ => 0x10
  | .accGpio _ _ => 0x10
  | .accI2c _ _ => 0x10
  | .planPrepare _ _ => 0x11
  | .planCommit _ => 0x12
  | .planAbort _ => 0x13
  | .ctxOpen _ => 0x20
  | .ctxRetune _ => 0x21
  | .ctxClose _ => 0x22
  | .ctxQuery _ => 0x23
  | .ctxWatch _ => 0x24
  | .coefLoad _ _ _ _ => 0x28
  | .coefSwap _ _ => 0x29
  | .syncArmJoin _ _ => 0x2A
  | .syncArmLeave _ => 0x2A
  | .syncArmReset _ _ _ => 0x2A
  | .armSyncin _ _ _ _ => 0x2A
  | .disarm _ => 0x2A
  | .svcSelect _ => 0x30
  | .svcDeselect _ => 0x30
  | .svcLinkCreate _ _ _ => 0x31
  | .svcLinkAdd _ _ => 0x31
  | .svcLinkRemove _ _ _ => 0x31
  | .svcLinkDelete _ => 0x31
  | .svcLinkQuery _ => 0x31
  | .svcFollowSet _ => 0x32
  | .svcFollowClear _ => 0x32
  | .dbConfig _ _ _ => 0x32
  | .dbDump => 0x32
  | .scan _ => 0x32
  | .flowCreate _ => 0x40
  | .flowBind _ _ => 0x41
  | .flowShape _ _ _ _ => 0x42
  | .flowDelete _ => 0x43
  | .timeshiftSet _ _ _ => 0x44
  | .captureStart _ _ _ _ => 0x48
  | .captureStop _ => 0x49
  | .kiteConfig _ _ => 0x50
  | .kiteSessionOpen _ _ _ _ => 0x51
  | .kiteSessionClose _ => 0x51
  | .kiteSessionUpdate _ _ _ => 0x51
  | .kiteSessionFlush _ => 0x51
  | .kiteSend _ _ _ _ => 0x52
  | .kiteBudget _ _ _ _ => 0x53
  | .audioPortConfig _ => 0x58
  | .audioPortStart _ => 0x59
  | .audioPortStop _ => 0x5A
  | .calPolicy _ _ _ _ => 0x60
  | .calRun _ => 0x61
  | .clockConfig _ => 0x68
  | .chainEnumerate _ _ => 0x70
  | .chainRollcall => 0x71
  | .chainSend _ _ => 0x72
  | .eventRouteSources _ _ _ _ => 0x78
  | .eventRouteVector _ _ _ => 0x78
  | .fwLoadStage _ _ => 0x7E
  | .fwLoadActivate => 0x7E

/-- The class of a schedulable command (Table HTM-3); `none` for a command that accepts only at = 0 (R50). -/
def classOf : HostCmd → Option Class
  | .halfSetupMode _ _ _ => some .half
  | .halfSetupLeveller _ _ => some .half
  | .halfSetupAntpwr _ _ => some .half
  | .halfSetupExtGain _ _ => some .half
  | .accGpio _ _ => some .accessory
  | .accI2c _ _ => some .accessory
  | .planCommit _ => some .plan
  | .ctxOpen _ => some .context
  | .ctxRetune _ => some .context
  | .ctxWatch _ => some .context
  | .svcSelect _ => some .context
  | .svcDeselect _ => some .context
  | .ctxClose _ => some .close
  | .coefLoad _ _ _ _ => some .filter
  | .coefSwap _ _ => some .filter
  | .syncArmJoin _ _ => some .reset
  | .syncArmLeave _ => some .reset
  | .syncArmReset _ _ _ => some .reset
  | .armSyncin _ _ _ _ => some .reset
  | .disarm _ => some .reset
  | .flowBind _ _ => some .flow
  | .flowShape _ _ _ _ => some .flow
  | .timeshiftSet _ _ _ => some .flow
  | .captureStart _ _ _ _ => some .flow
  | .captureStop _ => some .flow
  | .kiteConfig _ _ => some .kite
  | .kiteSessionOpen _ _ _ _ => some .kite
  | .kiteSessionClose _ => some .kite
  | .kiteSessionUpdate _ _ _ => some .kite
  | .kiteSessionFlush _ => some .kite
  | .kiteSend _ _ _ _ => some .kite
  | .kiteBudget _ _ _ _ => some .kite
  | .audioPortStart _ => some .audio
  | .audioPortStop _ => some .audio
  | .calRun _ => some .calibration
  | _ => none

/-- Position of a command in the order of Table HTM-4 (0 for one that is never scheduled). -/
def cmdOrder (c : HostCmd) : Nat := (classOf c).elim 0 Class.order

/-- Commands that require a result block (Table HIF-8). -/
def needsBlock : HostCmd → Bool
  | .identify => true
  | .ctxQuery _ => true
  | .chainRollcall => true
  | .accI2c _ p => decide (4 < p.rlen)
  | _ => false

/-- The context slots that a command names (R57, R339). -/
def ctxsOf : HostCmd → List Nat
  | .ctxOpen p => [p.ctx]
  | .ctxWatch p => [p.ctx]
  | .ctxRetune p => [p.ctx]
  | .ctxClose c => [c]
  | .ctxQuery c => [c]
  | .coefLoad c _ _ _ => [c]
  | .coefSwap c _ => [c]
  | .syncArmJoin _ c => [c]
  | .syncArmLeave c => [c]
  | .svcSelect p => [p.ctx]
  | .svcDeselect p => [p.ctx]
  | _ => []

/-- The halves that a command names itself, apart from the halves of its contexts (R57). -/
def halvesOf : HostCmd → List Nat
  | .halfSetupMode h _ _ => [h]
  | .halfSetupLeveller h _ => [h]
  | .halfSetupAntpwr h _ => [h]
  | .halfSetupExtGain h _ => [h]
  | .calRun h => if h < 16 then [h] else []
  | _ => []

/-- An open that has not executed holds a slot (R171). -/
def isOpen : HostCmd → Bool
  | .ctxOpen _ => true
  | .ctxWatch _ => true
  | _ => false

/-- The host command that a plan entry stands for (R337); a TILE_PLAN and an entry of another kind stand for none. -/
def entryCmd : PlanEntry → Option HostCmd
  | .tilePlan _ _ => none
  | .halfMode h m i => some (.halfSetupMode h m i)
  | .leveller h p => some (.halfSetupLeveller h p)
  | .antpwr h s => some (.halfSetupAntpwr h s)
  | .extGain h g => some (.halfSetupExtGain h g)
  | .ctxOpen p => some (.ctxOpen p)
  | .ctxWatch p => some (.ctxWatch p)
  | .ctxRetune p => some (.ctxRetune p)
  | .ctxClose c => some (.ctxClose c)
  | .select p => some (.svcSelect p)
  | .deselect p => some (.svcDeselect p)
  | .coefSwap c x => some (.coefSwap c x)
  | .syncReset g s p => some (.syncArmReset g s p)
  | .other _ => none

/-- The contexts that a plan entry names. -/
def entryCtxs (e : PlanEntry) : List Nat := (entryCmd e).elim [] ctxsOf

/-- The halves whose mode or leveller a plan entry sets (R339). -/
def entryHalves : PlanEntry → List Nat
  | .halfMode h _ _ => [h]
  | .leveller h _ => [h]
  | _ => []

/-- The tiles that a plan entry switches. -/
def entryTiles : PlanEntry → List Nat
  | .tilePlan t _ => [t]
  | _ => []

/-- The commands that a lock refuses when they name a locked context (R339). -/
def lockable : HostCmd → Bool
  | .ctxRetune _ => true
  | .ctxClose _ => true
  | .svcSelect _ => true
  | .svcDeselect _ => true
  | .coefLoad _ _ _ _ => true
  | .coefSwap _ _ => true
  | .syncArmJoin _ _ => true
  | .syncArmLeave _ => true
  | _ => false

/-- The halves whose lock refuses a command (R339): functions MODE and LEVELLER. -/
def lockHalves : HostCmd → List Nat
  | .halfSetupMode h _ _ => [h]
  | .halfSetupLeveller h _ => [h]
  | _ => []

/-! ## Contexts, halves, tiles (R10) -/

/-- The half that holds a context ID (R10). -/
def ctxHalf (ctx : Nat) : Nat := ctx / 64

/-- The partner half on the same tile. -/
def partner (h : Nat) : Nat := if h % 2 = 0 then h + 1 else h - 1

/-- The tile of a half. -/
def halfTile (h : Nat) : Nat := h / 2

/-- Code of the HT state (Table HIF-9). -/
def HtState.code : HtState → Nat
  | .locked => 0
  | .follow => 1
  | .coast => 2
  | .free => 3

/-- Code of the HT source (Table HIF-9). -/
def HtSource.code : HtSource → Nat
  | .loc => 0
  | .chain => 1
  | .free => 2

end Sys2Proof.Machine
end

