-- ==== Sys2Proof/Machine/Ops.lean ====
section
/-! DEFINITION. The shared operations: tables, house time, events (R346-R350), completions (R329-R331), acceptance of a
command (R326) and the scheduled-action queue (R50-R58). -/

namespace Sys2Proof.Machine

/-! ## Tables keyed by number, in rising order of the key -/

/-- The entry of key `k`. -/
def look {α : Type} (k : Nat) : List (Nat × α) → Option α
  | [] => none
  | (j, a) :: rest => if j = k then some a else look k rest

/-- Whether key `k` has an entry. -/
def has {α : Type} (k : Nat) (l : List (Nat × α)) : Bool := (look k l).isSome

/-- The table with key `k` set to `a`. -/
def put {α : Type} (k : Nat) (a : α) : List (Nat × α) → List (Nat × α)
  | [] => [(k, a)]
  | (j, b) :: rest => if k < j then (k, a) :: (j, b) :: rest else if k = j then (k, a) :: rest else (j, b) :: put k a rest

/-- The table without key `k`. -/
def erase {α : Type} (k : Nat) (l : List (Nat × α)) : List (Nat × α) := l.filter fun e => decide (e.1 ≠ k)

/-- The table with the entry of key `k`, if any, changed by `f`. -/
def change {α : Type} (k : Nat) (f : α → α) (l : List (Nat × α)) : List (Nat × α) :=
  l.map fun e => if e.1 = k then (e.1, f e.2) else e

/-! ## Running a meaning -/

/-- A meaning that always answers a next state: the part changed by `f`, the queue untouched. (DESIGN CHOICE, log 11) -/
def State.run (f : Part → Part) (s : State) : Host.Outcome State Fault Refusal := .next { s with part := f s.part }

/-- A meaning of an event that can only come from something fitted. (DESIGN CHOICE, log 4) -/
def State.runIf (fitted : Bool) (f : Part → Part) (s : State) : Host.Outcome State Fault Refusal :=
  if fitted then s.run f else .fault .notFitted

/-! ## House time -/

/-- HT moves forward to `t`, one count per tick (R40). (DESIGN CHOICE, log 9) -/
def advance (t : Nat) (m : Part) : Part :=
  { m with clock := { m.clock with
      ht := max m.clock.ht t, elapsed := m.clock.elapsed + (t - m.clock.ht) } }

/-- An event row: it happens on tick `t`. (DESIGN CHOICE, log 9 and 11 and 12) -/
def onTick (t : Nat) (f : Part → Part) (m : Part) : Part := f (advance t m)

/-- The integer square root of `n`, from the bits below 2^k. -/
def isqrtBits (n : Nat) : Nat → Nat → Nat
  | 0, r => r
  | k + 1, r => isqrtBits n k (if (r + 2 ^ k) * (r + 2 ^ k) ≤ n then r + 2 ^ k else r)

/-- The integer square root of a number below 2^128. -/
def isqrt (n : Nat) : Nat := isqrtBits n 64 0

/-! ## The frequency offset of HT (R64) -/

/-- A rate of 5 ppm per second over a number of ticks, in ppb. -/
def rampPpb (ticks : Nat) : Nat := 5000 * ticks / ticksPerSecond

/-- The frequency offset of a slew on an elapsed tick, in ppb (R64). -/
def Slew.offset (s : Slew) (e : Nat) : Int :=
  let d := e - s.since
  if d < s.up then
    if s.from_ ≤ s.peak then min s.peak (s.from_ + rampPpb d) else max s.peak (s.from_ - rampPpb d)
  else if d < s.up + s.flat then s.peak
  else if d < s.up + s.flat + s.down then
    let gone := rampPpb (d - s.up - s.flat)
    if 0 ≤ s.peak then max 0 (s.peak - gone) else min 0 (s.peak + gone)
  else 0

/-- The frequency offset that HT runs with on an elapsed tick, in ppb: the slew's and the phase term's (R64). -/
def freqOffset (e : Nat) (m : Part) : Int :=
  m.clock.slew.elim 0 (fun x => x.offset e)
    + m.clock.phaseTerm.elim 0 fun p => if p.since ≤ e ∧ e < p.until_ then p.offset else 0

/-! ## Grids of ticks -/

/-- τ = HT − G (R148). -/
def tau (m : Part) : Int := (m.clock.ht : Int) - m.clock.grid

/-- The elapsed tick of a tick of HT that lies ahead. (DESIGN CHOICE, log 9) -/
def elapsedOf (ht : Nat) (m : Part) : Nat := m.clock.elapsed + (ht - m.clock.ht)

/-- The HT that an elapsed tick has, counted from the present (R133). (DESIGN CHOICE, log 9) -/
def htOf (elapsed : Nat) (m : Part) : Nat :=
  (((m.clock.ht : Int) + (elapsed : Int) - (m.clock.elapsed : Int))).toNat

/-- The multiple of `k` in τ at or after the present, in elapsed ticks. -/
def gridTick (k : Nat) (m : Part) : Nat := m.clock.elapsed + ((-(tau m)) % (k : Int)).toNat

/-- A tick of the present second has an HT seconds boundary (R41). -/
def onSecond (m : Part) : Bool := decide (m.clock.ht % ticksPerSecond = 0)

/-! ## What is fitted -/

/-- Tiles fitted (Table SCO-1). -/
def tilesFitted (m : Part) : Nat :=
  match m.ident.variant with
  | .bh2820 => 2
  | .bh2840 => 4
  | .bh2880 => 8

/-- Halves fitted. -/
def halvesFitted (m : Part) : Nat := 2 * tilesFitted m

/-- The half `h` (an unfitted or unknown half reads as a half after reset). -/
def half (h : Nat) (m : Part) : Half := m.halves.getD h {}

/-- Change the half `h`. -/
def onHalf (h : Nat) (f : Half → Half) (m : Part) : Part := { m with halves := m.halves.modify h f }

/-- The tile `t`. -/
def tile (t : Nat) (m : Part) : Tile := m.tiles.getD t {}

/-- Change the tile `t`. -/
def onTile (t : Nat) (f : Tile → Tile) (m : Part) : Part := { m with tiles := m.tiles.modify t f }

/-- The modes of a pair (R25). -/
def HalfMode.paired : HalfMode → Bool
  | .combine => true
  | .standby => true
  | _ => false

/-- Half A of the tile of `h`. -/
def halfA (h : Nat) : Nat := 2 * (h / 2)

/-- Half B of the tile of `h`. -/
def halfB (h : Nat) : Nat := 2 * (h / 2) + 1

/-- The tile of `h` is paired (R25): one of its halves is in a mode of a pair. -/
def paired (h : Nat) (m : Part) : Bool := (half (halfA h) m).mode.paired || (half (halfB h) m).mode.paired

/-- The tile of `h` is a SHARED pair. -/
def sharedPair (h : Nat) (m : Part) : Bool := paired h m && !(half (halfA h) m).diversity

/-- `h` is half B of a paired tile (R26). -/
def pairedB (h : Nat) (m : Part) : Bool := decide (h % 2 = 1) && paired h m

/-- The context in a slot. -/
def ctx (c : Nat) (m : Part) : Option Ctx := look c m.ctxs

/-- A chain that bin samples have reached takes note of a new setting, for the samples from elapsed tick `s.since` on. -/
def Path.note (s : PathSet) (p : Path) : Path :=
  let last := p.ops.getLast?.or p.set
  if !p.fed || (!s.zero && last.any fun l => decide ({ l with since := 0, zero := false } = { s with since := 0, zero := false })) then p
  else { p with ops := p.ops ++ [s] }

/-- The setting of a copy's chain at elapsed tick `now`. -/
def Ctx.pathSet (now : Nat) (zero : Bool) (x : Ctx) (c : CopyState) : PathSet :=
  { since := now, zero := zero, zeros := c.holds.contains .calibration, cfg := x.cfg, chain := x.chain }

/-- What a change of a context means to its copies' chains: each takes note of it. -/
def Ctx.notePath (now : Nat) (old new : Ctx) : Ctx :=
  let zero := decide ((old.chain.zeroed, old.chain.phase) ≠ (new.chain.zeroed, new.chain.phase))
  let note (c : CopyState) : CopyState := { c with path := c.path.note (new.pathSet now zero c) }
  { new with a := note new.a, b := new.b.map note }

/-- Change an open context. -/
def onCtx (c : Nat) (f : Ctx → Ctx) (m : Part) : Part :=
  { m with ctxs := change c (fun x => Ctx.notePath m.clock.elapsed x (f x)) m.ctxs }

/-- The halves that run a context: its own, and half B too in a pair (R27). -/
def ctxHalves (c : Nat) (m : Part) : List Nat :=
  if paired (ctxHalf c) m then [halfA (ctxHalf c), halfB (ctxHalf c)] else [ctxHalf c]

/-- The open contexts that run on half `h`. -/
def ctxsOn (h : Nat) (m : Part) : List Nat :=
  (m.ctxs.map (·.1)).filter fun c => (ctxHalves c m).contains h

/-- The open contexts of tile `t`. -/
def ctxsOfTile (t : Nat) (m : Part) : List Nat :=
  (m.ctxs.map (·.1)).filter fun c => decide (halfTile (ctxHalf c) = t)

/-! ## The chain address -/

/-- This part's own chain address; 0 while it holds none (R426). -/
def ownAddr (m : Part) : Nat := m.chain.addr.getD 0

/-- The part is the head, or a chain of one (R426). -/
def isHead (m : Part) : Bool := decide (ownAddr m = 0)

/-- The part's host interface is secondary (R429). -/
def secondary (m : Part) : Bool := !isHead m

/-- No break on the way from `a` to `b` along the addresses (R430, R431). -/
def directClear (a b : Nat) (m : Part) : Bool := m.chain.breaks.all fun k => decide (k < min a b ∨ max a b ≤ k)

/-- No break on the other way round a ring. -/
def aroundClear (a b : Nat) (m : Part) : Bool :=
  m.chain.ring && m.chain.breaks.all fun k => decide (min a b ≤ k ∧ k < max a b)

/-- Working links join `a` to `b` (R433). -/
def joined (a b : Nat) (m : Part) : Bool := directClear a b m || aroundClear a b m

/-- Hops from `a` to `b` along the addresses. -/
def directHops (a b : Nat) : Nat := max a b - min a b

/-- The current route from this part to `a` runs the other way round the ring: it is the only one, or the shorter, or of two equal ones
that by UP (R430). -/
def goesAround (a : Nat) (m : Part) : Bool :=
  let here := ownAddr m
  let direct := directHops here a
  let around := m.chain.parts - direct
  aroundClear here a m
    && (!directClear here a m || decide (around < direct) || decide (around = direct ∧ here < a))

/-- Hops to address `a` on the current routes (R430). (DESIGN CHOICE, log 52) -/
def hopsTo (a : Nat) (m : Part) : Nat :=
  let direct := directHops (ownAddr m) a
  if goesAround a m then m.chain.parts - direct else direct

/-- The ring code of Table TET-3: 0 open, 1 ring closed, 2 ring closed with a break. -/
def ringCode (m : Part) : Nat := if !m.chain.ring then 0 else if m.chain.breaks.isEmpty then 1 else 2

/-! ## Writes to host memory (R319, R323) -/

/-- A write by DMA. (DESIGN CHOICE, log 60) -/
def writeHost (addr : Nat) (bytes : List Byte) (m : Part) : Part :=
  { m with host := { m.host with writes := .dma addr bytes :: m.host.writes } }

/-- A write of a field of the shadow page (Table HIF-3). (DESIGN CHOICE, log 60) -/
def writeShadow (off size v : Nat) (m : Part) : Part := writeHost (m.hif.shadowPage + off) (leBytes size v) m

/-- The address of entry `i` of a ring (R316). -/
def entryAddr (base log2 size i : Nat) : Nat := base + size * (i % 2 ^ log2)

/-- The 32-byte image of an event (R346). -/
def eventBytes (e : Event) : List Byte :=
  packFields 32 ([⟨0, 2, e.source⟩, ⟨2, 2, e.origin⟩, ⟨4, 1, e.code⟩, ⟨6, 2, e.seq⟩, ⟨8, 8, e.stamp⟩]
    ++ e.payload.map fun f => { f with off := f.off + 16 })

/-- The fields of a target list from offset `off` (R329). -/
def targetFields (off : Nat) : List Target → List Field
  | [] => []
  | t :: rest => ⟨off, 1, t.kind⟩ :: ⟨off + 1, 1, t.status⟩ :: ⟨off + 2, 2, t.id⟩ :: ⟨off + 4, 4, t.detail⟩ :: targetFields (off + 8) rest

/-- The image of a result block (R329). -/
def blockBytes (b : ResultBlock) : List Byte :=
  packFields b.bytes ([⟨0, 4, b.bytes⟩, ⟨4, 2, b.targets.length⟩, ⟨6, 2, b.opcode⟩] ++ b.body
    ++ targetFields (b.bytes - 8 * b.targets.length) b.targets)

/-- The 16-byte image of a completion (Table HIF-6). -/
def completionBytes (c : Completion) : List Byte :=
  packFields 16 [⟨0, 2, c.tag⟩, ⟨2, 1, c.opcode⟩, ⟨3, 1, c.status⟩, ⟨4, 4, c.execHt⟩, ⟨8, 4, c.result⟩, ⟨12, 2, c.src + 1024 * c.ring⟩,
    ⟨14, 1, (if c.block.isSome then 1 else 0) + (if c.trunc then 2 else 0)⟩]

/-! ## MSI-X (R350) -/

/-- The vector `v`. (PRESUMED, log 6) -/
def vector (v : Nat) (m : Part) : Vector := (look v m.hif.vectors).getD {}

/-- Change the vector `v`. -/
def setVector (v : Nat) (x : Vector) (m : Part) : Part :=
  { m with hif := { m.hif with vectors := put v x m.hif.vectors } }

/-- The message of vector `v` goes. (DESIGN CHOICE, log 60) -/
def sendMsix (v : Nat) (m : Part) : Part :=
  { m with host := { m.host with writes := .msix v :: m.host.writes, messages := v :: m.host.messages } }

/-- Send the vector's message, or set its pending bit while it is masked. (PRESUMED, log 6, DESIGN CHOICE, log 60) -/
def sendVector (v : Nat) (m : Part) : Part :=
  let x := vector v m
  let m := setVector v { x with triggers := 0, since := none, pba := x.masked } m
  if x.masked then m else sendMsix v m

/-- A shadow write that triggers vector `v` (255 none): the message goes once N triggers are pending, or at once when the
holdoff is 0. -/
def trigger (v : Nat) (m : Part) : Part :=
  if 64 ≤ v then m
  else
    let x := vector v m
    let x := { x with triggers := x.triggers + 1, since := some (x.since.getD m.clock.elapsed) }
    let m := setVector v x m
    if x.holdoff = 0 ∨ x.count ≤ x.triggers then sendVector v m else m

/-! ## Chain transfers (R432) -/

/-- Send an item to another part and keep it until it is acknowledged. (DEDUCED, log 51, DESIGN CHOICE, log 52) -/
def send (dest : Nat) (item : TransferItem) (m : Part) : Part :=
  { m with chain := { m.chain with
      transfers := m.chain.transfers ++ [{ seq := m.chain.nextSeq, dest := dest, item := item }],
      nextSeq := m.chain.nextSeq + 1 } }

/-! ## Events (R346-R349) -/

/-- Entries that a ring of 2^log2 entries holds between two free-running indices (R316). -/
def ringUsed (prod cons : Nat) : Nat := (prod + 2 ^ 32 - cons) % 2 ^ 32

/-- The event ring can take an entry (R324). -/
def evqOpen (m : Part) : Bool :=
  m.hif.enable && !m.hif.evq.stopped && decide (0 < m.hif.evq.log2)
    && decide (ringUsed m.hif.evq.prod m.hif.evq.cons < 2 ^ m.hif.evq.log2)

/-- Write an event into the event ring, then evt_prod, and signal its vector (R323). (DESIGN CHOICE, log 60) -/
def writeEvent (e : Event) (vec : Nat) (m : Part) : Part :=
  let q := m.hif.evq
  let prod := (q.prod + 1) % 2 ^ 32
  let m := writeShadow 0x20 4 prod (writeHost (entryAddr q.base q.log2 32 q.prod) (eventBytes e) m)
  trigger vec { m with
    hif := { m.hif with evq := { m.hif.evq with prod := prod } },
    host := { m.host with events := e :: m.host.events } }

/-- An event for this part's event ring: written, held up to 1024, or dropped and counted (R347). -/
def postEvent (e : Event) (vec : Nat) (m : Part) : Part :=
  if m.hif.evq.held.isEmpty && decide (m.hif.evq.dropped = 0) && evqOpen m then writeEvent e vec m
  else if m.hif.evq.held.length < 1024 ∧ m.hif.evq.dropped = 0 then
    { m with hif := { m.hif with evq := { m.hif.evq with held := m.hif.evq.held ++ [(e, vec)] } } }
  else { m with hif := { m.hif with evq := { m.hif.evq with dropped := m.hif.evq.dropped + 1 } } }

/-- The routing of a source (R349): the ring and vector 0 after a reset. -/
def route (source : Nat) (m : Part) : Route := (look source m.hif.routes).getD {}

/-- The Oasis event log (Table PWR-7): sources 0 to 63 and EV_HALF_FENCED, the last 64, newest first. -/
def logEvent (e : Event) (m : Part) : Part :=
  if e.source < 64 ∨ e.code = 0x8F then
    { m with oasis := { m.oasis with log := (e :: m.oasis.log).take 64, logHead := (m.oasis.logHead + 1) % 2 ^ 32 } }
  else m

/-- Raise an event stamped `stamp`: log it, route it, number it, and send it to the chain head's event ring. -/
def raiseAt (stamp source code : Nat) (payload : List Field) (m : Part) : Part :=
  let r := route source m
  let e : Event :=
    { source := source, origin := ownAddr m, code := code, seq := m.hif.evq.seq, stamp := stamp, payload := payload }
  let m := logEvent e m
  if r.toRing then
    let m := { m with hif := { m.hif with evq := { m.hif.evq with seq := (m.hif.evq.seq + 1) % 65536 } } }
    if isHead m ∨ code = 0x22 then postEvent e r.vector m else send 0 (.event e r.vector) m
  else m

/-- Raise an event stamped with the present tick (R59). -/
def raise (source code : Nat) (payload : List Field) (m : Part) : Part := raiseAt m.clock.ht source code payload m

/-- The source number of event `k` of half `h` (Table HIF-13). -/
def halfSource (h k : Nat) : Nat := 256 + 16 * h + k

/-- Write the held events, in order, while the ring has space; then EV_EVENT_OVERFLOW when some were dropped (R347). -/
def drainEvents : Nat → Part → Part
  | 0, m => m
  | fuel + 1, m =>
    if evqOpen m then
      match m.hif.evq.held with
      | (e, vec) :: rest =>
        drainEvents fuel (writeEvent e vec
          { m with hif := { m.hif with evq := { m.hif.evq with held := rest } } })
      | [] =>
        if m.hif.evq.dropped = 0 then m
        else
          let n := m.hif.evq.dropped
          raise 67 0x33 [⟨0, 4, n⟩] { m with hif := { m.hif with evq := { m.hif.evq with dropped := 0 } } }
    else m

/-! ## Completions (R329-R331) -/

/-- A piece of a result body that is written whole or not at all (R329). -/
structure Chunk where
  bytes : Nat
  fields : List Field
deriving DecidableEq, Repr

/-- What a command answers: its status, result word, body and target list, and the tick it took effect on. -/
structure Reply where
  status : Nat
  result : Nat := 0
  chunks : List Chunk := []
  targets : List Target := []
  execHt : Option Nat := none
deriving DecidableEq, Repr

/-- As many whole chunks as fit, with their fields placed one after the other from offset `off`. -/
def fitChunks (room off : Nat) : List Chunk → List Field × Nat × Bool
  | [] => ([], off, true)
  | c :: rest =>
    if off + c.bytes ≤ room then
      let (fs, e, ok) := fitChunks room (off + c.bytes) rest
      (c.fields.map (fun f => { f with off := f.off + off }) ++ fs, e, ok)
    else ([], off, false)

/-- The result block of a reply, and whether it was truncated (R329). -/
def resultBlock (d : Desc) (opcode : Nat) (r : Reply) : Option ResultBlock × Bool :=
  if d.res && decide (0 < d.resSize) && !(r.chunks.isEmpty && r.targets.isEmpty) then
    let room := 64 * d.resSize
    let (fs, e, ok) := fitChunks room 8 r.chunks
    let n := if ok then min r.targets.length ((room - e) / 8) else 0
    (some { opcode := opcode, bytes := e + 8 * n, body := fs, targets := r.targets.take n, addr := d.resAddr },
      !(ok && decide (n = r.targets.length)))
  else (none, false)

/-- A completion ring can take an entry (R324). -/
def cplOpen (r : CplRing) : Bool :=
  !r.stopped && decide (0 < r.log2) && decide (ringUsed r.prod r.cons < 2 ^ r.log2)

/-- The completion ring `n`. -/
def cplRing (n : Nat) (m : Part) : CplRing := m.hif.cplq.getD n {}

/-- Change the completion ring `n`. -/
def onCpl (n : Nat) (f : CplRing → CplRing) (m : Part) : Part :=
  { m with hif := { m.hif with cplq := m.hif.cplq.modify n f } }

/-- Write a completion to its ring: its result block, the entry, cpl_prod; then signal the ring's vector and ask for a doorbell fetch
(R320, R323, R350). (DESIGN CHOICE, log 60) -/
def writeCompletion (c : Completion) (m : Part) : Part :=
  let q := cplRing c.ring m
  let v := q.vector
  let prod := (q.prod + 1) % 2 ^ 32
  let m := c.block.elim m fun b => writeHost b.addr (blockBytes b) m
  let m := writeShadow (0x10 + 4 * c.ring) 4 prod (writeHost (entryAddr q.base q.log2 16 q.prod) (completionBytes c) m)
  let m := onCpl c.ring (fun r => { r with prod := prod }) m
  trigger v { m with
    host := { m.host with completions := c :: m.host.completions }, hif := { m.hif with fetchAgain := true } }

/-- A completion for one of this part's rings: written, or held while the ring is full or stopped (R324). -/
def postCompletion (c : Completion) (m : Part) : Part :=
  let r := cplRing c.ring m
  if m.hif.enable && r.held.isEmpty && cplOpen r then writeCompletion c m
  else onCpl c.ring (fun r => { r with held := r.held ++ [c] }) m

/-- Write the held completions of ring `n`, in order, while the ring has space. -/
def drainCompletions (n : Nat) : Nat → Part → Part
  | 0, m => m
  | fuel + 1, m =>
    let r := cplRing n m
    match r.held with
    | c :: rest =>
      if m.hif.enable && cplOpen r then
        drainCompletions n fuel (writeCompletion c (onCpl n (fun r => { r with held := rest }) m))
      else m
    | [] => m

/-- A late action that has executed (R56). -/
def Origin.isLate : Origin → Bool
  | .late _ => true
  | _ => false

/-- Another part issued the command. -/
def Origin.isRemote : Origin → Bool
  | .ring => false
  | .remote _ _ => true
  | .late o => o.isRemote

/-- Complete a command: its completion goes to the ring that issued it, over the chain when another part issued it
(R327, R330). A late action that executed as asked completes with ST_LATE (R56). -/
def finish (d : Desc) (origin : Origin) (opcode : Nat) (r : Reply) (m : Part) : Part :=
  let (blk, trunc) := resultBlock d opcode r
  let ht := r.execHt.getD m.clock.ht % 2 ^ 32
  let c : Completion :=
    { ring := d.ring, tag := d.tag, opcode := opcode, status := if origin.isLate ∧ r.status = stOk then stLate else r.status,
      execHt := ht, result := r.result,
      src := ownAddr m, trunc := trunc, block := blk }
  if origin.isRemote then send 0 (.completion c) m else postCompletion c m

/-! ## Locks of prepared plans (R339) -/

/-- A plan's targets are locked against the command. -/
def lockedBy (c : HostCmd) (p : Plan) : Bool :=
  (lockable c && (ctxsOf c).any fun x => p.entries.any fun e => (entryCtxs e).contains x)
    || (lockHalves c).any fun h => p.entries.any fun e => (entryHalves e).contains h

/-- A prepared plan locks a target of the command. -/
def locked (c : HostCmd) (m : Part) : Bool := m.plans.any fun p => lockedBy c p.2

/-! ## The scheduled-action queue (R50-R58) -/

/-- The lead of a command in ticks (Table HTM-3). (DESIGN CHOICE, log 52) -/
def leadOf (c : HostCmd) (m : Part) : Nat :=
  match c with
  | .audioPortStart p => 512 * (((m.ports.getD p {}).cfg.elim 0 PortCfg.clkLead)) + 2048
  | _ => (classOf c).elim 0 Class.lead

/-- Take a queue entry, and raise EV_SCHED_HIGH when the occupied entries rise to 896 (R53). -/
def enqueue (due : Nat) (late : Bool) (d : Desc) (origin : Origin) (c : HostCmd) (m : Part) : Part :=
  let m := { m with sched := { m.sched with
    queue := m.sched.queue ++
      [{ order := m.sched.nextOrder, due := due, late := late, desc := d, origin := origin, cmd := c }],
    nextOrder := m.sched.nextOrder + 1 } }
  if 896 ≤ m.sched.queue.length ∧ !m.sched.high then
    raise 64 0x30 [⟨0, 2, m.sched.queue.length⟩] { m with sched := { m.sched with high := true } }
  else m

/-- Keep only the queue entries that `p` keeps, and re-arm EV_SCHED_HIGH below 768 (R53). -/
def keepQueue (p : Action → Bool) (m : Part) : Part :=
  let q := m.sched.queue.filter p
  { m with sched := { m.sched with queue := q, high := m.sched.high && decide (768 ≤ q.length) } }

/-- Complete a list of actions with one status, without effect. -/
def finishAll (status : Nat) : List Action → Part → Part
  | [], m => m
  | a :: rest, m => finishAll status rest (finish a.desc a.origin (opcodeOf a.cmd) { status := status } m)

/-- Withdraw the actions that `p` names, each completed with `status` (R57). -/
def withdraw (p : Action → Bool) (status : Nat) (m : Part) : Part :=
  finishAll status (m.sched.queue.filter p) (keepQueue (fun a => !p a) m)

/-! ## Acceptance (R326, R327, R429) -/

/-- What a command does when it executes: the part it leaves and, unless its work ends later, its reply. -/
abbrev Perform := Desc → Origin → Part → Part × Option Reply

/-- Execute a command at once and complete it. -/
def performNow (d : Desc) (origin : Origin) (c : HostCmd) (perform : Perform) (m : Part) : Part :=
  match perform d origin m with
  | (m, some r) => finish d origin (opcodeOf c) r m
  | (m, none) => m

/-- The latest `at` accepted: 2^42 ticks beyond the present (R54). -/
abbrev atLimit : Nat := 2 ^ 42

/-- A master port starts on a tick of the frame grid: the first at or after `tick` (R404, R408). -/
def portTick (c : HostCmd) (tick : Nat) (m : Part) : Nat :=
  match c with
  | .audioPortStart p =>
    if (m.ports.getD p {}).cfg.any fun g => !g.slave then tick + ((m.clock.grid - (tick : Int)) % 512).toNat else tick
  | _ => tick

/-- Checks 4 to 9 of Table HIF-5 on the executing part, and what follows a command that passes them. CAL_RUN and AUDIO_PORT_START
with at = 0 execute on the first tick of their lead (R134, R408). (DESIGN CHOICE, log 8) -/
def acceptHere (d : Desc) (origin : Origin) (late : Bool) (c : HostCmd) (own : Nat) (perform : Perform) (m : Part) : Part :=
  let refuse (st : Nat) : Part := finish d origin (opcodeOf c) { status := st } m
  let lead := leadOf c m
  if m.chain.quarantined then refuse stQuarantined
  else if d.due ≠ 0 ∧ ((classOf c).isNone ∨ m.clock.ht + atLimit < d.due) then refuse stBadParam
  else if needsBlock c ∧ (!d.res ∨ d.resSize = 0) then refuse stBadParam
  else if own ≠ stOk then refuse own
  else if locked c m then refuse stBusy
  else if d.due = 0 then
    match c with
    | .calRun _ =>
      if 1024 ≤ m.sched.queue.length then refuse stBusy else enqueue (m.clock.ht + lead) false d origin c m
    | .audioPortStart _ =>
      if 1024 ≤ m.sched.queue.length then refuse stBusy
      else enqueue (portTick c (m.clock.ht + lead) m) false d origin c m
    | _ => performNow d origin c perform m
  else if 1024 ≤ m.sched.queue.length then refuse stBusy
  else if late then enqueue (portTick c d.due m) true d origin c m
  else if d.due < m.clock.ht + lead then
    if d.strict then refuse stLate else enqueue (portTick c (m.clock.ht + lead) m) true d origin c m
  else enqueue d.due false d origin c m

/-- Commands that execute only on the part whose host sends them (R426, R440). (DEDUCED, log 51) -/
def localOnly : HostCmd → Bool
  | .chainEnumerate _ _ => true
  | .chainRollcall => true
  | _ => false

/-- Commands that a secondary interface accepts (R429). (DEDUCED, log 51) -/
def secondaryAllows : HostCmd → Bool
  | .nop => true
  | .identify => true
  | .chainSend _ _ => true
  | _ => false

/-- The status of the head's own checks of a forwarded command: orders 3 and 4 of Table HIF-5 and R433. -/
def forwardStatus (d : Desc) (c : HostCmd) (m : Part) : Nat :=
  let peer := (look d.dest m.chain.peers).getD {}
  let hop := 246 * hopsTo d.dest m
  firstStatus [
    (peer.quarantined, stQuarantined),
    (decide (d.due ≠ 0) && ((classOf c).isNone || decide (m.clock.ht + atLimit < d.due)), stBadParam),
    (needsBlock c && (!d.res || decide (d.resSize = 0)), stBadParam),
    (!joined (ownAddr m) d.dest m, stAborted),
    (decide (d.due ≠ 0) && d.strict && decide (d.due < m.clock.ht + leadOf c m + hop), stLate)]

/-- Forward a command to the part at its dest (R327), moved to the earliest tick of its lead when it is late (R55, R56). -/
def forward (d : Desc) (c : HostCmd) (m : Part) : Part :=
  let earliest := m.clock.ht + leadOf c m + 246 * hopsTo d.dest m
  let late := decide (d.due ≠ 0) && decide (d.due < earliest)
  let d' := if late then { d with due := earliest } else d
  let m := { m with chain := { m.chain with
    forwarded := m.chain.forwarded ++ [(d.dest, d, opcodeOf c)] } }
  send d.dest (.command d' late c) m

/-- The completion ring is full, so that its command ring is not read (R324). -/
def cplFull (r : CplRing) : Bool := !r.stopped && decide (2 ^ r.log2 ≤ ringUsed r.prod r.cons)

/-- The descriptor is read from its command ring, and cmd_cons passes it (R319, R320, R324): nothing is read while the interface is
disabled, the ring is not configured or stopped, or its completion ring is full. (DESIGN CHOICE, log 8) -/
def readDesc (d : Desc) (m : Part) : Option Part :=
  match m.hif.cmdq[d.ring]? with
  | none => none
  | some q =>
    if m.hif.enable && !q.stopped && decide (0 < q.log2) && !cplFull (cplRing d.ring m) then
      let cons := (q.cons + 1) % 2 ^ 32
      some (writeShadow (4 * d.ring) 4 cons { m with hif := { m.hif with
        cmdq := m.hif.cmdq.set d.ring { q with cons := cons, prod := if q.prod = q.cons then cons else q.prod } } })
    else none

/-- Acceptance of a command read from a command ring (R52, Table HIF-5). `own` is the status of the command's own checks.
(DESIGN CHOICE, log 8) -/
def accept (d : Desc) (c : HostCmd) (own : Part → Nat) (perform : Perform) (m : Part) : Part :=
  match readDesc d m with
  | none => m
  | some m =>
    if secondary m && !(secondaryAllows c && decide (d.dest = ownAddr m)) then
      finish d .ring (opcodeOf c) { status := stBusy } m
    else if !d.clean ∨ !d.readable ∨ m.chain.parts ≤ d.dest ∧ d.dest ≠ ownAddr m
        ∨ d.dest ≠ ownAddr m ∧ localOnly c then
      finish d .ring (opcodeOf c) { status := stBadParam } m
    else if d.dest = ownAddr m then acceptHere d .ring false c (own m) perform m
    else if forwardStatus d c m = stOk then forward d c m
    else finish d .ring (opcodeOf c) { status := forwardStatus d c m } m

/-- A fresh number for a free value. (DESIGN CHOICE, log 10) -/
def fresh (m : Part) : Nat × Part := (m.free, { m with free := m.free + 1 })

end Sys2Proof.Machine
end

