-- ==== Sys2Proof/Machine/Flags.lean ====
section
/-! DEFINITION. Record flags (Table FLW-3), and the intervals of HOLD and SETTLING from which they are computed (R166, R181,
R355). -/

namespace Sys2Proof.Machine

/-! ## Flag bits (Table FLW-3) -/

abbrev flagSettling : Nat := 1
abbrev flagDiscontinuity : Nat := 2
abbrev flagHold : Nat := 4
abbrev flagConcealed : Nat := 8
abbrev flagErased : Nat := 16
abbrev flagSlipped : Nat := 32
abbrev flagCombined : Nat := 64
abbrev flagBlended : Nat := 128

/-- A flag word with the flags of both. -/
def orFlags (a b : Nat) : Nat := a ||| b

/-- `flag` when `c` holds. -/
def flagIf (c : Bool) (flag : Nat) : Nat := if c then flag else 0

/-! ## Plans and chains (Tables CLK-6, CHN-1, CHN-3) -/

/-- Samples per tick M of a plan (Table CLK-6). -/
def planM (plan : Nat) : Nat := 28 + 2 * min plan 2

/-- Bin spacing in Hz (Table CHN-1). -/
def binSpacing (plan : Nat) : Nat := planM plan * 384000

/-- Bin rate in Hz. -/
def binRate (plan : Nat) : Nat := planM plan * 768000

/-- Chain families of Table CHN-3. -/
inductive Family where
  | am | fm | drmPlus | dab
deriving DecidableEq, Repr

/-- The chain family of a context type (Table CTX-1). -/
def family (type : Nat) : Family :=
  if type = 7 then .dab else if type = 6 then .drmPlus else if type = 1 ∨ type = 5 then .am else .fm

/-- Ticks per output K (Table CHN-3). -/
def Family.k : Family → Nat
  | .dab => 12
  | .fm => 64
  | .drmPlus => 128
  | .am => 512

/-- Settling length L in outputs (Table CHN-3). -/
def Family.settle (f : Family) (plan : Nat) : Nat :=
  match f with
  | .dab => if plan = 0 then 63 else if plan = 1 then 45 else 55
  | .fm => 55
  | .drmPlus => 58
  | .am => 59

/-- The interpolation U of the final FIR: 1 for DECIMATE (Table CHN-3). -/
def Family.interp (f : Family) (plan : Nat) : Nat := if f = .dab ∧ plan < 2 then 4 else 1

/-- Coefficients in use: 96 for DECIMATE, 96U for RESAMPLE (R155). -/
def Family.taps (f : Family) (plan : Nat) : Nat := 96 * f.interp plan

/-- The configuration of a chain (R156): final FIR mode and input rate, numbered so that two chains have one number exactly
when neither differs. -/
def configuration (type plan : Nat) : Nat :=
  match family type with
  | .dab => min plan 2
  | .fm => 3
  | .drmPlus => 4
  | .am => 5

/-- Nominal delay of a chain in 1/210 tick (R150). -/
def nominalDelay (f : Family) (plan : Nat) : Nat :=
  match f with
  | .dab => if plan = 0 then 80940 else if plan = 1 then 58548 else 70350
  | .fm => 210 * 1736 + 210 * 304 / planM plan
  | .drmPlus => 210 * 3608 + 210 * 304 / planM plan
  | .am => 210 * 14840 + 210 * 304 / planM plan

/-- The stamp of an output on grid tick `g`: the nominal delay removed, rounded to the nearest tick; half way between two, which R150 leaves
open, the later. (DESIGN CHOICE, log 26) -/
def stampOf (g : Int) (f : Family) (plan : Nat) : Int := roundDiv (210 * g - nominalDelay f plan) 210

/-! ## HOLD and SETTLING of a context -/

/-- The first elapsed grid tick whose stamp is elapsed tick `e` or later. -/
def stampReach (f : Family) (plan e : Nat) : Nat := ceilDiv (210 * e + nominalDelay f plan - 105) 210

/-- A copy is in HOLD. -/
def CopyState.inHold (c : CopyState) : Bool := !c.holds.isEmpty

/-- The copy is withdrawn by a fence (R183). -/
def CopyState.isFenced (c : CopyState) : Bool := decide (c.state = .fenced)

/-- The copies that a fence has not withdrawn. -/
def Ctx.live (x : Ctx) : List CopyState := (x.a :: x.b.toList).filter fun c => !c.isFenced

/-- The context is in HOLD: every live copy is (R31). -/
def Ctx.inHold (x : Ctx) : Bool := !x.live.isEmpty && x.live.all CopyState.inHold

/-- The first elapsed grid tick of a chain of period `k` at or after elapsed tick `e`. -/
def gridAt (k e : Nat) (m : Part) : Nat :=
  let t := tau m + ((e : Int) - (m.clock.elapsed : Int))
  e + ((-t) % (k : Int)).toNat

/-- The elapsed tick from which outputs no longer carry SETTLING: L outputs on the grid from the last cause (R166). -/
def settleEnd (x : Ctx) (m : Part) : Nat :=
  let f := family x.cfg.type
  gridAt f.k x.chain.settle m + f.settle x.chain.plan * f.k

/-- Outputs produced now carry SETTLING. -/
def settling (x : Ctx) (m : Part) : Bool := decide (m.clock.elapsed < settleEnd x m)

/-- Ticks of `spans` that lie in the interval from `lo` to `hi`. -/
def spanIn (lo hi : Nat) : List (Nat × Nat) → Nat
  | [] => 0
  | (a, b) :: rest => (min b hi - max a lo) + spanIn lo hi rest

/-- Spans joined where they overlap, for spans in rising order of their start. -/
def mergeSpans : List (Nat × Nat) → List (Nat × Nat)
  | [] => []
  | (a, b) :: rest =>
    match mergeSpans rest with
    | [] => [(a, b)]
    | (c, d) :: tl => if c ≤ b then (min a c, max b d) :: tl else (a, b) :: (c, d) :: tl

/-- Insert a span in rising order of its start. -/
def insertSpan (s : Nat × Nat) : List (Nat × Nat) → List (Nat × Nat)
  | [] => [s]
  | t :: rest => if s.1 ≤ t.1 then s :: t :: rest else t :: insertSpan s rest

/-- Insert several spans. -/
def insertSpans (l r : List (Nat × Nat)) : List (Nat × Nat) := l.foldr insertSpan r

/-- The interval of SETTLING that a cause at elapsed tick `from_` makes, up to the present. -/
def settleSpan (from_ : Nat) (x : Ctx) (m : Part) : Nat × Nat :=
  (from_, min (settleEnd { x with chain := { x.chain with settle := from_ } } m) m.clock.elapsed)

/-- The elapsed tick from which the context is in HOLD: the last of its live copies entered it. -/
def holdStart (x : Ctx) : Nat := (x.live.map (·.holdFrom)).foldl max 0

/-- Elapsed tick `e` lies in one of several spans. -/
def inSpans (e : Nat) (l : List (Nat × Nat)) : Bool := l.any fun s => decide (s.1 ≤ e ∧ e < s.2)

/-- The intervals of SETTLING that the context keeps, the last to its end. -/
def settledSpans (x : Ctx) (m : Part) : List (Nat × Nat) := (x.chain.settle, settleEnd x m) :: x.settleSpans

/-- The context was in HOLD at elapsed tick `e`. -/
def heldAt (x : Ctx) (e : Nat) : Bool := inSpans e x.holdSpans || (x.inHold && decide (holdStart x ≤ e))

/-- HOLD for calibration, which erases, at elapsed tick `e` (R136). -/
def erasedAt (x : Ctx) (e : Nat) : Bool :=
  inSpans e x.ana.erased
    || (x.inHold && decide (holdStart x ≤ e) && x.live.any fun c => c.holds.contains .calibration)

/-- The elapsed ticks on which HOLD began or ended. -/
def holdTicks (x : Ctx) : List Nat :=
  (x.holdSpans.flatMap fun s => [s.1, s.2]) ++ (if x.inHold then [holdStart x] else [])

/-- The intervals of the context in HOLD or SETTLING up to the present, joined. -/
def excluded (x : Ctx) (m : Part) : List (Nat × Nat) :=
  let now := m.clock.elapsed
  let held := if x.inHold then insertSpan (holdStart x, now) x.holdSpans else x.holdSpans
  mergeSpans (insertSpans (settleSpan x.chain.settle x m :: x.settleSpans) held)

/-- The intervals of one copy in HOLD or SETTLING up to the present, joined: its own and the chain's. -/
def copyExcluded (x : Ctx) (c : CopyState) (m : Part) : List (Nat × Nat) :=
  let own := if c.inHold then insertSpan (c.holdFrom, m.clock.elapsed) c.out else c.out
  mergeSpans (insertSpans (settleSpan x.chain.settle x m :: settleSpan c.settle x m :: x.settleSpans) own)

/-- Samples of one copy that are produced now carry SETTLING. -/
def copySettling (x : Ctx) (c : CopyState) (m : Part) : Bool :=
  settling x m || settling { x with chain := { x.chain with settle := c.settle } } m

/-- A new cause of SETTLING now: the interval that the last cause made is kept (R166, R187). -/
def Ctx.settleFrom (m : Part) (x : Ctx) : Ctx :=
  { x with settleSpans := insertSpan (settleSpan x.chain.settle x m) x.settleSpans,
           chain := { x.chain with settle := m.clock.elapsed } }

end Sys2Proof.Machine
end

