-- ==== Sys2Proof/Machine/Records.lean ====
section
/-! DEFINITION. Records: how a flow's content is cut into records, staged and dropped (R352-R357, R359, R369). -/

namespace Sys2Proof.Machine

/-- A flow. -/
def flow (f : Nat) (m : Part) : Option Flow := look f m.flows

/-- Change a flow. -/
def onFlow (f : Nat) (g : Flow → Flow) (m : Part) : Part := { m with flows := change f g m.flows }

/-- What a record charges: 32 plus its length rounded up to 8 bytes (R361). -/
def charge (length : Nat) : Nat := 32 + 8 * ceilDiv length 8

/-- Bytes a flow holds in staging. -/
def stagedBytes (f : Flow) : Nat := (f.staged.map fun r => charge r.length).sum

/-- Bytes a flow holds in the staging pool, beyond its own time-shift window (R368, R369); what a capture flow delivers stands in the
capture region. -/
def poolBytes (f : Flow) : Nat := if f.type = 6 then 0 else stagedBytes f - f.windowBytes

/-- The staging pool in use. -/
def poolUsed (m : Part) : Nat := (m.flows.map fun f => poolBytes f.2).sum

/-- Usable DRAM: 8/9 of the installed capacity, in bytes (R368). -/
def dramUsable (m : Part) : Nat := m.dram.installed * 2 ^ 20 * 8 / 9

/-- Bytes of the capture region. -/
def captureBytes (m : Part) : Nat := (m.captures.map Capture.size).sum

/-- Bytes of the time-shift windows. -/
def windowBytes (m : Part) : Nat := (m.flows.map fun f => f.2.windowBytes).sum

/-- The staging pool: the rest of usable DRAM, without the pages retired (Table FLW-5, R372). -/
def poolSize (m : Part) : Nat :=
  dramUsable m - 2 ^ 30 - captureBytes m - windowBytes m - 4096 * m.dram.retired.length

/-- The flow is bound. -/
def Flow.bound (f : Flow) : Bool := decide (f.target ≠ .none)

/-- EV_FLOW_OVERFLOW, at most once per second per flow (R369, Table FLW-6). -/
def overflowEvent (n : Nat) (cause : Nat) (m : Part) : Part :=
  match flow n m with
  | none => m
  | some f =>
    if f.overflowAt.all fun t => decide (t + ticksPerSecond ≤ m.clock.elapsed) then
      raise 70 0x37 [⟨0, 2, n⟩, ⟨2, 1, cause⟩, ⟨4, 4, f.dropped⟩, ⟨8, 4, f.droppedBytes⟩]
        (onFlow n (fun f => { f with overflowAt := some m.clock.elapsed, dropped := 0, droppedBytes := 0 }) m)
    else m

/-- Lose a record of the flow: its seq counts, the drop is counted, and the next record carries DISCONTINUITY (R369). -/
def dropRecord (n cause length : Nat) (m : Part) : Part :=
  overflowEvent n cause (onFlow n (fun f =>
    { f with seq := (f.seq + 1) % 2 ^ 32, dropped := f.dropped + 1, droppedBytes := f.droppedBytes + charge length,
             disc := true }) m)

/-- The record that a filled record becomes. -/
def sealRecord (n : Nat) (f : Flow) (o : OpenRecord) (m : Part) : Record :=
  { flow := n, flags := orFlags o.flags (flagIf f.disc flagDiscontinuity), length := o.bytes, ht := o.ht, tau := o.tau,
    seq := f.seq, type := f.type, subtype := f.subtype, origin := ownAddr m, count := o.count, chans := o.chans,
    plan := o.plan, items := o.items, zeros := o.zeros, data := o.data }

/-- Bytes and ticks of one unit of a fixed flow's content: a PCM frame or an I/Q sample (R353). -/
def unitOf (f : Flow) (o : OpenRecord) (m : Part) : Nat × Nat :=
  if f.type = 5 then (8, ((ctx f.source m).elim Family.fm fun x => family x.cfg.type).k) else (4 * max 1 o.chans, 512)

/-- Runs of zeros or words when the first `n` places are taken out. -/
def cutZeros (n : Nat) (l : List (Nat × Nat)) : List (Nat × Nat) :=
  (l.map fun z => (z.1 - n, z.2 - (n - z.1))).filter fun z => decide (0 < z.2)

/-- Runs of words when the first `n` units, of `w` words each, are taken out. -/
def cutData (n w : Nat) (l : List (Nat × List Int)) : List (Nat × List Int) :=
  (l.map fun d => (d.1 - n, d.2.drop (w * (n - d.1)))).filter fun d => !d.2.isEmpty

/-- What is left of a record when the span that R367 has filled is taken out of it: units of a fixed flow, or the whole record of a
variable one. (DEDUCED, log 42) -/
def trimLate (f : Flow) (o : OpenRecord) (m : Part) : Option OpenRecord :=
  let past := f.filled.elim 0 fun e => (e - o.tau).toNat
  if past = 0 then some o
  else if f.type = 1 ∨ f.type = 5 then
    let (unit, step) := unitOf f o m
    let n := ceilDiv past step
    if o.bytes / unit ≤ n then none
    else
      some { o with
        bytes := o.bytes - n * unit, count := o.count - n, ht := o.ht + n * step, tau := o.tau + n * step,
        zeros := cutZeros (n * unit) o.zeros, data := cutData n (unit / 4) o.data }
  else none

/-- Real content of a PCM flow after a filled span is faded in over 48 samples (R367). -/
def fadeFilled (f : Flow) (o : OpenRecord) : OpenRecord :=
  match f.filled with
  | none => o
  | some e =>
    if f.type ≠ 1 ∨ e + 512 * 48 ≤ o.tau then o
    else
      let chans := max 1 o.chans
      let weigh (start : Nat) (w : Int × Nat) : Int :=
        let i := ((o.tau - e) / 512 + ((start + w.2 / chans : Nat) : Int)).toNat
        if i < 48 then Config.round (w.1 * Config.fadeWeight i 48) 65536 else w.1
      { o with data := o.data.map fun d => (d.1, d.2.zipIdx.map (weigh d.1)) }

/-- Count content that arrives for a span already filled, with cause LATE; it takes no seq (R369). (DEDUCED, log 42) -/
def countLate (n bytes : Nat) (m : Part) : Part :=
  overflowEvent n 2 (onFlow n (fun f => { f with dropped := f.dropped + 1, droppedBytes := f.droppedBytes + charge bytes }) m)

/-- The presentation delay of a slot pair is fixed at the first record staged for it: its staging tick less its stamp, plus 1 ms,
rounded up to a frame (R411). -/
def fixDelay (n : Nat) (stamp : Int) (m : Part) : Part :=
  let delay : Int := -(-(tau m - stamp + 24576) / 512 * 512)
  let fix (q : SlotPair) : SlotPair := if q.flow = some n ∧ q.delay = none then { q with delay := some delay } else q
  { m with ports := m.ports.map fun x => { x with pairs := x.pairs.map fix } }

/-- Stage a record, or drop it when the flow's limit or the pool is reached (R369). -/
def stageRecord (n : Nat) (o : OpenRecord) (m : Part) : Part :=
  match flow n m with
  | none => m
  | some f =>
    if 2 ^ 26 < poolBytes f + charge o.bytes then dropRecord n 0 o.bytes m
    else if poolSize m < poolUsed m + charge o.bytes then dropRecord n 1 o.bytes m
    else
      fixDelay n o.tau (onFlow n (fun f => { f with
        staged := f.staged ++ [sealRecord n f o m], seq := (f.seq + 1) % 2 ^ 32, disc := false }) m)

/-- Close the record that the flow is filling: what comes too late for its span is discarded, the rest is staged (R354, R367,
R369). -/
def closeRecord (n : Nat) (m : Part) : Part :=
  match flow n m with
  | none => m
  | some f =>
    match f.opened with
    | none => m
    | some o =>
      let m := onFlow n (fun f => { f with opened := none }) m
      match trimLate f o m with
      | none => countLate n o.bytes m
      | some o' => stageRecord n (fadeFilled f o') (if o'.bytes < o.bytes then countLate n (o.bytes - o'.bytes) m else m)

/-- A cause of DISCONTINUITY: the open record closes, and the flow's next record carries the flag (R354, R355). -/
def breakFlow (n : Nat) (m : Part) : Part := onFlow n (fun f => { f with disc := true }) (closeRecord n m)

/-- Close the open record of every flow in a list, each with DISCONTINUITY. -/
def breakFlows : List Nat → Part → Part
  | [], m => m
  | n :: rest, m => breakFlows rest (breakFlow n m)

/-- Content of a fixed flow: `n` units of `unit` bytes, `step` ticks apart, the first stamped `ht` (τ `tau`); `blank` that they are
zeros (R167, R370), `data` their words of `width` bytes when they are known. -/
structure Content where
  n : Nat
  unit : Nat
  step : Nat
  per : Nat
  ht : Nat
  tau : Int
  flags : Nat
  chans : Nat
  plan : Nat
  blank : Bool := false
  width : Nat := 4
  data : List Int := []
deriving DecidableEq, Repr

/-- Put content into records of the flow: each closes when its payload reaches P rounded down to whole units (R354).
(DESIGN CHOICE, log 13) -/
def appendFixed (n : Nat) : Nat → Content → Part → Part
  | 0, _, m => m
  | fuel + 1, c, m =>
    if c.n = 0 then m
    else
      match flow n m with
      | none => m
      | some f =>
        let cap := max 1 (f.length / c.unit)
        let o : OpenRecord := f.opened.getD
          { ht := c.ht, tau := c.tau, first := m.clock.elapsed, count := 0, bytes := 0, flags := 0, chans := c.chans,
            plan := c.plan, items := [] }
        let have_ := o.bytes / c.unit
        let k := min c.n (cap - have_)
        let words := c.data.take (k * (c.unit / c.width))
        let o := { o with
          bytes := o.bytes + k * c.unit, count := o.count + k * c.per, flags := orFlags o.flags c.flags,
          zeros := if c.blank ∧ 0 < k then o.zeros ++ [(o.bytes, k * c.unit)] else o.zeros,
          data := if words.isEmpty then o.data else o.data ++ [(have_, words)] }
        let m := onFlow n (fun f => { f with opened := some o }) m
        let m := if cap ≤ have_ + k then closeRecord n m else m
        appendFixed n fuel { c with
          n := c.n - k, ht := c.ht + k * c.step, tau := c.tau + k * c.step, data := c.data.drop (k * (c.unit / c.width)) } m

/-- An item of a variable flow, stamped `ht`: the open record closes first when the item would take it beyond P, and after it
when the item alone reaches P (R354). -/
def appendItem (n : Nat) (ht : Nat) (t : Int) (flags : Nat) (it : Item) (m : Part) : Part :=
  match flow n m with
  | none => m
  | some f =>
    if !f.bound then m
    else
      let full := f.opened.any fun o => decide (f.length < o.bytes + it.bytes)
      let m := if full then closeRecord n m else m
      let o : OpenRecord := (if full then none else f.opened).getD
        { ht := ht, tau := t, first := m.clock.elapsed, count := 0, bytes := 0, flags := 0, chans := 0, plan := 0,
          items := [] }
      let o := { o with
        count := o.count + 1, bytes := o.bytes + it.bytes, flags := orFlags o.flags flags, items := o.items ++ [it] }
      let m := onFlow n (fun f => { f with opened := some o }) m
      if f.length ≤ o.bytes then closeRecord n m else m

/-- Give an item to every flow of a list. -/
def appendItems (ht : Nat) (t : Int) (flags : Nat) (it : Item) : List Nat → Part → Part
  | [], m => m
  | n :: rest, m => appendItems ht t flags it rest (appendItem n ht t flags it m)

/-- The bound flows that `p` selects. -/
def flowsWhere (p : Flow → Bool) (m : Part) : List Nat := (m.flows.filter fun f => f.2.bound && p f.2).map (·.1)

/-- The flow's source is context `c`: PCM programs, access units, side data other than the database, quality and
narrowband I/Q (Table FLW-1). -/
def Flow.ofCtx (c : Nat) (f : Flow) : Bool :=
  decide (f.source = c) && (decide (f.type = 1 ∧ f.subtype = 0) || decide (2 ≤ f.type ∧ f.type ≤ 5))

/-- The bound flows of a context. -/
def ctxFlows (c : Nat) (m : Part) : List Nat := flowsWhere (Flow.ofCtx c) m

/-- Close every open record of a context's flows, with DISCONTINUITY on the next (R86, R340). (DEDUCED, log 26) -/
def breakCtx (c : Nat) (m : Part) : Part := breakFlows (ctxFlows c m) m

/-- Close every open record of the flows in a list, with no flag. -/
def closeFlows : List Nat → Part → Part
  | [], m => m
  | n :: rest, m => closeFlows rest (closeRecord n m)

end Sys2Proof.Machine
end

