-- ==== Sys2Proof/Machine/Capture.lean ====
section
/-! DEFINITION. Raw capture (R353, R370): what the capture region takes in, and how it reaches its flow. Every capture is followed up
to the present before anything that its flags, plan or stamps depend on changes. -/

namespace Sys2Proof.Machine

/-- Bytes of a group of 4 ticks at a plan (R353). -/
def groupBytes (plan : Nat) : Nat := 8 * planM plan

/-- Flags of the samples that a half's converter takes now: HOLD in a calibration run, ERASED while it is idled (R370). -/
def captureFlags (h : Nat) (m : Part) : Nat :=
  orFlags (flagIf (half h m).cal.run.isSome flagHold) (flagIf (tile (halfTile h) m).switch.isSome flagErased)

/-- The first `n` groups of a span, and the rest. -/
def CapSpan.rest (n : Nat) (s : CapSpan) : CapSpan :=
  { s with
    n := s.n - n, ht := s.ht + 4 * n, tau := s.tau + 4 * n, disc := false, data := s.data.drop (4 * planM s.plan * n) }

/-- Groups of the oldest spans are overwritten until what is left fits (R370, CIRCULAR). -/
def trimSpans (size : Nat) : List CapSpan → List CapSpan
  | [] => []
  | s :: tl =>
    let later := (tl.map fun x => x.n * groupBytes x.plan).sum
    if size ≤ later then trimSpans size tl
    else
      let keep := min s.n ((size - later) / groupBytes s.plan)
      if keep = 0 then trimSpans size tl else if keep = s.n then s :: tl else s.rest (s.n - keep) :: tl

/-- Close the record that a capture is filling. -/
def closeCapture (c : Capture) (m : Part) : Capture × Part :=
  ({ c with opened := none }, closeRecord c.flow (onFlow c.flow (fun f => { f with opened := c.opened }) m))

/-- Put `n` groups of a span into records of the capture's flow. -/
def fillGroups (c : Capture) (s : CapSpan) (n flags : Nat) (m : Part) : Capture × Part :=
  let m := onFlow c.flow (fun f => { f with opened := c.opened }) m
  let m := appendFixed c.flow (n + 1)
    { n := n, unit := groupBytes s.plan, step := 4, per := 4, ht := s.ht, tau := s.tau, flags := flags, chans := c.half,
      plan := s.plan, blank := s.idle, width := 2, data := s.data } m
  ({ c with opened := (flow c.flow m).bind Flow.opened }, onFlow c.flow (fun f => { f with opened := none }) m)

/-- Deliver one span; the first record after idled ticks carries DISCONTINUITY. -/
def deliverSpan (c : Capture) (s : CapSpan) (m : Part) : Capture × Part :=
  if s.disc then
    let (c, m) := closeCapture c m
    let (c, m) := fillGroups c s 1 (orFlags s.flags flagDiscontinuity) m
    fillGroups c (s.rest 1) (s.n - 1) s.flags m
  else fillGroups c s s.n s.flags m

/-- Deliver every span of a capture. (DEDUCED, log 41) -/
def deliverSpans : List CapSpan → Capture → Part → Capture × Part
  | [], c, m => (c, m)
  | s :: tl, c, m =>
    let (c, m) := deliverSpan c s m
    deliverSpans tl c m

/-- The converter samples of `n` groups from elapsed tick `g` on, where every one has been given. -/
def Capture.words (c : Capture) (g n : Nat) : List Int :=
  let l := c.samples.filter fun e => decide (g ≤ e.1 ∧ e.1 < g + 4 * n)
  if l.length = 4 * n then l.flatMap (·.2) else []

/-- The spans that a capture takes from where it stands up to the present: whole groups only. (DEDUCED, log 41) -/
def newSpans (c : Capture) (m : Part) : List CapSpan × Nat :=
  let now := m.clock.elapsed
  let g := gridAt 4 c.produced m
  let plan := (tile (halfTile c.half) m).plan
  let flags := captureFlags c.half m
  let room := (c.size - c.written) / groupBytes plan
  let n := if now < g then 0 else (now - g) / 4
  let n := if c.circular then n else min n room
  let s : CapSpan := {
    n := n, ht := htOf g m, tau := tau m + ((g : Int) - (now : Int)), flags := flags, plan := plan, disc := c.disc,
    idle := (tile (halfTile c.half) m).switch.isSome, data := c.words g n }
  if n = 0 then ([], g)
  else if c.extra = 0 ∨ orFlags c.extra flags = flags then ([s], g + 4 * n)
  else
    let first : CapSpan := { s with n := 1, flags := orFlags c.extra flags, idle := false }
    (first :: (if n = 1 then [] else [s.rest 1]), g + 4 * n)

/-- Give a capture's spans to its flow when it may: a bound flow, and the stop of a CIRCULAR capture (R370). A stopped capture's
last record is closed. -/
def releaseCapture (c : Capture) (m : Part) : Capture × Part :=
  if (flow c.flow m).any Flow.bound && (!c.circular || c.stopped) then
    let (c, m) := deliverSpans c.spans { c with spans := [] } m
    if c.stopped then closeCapture c m else (c, m)
  else (c, m)

/-- Follow one capture up to the present. (DEDUCED, log 41) -/
def catchCapture (c : Capture) (m : Part) : Capture × Part :=
  if c.stopped then releaseCapture c m
  else
    let (l, e) := newSpans c m
    let bytes := (l.map fun s => s.n * groupBytes s.plan).sum
    let full := !c.circular && decide (c.size < c.written + bytes + groupBytes (tile (halfTile c.half) m).plan)
    let spans := if c.circular then trimSpans c.size (c.spans ++ l) else c.spans ++ l
    releaseCapture { c with
      spans := spans, produced := e, written := c.written + bytes, stopped := full,
      extra := if e < m.clock.elapsed then captureFlags c.half m else 0, disc := c.disc && l.isEmpty,
      samples := c.samples.filter fun x => decide (e ≤ x.1) } m

/-- Follow every capture that `p` names, then change it by `f`. -/
def catchWhere (p : Capture → Bool) (f : Capture → Capture) : List Capture → List Capture → Part → Part
  | [], done, m => { m with captures := done }
  | c :: rest, done, m =>
    if p c then
      let (c, m) := catchCapture c m
      let (c, m) := if (f c).stopped ∧ !c.stopped then releaseCapture (f c) m else (f c, m)
      catchWhere p f rest (done ++ [c]) m
    else catchWhere p f rest (done ++ [c]) m

/-- Follow the captures of half `h` up to the present. -/
def catchHalf (h : Nat) (m : Part) : Part := catchWhere (fun c => decide (c.half = h)) id m.captures [] m

/-- Follow every capture. -/
def catchCaptures (m : Part) : Part := catchWhere (fun _ => true) id m.captures [] m

/-- A step of HT cuts every capture: its record closes at the last whole group before the step, and the next begins with the first group on
or after the step tick (R60, R353). The ticks of a group that the step divides are in no record. (DESIGN CHOICE, log 41) -/
def cutCaptures : List Capture → List Capture → Part → Part
  | [], done, m => { m with captures := done }
  | c :: rest, done, m =>
    let (c, m) := closeCapture c m
    cutCaptures rest (done ++ [{ c with disc := true, produced := m.clock.elapsed, extra := 0 }]) m

/-- The converter samples of a period reach the captures of half `h`: `k` a tick, the last tick before the present. -/
def captureSamples (h k : Nat) (l : List Int) (m : Part) : Part :=
  let n := l.length / max 1 k
  let ticks := (List.range n).map fun i => (m.clock.elapsed - n + i, (l.drop (k * i)).take k)
  catchHalf h { m with captures := m.captures.map fun c => if c.half = h then { c with samples := c.samples ++ ticks } else c }

/-- The capture of half `h` stops (R370). (DEDUCED, log 22) -/
def stopCapture (h : Nat) (m : Part) : Part :=
  catchWhere (fun c => decide (c.half = h)) (fun c => { c with stopped := true }) m.captures [] m

/-- The captures of a half follow idled ticks. -/
def resumeCapture (h : Nat) (m : Part) : Part :=
  catchWhere (fun c => decide (c.half = h)) (fun c => { c with disc := true }) m.captures [] m

end Sys2Proof.Machine
end

