-- ==== Sys2Proof/Machine/Members.lean ====
section
/-! DEFINITION. Members of source sets (R272-R277, R284): eligibility, transitions and their event, the reference, the end of a
set. -/

namespace Sys2Proof.Machine

/-- Rank of a context state (Table CTX-3); a state without rank is below every other. -/
def CtxState.rank : CtxState → Nat
  | .search => 3
  | .acquire => 4
  | .detected => 5
  | .track => 6
  | .hold => 1
  | .lost => 2
  | .closed => 0
  | .fenced => 0

/-- Code of a context state (Table CTX-3). -/
def CtxState.code : CtxState → Nat
  | .closed => 0
  | .search => 1
  | .acquire => 2
  | .detected => 3
  | .track => 4
  | .hold => 5
  | .lost => 6
  | .fenced => 7

/-- The state a context reports: the most advanced of its live copies (R31, R183). -/
def Ctx.state (x : Ctx) : CtxState :=
  x.live.foldl (fun s c => if s.rank < c.state.rank then c.state else s) .closed

/-- The state a copy holds beneath a HOLD. -/
def CopyState.under (c : CopyState) : CtxState := if c.inHold then c.held else c.state

/-- The state a context has beneath a HOLD. -/
def Ctx.under (x : Ctx) : CtxState :=
  x.live.foldl (fun s c => if s.rank < c.under.rank then c.under else s) .closed

/-- Why a member changes state (the cause code of EV_LINK_MEMBER is a free value: the spec lists none). -/
inductive LinkCause where
  | notEligible | eligible | candidate | proven | contradiction | mismatch | removed | noMatch | reconfigured | buffer
deriving DecidableEq, Repr

/-- The number of a cause, for `Config.linkCause`. (DESIGN CHOICE / DEDUCED, log 33) -/
def LinkCause.index : LinkCause → Nat
  | .notEligible => 0
  | .eligible => 1
  | .candidate => 2
  | .proven => 3
  | .contradiction => 4
  | .mismatch => 5
  | .removed => 6
  | .noMatch => 7
  | .reconfigured => 8
  | .buffer => 9

/-- Code of a member state, in the order of Table DEC-7. -/
def MemberState.code : MemberState → Nat
  | .idle => 0
  | .seek => 1
  | .verify => 2
  | .joined => 3

/-- The selection of a context. -/
def Ctx.sel (x : Ctx) (sel : Nat) : Option Selection := x.sels.find? fun s => decide (s.sel = sel)

/-- A selection decodes. -/
def Ctx.decoding (x : Ctx) (sel : Nat) : Bool := (x.sel sel).any fun s => decide (s.state = .decoding)

/-- A context type with selections. -/
def digitalType (type : Nat) : Bool := decide (5 ≤ type)

/-- A member's source carries output, whatever HOLD does: its context in TRACK or LOST and, for a selection, decoding
(Table DEC-7). -/
def memberFit (mem : Member) (m : Part) : Bool :=
  match ctx mem.ctx m with
  | none => false
  | some x =>
    (decide (x.under = .track) || decide (x.under = .lost))
      && (!digitalType x.cfg.type || x.decoding mem.sel)

/-- A member becomes eligible: its context in TRACK, with output decoding (Table DEC-7). -/
def memberStarts (mem : Member) (m : Part) : Bool :=
  memberFit mem m && (ctx mem.ctx m).any fun x => decide (x.under = .track)

/-- EV_LINK_MEMBER (R277). -/
def memberEvent (set : Nat) (mem : Member) (new : MemberState) (cause : LinkCause) (m : Part) : Part :=
  raise 100 0x44 [⟨0, 2, set⟩, ⟨2, 2, mem.ctx⟩, ⟨4, 1, mem.sel⟩, ⟨5, 1, mem.state.code⟩, ⟨6, 1, new.code⟩,
    ⟨7, 1, Config.linkCause cause.index⟩, ⟨8, 4, mem.offset⟩] m

/-- A source set. -/
def sourceSet (n : Nat) (m : Part) : Option SourceSet := look n m.sets

/-- Change a source set. -/
def onSet (n : Nat) (f : SourceSet → SourceSet) (m : Part) : Part := { m with sets := change n f m.sets }

/-- Change member `i` of a set. -/
def onMember (n i : Nat) (f : Member → Member) (m : Part) : Part :=
  onSet n (fun s => { s with members := s.members.modify i f }) m

/-- Member `i` of set `n` goes to `new`, with its event and its counts restarted. -/
def moveMember (n i : Nat) (new : MemberState) (cause : LinkCause) (m : Part) : Part :=
  match (sourceSet n m).bind fun s => s.members[i]? with
  | none => m
  | some mem =>
    if mem.state = new then m
    else
      onMember n i (fun x => { x with
        state := new, good := 0, bad := 0, seekSince := m.clock.elapsed, noMatch := false,
        candidate := if new = .verify then x.candidate else none, joinedAt := x.offset }) (memberEvent n mem new cause m)

/-- The member that takes the reference: the JOINED member of lowest rank, the first named among equals (R276). -/
def nextReference (members : List Member) : Option Nat :=
  let idx := (List.range members.length).filter fun i => (members[i]?).any fun x => decide (x.state = .joined)
  idx.foldl (fun best i =>
    match best with
    | none => some i
    | some b => if (members[i]?).elim 4 Member.rank < (members[b]?).elim 4 Member.rank then some i else some b) none

/-- The reference becomes JOINED while it is eligible (R277). -/
def joinReference (n : Nat) (m : Part) : Part :=
  match sourceSet n m with
  | none => m
  | some s =>
    if (s.members[s.reference]?).any fun x => decide (x.state ≠ .joined) && memberStarts x m then
      moveMember n s.reference .joined .eligible m
    else m

/-- Member `i` becomes the reference: offsets are measured against it from now on, so that the time base does not move (R276). -/
def takeReference (n i : Nat) (m : Part) : Part :=
  joinReference n (onSet n (fun s =>
    let d := (s.members[i]?).elim 0 Member.offset
    { s with
      reference := i,
      members := s.members.map fun y =>
        { y with offset := y.offset - d, joinedAt := y.joinedAt - d, candidate := y.candidate.map fun v => v - d } }) m)

/-- The reference passes on when it has become IDLE (R276). -/
def passReference (n : Nat) (m : Part) : Part :=
  match sourceSet n m with
  | none => m
  | some s =>
    if (s.members[s.reference]?).any fun x => decide (x.state ≠ .idle) then m
    else
      match nextReference s.members with
      | none => m
      | some i => takeReference n i m

/-- The branch that fits a source as it stands: its type, and for a digital one its standard, kind and coding (R275). -/
def branchOf (c sel : Nat) (m : Part) : Branch :=
  match ctx c m with
  | none => .fm
  | some x =>
    if x.cfg.type = 1 then .am
    else if digitalType x.cfg.type then
      let s := x.sel sel
      let more : List Nat := if x.cfg.type = 7 then [s.elim 0 Selection.size, s.elim 0 Selection.rate]
        else [x.dig.mode.getD 5, x.dig.occSignalled]
      .digital (8 * x.cfg.type + s.elim 0 Selection.kind) (s.elim [] Selection.coding ++ more)
    else .fm

/-- Member `i` goes to the branch that fits it; the active branch follows when no member is left in it (R275, R282). -/
def rebranch (n i : Nat) (m : Part) : Part :=
  match (sourceSet n m).bind fun s => s.members[i]? with
  | none => m
  | some mem =>
    let br := branchOf mem.ctx mem.sel m
    if mem.branch = br ∨ (ctx mem.ctx m).isNone then m
    else
      onSet n (fun s =>
        let l := s.members.modify i fun y => { y with branch := br }
        { s with members := l,
                 active := if s.active = mem.branch ∧ l.all (fun y => decide (y.branch ≠ s.active)) then br else s.active }) m

/-- Bring one member in line with its source (Table DEC-7); one that is IDLE goes to the branch that fits its source now. -/
def refreshMember (n i : Nat) (m : Part) : Part :=
  match sourceSet n m with
  | none => m
  | some s =>
    match s.members[i]? with
    | none => m
    | some mem =>
      if !memberFit mem m then moveMember n i .idle .notEligible m
      else if mem.state = .idle ∧ memberStarts mem m then
        moveMember n i (if i = s.reference then .joined else .seek) .eligible (rebranch n i m)
      else m

/-- Bring the members of a set in line, then pass the reference on if it must. -/
def refreshSet (n : Nat) (m : Part) : Part :=
  passReference n ((List.range ((sourceSet n m).elim 0 fun s => s.members.length)).foldl (fun m i => refreshMember n i m) m)

/-- The sets in which a context has a member. -/
def setsOf (c : Nat) (m : Part) : List Nat :=
  (m.sets.filter fun s => s.2.members.any fun x => decide (x.ctx = c)).map (·.1)

/-- Bring every set of a context in line with it. -/
def refreshCtx (c : Nat) (m : Part) : Part := (setsOf c m).foldl (fun m n => refreshSet n m) m

/-- hold_back of a set in ticks. -/
def SetCfg.holdTicks (c : SetCfg) : Nat := 2457600 * c.holdBack

/-- The set whose lead is this source. -/
def leadSet (c sel : Nat) (m : Part) : Option (Nat × SourceSet) :=
  m.sets.find? fun s => (s.2.members.head?).any fun x => decide (x.ctx = c ∧ x.sel = sel)

/-- End a set: what hold_back keeps of the lead's blocks is released at their own deadlines (R283). -/
def endSet (n : Nat) (m : Part) : Part :=
  let lead := (sourceSet n m).bind fun s => s.members.head?
  { m with
    blocks := m.blocks.map fun b =>
      if lead.any fun x => decide (x.ctx = b.ctx ∧ x.sel = b.sel) then { b with deadline := b.deadline - b.wait, wait := 0 } else b,
    sets := erase n m.sets }

/-- Remove a member that is not the lead, with EV_LINK_MEMBER; the reference passes on as from a member that becomes IDLE, and to the lead
when none is JOINED (R276, R284). -/
def removeMember (n i : Nat) (m : Part) : Part :=
  match (sourceSet n m).bind fun s => s.members[i]? with
  | none => m
  | some mem =>
    let m := memberEvent n mem .idle .removed m
    let was := (sourceSet n m).elim 0 SourceSet.reference
    let m := onSet n (fun s => { s with
      members := s.members.eraseIdx i, reference := if i < s.reference then s.reference - 1 else s.reference }) m
    if i = was then takeReference n (((sourceSet n m).bind fun s => nextReference s.members).getD 0) m else passReference n m

/-- The members of one context leave a set; when the lead is among them the set ends with EV_LINK_ENDED (R283, R284). -/
def dropFromSet (c n : Nat) (m : Part) : Part :=
  match sourceSet n m with
  | none => m
  | some s =>
    if (s.members.head?).any fun x => decide (x.ctx = c) then raise 100 0x46 [⟨0, 2, n⟩] (endSet n m)
    else
      ((List.range s.members.length).reverse).foldl (fun m i =>
        if ((sourceSet n m).bind fun s => s.members[i]?).any fun x => decide (x.ctx = c) then removeMember n i m else m) m

/-- A context that closes leaves every set (R284). -/
def dropFromSets (c : Nat) (m : Part) : Part := (setsOf c m).foldl (fun m n => dropFromSet c n m) m

end Sys2Proof.Machine
end

