-- ==== Sys2Proof/Machine/Output.lean ====
section
/-! DEFINITION. Sample content of contexts: narrowband I/Q and PCM with their flags (R148-R150, R166, R182, R195-R198, R235,
R283, Table DEC-8), brought up to the present whenever something that a flag depends on changes. -/

namespace Sys2Proof.Machine

/-! ## Narrowband I/Q (R148-R150, R166, R353) -/

/-- Grid ticks of period `k` from elapsed tick `lo` (included) to `hi` (excluded). -/
def gridCount (k lo hi : Nat) (m : Part) : Nat :=
  let g := gridAt k lo m
  if g < hi then (hi - g - 1) / k + 1 else 0

/-- The copy of a context whose samples are delivered: half A's while the two are combined. -/
def Ctx.delivered (x : Ctx) : CopyState :=
  match x.b, x.pair.copy with
  | some b, .b => b
  | _, _ => x.a

/-- The words of the entries from elapsed tick `lo` (included) to `hi` (excluded), when there are `n` of them. -/
def wordsIn (n lo hi : Nat) (l : List (Nat × List Int)) : List Int :=
  if l.isEmpty then []
  else
    let k := l.filter fun e => decide (lo ≤ e.1 ∧ e.1 < hi)
    if k.length = n then k.flatMap (·.2) else []

/-- Samples of one I/Q flow on the grid ticks from `lo` to `hi`, with `flags`: zeros when they are `blank` (R167). -/
def iqSpan (n : Nat) (x : Ctx) (lo hi flags : Nat) (blank : Bool) (m : Part) : Part :=
  let f := family x.cfg.type
  let g := gridAt f.k lo m
  let st := stampOf (htOf g m) f x.chain.plan
  let t := stampOf (tau m + ((g : Int) - (m.clock.elapsed : Int))) f x.chain.plan
  let c := gridCount f.k lo hi m
  let words := if blank then [] else wordsIn c lo hi (x.delivered.path.out.map fun e => (e.1, [e.2.re, e.2.im]))
  appendFixed n (c + 1)
    { n := c, unit := 8, step := f.k, per := 1, ht := st.toNat, tau := t, flags := flags, chans := 0, plan := 0, blank := blank,
      data := words } m

/-- The flags of an I/Q sample of a context on elapsed grid tick `e`: SETTLING as its grid tick is marked, HOLD, and ERASED in a
calibration run, as its stamp lies (R136, R166, Table FLW-3). -/
def iqFlags (x : Ctx) (m : Part) (e : Nat) : Nat :=
  let s := stampOf e (family x.cfg.type) x.chain.plan
  orFlags (flagIf (inSpans e (settledSpans x m)) flagSettling)
    (orFlags (flagIf (heldAt x s.toNat) flagHold) (flagIf (erasedAt x s.toNat) flagErased))

/-- Insert a number in rising order. -/
def insertNat (v : Nat) : List Nat → List Nat
  | [] => [v]
  | w :: rest => if v ≤ w then v :: w :: rest else w :: insertNat v rest

/-- The points strictly between `lo` and `hi`, in rising order. -/
def cutPoints (lo hi : Nat) (pts : List Nat) : List Nat :=
  (pts.filter fun p => decide (lo < p ∧ p < hi)).foldr insertNat []

/-- I/Q samples from `lo` to `hi`, cut at the points of a list, the flags of each span those at its start; in settle mode BLANK the
SETTLING ones are zeros (R167). -/
def iqSpans (n : Nat) (x : Ctx) (blank : Bool) (lo hi : Nat) : List Nat → Part → Part
  | [], m => iqSpan n x lo hi (iqFlags x m lo) (blank && inSpans lo (settledSpans x m)) m
  | p :: rest, m =>
    iqSpans n x blank p hi rest (iqSpan n x lo p (iqFlags x m lo) (blank && inSpans lo (settledSpans x m)) m)

/-- How far a context's narrowband I/Q can be told: where the model follows the sample path, to the end of the last period that reached the
chain while the next is still to come, so that every sample leaves as it is computed (R167); elsewhere to the present. -/
def iqReach (x : Ctx) (m : Part) : Nat :=
  let p := x.delivered.path
  if p.fed ∧ m.clock.elapsed ≤ p.fedTo + 16 then min m.clock.elapsed p.fedTo else m.clock.elapsed

/-- Bring an I/Q flow of a context up to elapsed tick `hi`. A watch delivers none (R176). -/
def catchIq (hi n : Nat) (x : Ctx) (m : Part) : Part :=
  match flow n m with
  | none => m
  | some f =>
    if hi ≤ f.produced then m
    else
      let held := (holdTicks x).map (stampReach (family x.cfg.type) x.chain.plan)
      let pts := cutPoints f.produced hi (held ++ (settledSpans x m).flatMap fun s => [s.1, s.2])
      let m := if x.cfg.type = 2 then m else iqSpans n x f.blank f.produced hi pts m
      onFlow n (fun f => { f with produced := hi }) m

/-! ## PCM: spans of samples with one flag word -/

/-- Ticks of a PCM sample (Table HTM-1). -/
abbrev pcmTicks : Nat := 512

/-- Ticks of the 48 samples over which a HOLD interval is faded (R198). -/
abbrev fadeTicks : Nat := 48 * 512

/-- Where PCM samples lie and how they are stamped: sample 0 on elapsed tick `anchor`, the stamp `shift` later. -/
structure PcmGrid where
  anchor : Nat
  shift : Int
  chans : Nat
deriving DecidableEq, Repr

/-- Samples whose instants lie before elapsed tick `e`. -/
def PcmGrid.before (g : PcmGrid) (e : Nat) : Nat := ceilDiv (e - g.anchor) pcmTicks

/-- Samples of a flow with instants in one span, with one flag word; `words` gives those of `k` samples from one elapsed tick to
another, and zeros stand for silence. -/
def pcmSpan (n : Nat) (g : PcmGrid) (words : Nat → Nat → Nat → List Int) (silent : Bool) (lo hi flags : Nat) (m : Part) : Part :=
  let i := g.before lo
  let k := g.before hi - i
  let at0 := g.anchor + i * pcmTicks
  appendFixed n (k + 1)
    { n := k, unit := 4 * g.chans, step := pcmTicks, per := 1, ht := ((htOf at0 m : Int) + g.shift).toNat,
      tau := tau m + ((at0 : Int) - (m.clock.elapsed : Int)) + g.shift, flags := flags, chans := g.chans, plan := 0,
      blank := silent, data := if silent then [] else words k lo hi } m

/-- Samples of a flow with instants from `lo` to `hi`, cut at the points of `pts`, the flags and the silence of each span
those at its start. (DEDUCED, log 29) -/
def pcmSpans (n : Nat) (g : PcmGrid) (words : Nat → Nat → Nat → List Int) (silent : Nat → Bool) (flags : Nat → Nat) (lo hi : Nat) :
    List Nat → Part → Part
  | [], m => pcmSpan n g words (silent lo) lo hi (flags lo) m
  | p :: rest, m => pcmSpans n g words silent flags p hi rest (pcmSpan n g words (silent lo) lo p (flags lo) m)

/-! ## Sets: what the lead's output carries (R281-R283, Table DEC-8) -/

/-- A member contributes to a sample now: JOINED, not in HOLD, and for AM and FM in reception with a CNR that gives it a
weight (R280, R281). -/
def memberWeighs (mem : Member) (m : Part) : Bool :=
  decide (mem.state = .joined) && (ctx mem.ctx m).any fun x =>
    !x.inHold && (digitalType x.cfg.type
      || (decide (x.under ≠ .lost) && decide ((if x.cfg.type = 1 then 30 else 60) ≤ x.ana.blockCnr)))

/-- The JOINED members of the active branch. -/
def activeMembers (s : SourceSet) : List Member :=
  s.members.filter fun x => decide (x.state = .joined ∧ x.branch = s.active)

/-- A member's decoding fails now (R258). -/
def memberFails (mem : Member) (m : Part) : Bool :=
  (ctx mem.ctx m).any fun x => (x.sel mem.sel).any fun y => decide (0 < y.failRun)

/-- The state of a member's context. -/
def memberState (mem : Member) (m : Part) : CtxState := (ctx mem.ctx m).elim .closed Ctx.state

/-- The flags of a set's PCM output from elapsed tick `e` on (Table DEC-8), for its active members as they stand, without those of its
blends; a unit that fails adds CONCEALED itself. -/
def setFlagsNow (s : SourceSet) (m : Part) (e : Nat) : Nat :=
  let act := activeMembers s
  let on_ := act.filter fun x => memberWeighs x m
  let held := !act.isEmpty && act.all fun x => (ctx x.ctx m).any Ctx.inHold
  let ref := s.members[s.reference]?
  let idle := on_.isEmpty && decide (s.active = .am ∨ s.active = .fm) && ref.any fun x => decide (memberState x m = .lost)
  let settle := !on_.isEmpty && on_.all fun x => (ctx x.ctx m).any fun y => decide (e < settleEnd y m)
  orFlags (flagIf (decide (2 ≤ on_.length)) flagCombined)
    (orFlags (flagIf held flagHold) (orFlags (flagIf idle flagConcealed) (flagIf settle flagSettling)))

/-- Note what a set's flags have been since they were noted last: its members are about to change. -/
def noteSet (n : Nat) (m : Part) : Part :=
  let now := m.clock.elapsed
  onSet n (fun s =>
    if now ≤ s.mark then s
    else
      { s with
        mark := now,
        past := (s.mark, setFlagsNow s m s.mark) :: s.past.filter fun p => decide (now ≤ p.1 + 20 * ticksPerSecond),
        blends := s.blends.filter fun b => decide (now ≤ b.stop + 20 * ticksPerSecond) }) m

/-- The flags of a set's output stamped on elapsed tick `e` (Table DEC-8). -/
def setFlags (s : SourceSet) (m : Part) (e : Nat) : Nat :=
  orFlags (flagIf (s.blends.any fun b => decide (b.start ≤ e ∧ e < b.stop)) flagBlended)
    (if s.mark ≤ e then setFlagsNow s m e else ((s.past.find? fun p => decide (p.1 ≤ e)).map (·.2)).getD (setFlagsNow s m e))

/-- The elapsed ticks on which a set's flags may change. -/
def setEdges (s : SourceSet) : List Nat := (s.past.map (·.1)) ++ s.mark :: s.blends.flatMap fun b => [b.start, b.stop]

/-! ## Sets: the audio of an AM or FM branch (R281, R282) -/

/-- The branch that a set delivers on elapsed tick `e` when no blend runs. -/
def branchAt (s : SourceSet) (e : Nat) : Branch :=
  match s.blends.find? fun b => decide (b.start ≤ e) with
  | some b => b.new
  | none => (s.blends.getLast?).elim s.active Blend.old

/-- The last tap at or before elapsed tick `e`, with those before it newest first. -/
def tapsTo (e : Nat) (l : List Tap) : List Tap := (l.filter fun t => decide (t.tick ≤ e)).reverse

/-- The linear CNR over the 48 samples that end with the newest of some, with 16 fractional bits (R281). -/
def tapCnr (l : List Tap) : Int :=
  let w := l.take 48
  let noise := (w.map Tap.noise).foldl (· + ·) 0
  if noise ≤ 0 then 0 else Config.round ((w.map Tap.power).foldl (· + ·) 0 * 65536) noise.toNat

/-- A member's audio for the lead's elapsed tick `e`, delayed to its offset and scaled by 1/g, and its weight: mono, difference, weight,
whether its pilot is locked; the second of R281's zero weights is below 6 dB for FM and 3 dB for AM. -/
def memberAudio (lead mem : Member) (m : Part) (e : Nat) : Option (Int × Int × Int × Bool) :=
  match ctx mem.ctx m with
  | none => none
  | some x =>
    let at_ := ((e : Int) + 32 * (mem.offset - lead.offset)).toNat
    let l := tapsTo at_ x.ana.taps
    match l.head? with
    | none => none
    | some t =>
      let frac := (at_ - t.tick) * 2 ^ 23
      let get (f : Tap → Int) (j : Nat) : Int := ((x.ana.taps.find? fun u => decide (u.tick + 3 * 512 = t.tick + j * 512)).map f).getD 0
      let value (f : Tap → Int) : Int :=
        Config.round ((List.range 8).foldl (fun v j => v + get f j * Config.fractionTap frac j) 0 * Config.dbGain (-mem.gain)) (2 ^ 33)
      let w := tapCnr l
      let least := Config.linear (if x.cfg.type = 1 then 30 else 60)
      some (value Tap.mono, value Tap.side,
        (if mem.state = .joined ∧ t.on_ ∧ least ≤ w then w else 0), decide (x.cfg.type = 4) && t.pilot)

/-- Σ w v / Σ w, or `other` when every weight is 0. -/
def weighedSum (l : List (Int × Int)) (other : Int) : Int :=
  let w := (l.map (·.1)).foldl (· + ·) 0
  if w ≤ 0 then other else Config.round ((l.map fun e => e.1 * e.2).foldl (· + ·) 0) w.toNat

/-- The mono and stereo sums of an AM or FM branch for the lead's elapsed tick `e`; when every weight is 0 the reference's audio passes
alone (R281). -/
def branchAudio (s : SourceSet) (b : Branch) (m : Part) (e : Nat) : Option (Int × Int) :=
  match s.members.head? with
  | none => none
  | some lead =>
    let l := (s.members.filter fun y => decide (y.branch = b)).filterMap fun y => memberAudio lead y m e
    let ref := ((s.members[s.reference]?).bind fun y => memberAudio lead y m e).getD (0, 0, 0, false)
    if l.isEmpty then none
    else
      let stereo := l.filter fun v => v.2.2.2
      let none_ := decide (∀ v ∈ l, v.2.2.1 ≤ 0)
      some (weighedSum (l.map fun v => (v.2.2.1, v.1)) ref.1,
        weighedSum (stereo.map fun v => (v.2.2.1, v.2.1)) (if none_ ∧ ref.2.2.2 then ref.2.1 else 0))

/-- The channels of a branch's audio in 24 bits, with the lead's blend and soft mute, of which a digital lead has none (R281); a digital
branch's are its decoder's. (DEDUCED, log 33) -/
def branchWords (s : SourceSet) (b : Branch) (chans : Nat) (m : Part) (e : Nat) : Option (List Int) :=
  let unit : Nat := if b = .am then 1 else 200
  let lead := (s.members.head?).bind fun y => ctx y.ctx m
  let own : Option (Int × Int) := lead.bind fun x =>
    if digitalType x.cfg.type then some (800, 0) else (tapsTo e x.ana.taps).head?.map fun t => (t.blend, t.mute)
  if b ≠ .am ∧ b ≠ .fm then none
  else
    match branchAudio s b m e, own with
    | some (mono, side), some (blend, mute) =>
      let g := Config.dbGain (-mute)
      let word (v : Int) : Int := clampInt (-8388608) 8388607 (Config.round (v * g) (800 * 65536 * unit))
      some (if chans = 2 then [word (800 * mono + blend * side), word (800 * mono - blend * side)] else [word (800 * mono)])
    | _, _ => none

/-- The channels of a set's output for the lead's elapsed tick `e`: in a cross-fade, (1 − j/N) of the old branch and j/N of the new
(R282). -/
def setSample (s : SourceSet) (chans : Nat) (m : Part) (e : Nat) : Option (List Int) :=
  match s.blends.find? fun b => decide (b.start ≤ e ∧ e < b.stop) with
  | none => branchWords s (branchAt s e) chans m e
  | some b =>
    match branchWords s b.old chans m e, branchWords s b.new chans m e with
    | some old, some new =>
      let n := (b.stop - b.start) / 512
      let j := (e - b.start) / 512 + 1
      some (old.zipWith (fun u v => Config.round (u * ((n : Int) - j) + v * j) n) new)
    | _, _ => none

/-- The words of `k` samples of a set's output from the grid tick at or after `lo` on, as far as its members' audio is at hand. -/
def setWords (s : SourceSet) (chans : Nat) (m : Part) (k lo _hi : Nat) : List Int :=
  let l := (List.range k).map fun i => setSample s chans m (lo + 512 * i)
  if l.any Option.isNone then [] else l.flatMap fun w => w.getD []

/-! ## PCM of AM and FM contexts (R195-R198) -/

/-- The state in force at an elapsed tick, of a list of states with their first ticks, newest first; the oldest stands for all before. -/
def stateAt (now : CtxState) (e : Nat) : List (Nat × CtxState) → CtxState
  | [] => now
  | [(_, s)] => s
  | (t, s) :: rest => if t ≤ e then s else stateAt now e rest

/-- Audio is demodulated in this state (Table ANA-2). -/
def audible (s : CtxState) : Bool := decide (s = .detected ∨ s = .track)

/-- Since when audio has been audible without a break at an elapsed tick, and the state before (Table ANA-2). -/
def audibleSince (x : Ctx) (e : Nat) : Option (Nat × CtxState) :=
  let l := x.ana.past.dropWhile fun p => decide (e < p.1)
  let run := l.takeWhile fun p => audible p.2
  match run.getLast?, (l.drop run.length).head? with
  | some r, some p => some (r.1, p.2)
  | _, _ => none

/-- Since when audio fades out at an elapsed tick: a LOST entered from a state with audio. One that a HOLD has interrupted is silent.
(DEDUCED, log 29) -/
def lostSince (x : Ctx) (e : Nat) : Option Nat :=
  match x.ana.past.dropWhile fun p => decide (e < p.1) with
  | (t, .lost) :: (_, b) :: _ => if audible b then some t else none
  | _ => none

/-- PCM stamped elapsed tick `s` is silence (R197, R198): outside DETECTED and TRACK but for the 10 ms that LOST fades out over. -/
def silentAt (x : Ctx) (s : Nat) : Bool :=
  match stateAt x.state s x.ana.past with
  | .detected => false
  | .track => false
  | .lost => !(lostSince x s).any fun t => decide (s < t + 512 * 480)
  | _ => true

/-- Which fixed demodulator delay applies (R195). -/
def demodKind (type : Nat) : Nat := if type = 1 then 0 else 1

/-- How far the stamp of an AM or FM context's PCM lies before the tick it is produced on (R59, R150, R195). -/
def pcmDelay (x : Ctx) : Nat :=
  (-(stampOf 0 (family x.cfg.type) x.chain.plan - (Config.demodDelay (demodKind x.cfg.type) : Int))).toNat

/-- A sample stamped elapsed tick `s` is one of the 48 that fade in after a HOLD (R198). -/
def fadesIn (x : Ctx) (s : Nat) : Bool :=
  (audibleSince x s).any fun r => decide (r.2 = .hold) && decide (s < r.1 + fadeTicks)

/-- The flags of an AM or FM context's own PCM produced on elapsed tick `e`: as its stamp lies in the context's states and fades, SETTLING
as the chain's outputs it was computed from were marked (Table ANA-2, R182, R198, Table FLW-3). -/
def analogueFlags (x : Ctx) (m : Part) (e : Nat) : Nat :=
  let s := e - pcmDelay x
  let byState := match stateAt x.state s x.ana.past with
    | .detected => 0
    | .track => 0
    | .hold => orFlags flagHold flagConcealed
    | _ => flagConcealed
  orFlags byState
    (orFlags (flagIf (inSpans s x.ana.fades || fadesIn x s) flagConcealed)
      (flagIf (inSpans (e - Config.demodDelay (demodKind x.cfg.type)) (settledSpans x m)) flagSettling))

/-- The elapsed ticks of production on which those flags may change. -/
def analogueEdges (x : Ctx) (m : Part) : List Nat :=
  (((x.ana.past.flatMap fun p => [p.1, p.1 + fadeTicks, p.1 + 512 * 480]) ++ x.ana.fades.flatMap fun s => [s.1, s.2]).map (· + pcmDelay x))
    ++ (((settledSpans x m).flatMap fun s => [s.1, s.2]).map (· + Config.demodDelay (demodKind x.cfg.type)))

/-- The weight of a sample stamped elapsed tick `s`, with 16 fractional bits: silence outside DETECTED and TRACK but for the 10 ms that
LOST fades out over; 10 ms of fade-in, 48 samples after a HOLD, and the 48 samples before a planned HOLD (R197, R198). -/
def audioWeight (x : Ctx) (s : Nat) : Int :=
  let base : Int :=
    match audibleSince x s with
    | some (since, before) =>
      let n := if before = .hold then 48 else 480
      if s < since + 512 * n then Config.fadeWeight ((s - since) / 512) n else 65536
    | none =>
      if silentAt x s then 0
      else (lostSince x s).elim 65536 fun since => 65536 - Config.fadeWeight ((s - since) / 512) 480
  match x.ana.fades.find? fun f => decide (f.1 ≤ s ∧ s < f.2) with
  | none => base
  | some f => Config.round (base * (65536 - Config.fadeWeight ((s - f.1) / 512) 48)) 65536

/-- The words of an AM or FM context's PCM with production ticks from `lo` to `hi`, faded (R353: 24 bits). -/
def audioWords (x : Ctx) (k lo hi : Nat) : List Int :=
  wordsIn k lo hi (x.ana.audio.map fun e =>
    (e.1, e.2.map fun v => Config.round (v * audioWeight x (e.1 - pcmDelay x)) 65536))

/-- The flags of the PCM that leaves on an AM or FM context's flows: its own, or those of the set it leads. -/
def programFlags (c : Nat) (x : Ctx) (m : Part) (e : Nat) : Nat :=
  match leadSet c 255 m with
  | some (_, s) => setFlags s m e
  | none => analogueFlags x m e

/-- The grid of an AM or FM context's PCM: samples on τ multiples of 512, the chain's and the demodulator's delays removed
from stamps (R59, R150, R195). -/
def analogueGrid (x : Ctx) (lo : Nat) (m : Part) : PcmGrid :=
  { anchor := gridAt pcmTicks lo m,
    shift := -(pcmDelay x : Int),
    chans := if x.cfg.type = 4 then 2 else 1 }

/-- Bring one PCM flow of an AM or FM context up to elapsed tick `hi`. -/
def catchPcm (c : Nat) (x : Ctx) (hi n : Nat) (m : Part) : Part :=
  match flow n m with
  | none => m
  | some f =>
    if hi ≤ f.produced then m
    else
      let set := leadSet c 255 m
      let pts := match set with
        | some s => setEdges s.2
        | none => analogueEdges x m
      let g := analogueGrid x f.produced m
      let words := match set with
        | some s => fun k lo hi => setWords s.2 g.chans m k (gridAt pcmTicks lo m) hi
        | none => audioWords x
      let silent : Nat → Bool := match set with
        | some _ => fun _ => false
        | none => fun e => silentAt x (e - pcmDelay x)
      onFlow n (fun f => { f with produced := hi })
        (pcmSpans n g words silent (programFlags c x m) f.produced hi (cutPoints f.produced hi pts) m)

/-- The PCM flows that an AM or FM context feeds; a watch and a probe feed none (R176, R177). -/
def analoguePcm (c : Nat) (x : Ctx) (m : Part) : List Nat :=
  if x.cfg.probe ∨ x.cfg.type = 2 ∨ digitalType x.cfg.type then []
  else flowsWhere (fun f => f.ofCtx c && decide (f.type = 1 ∧ f.sel = 255)) m

/-- Bring several PCM flows up to `hi`. -/
def catchPcmAll (c : Nat) (x : Ctx) (hi : Nat) : List Nat → Part → Part
  | [], m => m
  | n :: rest, m => catchPcmAll c x hi rest (catchPcm c x hi n m)

/-- How far the audio of an AM or FM context is at hand: where the model follows the sample path, to the end of the last block that its
demodulator has taken, for as long as blocks follow each other. -/
def heardReach (x : Ctx) (now : Nat) : Nat :=
  if x.delivered.path.fed ∧ now ≤ x.ana.heardTo + 2 * 61440 then min now x.ana.heardTo else now

/-- The elapsed tick up to which PCM of an AM or FM context is produced: its own up to 48 samples before the present, the span that a
planned HOLD would fade (R198), and no further than its audio is at hand; a set's output up to hold_back before it (R283).
(DEDUCED, log 29) -/
def pcmReach (c : Nat) (m : Part) : Nat :=
  let now := m.clock.elapsed
  match leadSet c 255 m with
  | some s => now - s.2.cfg.holdTicks
  | none => min (now - fadeTicks) ((ctx c m).elim now fun x => heardReach x now)

/-- Bring several I/Q flows up to elapsed tick `hi`. -/
def catchAll (hi : Nat) (x : Ctx) : List Nat → Part → Part
  | [], m => m
  | n :: rest, m => catchAll hi x rest (catchIq hi n x m)

/-- Bring the I/Q flows of a context up to where `iq` says, and its PCM flows as an AM or FM context up to elapsed tick `hi`. -/
def catchTo (c hi : Nat) (iq : Ctx → Part → Nat) (m : Part) : Part :=
  match ctx c m with
  | none => m
  | some x =>
    let m := catchAll (iq x m) x (flowsWhere (fun f => f.ofCtx c && decide (f.type = 5)) m) m
    catchPcmAll c x hi (analoguePcm c x m) m

/-- The sets of a context note their flags. -/
def noteSets (c : Nat) (m : Part) : Part := (setsOf c m).foldl (fun m n => noteSet n m) m

/-- Bring the flows of a context up to what has been produced. -/
def catchUp (c : Nat) (m : Part) : Part := catchTo c (pcmReach c m) iqReach (noteSets c m)

/-- Bring the flows of a context up to the present to the last sample: its content ends, or HT steps. -/
def flushUp (c : Nat) (m : Part) : Part := catchTo c m.clock.elapsed (fun _ m => m.clock.elapsed) (noteSets c m)

/-- At a 2.5 ms block, PCM is produced, and the audio samples and outputs that have been used are forgotten. -/
def blockPcm (c : Nat) (m : Part) : Part :=
  match ctx c m with
  | none => m
  | some x =>
    let hi := pcmReach c m
    let m := catchPcmAll c x hi (analoguePcm c x m) m
    onCtx c (fun x => { x with ana := { x.ana with audio := x.ana.audio.filter fun e => decide (hi ≤ e.1) } }) m

/-- A planned HOLD begins now: the 48 samples stamped before it are faded out and carry CONCEALED (R198). (DEDUCED, log 29) -/
def fadeOut (c : Nat) (m : Part) : Part :=
  let now := m.clock.elapsed
  onCtx c (fun x => { x with ana := { x.ana with fades := insertSpan (now - fadeTicks, now) x.ana.fades } }) m

/-! ## PCM of selections (R235, R244, R257, R258) -/

/-- The instant lies in an interval of HOLD of the context, widened by `margin` on both sides. (DEDUCED, log 29) -/
def inHoldSpan (x : Ctx) (margin e : Nat) : Bool :=
  x.holdSpans.any (fun s => decide (s.1 ≤ e + margin ∧ e < s.2 + margin))
    || (x.inHold && decide ((x.live.map (·.holdFrom)).foldl max 0 ≤ e + margin))

/-- Where flags of stamped content may change: the edges of HOLD intervals and of their fades. (DEDUCED, log 29) -/
def holdEdges (x : Ctx) : List Nat :=
  (x.holdSpans.flatMap fun s => [s.1 - fadeTicks, s.1, s.2, s.2 + fadeTicks])
    ++ (if x.inHold then [(x.live.map (·.holdFrom)).foldl max 0 - fadeTicks, (x.live.map (·.holdFrom)).foldl max 0] else [])

/-- The flags of a selection's own PCM stamped `e`: HOLD and CONCEALED inside a HOLD interval, CONCEALED in its fades, and
`own` (R235). -/
def selectionFlags (x : Ctx) (own e : Nat) : Nat :=
  orFlags own (orFlags (flagIf (inHoldSpan x 0 e) flagHold) (flagIf (inHoldSpan x fadeTicks e) flagConcealed))

/-- The weight of decoded audio stamped elapsed tick `e`, with 16 fractional bits: silence in a HOLD interval, with fades over the 48 samples
before it and after it (R235). -/
def holdWeight (x : Ctx) (e : Nat) : Int :=
  if inHoldSpan x 0 e then 0
  else
    match x.holdSpans.find? fun s => decide (s.2 ≤ e ∧ e < s.2 + fadeTicks) with
    | some s => Config.fadeWeight ((e - s.2) / pcmTicks) 48
    | none =>
      let starts := (x.holdSpans.map (·.1)) ++ (if x.inHold then [(x.live.map (·.holdFrom)).foldl max 0] else [])
      match starts.find? fun s => decide (e < s ∧ s ≤ e + fadeTicks) with
      | some s => 65536 - Config.fadeWeight ((e + fadeTicks - s) / pcmTicks) 48
      | none => 65536

/-- PCM of one flow of a selection at the places from `lo` to `hi`, each stamped `shift` later: flags by the stamp, and silence where
`silent` says so or the stamp lies in HOLD; a set's lead carries the set's own (R235, R283). `pts` are places where the content changes. -/
def selSpan (c sel : Nat) (x : Ctx) (own : Nat) (silent : Nat → Bool) (words : Nat → Nat → Nat → List Int) (lo hi : Nat) (shift : Int)
    (pts : List Nat) (n : Nat) (m : Part) : Part :=
  let g : PcmGrid := { anchor := lo, shift := shift, chans := 2 }
  let stamp (e : Nat) : Nat := ((e : Int) + shift).toNat
  let set := leadSet c sel m
  let flags : Nat → Nat := match set with
    | some (_, s) => fun e => orFlags (setFlags s m (stamp e)) own
    | none => fun e => selectionFlags x own (stamp e)
  let edges := (match set with
    | some (_, s) => setEdges s
    | none => holdEdges x).map fun e => ((e : Int) - shift).toNat
  let quiet (e : Nat) : Bool := silent e || (set.isNone && inHoldSpan x 0 (stamp e))
  onFlow n (fun f => { f with produced := hi }) (pcmSpans n g words quiet flags lo hi (cutPoints lo hi (edges ++ pts)) m)

/-- Silence on one flow of a selection up to elapsed tick `hi`. -/
def selFill (c sel : Nat) (x : Ctx) (own : Nat) (silent : Bool) (hi n : Nat) (m : Part) : Part :=
  match flow n m with
  | none => m
  | some f =>
    if hi < f.produced + pcmTicks then m
    else selSpan c sel x own (fun _ => silent) (fun _ _ _ => []) f.produced (f.produced + (hi - f.produced) / pcmTicks * pcmTicks) 0 [] n m

/-- How the samples of a unit are weighed (R257, R258): how many PCM frames have failed before it, whether it fails itself, and how many of a
fade-in are still to come. -/
structure UnitFade where
  failed : Nat
  fails : Bool
  fade : Nat
deriving DecidableEq, Repr

/-- PCM frames of the 48 ms over which the last good spectrum fades (R258). -/
abbrev concealFrames : Nat := 2304

/-- The weight of frame `i` of a unit, with 16 fractional bits (R258): a failed unit fades over the first 48 ms of a failure, and the first
good one after it fades in over 10 ms. -/
def UnitFade.weight (w : UnitFade) (i : Nat) : Int :=
  if w.fails then 65536 - Config.fadeWeight (min (w.failed + i) concealFrames) concealFrames
  else if i < w.fade then Config.fadeWeight (480 - w.fade + i) 480
  else 65536

/-- The words of a unit by place, its first frame at place `lo`, stamped `shift` later. -/
def unitWords (x : Ctx) (led : Bool) (w : UnitFade) (pcm : List Int) (lo : Nat) (shift : Int) : List (Nat × List Int) :=
  (List.range (pcm.length / 2)).map fun i =>
    let at_ := lo + i * pcmTicks
    let hold : Int := if led then 65536 else holdWeight x ((at_ : Int) + shift).toNat
    (at_, [pcm.getD (2 * i) 0, pcm.getD (2 * i + 1) 0].map fun v => Config.round (v * w.weight i * hold) (65536 * 65536))

/-- One unit's PCM on one flow of a selection (R59): its samples follow those before them, unless its stamp lies a frame or more ahead or it
is the first to decode; what is missing up to there is silence. Every sample is stamped by its place in its own unit. (DEDUCED, log 29) -/
def selUnit (c sel : Nat) (x : Ctx) (frame own : Nat) (first : Bool) (w : UnitFade) (pcm : List Int) (frames at_ n : Nat) (m : Part) : Part :=
  match flow n m with
  | none => m
  | some f =>
    let lo := if at_ < f.produced + (if first then 0 else frame) then f.produced else at_
    let set := leadSet c sel m
    let m := if lo = f.produced then m
      else selSpan c sel x (if set.isSome then 0 else flagConcealed) (fun _ => set.isNone) (fun _ _ _ => []) f.produced lo 0 [] n m
    let shift := (at_ : Int) - lo
    let hi := lo + pcmTicks * frames
    let words : Nat → Nat → Nat → List Int := match set with
      | some (_, s) =>
        match branchAt s at_ with
        | .digital _ _ => fun k a b => wordsIn k a b (unitWords x true w pcm lo shift)
        | _ => fun k a b => setWords s 2 m k ((a : Int) + shift).toNat ((b : Int) + shift).toNat
      | none => fun k a b => wordsIn k a b (unitWords x false w pcm lo shift)
    let quiet (e : Nat) : Bool := w.fails && decide (lo + (concealFrames - w.failed) * pcmTicks ≤ e)
    if frames = 0 then m else selSpan c sel x own quiet words lo hi shift [lo + (concealFrames - w.failed) * pcmTicks] n m

/-- The PCM flows of a selection. -/
def pcmOf (c sel : Nat) (m : Part) : List Nat :=
  flowsWhere (fun f => f.ofCtx c && decide (f.type = 1 ∧ f.sel = sel)) m

/-- Silence on every flow of a selection up to elapsed tick `hi`. -/
def selFillAll (c sel : Nat) (x : Ctx) (own : Nat) (silent : Bool) (hi : Nat) (m : Part) : Part :=
  (pcmOf c sel m).foldl (fun m n => selFill c sel x own silent hi n m) m

/-- A unit's PCM on every flow of a selection. -/
def selUnitAll (c sel : Nat) (x : Ctx) (frame own : Nat) (first : Bool) (w : UnitFade) (pcm : List Int) (frames at_ : Nat) (m : Part) : Part :=
  (pcmOf c sel m).foldl (fun m n => selUnit c sel x frame own first w pcm frames at_ n m) m

end Sys2Proof.Machine
end

