-- ==== Sys2Proof/Machine/LifeCycle.lean ====
section
/-! DEFINITION. The life cycle of a context (R178-R183), its chain's tuning, zeroing and cross-fade (R147, R152, R156-R160,
R164-R166), HOLD (R181) and quality windows and reports (R187-R190). -/

namespace Sys2Proof.Machine

/-! ## Transition causes (EV_CTX_STATE, Table HIF-13) -/

abbrev causeCommand : Nat := 0
abbrev causeCriterion : Nat := 1
abbrev causeTimeout : Nat := 2
abbrev causeCalibration : Nat := 3
abbrev causeTile : Nat := 4
abbrev causeFence : Nat := 5
abbrev causeEndOfHold : Nat := 6

/-! ## Copies -/

/-- The copy of a context. -/
def Ctx.copy (x : Ctx) : Copy → Option CopyState
  | .a => some x.a
  | .b => x.b

/-- Change one copy. -/
def Ctx.onCopy (x : Ctx) (c : Copy) (f : CopyState → CopyState) : Ctx :=
  match c with
  | .a => { x with a := f x.a }
  | .b => { x with b := x.b.map f }

/-- Change every copy. -/
def Ctx.onCopies (x : Ctx) (f : CopyState → CopyState) : Ctx := { x with a := f x.a, b := x.b.map f }

/-- The copy that runs on half `h`. -/
def copyOn (h : Nat) : Copy := if h % 2 = 0 then .a else .b

/-- Enter a state now (R179): the AGC is fast in SEARCH and ACQUIRE and freezes on detection (R185, R186); the criteria count afresh from
each entry into SEARCH (R180), and the demodulators start afresh there (R218); the pilot loop begins its search in ACQUIRE (R210). During a
HOLD the state is the one returned to. -/
def CopyState.enter (s : CtxState) (now : Nat) (c : CopyState) : CopyState :=
  let frozen := match s with
    | .search => false
    | .acquire => false
    | .detected => true
    | _ => c.agcFrozen
  let loops := match s with
    | .search => true
    | .acquire => true
    | _ => false
  let c := { c with held := s, agcFrozen := frozen, pilot := if loops then .searching else c.pilot,
                    amLocked := c.amLocked && decide (s ≠ CtxState.search), amFallback := c.amFallback && decide (s ≠ CtxState.search),
                    mpcBad := if loops then 0 else c.mpcBad,
                    searched := if s = CtxState.search then now else c.searched, seen := if s = CtxState.search then {} else c.seen,
                    am := if s = CtxState.search then {} else c.am, fm := if s = CtxState.search then {} else c.fm,
                    ofdm := if s = CtxState.search then {} else c.ofdm }
  if c.inHold then { c with entered := c.holdFrom } else { c with state := s, entered := now }

/-- A cause of HOLD begins (R181). A probe's samples are held like any others, but it never leaves SEARCH (R177, R179).
(DEDUCED, log 22) -/
def CopyState.hold (probe : Bool) (cause : HoldCause) (now : Nat) (c : CopyState) : CopyState :=
  if c.isFenced ∨ c.holds.contains cause then c
  else if c.inHold then { c with holds := cause :: c.holds }
  else { c with state := if probe then c.state else .hold, held := c.state, holds := [cause], holdFrom := now }

/-- A cause of HOLD ends; when it was the last, the copy returns to the state held, its timers moved on (R181). -/
def CopyState.release (cause : HoldCause) (now : Nat) (c : CopyState) : CopyState :=
  if !c.holds.contains cause then c
  else
    let rest := c.holds.filter fun h => decide (h ≠ cause)
    if rest.isEmpty then
      { c with state := c.held, holds := [], entered := c.entered + (now - c.holdFrom),
               out := insertSpan (c.holdFrom, now) c.out }
    else { c with holds := rest }

/-- The context is in a state whose windows follow its frames (R187). -/
def frameWindows (x : Ctx) : Bool :=
  digitalType x.cfg.type && (match x.under with
    | .detected => true
    | .track => true
    | .lost => true
    | _ => false)

/-- What a window in progress notes of a change: it ends at the first start of a new kind (R187), and it is no longer one
spent wholly in SEARCH (R189). -/
def Ctx.noteChange (before : Ctx) (x : Ctx) : Ctx :=
  { x with quality := { x.quality with
      changing := x.quality.changing || (frameWindows before != frameWindows x),
      searchOnly := x.quality.searchOnly && decide (x.under = .search) } }

/-! ## Delivery of a pair (R27-R30) -/

/-- The mode of the pair that runs a context. -/
def pairMode (c : Nat) (m : Part) : HalfMode :=
  let a := (half (halfA (ctxHalf c)) m).mode
  if a.paired then a else (half (halfB (ctxHalf c)) m).mode

/-- R29 excludes the context from combining. -/
def tooFar (c : Nat) (x : Ctx) (m : Part) : Bool :=
  (half (halfA (ctxHalf c)) m).diversity && decide (2000 < x.pair.delayNs.natAbs)

/-- Table ARC-5: the copy that is delivered, combined when both are in TRACK. -/
def tableDelivery (x : Ctx) (b : CopyState) : Copy :=
  if x.a.state = .track then .a
  else if b.state = .track then .b
  else if x.a.state.rank < b.state.rank then .b else .a

/-- The other copy. -/
def otherCopy : Copy → Copy
  | .a => .b
  | .b => .a

/-- Delivery by selection (R30): the delivered copy is left when it is not in TRACK while the other is, when a fence has withdrawn it
(R38), and when the other has been better for 1 s; `since` is the start of that span, `none` when it is broken.
(DEDUCED, log 20) -/
def selectDelivery (x : Ctx) (b : CopyState) (since : Option Nat) (now : Nat) : Delivery :=
  let p := x.pair
  let cur := if p.combined then (if x.a.state ≠ .track ∧ b.state = .track then Copy.b else .a) else p.copy
  let stateOf (k : Copy) : CtxState := match k with
    | .a => x.a.state
    | .b => b.state
  let leave := decide (stateOf cur = .fenced)
    || (decide (stateOf cur ≠ .track) && decide (stateOf (otherCopy cur) = .track))
  let better := since.any fun s => decide (s + ticksPerSecond ≤ now)
  if leave || better then { p with copy := otherCopy cur, combined := false, excessSince := none, switches := p.switches + 1 }
  else { p with copy := cur, combined := false, excessSince := since }

/-- What is delivered from a boundary of R28 on (R27-R30). -/
def delivery (c : Nat) (x : Ctx) (b : CopyState) (since : Option Nat) (m : Part) : Delivery :=
  if pairMode c m ≠ .standby ∧ !tooFar c x m then
    { x.pair with copy := tableDelivery x b, combined := true, far := false, due := none, excessSince := none }
  else { selectDelivery x b since m.clock.elapsed with far := decide (pairMode c m ≠ .standby), due := none }

/-- A change of the copies' states that waits for its boundary takes effect once that has come (R28, R30). -/
def settlePair (c : Nat) (m : Part) : Part :=
  onCtx c (fun x =>
    match x.b with
    | none => x
    | some b =>
      if x.pair.due.any fun e => decide (e ≤ m.clock.elapsed) then { x with pair := delivery c x b x.pair.excessSince m }
      else x) m

/-- Ticks of a DAB logical frame. -/
abbrev logicalFrame : Nat := 589824

/-- The boundary of R28 at or after now of a DAB context, and of a DRM context the present: its next released audio frame settles it.
AM and FM judge at every block. (DEDUCED, log 20) -/
def boundaryAfter (x : Ctx) (now : Nat) : Option Nat :=
  if x.cfg.type = 7 then some (x.dig.frameStart + ceilDiv (now - x.dig.frameStart) logicalFrame * logicalFrame)
  else if digitalType x.cfg.type then some now else none

/-- The states of the copies have changed: a digital pair's delivery is judged again at the next boundary (R28). -/
def Ctx.noteDelivery (before : Ctx) (now : Nat) (x : Ctx) : Ctx :=
  if x.b.isSome ∧ (before.a.state ≠ x.a.state ∨ before.b.map CopyState.state ≠ x.b.map CopyState.state) then
    { x with pair := { x.pair with due := x.pair.due.or (boundaryAfter x now) } }
  else x

/-- How long the intervals and states by which content is flagged are kept: 1 s, beyond any delay from a stamp to the content's
production. (DEDUCED, log 29) -/
abbrev keptTicks : Nat := ticksPerSecond

/-- States with their first ticks, newest first, without those that ended before elapsed tick `e`. -/
def keepStates (e : Nat) : List (Nat × CtxState) → List (Nat × CtxState)
  | [] => []
  | p :: rest => if p.1 ≤ e then [p] else p :: keepStates e rest

/-- Take note of a new state of a context (Table ANA-2). -/
def Ctx.noteState (before : Ctx) (now : Nat) (x : Ctx) : Ctx :=
  if before.state = x.state then x
  else
    let past := if x.ana.past.isEmpty then [(0, before.state)] else x.ana.past
    { x with ana := { x.ana with past := (now, x.state) :: keepStates (now - keptTicks) past } }

/-- The pilot of the copy that is delivered. -/
def Ctx.pilot (x : Ctx) : Pilot := x.delivered.pilot

/-- EV_FM_PILOT. -/
def pilotEvent (c : Nat) (locked : Bool) (m : Part) : Part :=
  raise (halfSource (ctxHalf c) 6) 0x88 [⟨0, 2, c⟩, ⟨2, 1, if locked then 1 else 0⟩] m

/-- EV_FM_PILOT when the context's pilot has changed between locked and not locked (R210). -/
def notePilot (c : Nat) (before : Pilot) (m : Part) : Part :=
  match ctx c m with
  | none => m
  | some x =>
    let locked := decide (x.pilot = .locked)
    if decide (before = .locked) == locked then m else pilotEvent c locked m

/-- Change a context's copies: EV_CTX_STATE when the reported state changes, EV_FM_PILOT when its pilot is locked no more, and its sets
follow (R179, R183, R210). -/
def changeCtx (c cause : Nat) (f : Ctx → Ctx) (m : Part) : Part :=
  let m := if (ctx c m).any fun x => decide (x.cfg.type = 7) then settlePair c m else m
  match ctx c m with
  | none => m
  | some x =>
    let y := Ctx.noteState x m.clock.elapsed (Ctx.noteDelivery x m.clock.elapsed (Ctx.noteChange x (f x)))
    let m := onCtx c (fun _ => y) m
    let m :=
      if x.state = y.state then m
      else
        raise (halfSource (ctxHalf c) 0) 0x80
          [⟨0, 2, c⟩, ⟨2, 1, x.state.code⟩, ⟨3, 1, y.state.code⟩, ⟨4, 1, cause⟩] m
    refreshCtx c (notePilot c x.pilot m)

/-- Record an interval of HOLD that has ended. -/
def Ctx.endSpan (before : Ctx) (now : Nat) (x : Ctx) : Ctx :=
  if before.inHold ∧ !x.inHold then
    { x with
      holdSpans := insertSpan (holdStart before, now) x.holdSpans,
      ana := if before.live.any (fun c => c.holds.contains .calibration) then
          { x.ana with erased := insertSpan (holdStart before, now) x.ana.erased }
        else x.ana }
  else x

/-- A cause of HOLD begins on the copy of context `c` that runs on half `h`. -/
def holdOn (h : Nat) (cause : HoldCause) (evCause c : Nat) (m : Part) : Part :=
  changeCtx c evCause (fun x => x.onCopy (if x.b.isSome then copyOn h else .a)
    (CopyState.hold x.cfg.probe cause m.clock.elapsed)) (catchUp c m)

/-- A cause of HOLD ends on that copy. -/
def releaseOn (h : Nat) (cause : HoldCause) (c : Nat) (m : Part) : Part :=
  let now := m.clock.elapsed
  changeCtx c causeEndOfHold (fun x => Ctx.endSpan x now (x.onCopy (if x.b.isSome then copyOn h else .a)
    (CopyState.release cause now))) (catchUp c m)

/-- A cause of HOLD begins on every copy of a context. -/
def holdCtx (cause : HoldCause) (evCause c : Nat) (m : Part) : Part :=
  changeCtx c evCause (fun x => x.onCopies (CopyState.hold x.cfg.probe cause m.clock.elapsed)) (catchUp c m)

/-- A cause of HOLD ends on every copy of a context. -/
def releaseCtx (cause : HoldCause) (c : Nat) (m : Part) : Part :=
  let now := m.clock.elapsed
  changeCtx c causeEndOfHold (fun x => Ctx.endSpan x now (x.onCopies (CopyState.release cause now))) (catchUp c m)

/-! ## Tuning (R104, R147, R152, R168, R169) -/

/-- Occupancy width and centre offset of DRM30, in Hz (R169). -/
def drmOccupancy (o : Nat) : Nat × Nat :=
  match o with
  | 0 => (4500, 2250)
  | 1 => (5000, 2500)
  | 2 => (9000, 0)
  | 3 => (10000, 0)
  | 4 => (18000, 4500)
  | _ => (20000, 5000)

/-- The tuned frequency (R169). -/
def tuned (cfg : CtxCfg) : Nat := if cfg.type = 5 then cfg.freq + (drmOccupancy cfg.occupancy).2 else cfg.freq

/-- Channel bandwidth (Table CTX-1). -/
def bandwidth (cfg : CtxCfg) : Nat :=
  if cfg.type = 1 then 9000
  else if cfg.type = 5 then (drmOccupancy cfg.occupancy).1
  else if cfg.type = 6 then 100000
  else if cfg.type = 7 then 1536000
  else 200000

/-- Pass bands (Table RFI-3), in Hz: L, V1, V3. -/
def bandEdges : List (Nat × Nat) := [(148500, 30000000), (47000000, 108000000), (174000000, 250000000)]

/-- The band that holds the whole channel (R104). -/
def bandOf (cfg : CtxCfg) : Option Nat :=
  let f := 2 * tuned cfg
  let b := bandwidth cfg
  bandEdges.findIdx? fun e => decide (2 * e.1 + b ≤ f) && decide (f + b ≤ 2 * e.2)

/-- The bin whose centre lies nearest, the lower one midway (R147). -/
def binOf (plan freq : Nat) : Nat := ceilDiv (2 * freq - binSpacing plan) (2 * binSpacing plan)

/-- The NCO frequency word: the nearest value for the offset from the bin centre (R152). -/
def ncoWord (plan freq : Nat) : Int :=
  roundDiv (((freq : Int) - (binOf plan freq * binSpacing plan : Nat)) * 2 ^ 32) (binRate plan)

/-- The plan of the tile that holds a context. -/
def ctxPlan (c : Nat) (m : Part) : Nat := (tile (halfTile (ctxHalf c)) m).plan

/-- Set bin and word for the tuned frequency at a plan; the accumulator runs on (R147, R152). -/
def ChainState.tune (cfg : CtxCfg) (plan : Nat) (s : ChainState) : ChainState :=
  { s with bin := binOf plan (tuned cfg), word := ncoWord plan (tuned cfg), plan := plan }

/-- The part's default coefficients for a context at a plan: by configuration and channel bandwidth, as they stand when the bank takes them
(R156). -/
def defaultBank (cfg : CtxCfg) (plan : Nat) : Bank := { conf := configuration cfg.type plan, width := bandwidth cfg }

/-- Both banks take the default coefficients; bank 0 is active (R156). -/
def ChainState.defaults (cfg : CtxCfg) (s : ChainState) : ChainState :=
  { s with bank0 := defaultBank cfg s.plan, bank1 := defaultBank cfg s.plan, active1 := false }

/-- EV_XFADE_DONE, stamped `stamp`; the fade has ended (R158). -/
def endFade (c stamp : Nat) (m : Part) : Part :=
  raiseAt stamp (halfSource (ctxHalf c) 1) 0x81 [⟨0, 2, c⟩]
    (onCtx c (fun x => { x with chain := { x.chain with fade := none } }) m)

/-- The elapsed grid tick of a fade's output N. -/
def fadeEnd (x : Ctx) (f : Fade) : Nat := f.first + (f.len - 1) * (family x.cfg.type).k

/-- A fade whose output N has been reached has ended, before any action of that tick (R159). (DEDUCED, log 25) -/
def settleFade (c : Nat) (m : Part) : Part :=
  match ctx c m with
  | none => m
  | some x =>
    match x.chain.fade with
    | none => m
    | some f => if fadeEnd x f ≤ m.clock.elapsed then endFade c (htOf (fadeEnd x f) m) m else m

/-- Complete a running fade at once (R160). -/
def completeFade (c : Nat) (m : Part) : Part :=
  let m := settleFade c m
  if (ctx c m).any fun x => x.chain.fade.isSome then endFade c m.clock.ht m else m

/-- Zero a context's chain now, with the NCO accumulator at `phase` (R164, R165): a running fade completes, and the first L
outputs carry SETTLING. -/
def zeroChain (c phase : Nat) (m : Part) : Part :=
  let m := completeFade c (catchUp c m)
  onCtx c (fun x =>
    let x := Ctx.settleFrom m x
    { x with chain := { x.chain with zeroed := m.clock.elapsed, phase := phase } }) m

/-- The first L outputs from now on carry SETTLING, with the delay lines kept (R165, R166). -/
def settleNow (c : Nat) (m : Part) : Part :=
  let m := catchUp c m
  onCtx c (Ctx.settleFrom m) m

/-- The same for the one copy of a pair that runs on half `h`: the other carries the context (R32, R165). -/
def settleCopy (h c : Nat) (m : Part) : Part :=
  onCtx c (fun x => x.onCopy (copyOn h) fun y =>
    { y with out := insertSpan (settleSpan y.settle x m) y.out, settle := m.clock.elapsed }) m

/-- A tile returns at a plan: the context's chain is zeroed, tuned again, and takes defaults when its configuration has changed
(Table CHN-6, R156). -/
def restartChain (plan c : Nat) (m : Part) : Part :=
  match ctx c m with
  | none => m
  | some x =>
    let differ := decide (configuration x.cfg.type x.chain.plan ≠ configuration x.cfg.type plan)
    let m := zeroChain c 0 m
    onCtx c (fun x =>
      let s := x.chain.tune x.cfg plan
      { x with chain := if differ then s.defaults x.cfg else s }) m

/-! ## Quality windows and reports (R187-R190) -/

/-- Length of a full window of the context's present kind, in ticks (R187). -/
def windowLength (x : Ctx) : Nat :=
  if frameWindows x then
    if x.cfg.type = 7 then 2359296 else if x.cfg.type = 5 then 9830400 else 2457600
  else 2457600

/-- The fraction of the window that counts as valid, in 1/1024 (R190). -/
def validFraction (x : Ctx) (m : Part) : Nat :=
  let lo := x.quality.start
  let hi := m.clock.elapsed
  let len := if x.quality.changing then hi - lo else windowLength x
  min 1024 (1024 * ((hi - lo) - spanIn lo hi (excluded x m)) / max 1 len)

/-- The half whose copy is delivered: half A's while the two are combined, for which Table CTX-8 names none.
(DESIGN CHOICE, log 20) -/
def deliveredHalf (c : Nat) (x : Ctx) : Nat :=
  match x.b, x.pair.copy with
  | some _, .b => partner (ctxHalf c)
  | _, _ => ctxHalf c

/-- The band of a context on the half whose copy is delivered. -/
def ctxBand (c : Nat) (x : Ctx) (m : Part) : Band :=
  (half (deliveredHalf c x) m).bands.getD ((bandOf x.cfg).getD 0) {}

/-- pair_sel of Table CTX-8. -/
def pairSel (x : Ctx) : Nat :=
  match x.b with
  | none => 0
  | some b =>
    if x.pair.far then 4
    else if x.pair.combined ∧ x.a.state = .track ∧ b.state = .track then 1
    else match x.pair.copy with
      | .a => 2
      | .b => 3

/-- The window holds an idle interval for the noise floor (R189). -/
def idleAllowed (x : Ctx) : Bool :=
  x.cfg.probe || (if x.cfg.type = 7 then frameWindows x else x.quality.searchOnly && !x.quality.presence)

/-- The idle interval of the window, if it counts: of DAB a null symbol with no sample in HOLD or SETTLING; of the others the whole
window (R189). -/
def idleOf (x : Ctx) (q : QualityMeasure) (m : Part) : Option (Int × Nat) :=
  if !idleAllowed x then none
  else if x.cfg.type = 7 then
    q.idle.filter fun i =>
      let e := m.clock.elapsed - i.2
      decide (spanIn (e - 31872) e (excluded x m) = 0)
  else q.idle.map fun i => (i.1, 0)

/-- A CNR or MER saturates at 45 dB (R188). -/
def satDb (v : Option Int) : Option Int := v.map fun q => min 450 q

/-- The external gain a level of half `h` is referred by: half A's for both copies of a SHARED pair (R26, R107). It is in 0.1 dB. -/
def extGainOf (h : Nat) (m : Part) : Int :=
  (half (if h % 2 = 1 ∧ paired h m ∧ !(half (partner h) m).diversity then partner h else h) m).extGain

/-- The measures that apply, referred to the input less ext_gain (Table CTX-7, R107). -/
def applicable (c : Nat) (x : Ctx) (q : QualityMeasure) (m : Part) : QualityMeasure :=
  let g := extGainOf (deliveredHalf c x) m
  let copy (h : Nat) (v : Option Int) : Option Int := if x.b.isSome then v.map fun v => v - extGainOf h m else none
  { q with
    level := q.level.map fun v => v - g, cnr := satDb q.cnr, mer := if digitalType x.cfg.type then satDb q.mer else none,
    idle := (idleOf x q m).map fun i => (i.1 - g, i.2),
    aLevel := copy (ctxHalf c) q.aLevel, aQuality := if x.b.isSome then satDb q.aQuality else none,
    bLevel := copy (partner (ctxHalf c)) q.bLevel, bQuality := if x.b.isSome then satDb q.bQuality else none }

/-- The noise floor that stands at the end of a window, and the elapsed tick on which its idle interval ended (R189). -/
def windowFloor (w : QualityWindow) (q : QualityMeasure) (now : Nat) : Option Int × Option Nat :=
  match q.idle with
  | some (v, ago) => (some v, some (now - ago))
  | none => (w.floor, w.floorEnd)

/-- Detector periods of the delivered half with a clipped sample, since the window began (R119). -/
def windowClips (c : Nat) (x : Ctx) (m : Part) : Nat :=
  let h := deliveredHalf c x
  (half h m).clipPeriods - (if h = ctxHalf c then x.quality.clipBase else x.quality.clipBaseB)

/-- A count of errors and the units examined, as a report carries it (R188). -/
def errorPair (x : Ctx) (err cnt : Nat) : Option (Nat × Nat) :=
  if x.cfg.type = 1 then none else some (min (2 ^ 32 - 1) err, min (2 ^ 32 - 1) cnt)

/-- A report of the window that ends now, with the applicable measures `q` (Table CTX-8). -/
def makeReport (c : Nat) (x : Ctx) (state : CtxState) (q : QualityMeasure) (m : Part) : Report :=
  let w := x.quality
  let (floor, floorEnd) := windowFloor w q m.clock.elapsed
  { winStart := w.startHt, state := state, type := x.cfg.type, level := q.level, cnr := q.cnr, mer := q.mer,
    floor := floor, floorAge := floorEnd.elim (2 ^ 32 - 1) fun e => min (2 ^ 32 - 1) (m.clock.elapsed - e),
    preErr := errorPair x w.preErr w.preCnt, postErr := errorPair x w.postErr w.postCnt,
    agc := (match x.pair.copy with | .a => x.a | .b => x.b.getD x.a).agc,
    atten := (ctxBand c x m).atten,
    iterMean := if w.iterBlocks = 0 then 0 else 32 * w.iterSum / w.iterBlocks,
    iterShort := min 65535 w.iterShort, clip := min 65535 (windowClips c x m), valid := validFraction x m,
    aLevel := q.aLevel, aQuality := q.aQuality, bLevel := q.bLevel, bQuality := q.bQuality,
    pairSel := pairSel x, pairDelay := if x.b.isSome then x.pair.delayNs else 0 }

/-- Count errors into the window in progress: pre-decoder errors and units, post-decoder failures and units (R188). -/
def countErrors (c pre preN post postN : Nat) (m : Part) : Part :=
  onCtx c (fun x => { x with quality := { x.quality with
    preErr := x.quality.preErr + pre, preCnt := x.quality.preCnt + preN,
    postErr := x.quality.postErr + post, postCnt := x.quality.postCnt + postN } }) m

/-- A 16-bit measure, 0x8000 for N/A (R188). -/
def na16 (v : Option Int) : Int := v.getD (-32768)

/-- The 64 bytes of a report (Table CTX-8). -/
def reportFields (c : Nat) (r : Report) : List Field :=
  [⟨0, 8, r.winStart⟩, ⟨8, 2, c⟩, ⟨10, 1, r.state.code⟩, ⟨11, 1, r.type⟩, ⟨12, 2, na16 r.level⟩, ⟨14, 2, na16 r.cnr⟩,
   ⟨16, 2, na16 r.mer⟩, ⟨18, 2, na16 r.floor⟩, ⟨20, 4, r.floorAge⟩,
   ⟨24, 4, r.preErr.elim (2 ^ 32 - 1) fun p => (p.1 : Int)⟩, ⟨28, 4, r.preErr.elim (2 ^ 32 - 1) fun p => (p.2 : Int)⟩,
   ⟨32, 4, r.postErr.elim (2 ^ 32 - 1) fun p => (p.1 : Int)⟩, ⟨36, 4, r.postErr.elim (2 ^ 32 - 1) fun p => (p.2 : Int)⟩,
   ⟨40, 2, r.agc⟩, ⟨42, 1, r.atten⟩, ⟨43, 1, r.iterMean⟩, ⟨44, 2, r.iterShort⟩, ⟨46, 2, r.clip⟩, ⟨48, 2, r.valid⟩,
   ⟨50, 2, na16 r.aLevel⟩, ⟨52, 2, na16 r.aQuality⟩, ⟨54, 2, na16 r.bLevel⟩, ⟨56, 2, na16 r.bQuality⟩,
   ⟨58, 1, r.pairSel⟩, ⟨60, 4, r.pairDelay⟩]

/-- Deliver a report to the context's quality flows (R187, R190). -/
def deliverReport (c : Nat) (r : Report) (m : Part) : Part :=
  appendItems r.winStart ((r.winStart : Int) - m.clock.grid) 0 { bytes := 64, fields := reportFields c r, body := [] }
    (flowsWhere (fun f => f.ofCtx c && decide (f.type = 4)) m) m

/-- The figures of a window that a close or a fence cuts short: no row reports them, so they are free values (R187).
(DESIGN CHOICE, log 10) -/
def freeMeasure (n : Nat) : QualityMeasure :=
  let v (i : Nat) : Option Int := some (Config.measured (n + i))
  { level := v 0, cnr := v 1, mer := v 2, idle := some (Config.measured (n + 3), (Config.measured (n + 4)).toNat),
    agcErrA := 0, agcErrB := 0, aLevel := v 5, aQuality := v 6, bLevel := v 7, bQuality := v 8, broadcast := [], reception := [] }

/-- End the window in progress because the context closes or its half is fenced (R187). -/
def cutWindow (c : Nat) (state : CtxState) (m : Part) : Part :=
  match ctx c m with
  | none => m
  | some x =>
    deliverReport c (makeReport c x state (applicable c x (freeMeasure m.free) m) m) { m with free := m.free + 9 }

/-- A context's window begins now. -/
def Ctx.startWindow (c : Nat) (m : Part) (x : Ctx) : Ctx :=
  let now := m.clock.elapsed
  { x.onCopies (fun c => { c with meter := {} }) with
    quality := { x.quality with
      start := now, startHt := m.clock.ht, changing := false, iterSum := 0, iterBlocks := 0, iterShort := 0,
      preErr := 0, preCnt := 0, postErr := 0, postCnt := 0,
      clipBase := (half (ctxHalf c) m).clipPeriods, clipBaseB := (half (partner (ctxHalf c)) m).clipPeriods,
      presence := false, searchOnly := decide (x.under = .search), resetBase := x.ana.mpcResets },
    holdSpans := x.holdSpans.filter fun s => decide (now ≤ s.2 + keptTicks),
    settleSpans := x.settleSpans.filter fun s => decide (now ≤ s.2 + keptTicks),
    ana := { x.ana with
      fades := x.ana.fades.filter fun s => decide (now ≤ s.2 + keptTicks),
      erased := x.ana.erased.filter fun s => decide (now ≤ s.2 + keptTicks) } }

/-! ## Transitions of one copy (Table CTX-4) -/

/-- A selection waits again for its multiplex: its feed starts afresh (R173, R244). -/
def Selection.restart (s : Selection) : Selection := { s with state := .waiting, synced := false, syncFails := 0, missing := 0, since := 0 }

/-- At each entry into ACQUIRE, the selections restart: they are fed again from the next DETECTED (R244). -/
def Ctx.startAcquire (x : Ctx) : Ctx := { x with sels := x.sels.map Selection.restart }

/-- Analogue state at each entry into DETECTED from SEARCH or ACQUIRE: mute and blend start afresh, the canceller adapts from
identity, and selections are fed from here on (R205, R212, R218, R244). -/
def Ctx.startDetected (now : Nat) (x : Ctx) : Ctx :=
  { x with
    sels := x.sels.map fun s => { s with since := max s.since now },
    ana := { x.ana with
    muteRunning := false, blend := 0,
    mpc := if x.cfg.type = 4 ∧ x.cfg.fm.mpc then .adapting else .off } }

/-- The canceller's taps return to identity, to adapt with mu_acq (R216, R219). -/
def CopyState.identity (c : CopyState) : CopyState :=
  { c with fm := { c.fm with ds := [], ff := [], fb := [], adapted := 0 } }

/-- Analogue and RDS state at each return to SEARCH: taps at identity (R218), and RDS synchronisation given up, where RDS does not run
(R223), without EV_RDS_SYNC. (DESIGN CHOICE, log 28) -/
def Ctx.startSearch (x : Ctx) : Ctx :=
  { x with
    ana := { x.ana with mpc := .off }, rds := {}, dig := { x.dig with organisation := [], occSignalled := 255 },
    sels := x.sels.map Selection.restart }

/-- One copy makes a transition for `cause`; `also` is what the context does when its reported
state becomes that state with it. -/
def moveCopy (c : Nat) (k : Copy) (s : CtxState) (cause : Nat) (also : Ctx → Ctx) (m : Part) : Part :=
  changeCtx c cause (fun x =>
    let y := x.onCopy k (CopyState.enter s m.clock.elapsed)
    if x.under ≠ s ∧ y.under = s then also y else y) (catchUp c m)

/-- The transition applies: the copy exists, is not in HOLD or fenced, is in state `s`, and the context is no probe (R177,
R181). -/
def copyIn (c : Nat) (k : Copy) (s : CtxState) (m : Part) : Bool :=
  (ctx c m).any fun x => !x.cfg.probe && (x.copy k).any fun y => decide (y.state = s)

end Sys2Proof.Machine
end

