-- ==== Sys2Proof/Machine/Admission.lean ====
section
/-! DEFINITION. Admission: context parameters with their ranges and defaults, what a half holds, and the ordered checks of
Table CTX-2 (R168-R177, R199, R207, R263, R462). -/

namespace Sys2Proof.Machine

/-! ## Parameters -/

/-- Byte `i` of the AM or FM block, with its default for all ones (R328, R334). -/
def blockByte (p : CtxParams) (i default : Nat) : Nat := orDefault 1 default (p.block.getD i 0)

/-- The AM block (Table ANA-3). -/
def decodeAm (p : CtxParams) : AmCfg :=
  { detector := blockByte p 0 1, audBw := blockByte p 1 4, deemph := blockByte p 2 0, nb := blockByte p 3 1,
    nbThresh := blockByte p 4 15, muteStart := blockByte p 5 10, muteDepth := blockByte p 6 20 }

/-- The AM block is in range (Table ANA-3). -/
def amValid (a : AmCfg) : Bool :=
  decide (a.detector ≤ 3 ∧ a.audBw ≤ 4 ∧ a.deemph ≤ 1 ∧ a.nb ≤ 1 ∧ 6 ≤ a.nbThresh ∧ a.nbThresh ≤ 30
    ∧ a.muteStart ≤ 20 ∧ a.muteDepth ≤ 40)

/-- Burst lengths that rds_corr codes (Table ANA-4). -/
def rdsCorrBits (code : Nat) : Nat := ([0, 1, 2, 5].getD code 0)

/-- The FM block (Table ANA-4). -/
def decodeFm (p : CtxParams) : FmCfg :=
  { deemph := blockByte p 0 1, blendHi := blockByte p 1 28, blendLo := blockByte p 2 16,
    forceMono := decide (blockByte p 3 0 = 1), muteStart := blockByte p 4 10, muteDepth := blockByte p 5 20,
    mpc := decide (blockByte p 6 1 = 1), muAcq := blockByte p 7 8, muTrack := blockByte p 8 11,
    rdsStd := blockByte p 9 0, rdsCorr := blockByte p 10 2 }

/-- The fields of the FM block that apply to `type` are in range (Table ANA-4). -/
def fmValid (type : Nat) (p : CtxParams) : Bool :=
  let f := decodeFm p
  decide (f.rdsStd ≤ 1 ∧ f.rdsCorr ≤ 3)
    && (decide (type = 2) || decide (f.deemph ≤ 2 ∧ f.muteStart ≤ 20 ∧ f.muteDepth ≤ 40))
    && (decide (type ≠ 4) || decide (10 ≤ f.blendHi ∧ f.blendHi ≤ 45 ∧ f.blendLo ≤ 40 ∧ f.blendLo + 4 ≤ f.blendHi
      ∧ blockByte p 3 0 ≤ 1 ∧ blockByte p 6 1 ≤ 1 ∧ 6 ≤ f.muAcq ∧ f.muAcq ≤ 14 ∧ 8 ≤ f.muTrack ∧ f.muTrack ≤ 16
      ∧ f.muAcq ≤ f.muTrack))

/-- The iteration limit of a type: its range's top, which is also its default (Table DEC-1). -/
def iterTop (type : Nat) : Nat := if type = 7 then 4 else if type = 5 ∨ type = 6 then 3 else 1

/-- The parameters of a context command with their defaults (Table HIF-10); CTX_WATCH takes type 2 (R333). A CTX_WATCH with the
probe bit, of which the spec says nothing, opens a probe. (DESIGN CHOICE, log 22) -/
def decodeCtx (watch : Bool) (p : CtxParams) : CtxCfg :=
  let type := if watch then 2 else p.type
  { type := type, freq := p.freq, probe := p.probe, prioHigh := p.prioHigh,
    lostTimeout := orDefault 2 20 p.lostTimeout,
    iterMax := if digitalType type then orDefault 1 (iterTop type) p.iterMax else 1,
    reserve := if type = 7 then p.reserve else 0, occupancy := if type = 5 then p.occupancy else 0,
    am := decodeAm p, fm := decodeFm p }

/-- Every parameter is in range and the channel lies wholly inside one band (order 4 of Table CTX-2). -/
def ctxValid (watch : Bool) (p : CtxParams) : Bool :=
  let c := decodeCtx watch p
  decide (1 ≤ c.type ∧ c.type ≤ 7) && decide (1 ≤ c.lostTimeout ∧ c.lostTimeout ≤ 600)
    && (!c.probe || decide (c.type ≤ 2))
    && (!digitalType c.type || decide (1 ≤ c.iterMax ∧ c.iterMax ≤ iterTop c.type))
    && decide (c.reserve ≤ 64 ∧ c.occupancy ≤ 5)
    && (decide (c.type ≠ 1) || amValid c.am)
    && (decide (c.type < 2 ∨ 4 < c.type) || fmValid c.type p)
    && (bandOf c).isSome

/-! ## Load (R168, R170, R174) -/

/-- Load units of a context (Table CTX-1); a probe costs 1 (R177). -/
def loadOf (c : CtxCfg) : Nat :=
  if c.probe then 1
  else
    match c.type with
    | 1 => 1
    | 2 => 1
    | 3 => 2
    | 4 => 3
    | 5 => 3
    | 6 => 6
    | _ => 12 + (c.reserve - 4)

/-- Decoded programs that a context books at admission (R174). -/
def programsOf (c : CtxCfg) : Nat :=
  if c.probe then 0 else if c.type = 1 ∨ c.type = 3 ∨ c.type = 4 then 1 else 0

/-- The parameters that a context command will give its slot. -/
def cmdCfg (slot : Nat) : HostCmd → Option CtxCfg
  | .ctxOpen p => if p.ctx = slot then some (decodeCtx false p) else none
  | .ctxWatch p => if p.ctx = slot then some (decodeCtx true p) else none
  | .ctxRetune p => if p.ctx = slot then some (decodeCtx false p) else none
  | _ => none

/-- The parameters that a decided action of following will give a slot (R296). -/
def followCfg (slot : Nat) : FollowAct → Option CtxCfg
  | .open_ c cfg => if c = slot then some cfg else none
  | .retune c cfg => if c = slot then some cfg else none
  | .promote c cfg => if c = slot then some cfg else none
  | .release c cfg => if c = slot then cfg else none
  | _ => none

/-- The slot that a decided open of following will take. -/
def followSlot : FollowAct → List Nat
  | .open_ c _ => [c]
  | _ => []

/-- The parameters that the accepted opens and retunes not yet executed will give a slot, and those that following has decided, in the
order of their acceptance (R171). -/
def cfgsAhead (slot : Nat) (m : Part) : List CtxCfg :=
  (m.sched.queue.filterMap fun a => cmdCfg slot a.cmd) ++ m.service.actions.filterMap fun a => followCfg slot a.act

/-- The parameters that a slot will have once every accepted command has executed (R171): the last accepted open or retune,
else the open context's own. -/
def cfgAfter (slot : Nat) (m : Part) : Option CtxCfg := (cfgsAhead slot m).getLast?.or ((ctx slot m).map Ctx.cfg)

/-- What a slot is held with (R171): the parameters of every accepted open and retune that has not executed, with the load after
execution; else the open context's own. -/
def cfgsHeld (slot : Nat) (m : Part) : List CtxCfg :=
  match cfgsAhead slot m with
  | [] => ((ctx slot m).map Ctx.cfg).toList
  | l => l

/-- The largest of some counts. -/
def most (l : List Nat) : Nat := l.foldl max 0

/-- The parameters that the entries of prepared plans will give a slot (R338). (DEDUCED, log 27) -/
def planCfgs (slot : Nat) (m : Part) : List CtxCfg :=
  m.plans.flatMap fun p => p.2.entries.filterMap fun e => (entryCmd e).bind (cmdCfg slot)

/-- The slots held: open contexts, and accepted opens and prepared opens that have not executed (R171, R338). -/
def heldSlots (m : Part) : List Nat :=
  let opens (c : HostCmd) : List Nat := if isOpen c then ctxsOf c else []
  ((m.ctxs.map (·.1)) ++ (m.sched.queue.flatMap fun a => opens a.cmd) ++ (m.service.actions.flatMap fun a => followSlot a.act)
    ++ (m.plans.flatMap fun p => p.2.entries.flatMap fun e => (entryCmd e).elim [] opens)).dedup

/-- The slot is held (R171). -/
def slotHeld (slot : Nat) (m : Part) : Bool := (heldSlots m).contains slot

/-- A selection's name: SubChId or stream, or service (R501). -/
structure SelName where
  byService : Bool
  sid : Nat
  sub : Nat
deriving DecidableEq, Repr

/-- The name that a command gives a selection of a context of some type: a service of DRM is named by its service ID alone (R501).
(DEDUCED, log 30) -/
def selName (type : Nat) (p : SelParams) : SelName :=
  if p.byService then { byService := true, sid := p.sid, sub := if type = 7 then p.scids else 0 }
  else { byService := false, sid := 0, sub := p.sub }

/-- The name of a selection. -/
def Selection.name (s : Selection) : SelName :=
  if s.byService then { byService := true, sid := s.sid, sub := if s.kind ≤ 3 then s.scids else 0 }
  else { byService := false, sid := 0, sub := s.sel }

/-- Kinds of SVC_SELECT that decode audio (Tables DIG-4, HIF-8). -/
def audioKind (k : Nat) : Bool := decide (k = 0 ∨ k = 1 ∨ k = 4)

/-- The type that a context will have once every accepted command has executed. -/
def typeAfter (slot : Nat) (m : Part) : Nat := (cfgAfter slot m).elim 0 CtxCfg.type

/-- One queued command moves the selections, by name and kind, of a context (R501). -/
def selsStep (slot : Nat) (m : Part) (l : List (SelName × Nat)) (c : HostCmd) : List (SelName × Nat) :=
  let name := selName (typeAfter slot m)
  match c with
  | .svcSelect p => if p.ctx = slot ∧ !(l.any fun s => decide (s.1 = name p)) then l ++ [(name p, p.kind)] else l
  | .svcDeselect p => if p.ctx = slot then l.filter fun s => decide (s.1 ≠ name p) else l
  | .ctxRetune p => if p.ctx = slot ∧ (ctx slot m).any fun x => decide (x.cfg.type ≠ p.type) then [] else l
  | _ => l

/-- The selections, by name and kind, that a context holds. -/
def selsNow (slot : Nat) (m : Part) : List (SelName × Nat) := (ctx slot m).elim [] fun x => x.sels.map fun s => (s.name, s.kind)

/-- The selections, by name and kind, that a context will hold once every accepted SVC_SELECT has executed (R501). -/
def selsAfter (slot : Nat) (m : Part) : List (SelName × Nat) := (m.sched.queue.map Action.cmd).foldl (selsStep slot m) (selsNow slot m)

/-- The most audio selections that a context holds at once from some on while several commands execute. -/
def audioPeak (slot : Nat) (m : Part) : List HostCmd → List (SelName × Nat) → Nat
  | [], l => (l.filter fun s => audioKind s.2).length
  | c :: rest, l => max (l.filter fun s => audioKind s.2).length (audioPeak slot m rest (selsStep slot m l c))

/-- Selections that prepared plans book on a context. (DEDUCED, log 27) -/
def planSels (slot : Nat) (m : Part) : List Nat :=
  m.plans.flatMap fun p => p.2.entries.filterMap fun e =>
    match e with
    | .select q => if q.ctx = slot then some q.kind else none
    | _ => none

/-- Load held for a slot (R171, R338). -/
def slotLoad (slot : Nat) (m : Part) : Nat :=
  most ((cfgsHeld slot m ++ planCfgs slot m).map loadOf)

/-- Audio selections that a context holds at most at once from now on: a release counts on its execution tick (R171, R174). -/
def slotAudio (slot : Nat) (m : Part) : Nat :=
  audioPeak slot m (m.sched.queue.map Action.cmd) (selsNow slot m) + ((planSels slot m).filter audioKind).length

/-- Decoded programs held for a slot (R171, R174, R338). -/
def slotPrograms (slot : Nat) (m : Part) : Nat :=
  most ((cfgsHeld slot m ++ planCfgs slot m).map programsOf) + slotAudio slot m

/-- The held slots of a half; a pair is counted on half A (R26). -/
def halfSlots (h : Nat) (m : Part) : List Nat := (heldSlots m).filter fun s => decide (ctxHalf s = h)

/-- Load units held on a half. -/
def luHeld (h : Nat) (m : Part) : Nat := ((halfSlots h m).map fun s => slotLoad s m).sum

/-- Decoded programs held on a half. -/
def programsHeld (h : Nat) (m : Part) : Nat := ((halfSlots h m).map fun s => slotPrograms s m).sum

/-- Contexts that a live unit admits: 64, or 8 while REDUCED (R34, R462). -/
def unitContexts (m : Part) : Nat := if m.ident.full then 64 else 8

/-- Decoded programs that a live unit admits: 128, or 8 while REDUCED (R34, R462). -/
def unitPrograms (m : Part) : Nat := if m.ident.full then 128 else 8

/-! ## Who a slot belongs to -/

/-- The context or half is fenced: every half that runs the slot is (R37, R38). -/
def slotFenced (slot : Nat) (m : Part) : Bool :=
  (ctxHalves slot m).all fun h => decide ((half h m).mode = .fenced)

/-- The half is parked. -/
def slotParked (slot : Nat) (m : Part) : Bool := decide ((half (ctxHalf slot) m).mode = .parked)

/-- Context ID beyond the fitted range, or a half B ID of a paired tile (R4, R26). -/
def slotOutside (slot : Nat) (m : Part) : Bool :=
  decide (halvesFitted m ≤ ctxHalf slot) || pairedB (ctxHalf slot) m

/-- A HALF_SETUP MODE that keeps the pair and its input arrangement: a delivery change (R23). -/
def deliveryChange (h mode input : Nat) (m : Part) : Bool :=
  let a := half h m
  paired h m && decide (mode = 1 ∨ mode = 2) && decide (a.diversity = decide (input = 1))

/-- A HALF_SETUP MODE that forms, ends or rearranges a pair (R23). -/
def pairingChange (h mode input : Nat) (m : Part) : Bool :=
  !deliveryChange h mode input m && (paired h m || decide (mode = 1 ∨ mode = 2))

/-- The HALF_SETUP MODE commands that have been accepted, or prepared in a plan, and have not executed (R23, R338).
(DEDUCED, log 27) -/
def modesAhead (m : Part) : List (Nat × Nat × Nat) :=
  let mode (c : HostCmd) : Option (Nat × Nat × Nat) :=
    match c with
    | .halfSetupMode n mode input => some (n, mode, input)
    | _ => none
  (m.sched.queue.filterMap fun a => mode a.cmd)
    ++ m.plans.flatMap fun p => p.2.entries.filterMap fun e => (entryCmd e).bind mode

/-- A HALF_SETUP MODE, other than a delivery change, has not executed and bars a slot's half (R23). (DEDUCED, log 27) -/
def modePending (h : Nat) (m : Part) : Bool :=
  (modesAhead m).any fun (n, mode, input) =>
    !deliveryChange n mode input m && (decide (n = h) || (decide (partner n = h) && pairingChange n mode input m))

/-- A context that service following opened (R300). -/
def policyOwned (slot : Nat) (m : Part) : Bool := (ctx slot m).any fun x => x.watchPolicy.isSome

/-! ## The checks -/

/-- The checks of a command that names a context it does not open: orders 1, 2 and 6 of Table CTX-2, then R300. -/
def slotStatus (slot : Nat) (m : Part) : Nat :=
  firstStatus [
    (slotOutside slot m, stBadParam), (slotFenced slot m, stFenced), (!slotHeld slot m, stNoContext)]

/-- The same, refused with ST_BUSY when the context belongs to a policy (R300). -/
def slotStatusOwned (slot : Nat) (m : Part) : Nat :=
  firstStatus [
    (decide (slotStatus slot m ≠ stOk), slotStatus slot m), (policyOwned slot m, stBusy)]

/-- Orders 7 and 8 of Table CTX-2 for a slot that is to take `cfg`, with the limits of REDUCED (R462): what the half holds
without the slot, plus what the slot will hold, the commands on it that have not executed included. -/
def capacityStatus (slot : Nat) (cfg : CtxCfg) (m : Part) : Nat :=
  let h := ctxHalf slot
  let others := (halfSlots h m).filter fun s => decide (s ≠ slot)
  let ahead := cfgsAhead slot m ++ planCfgs slot m
  let lu := (others.map fun s => slotLoad s m).sum + most ((cfg :: ahead).map loadOf)
  let progs := (others.map fun s => slotPrograms s m).sum + most ((cfg :: ahead).map programsOf)
    + (if digitalType cfg.type then slotAudio slot m else 0)
  firstStatus [
    (!m.ident.full && digitalType cfg.type, stNoCapacity),
    (decide (unitContexts m < others.length + 1), stNoCapacity),
    (decide (128 < lu), stNoCapacity),
    (decide (unitPrograms m < progs), stNoCapacity)]

/-- Table CTX-2 for CTX_OPEN and CTX_WATCH. -/
def openStatus (watch : Bool) (p : CtxParams) (m : Part) : Nat :=
  firstStatus [
    (slotOutside p.ctx m, stBadParam),
    (slotFenced p.ctx m, stFenced),
    (slotParked p.ctx m, stNoCapacity),
    (!ctxValid watch p, stBadParam),
    (slotHeld p.ctx m || modePending (ctxHalf p.ctx) m, stBusy),
    (decide (capacityStatus p.ctx (decodeCtx watch p) m ≠ stOk), capacityStatus p.ctx (decodeCtx watch p) m)]

/-- Table CTX-2 for CTX_RETUNE, with the reserve rule of R170 and R300. -/
def retuneStatus (p : CtxParams) (m : Part) : Nat :=
  let cfg := decodeCtx false p
  firstStatus [
    (slotOutside p.ctx m, stBadParam),
    (slotFenced p.ctx m, stFenced),
    (!ctxValid false p, stBadParam),
    (modePending (ctxHalf p.ctx) m, stBusy),
    (!slotHeld p.ctx m, stNoContext),
    (decide (capacityStatus p.ctx cfg m ≠ stOk), capacityStatus p.ctx cfg m),
    (decide (cfg.type = 7) && (cfgAfter p.ctx m).any (fun c => decide (c.type = 7))
      && decide (cfg.reserve < (selsAfter p.ctx m).length), stNoCapacity),
    (policyOwned p.ctx m, stBusy)]

end Sys2Proof.Machine
end

