-- ==== Sys2Proof/Machine/Closing.lean ====
section
/-! DEFINITION. How a selection, a context and a follow policy end (R57, R171, R187, R242, R255, R284, R301, R302, R357). -/

namespace Sys2Proof.Machine

/-! ## Which flows a context feeds (R303, R356, R357) -/

/-- A side-data subtype fits a context type (Table SVC-6). -/
def sideFits (subtype type : Nat) : Bool :=
  match subtype with
  | 1 => decide (type = 3 ∨ type = 4)
  | 2 => decide (type = 3 ∨ type = 4)
  | 3 => decide (2 ≤ type ∧ type ≤ 4)
  | 4 => decide (type = 7)
  | 5 => decide (type = 7)
  | 6 => decide (type = 7)
  | 7 => decide (type = 7)
  | 8 => decide (type = 5 ∨ type = 6)
  | 9 => decide (type = 5 ∨ type = 6)
  | _ => false

/-- The side-data subtypes of a selection (Table SVC-6). -/
def sideOfSelection (subtype : Nat) : Bool := decide (subtype = 5 ∨ subtype = 6 ∨ subtype = 7 ∨ subtype = 9)

/-- The flow is bound to a selection of its context. -/
def Flow.ofSelection (f : Flow) : Bool :=
  (decide (f.type = 1 ∧ f.subtype = 0) && decide (f.sel ≠ 255)) || decide (f.type = 2)
    || (decide (f.type = 3) && sideOfSelection f.subtype)

/-- A context of the type feeds the flow (R303, R357); a watch feeds quality reports and PI side data alone (R176). -/
def flowFits (type subtype sel ctxType : Nat) : Bool :=
  match type with
  | 1 => if sel = 255 then decide (ctxType = 1 ∨ ctxType = 3 ∨ ctxType = 4) else digitalType ctxType
  | 2 => digitalType ctxType
  | 3 => sideFits subtype ctxType
  | 5 => decide (ctxType ≠ 2)
  | _ => true

/-- The flow's source context feeds it now. -/
def Flow.fed (f : Flow) (type : Nat) : Bool := flowFits f.type f.subtype f.sel type

/-- The bound flows of selection `sel` of context `c`. -/
def selFlows (c sel : Nat) (m : Part) : List Nat :=
  flowsWhere (fun f => f.ofCtx c && f.ofSelection && decide (f.sel = sel)) m

/-! ## Selections -/

abbrev endRemoved : Nat := 0
abbrev endAbsent : Nat := 1
abbrev endCa : Nat := 2
abbrev endUnsupported : Nat := 3
abbrev endRetuned : Nat := 4

/-- Change the selections of a context. -/
def onSels (c : Nat) (f : List Selection → List Selection) (m : Part) : Part :=
  onCtx c (fun x => { x with sels := f x.sels }) m

/-- Change one selection. -/
def onSel (c sel : Nat) (f : Selection → Selection) (m : Part) : Part :=
  onSels c (fun l => l.map fun s => if s.sel = sel then f s else s) m

/-- Forget what is in progress for a selection. -/
def dropSelWork (c sel : Nat) (m : Part) : Part :=
  { m with
    blocks := m.blocks.filter fun b => decide ¬(b.ctx = c ∧ b.sel = sel),
    service := { m.service with
      mots := m.service.mots.filter fun b => decide ¬(b.ctx = c ∧ b.sel = sel),
      motsDone := m.service.motsDone.filter fun b => decide ¬(b.ctx = c ∧ b.sel = sel) } }

/-- End a selection: its program and its place are released, its flows wait for a later one, its sets follow. EV_SEL_ENDED
when the part ends it (Table DIG-11). -/
def endSelection (c : Nat) (s : Selection) (cause : Option Nat) (m : Part) : Part :=
  let m := dropSelWork c s.sel (breakFlows (selFlows c s.sel m) m)
  let m := onSels c (fun l => l.filter fun y => decide (y.name ≠ s.name)) m
  let m := match cause with
    | some k => raise (halfSource (ctxHalf c) 10) 0x8E [⟨0, 2, c⟩, ⟨2, 1, s.sel⟩, ⟨3, 1, k⟩] m
    | none => m
  refreshCtx c m

/-- End several selections of a context for one cause. (DEDUCED, log 26) -/
def endSelections (c cause : Nat) : List Selection → Part → Part
  | [], m => m
  | s :: rest, m => endSelections c cause rest (endSelection c s (some cause) m)

/-! ## Contexts -/

/-- A context ends in `state`: its window is cut and reported, EV_CTX_STATE is raised, it leaves its sync group and its
sets, and its flows wait for a resumed source. (DEDUCED, log 26) -/
def dropCtx (c : Nat) (state : CtxState) (cause : Nat) (m : Part) : Part :=
  match ctx c m with
  | none => m
  | some x =>
    let m := breakCtx c (cutWindow c state (flushUp c m))
    let m := raise (halfSource (ctxHalf c) 0) 0x80 [⟨0, 2, c⟩, ⟨2, 1, x.state.code⟩, ⟨3, 1, state.code⟩, ⟨4, 1, cause⟩] m
    dropFromSets c { m with
      ctxs := erase c m.ctxs,
      blocks := m.blocks.filter fun b => decide (b.ctx ≠ c),
      service := { m.service with
        mots := m.service.mots.filter fun b => decide (b.ctx ≠ c),
        motsDone := m.service.motsDone.filter fun b => decide (b.ctx ≠ c),
        db := { m.service.db with notices := m.service.db.notices.filter fun n => decide (n.ctx ≠ c) } } }

/-! ## Follow policies -/

/-- Code of a candidate state, in the order of Table SVC-3. -/
def CandState.code : CandState → Nat
  | .candidate => 0
  | .watching => 1
  | .verified => 2
  | .member => 3
  | .rejected => 4

abbrev followNoSlot : Nat := 0
abbrev followRehome : Nat := 1
abbrev followHomeGone : Nat := 2
abbrev followState : Nat := 3

/-- EV_FOLLOW (Table HIF-13). -/
def followEvent (set c kHz : Nat) (state : CandState) (cause old : Nat) (m : Part) : Part :=
  raise 97 0x41 [⟨0, 2, set⟩, ⟨2, 2, c⟩, ⟨4, 4, kHz⟩, ⟨8, 1, state.code⟩, ⟨9, 1, cause⟩, ⟨12, 4, old⟩] m

/-- The policy of a set number. -/
def policy (set : Nat) (m : Part) : Option Follow := look set m.service.policies

/-- Change a policy. -/
def onPolicy (set : Nat) (f : Follow → Follow) (m : Part) : Part :=
  { m with service := { m.service with policies := change set f m.service.policies } }

/-- The contexts that belong to a policy (R300). -/
def policyCtxs (set : Nat) (m : Part) : List Nat :=
  (m.ctxs.filter fun e => decide (e.2.watchPolicy = some set)).map (·.1)

/-- Close the contexts of a policy, each with EV_FOLLOW (R300, R302). (DEDUCED, log 26) -/
def closePolicyCtxs (set : Nat) : List Nat → Part → Part
  | [], m => m
  | c :: rest, m =>
    let kHz := (ctx c m).elim 0 fun x => x.cfg.freq / 1000
    closePolicyCtxs set rest (followEvent set c kHz .candidate followState 0 (dropCtx c .closed causeCommand m))

/-- The end of a policy (R302): its contexts close, its set is deleted, its number is free. -/
def endPolicy (set : Nat) (m : Part) : Part :=
  let m := (policy set m).elim m fun p => flushUp p.params.ctx m
  let m := endSet set (closePolicyCtxs set (policyCtxs set m) m)
  { m with service := { m.service with
      policies := erase set m.service.policies,
      actions := m.service.actions.filter fun a => decide (a.set ≠ set) } }

/-- End the policies of a list because their home is gone (R301). (DEDUCED, log 26) -/
def endPolicies (home kHz : Nat) : List Nat → Part → Part
  | [], m => m
  | set :: rest, m =>
    endPolicies home kHz rest (followEvent set home kHz .candidate followHomeGone 0 (endPolicy set m))

/-- The policies whose home is context `c`. -/
def policiesOf (c : Nat) (m : Part) : List Nat :=
  (m.service.policies.filter fun p => decide (p.2.params.ctx = c)).map (·.1)

/-- A policy loses a context it had opened: the candidate returns to CANDIDATE (R301). -/
def forgetWatch (c : Nat) (m : Part) : Part :=
  { m with service := { m.service with
      policies := m.service.policies.map fun p => (p.1, { p.2 with
        candidates := p.2.candidates.map fun k =>
          if k.ctx = some c then { k with state := .candidate, ctx := none, good := 0, bad := 0, away := 0, pending := false } else k }) } }

/-- A context closes, or is withdrawn by a fence, with all that follows for policies. (DEDUCED, log 26) -/
def closeCtx (c : Nat) (state : CtxState) (cause : Nat) (m : Part) : Part :=
  match ctx c m with
  | none => m
  | some x =>
    let m := forgetWatch c (dropCtx c state cause m)
    let m := x.watchPolicy.elim m fun set => followEvent set c (x.cfg.freq / 1000) .candidate followState 0 m
    endPolicies c (x.cfg.freq / 1000) (policiesOf c m) m

/-- Close several contexts. -/
def closeCtxs (state : CtxState) (cause : Nat) : List Nat → Part → Part
  | [], m => m
  | c :: rest, m => closeCtxs state cause rest (closeCtx c state cause m)

/-- CTX_CLOSE takes effect: the context closes, and every queued action that names it ends with ST_ABORTED (R57, R171).
(DEDUCED, log 26) -/
def closeNow (c : Nat) (m : Part) : Part :=
  withdraw (fun a => (ctxsOf a.cmd).contains c) stAborted (closeCtx c .closed causeCommand m)

end Sys2Proof.Machine
end

