-- ==== Sys2Proof/Machine/Signal.lean ====
section
/-! DEFINITION. The sample path: the slicer's bins and the stages of a DDC chain, from converter samples to outputs on the chain's grid
(R115, R145-R158, R164-R166). Exact sums and products are the spec's; where it gives no rounding and no coefficient, `Config` stands. -/

namespace Sys2Proof

/-! ## Words -/

/-- `v` limited to a signed word of `bits` bits. -/
def satWord (bits : Nat) (v : Int) : Int := clampInt (-(2 ^ (bits - 1) : Nat)) ((2 ^ (bits - 1) : Nat) - 1) v

/-- `v` wrapped to a signed word of `bits` bits. -/
def wrapWord (bits : Nat) (v : Int) : Int := (v + (2 ^ (bits - 1) : Nat)) % (2 ^ bits : Nat) - (2 ^ (bits - 1) : Nat)

/-- The sum of two complex words. -/
def Cx.add (a b : Cx) : Cx := ⟨a.re + b.re, a.im + b.im⟩

/-- Their difference. -/
def Cx.sub (a b : Cx) : Cx := ⟨a.re - b.re, a.im - b.im⟩

/-- Their product. -/
def Cx.mul (a b : Cx) : Cx := ⟨a.re * b.re - a.im * b.im, a.re * b.im + a.im * b.re⟩

/-- The conjugate. -/
def Cx.conj (a : Cx) : Cx := ⟨a.re, -a.im⟩

/-- A complex word times a whole number. -/
def Cx.scale (k : Int) (a : Cx) : Cx := ⟨k * a.re, k * a.im⟩

/-- |x|². -/
def Cx.power (a : Cx) : Nat := (a.re * a.re + a.im * a.im).toNat

/-- Both parts by `f`. -/
def Cx.map (f : Int → Int) (a : Cx) : Cx := ⟨f a.re, f a.im⟩

/-- A quotient narrowed to words of `bits` bits. -/
def Cx.narrow (bits den : Nat) (a : Cx) : Cx := a.map fun v => satWord bits (Config.round v den)

end Sys2Proof

namespace Sys2Proof.Machine

/-- sin(π/2 · r/2^30) in 2^−32, for r from 0 to 2^30: its series to the eleventh power. -/
def quarterSine (r : Nat) : Int :=
  let x : Int := r * 6746518852 / 2 ^ 30
  let term (t : Int) (k : Nat) : Int := t * x / 2 ^ 32 * x / 2 ^ 32 / ((2 * k : Nat) * (2 * k + 1 : Nat))
  let t1 := term x 1
  let t2 := term t1 2
  let t3 := term t2 3
  let t4 := term t3 4
  let t5 := term t4 5
  x - t1 + t2 - t3 + t4 - t5

/-- The 18-bit sine of a 32-bit phase: one of the two words next to it (R151, R152). (DESIGN CHOICE, log 10) -/
def sineWord (phase : Nat) : Int :=
  let p := phase % 2 ^ 32
  let r := p % 2 ^ 30
  let v := match p / 2 ^ 30 with
    | 0 => quarterSine r
    | 1 => quarterSine (2 ^ 30 - r)
    | 2 => -quarterSine r
    | _ => -quarterSine (2 ^ 30 - r)
  satWord 18 (v / 2 ^ 15 + if Config.sineUp p then 1 else 0)

/-- exp of a 32-bit phase: 18-bit cosine and sine. -/
def cis (phase : Nat) : Cx := ⟨sineWord (phase + 2 ^ 30), sineWord phase⟩

/-- A complex word turned back by a 32-bit phase, in words of `bits` bits. -/
def turnBack (bits phase : Nat) (a : Cx) : Cx := (a.mul (cis phase).conj).narrow bits (2 ^ 17)

/-- The sum of products of two lists. -/
def dot (a b : List Int) : Int := (a.zipWith (· * ·) b).foldl (· + ·) 0

/-! ## The slicer (R145) -/

/-- Tap `i` of the prototype's 768: an 18-bit coefficient. -/
def slicerCoef (i : Nat) : Int := wrapWord 18 (Config.slicerTap i)

/-- The taps of branch `r` of the 64: every 64th of the prototype's 768. -/
def branchTaps (r : Nat) : List Int := (List.range 12).map fun p => slicerCoef (64 * p + r)

/-- The samples that branch `r` sees of the delay line, newest first. -/
def branchLine (r : Nat) (line : List Int) : List Int := (List.range 12).map fun p => line.getD (64 * p + r) 0

/-- Bin sample `n` of bin `k`: the sum over the 64 branches, turned down by the bin's centre k·fs/64. -/
def binSample (k : Nat) (n : Int) (line : List Int) : Cx :=
  let turn (r : Nat) : Nat := (((k : Int) * (32 * n - r)) % 64).toNat * 2 ^ 26
  let sum := (List.range 64).foldl (fun (z : Cx) r =>
    z.add ((cis (turn r)).conj.scale (dot (branchTaps r) (branchLine r line)))) {}
  sum.narrow 20 Config.slicerUnit

/-- Converter samples from number `a` on enter the delay line: the line at each bin sample, which starts with every 32nd of them, and the
line left. -/
def sliceLines : List Int → Int → List Int → List (Int × List Int) × List Int
  | line, _, [] => ([], line)
  | line, a, s :: rest =>
    let line := (s :: line).take 768
    let (l, z) := sliceLines line (a + 1) rest
    (if a % 32 = 0 then (a / 32, line) :: l else l, z)

/-! ## The step compensator (R115) -/

/-- The inverse of a calibrated gain, in 2^−17, and phase, in 2^−32 turn, with 17 fractional bits. The units are the model's.
(DESIGN CHOICE, log 13) -/
def inverseGain (ratio : Int × Int) : Cx :=
  ((cis (ratio.2 % 2 ^ 32).toNat).conj.scale (2 ^ 17)).map fun v => Config.round v (max 1 ratio.1.toNat)

/-- The slicer's step response once `k` samples of a bin sample's span lie after the step: the sum of the taps that meet them. -/
def slicerRise (k : Nat) : Int := ((List.range k).map slicerCoef).foldl (· + ·) 0

/-- The compensating gain at bin sample `n`, with 17 fractional bits: before a step the inverse of the old setting's ratio, over the 24 bin
samples whose slicer span holds the step's first sample `a` it goes to the new one's as the slicer's step response does, and then it stays
there. (DEDUCED, log 13) -/
def stepGainAt (before after : Int × Int) (a : Option Int) (n : Int) : Cx :=
  match a with
  | none => inverseGain after
  | some a =>
    if 32 * n < a then inverseGain before
    else if 32 * n < a + 768 then
      let old := inverseGain before
      let risen := slicerRise (32 * n - a + 1).toNat
      old.add (((inverseGain after).sub old).map fun v => Config.round (v * risen) (max 1 (slicerRise 768).toNat))
    else inverseGain after

/-! ## The chain (Table CHN-2) -/

/-- CIC ratio C of a chain (Table CHN-3). -/
def Family.cic (f : Family) (plan : Nat) : Nat := if f = .dab then (if plan = 1 then 5 else 3) else planM plan / 2

/-- Half-bands of a chain (Table CHN-3). -/
def Family.halfBands (f : Family) (plan : Nat) : Nat :=
  match f with
  | .dab => if plan = 1 then 0 else 1
  | .fm => 1
  | .drmPlus => 2
  | .am => 4

/-- Decimation D of the final FIR (Table CHN-3). -/
def Family.decim (f : Family) (plan : Nat) : Nat := if f = .dab ∧ plan = 0 then 7 else if f = .dab ∧ plan = 1 then 9 else 2

/-- Final FIR input rate of a chain, in samples per second (Table CHN-3). -/
def Family.firRate (f : Family) (plan : Nat) : Nat := binRate plan / (f.cic plan * 2 ^ f.halfBands plan)

/-- The NCO word that a chain uses while HT runs `ppb` off: the nearest for the offset in the outside world (R65, R152). -/
def wordFor (plan freq : Nat) (ppb : Int) : Int :=
  let g : Int := 1000000000 + ppb
  roundDiv ((1000000000 * (freq : Int) - g * (binOf plan freq * binSpacing plan : Nat)) * 2 ^ 32) (g * binRate plan)

/-- The five integrators take a word: 45-bit registers that wrap. -/
def integrate : List Cx → Cx → List Cx × Cx
  | [], x => ([], x)
  | s :: rest, x =>
    let s := (s.add x).map (wrapWord 45)
    let (l, y) := integrate rest s
    (s :: l, y)

/-- The five combs take a word. -/
def comb : List Cx → Cx → List Cx × Cx
  | [], x => ([], x)
  | s :: rest, x =>
    let (l, y) := comb rest ((x.sub s).map (wrapWord 45))
    (x :: l, y)

/-- A half-band's word: 23 taps, the same from either end, over its delay line (R154). -/
def halfBand (line : List Cx) : Cx :=
  let taps := (List.range 23).map fun i => Config.halfBandTap (min i (22 - i))
  (Cx.mk (dot taps (line.map Cx.re)) (dot taps (line.map Cx.im))).narrow 24 Config.halfBandUnit

/-- A word goes through the half-bands, with its number at the first one's input: the delay lines, and the word and number that come out
when every stage keeps it. -/
def decimate : Nat → List (List Cx) → Int → Cx → List (List Cx) × Option (Int × Cx)
  | 0, lines, q, x => (lines, some (q, x))
  | _ + 1, [], q, x => ([], some (q, x))
  | k + 1, line :: rest, q, x =>
    let line := (x :: line).take 23
    if q % 2 = 0 then
      let (l, y) := decimate k rest (q / 2) (halfBand line)
      (line :: l, y)
    else (line :: rest, none)

/-- Coefficient `i` of a bank: 18 bits, of a word the host loaded or of the default set that the bank was given (R155, R156). -/
def Bank.tap (b : Bank) (i : Nat) : Int :=
  wrapWord 18 (match b.words with
    | some ws => ((ws.getD i 0 % 2 ^ 18 : Nat) : Int)
    | none => Config.defaultTap b.conf b.width i)

/-- The sum of a bank's phase `p` of `u` over the final FIR's delay line, × 2^s, before narrowing (R155). -/
def Bank.sum (b : Bank) (u p : Nat) (line : List Cx) : Cx :=
  let taps := (List.range 96).map fun i => b.tap (u * i + p)
  (Cx.mk (dot taps (line.map Cx.re)) (dot taps (line.map Cx.im))).scale (2 ^ b.scale)

/-- A sum narrowed to 24 bits, saturated, and whether it was beyond them (R155). -/
def firWord (sum : Cx) : Cx × Bool :=
  let z := sum.map fun v => Config.round v (2 ^ 17)
  let y := z.map (satWord 24)
  (y, decide (z ≠ y))

/-- An output of the final FIR at elapsed tick `e`: of the active bank, or output j of a fade, (1 − j/N) of the old and j/N of the new, its
weight computed to 16 bits (R158). The spec does not say whether the fade blends sums or words, nor what counts as saturated then: the
model blends the 24-bit words of the two banks, and counts the output when either of them has saturated. (DESIGN CHOICE, log 13) -/
def firOutput (s : PathSet) (p e : Nat) (line : List Cx) : Cx × Bool :=
  let c := s.chain
  let f := family s.cfg.type
  let u := f.interp c.plan
  let new_ := if c.active1 then c.bank1 else c.bank0
  let old := if c.active1 then c.bank0 else c.bank1
  let (y, sat) := firWord (new_.sum u p line)
  match c.fade with
  | none => (y, sat)
  | some d =>
    let j := (e - d.first) / f.k + 1
    if d.len ≤ j ∨ e < d.first then (y, sat)
    else
      let (z, satOld) := firWord (old.sum u p line)
      let w := Config.round (65536 * j) d.len
      (((z.scale (65536 - w)).add (y.scale w)).narrow 24 65536, sat || satOld)

/-- Zero every delay line of a chain (R164, R165). -/
def Path.clear (phase : Nat) (p : Path) : Path :=
  { p with phase := phase, cicI := List.replicate 5 {}, cicC := List.replicate 5 {}, halves := List.replicate 4 [], line := [] }

/-- Where a chain works: τ and elapsed tick of the present, the plan's M, the frequency offset of HT on an elapsed tick, and the band's
compensation at a bin sample. -/
structure PathPlace where
  tau : Int
  elapsed : Nat
  m : Int
  ppb : Nat → Int
  gain : Int → Cx

/-- The converter sample on which an elapsed tick starts (R149). -/
def PathPlace.sample (w : PathPlace) (e : Nat) : Int := w.m * (w.tau + ((e : Int) - w.elapsed))

/-- The elapsed tick in which bin sample `n` starts. -/
def PathPlace.tick (w : PathPlace) (n : Int) : Nat := ((w.elapsed : Int) + (32 * n / w.m - w.tau)).toNat

/-- The first bin sample that starts on or after an elapsed tick (R164). -/
def PathPlace.from_ (w : PathPlace) (e : Nat) : Int := (w.sample e + 31) / 32

/-- The settings whose ticks have come by elapsed tick `e` take effect, ahead of bin sample `n`. A reset sets the accumulator on the first
bin sample from its tick on (R164); the accumulator of a chain whose samples are followed only since has run on from there. A chain of
another configuration has another grid, so an output that waited for the old one's is none of its own. -/
def Path.take (w : PathPlace) (n : Int) (e : Nat) : List PathSet → Path → Path
  | [], p => { p with ops := [] }
  | s :: rest, p =>
    if s.since ≤ e then
      let run := max 0 (n - w.from_ s.since)
      let same := p.set.all fun o => decide (family o.cfg.type = family s.cfg.type ∧ o.chain.plan = s.chain.plan)
      let p := { p with wait := if same then p.wait else none }
      let p := if s.zero then p.clear (((s.chain.phase : Int) + s.chain.word * run) % 2 ^ 32).toNat else p
      Path.take w n e rest { p with set := some s }
    else { p with ops := s :: rest }

/-- The output that waits for its grid tick `e` is computed, with the settings of that tick, once bin sample `n` comes (R149, R153, R158,
R164). The count is of outputs that saturated. -/
def Path.output (w : PathPlace) (n : Int) (due : Nat → Bool) (p : Path) : Path × Nat :=
  match p.wait with
  | none => (p, 0)
  | some (e, phase) =>
    if !due e then (p, 0)
    else
      let p := p.take w n e p.ops
      match p.set, p.wait with
      | none, _ => ({ p with wait := none }, 0)
      | _, none => (p, 0)
      | some s, some _ =>
        let (y, sat) := firOutput s phase e p.line
        ({ p with wait := none, out := p.out ++ [(e, y)] }, if sat then 1 else 0)

/-- A word reaches the final FIR as its number `q`: it enters the delay line, and the output whose phase it completes, if there is one,
waits for its grid tick (R149, R153). -/
def Path.finalFir (w : PathPlace) (s : PathSet) (q : Int) (x : Cx) (p : Path) : Path :=
  let f := family s.cfg.type
  let u : Int := f.interp s.chain.plan
  let d : Int := f.decim s.chain.plan
  let p := { p with line := (x :: p.line).take 96 }
  let o := (u * q + d - 1) / d
  if d * o / u ≠ q then p
  else { p with wait := some (((w.elapsed : Int) + (f.k * o - w.tau)).toNat, ((d * o) % u).toNat) }

/-- Bin sample `n`, with the slicer's delay line at it, goes through a chain: bin, compensator, mixer, CIC, half-bands and final FIR
(Table CHN-2). -/
def Path.step (w : PathPlace) (n : Int) (line : List Int) (p : Path) : Path :=
  match p.set with
  | none => p
  | some s =>
    let f := family s.cfg.type
    let c := f.cic s.chain.plan
    let x := if s.zeros then {} else binSample s.chain.bin n line
    let x := turnBack 20 p.phase ((x.mul (w.gain n)).narrow 20 (2 ^ 17))
    let ppb := w.ppb (w.tick n)
    let word := if ppb = 0 then s.chain.word else wordFor s.chain.plan (tuned s.cfg) ppb
    let (cicI, y) := integrate p.cicI x
    let p := { p with phase := (((p.phase : Int) + word) % 2 ^ 32).toNat, cicI := cicI }
    if n % c ≠ 0 then p
    else
      let (cicC, z) := comb p.cicC y
      let (halves, out) := decimate (f.halfBands s.chain.plan) p.halves (n / c) ((z.scale 16).narrow 24 (c ^ 5))
      let p := { p with cicC := cicC, halves := halves }
      match out with
      | none => p
      | some (q, v) => p.finalFir w s q v

/-- The bin samples of a period go through a chain; every setting acts from the first bin sample that starts on or after its tick, and on
the outputs of the grid ticks from its tick on (R158, R164). -/
def Path.run (w : PathPlace) : List (Int × List Int) → Path → Path × Nat
  | [], p => p.output w (w.from_ w.elapsed) fun e => decide (e < w.elapsed)
  | (n, line) :: rest, p =>
    let (p, k) := p.output w n fun e => decide (w.sample e ≤ 32 * n)
    let p := p.take w n (w.tick n) p.ops
    let (p, j) := Path.run w rest (p.step w n line)
    (p, k + j)

/-! ## Samples, cells and the guard interval -/

/-- Sample `i` after elapsed tick `e` of a chain whose outputs lie `k` ticks apart, at the resampler's rate, before the rotator. -/
def resampled (p : OfdmPath) (k e : Nat) (out : List (Nat × Cx)) (i : Int) : Cx :=
  let pos : Int := i * 2 ^ 32 + Config.round (i * p.rate * 2 ^ 32) (10 ^ 9)
  let n := pos / 2 ^ 32
  let frac := (pos % 2 ^ 32).toNat
  let get (j : Int) : Cx := ((out.find? fun o => decide ((o.1 : Int) = e + k * j)).map (·.2)).getD {}
  ((List.range 8).foldl (fun (z : Cx) (j : Nat) => z.add ((get (n - 3 + (j : Int))).scale (Config.fractionTap frac j))) {}).narrow 24 (2 ^ 17)

/-- `len` samples from sample `i` on after a frame's first output, turned back by the rotator. -/
def rotated (p : OfdmPath) (k : Nat) (out : List (Nat × Cx)) (i : Int) (len : Nat) : List Cx :=
  let out := out.filter fun o => decide (p.frame ≤ o.1)
  match out.head? with
  | none => []
  | some first => (List.range len).map fun n =>
      turnBack 24 (((p.phase : Int) + p.freq * (i + n)) % 2 ^ 32).toNat (resampled p k first.1 out (i + n))

/-- The cell of an FFT over a list of samples at a frequency in 2^−32 turn a sample. -/
def cellOf (xs : List Cx) (step : Int) : Cx :=
  ((xs.zipIdx.foldl (fun (z : Cx) e => z.add (e.1.mul (cis (step * e.2 % 2 ^ 32).toNat).conj)) {})).narrow 32 (2 ^ 17)

/-- A guard-interval correlation: `useful` samples lie between a guard sample and its copy. -/
def guardSum (guard useful : Nat) (xs : List Cx) : Cx :=
  ((xs.take guard).zipWith (fun a b => a.mul b.conj) (xs.drop useful)).foldl Cx.add {}

/-- The frequency that a guard-interval correlation finds, in 2^−32 turn a sample. -/
def guardPhase (useful : Nat) (z : Cx) : Int := Config.round (-(Config.angle z.re z.im)) useful

/-- That of one symbol. -/
def guardError (guard useful : Nat) (xs : List Cx) : Int := guardPhase useful (guardSum guard useful xs)

/-- The impulse response over `size` places of 1/`fine` sample, by references on carriers: the powers. -/
def impulse (size fine useful : Nat) (g : List (Int × Cx)) : List Nat :=
  (List.range size).map fun n =>
    ((g.foldl (fun (z : Cx) e =>
      z.add (e.2.mul (cis (Config.round (e.1 * n * 2 ^ 32) (fine * useful) % 2 ^ 32).toNat))) {}).narrow 32 (2 ^ 17)).power

/-- The largest of several powers with its place. -/
def peakOf (l : List Nat) : Nat × Nat := l.zipIdx.foldl (fun b e => if b.1 < e.1 then e else b) (0, 0)

/-- The place of the first path within 20 dB of the strongest, with places past the middle taken as negative. -/
def firstPath (l : List Nat) : Int :=
  let top := (peakOf l).1
  let place (i : Nat) : Int := if 2 * i < l.length then i else (i : Int) - l.length
  (((l.zipIdx.filter fun e => decide (top ≤ 100 * e.1 ∧ 0 < top)).map fun e => place e.2).foldl (fun (b : Option Int) v =>
    some (b.elim v (min v))) none).getD 0

/-! ## DAB: the phase reference symbol (R237, R238) -/

/-- 1 kHz at 2.048 MS/s, and ±25.5 kHz, in 2^−32 turn a sample. -/
abbrev carrierStep : Int := 2097152
abbrev dabCapture : Int := 53477376

/-- Carriers of DAB: −768 to 768 without 0. -/
def dabCarrier (k : Nat) : Int := if k < 768 then (k : Int) - 768 else (k : Int) - 767

/-- The references of a PRS at a carrier shift: each carrier's cell against what was sent. -/
def prsAt (cells : Int → Cx) (shift : Int) : List (Int × Cx) :=
  (List.range 1536).map fun k =>
    let r := Config.prs k
    (dabCarrier k, ((cells (dabCarrier k + shift)).mul (Cx.mk r.1 (-r.2))).narrow 32 (2 ^ 17))

/-- The carrier shift from −25 to 25 at which the PRS correlates best: the shift and the impulse response there. -/
def bestShift (cells : Int → Cx) : Int × List Nat :=
  (List.range 51).foldl (fun b i =>
    let s : Int := (i : Int) - 25
    let l := impulse 2048 1 2048 (prsAt cells s)
    if (peakOf b.2).1 < (peakOf l).1 then (s, l) else b) (0, [])

/-- The peak stands 9 dB or more above the correlation floor (Table DIG-3). -/
def prsPasses (l : List Nat) : Bool :=
  decide (90 ≤ Config.decibels ((peakOf l).1 * (l.length - 1)) ((l.sum - (peakOf l).1 : Nat) : Int))

/-! ## DAB: acquisition (R236, R237) -/

/-- The powers over 64-sample spans take new samples; four frames' worth are kept of two. -/
def notePowers (l : List Cx) (p : OfdmPath) : OfdmPath :=
  let span := l.foldl (fun s z => s ++ [z.power]) p.span
  let whole := span.length / 64
  { p with
    span := span.drop (64 * whole),
    powers := ((List.range whole).foldl (fun acc i => ((span.drop (64 * i)).take 64).sum :: acc) p.powers).take 6400 }

/-- Whether the 256-sample window that begins at span `i` lies 6 dB or more below the mean of a frame. -/
def dips (powers : List Nat) (i : Nat) : Bool :=
  let w := ((powers.drop i).take 4).sum
  let mean := (powers.take 3072).sum
  decide ((w : Int) * 3072 * Config.linear 60 ≤ 4 * mean * 65536)

/-- The length in samples of the dip that begins at span `i`. -/
def dipLength (powers : List Nat) : Nat → Nat → Nat
  | 0, _ => 0
  | fuel + 1, i => if dips powers i then 64 + dipLength powers fuel (i + 1) else 0

/-- A dip of mode I's null symbol ends at span `i`: 2,400 to 2,900 samples. -/
def nullDip (powers : List Nat) (i : Nat) : Bool :=
  (!dips powers (i - 1) || decide (i = 0)) && decide (2400 ≤ dipLength powers 50 i ∧ dipLength powers 50 i ≤ 2900)

/-- The presence test of mode I: a null dip that recurs after 196,608 ± 64 samples (R237). -/
def nullRecurs (p : OfdmPath) : Bool :=
  (List.range 2).any fun i => nullDip p.powers i && [3071, 3072, 3073].any fun d => nullDip p.powers (i + d)

/-! ## DRM: symbols and references (R248-R250) -/

/-- Useful and guard samples and symbols a frame of a mode, 0 A to 4 E (Table DIG-7). -/
def drmMode (mode : Nat) : Nat × Nat × Nat :=
  match mode with
  | 0 => (1152, 128, 15)
  | 1 => (1024, 256, 15)
  | 2 => (704, 256, 20)
  | 3 => (448, 352, 24)
  | _ => (432, 48, 40)

/-- Sample rate of a mode. -/
def drmRate (mode : Nat) : Nat := if mode = 4 then 192000 else 48000

/-- The frequency of a carrier against the tuned one, in 2^−32 turn a sample: carriers lie about the nominal frequency (R169). -/
def drmStep (mode opened : Nat) (q : Int) : Int :=
  let (useful, _, _) := drmMode mode
  Config.round (q * 2 ^ 32) useful
    - if mode = 4 then 0 else Config.round (((drmOccupancy opened).2 : Int) * 2 ^ 32) (drmRate mode)

/-- ±150 Hz at 48 kS/s and ±2.0 kHz at 192 kS/s, in 2^−32 turn a sample (Table DIG-9). -/
def drmCapture (mode : Nat) : Int := if mode = 4 then 44739243 else 13421773

/-- References of a kind on a symbol: carrier, and the cell against what was sent. -/
def refsOn (kind mode occ s : Nat) (cells : List (Nat × Int × Cx)) : List (Int × Cx) :=
  cells.filterMap fun e =>
    if e.1 ≠ s then none
    else (Config.drmReference kind mode occ s e.2.1).map fun r => (e.2.1, (e.2.2.mul ⟨r.1, -r.2⟩).narrow 32 (2 ^ 17))

/-- The frequency error by the frequency references of two symbols in turn, in 2^−32 turn a sample. -/
def referenceError (len : Nat) (a b : List (Int × Cx)) : Int :=
  let z := (a.zipWith (fun u v => v.2.mul u.2.conj) b).foldl Cx.add {}
  Config.round (Config.angle z.re z.im) len

/-! ## Detection (Tables DIG-3, DIG-9) -/

/-- What the phase reference of the DAB frame begun on elapsed tick `frame` shows at a frequency: its carrier shift and the place of its
first path, when it passes. -/
def prsShows (frame : Nat) (freq : Int) (out : List (Nat × Cx)) : Option (Int × Int) :=
  let xs := rotated { frame := frame, freq := freq } 12 out 3160 2048
  let (shift, l) := bestShift fun c => cellOf xs (c * carrierStep)
  if prsPasses l then some (shift, firstPath l) else none

/-- DAB's detection at the end of a PRS: those of two frames in a row pass at one carrier shift and within ±4 samples; the frequency is
that of the guard intervals of symbols 1 to 76 with the shift (R237). (DEDUCED, log 31) -/
def dabAcquire (out : List (Nat × Cx)) (now : Nat) : Option Int :=
  let f := now - 62496
  let sum := (List.range 76).foldl (fun (z : Cx) s =>
    z.add (guardSum 504 2048 (rotated { frame := f - 2359296 } 12 out (2656 + 2552 * (s : Int)) 2552))) {}
  let freq := guardPhase 2048 sum
  match prsShows (f - 2359296) freq out, prsShows f freq out with
  | some a, some b =>
    if a.1 = b.1 ∧ (a.2 - b.2).natAbs ≤ 4 then some (clampInt (-dabCapture) dabCapture (freq + a.1 * carrierStep)) else none
  | _, _ => none

/-- Samples of a DRM symbol, and ticks of a sample. -/
def drmSpan (mode : Nat) : Nat × Nat :=
  let (useful, guard, _) := drmMode mode
  (useful + guard, 24576000 / drmRate mode)

/-- The outputs of the symbol of a mode that ends on elapsed tick `e`. -/
def drmSamples (mode e : Nat) (out : List (Nat × Cx)) : List Cx :=
  let (len, k) := drmSpan mode
  (out.filter fun o => decide (e ≤ o.1 + k * len ∧ o.1 < e)).map (·.2)

/-- How strongly the guard interval of a mode correlates over the symbol that ends on elapsed tick `e`, in 0.1 dB. -/
def guardLevel (mode e : Nat) (out : List (Nat × Cx)) : Int :=
  let (useful, guard, _) := drmMode mode
  let xs := drmSamples mode e out
  let power := ((xs.drop useful).map Cx.power).sum
  Config.decibels (guardSum guard useful xs).power (power * power : Nat)

/-- The mode of A to D with the strongest correlation at elapsed tick `e`. -/
def strongestMode (e : Nat) (out : List (Nat × Cx)) : Nat :=
  ([1, 2, 3].foldl (fun (b : Nat × Int) k =>
    let v := guardLevel k e out
    if b.2 < v then (k, v) else b) (0, guardLevel 0 e out)).1

/-- The mode decision at elapsed tick `e`: the strongest, confirmed on 4 symbols in a row; type 6 receives mode E alone (R248, R250). -/
def drmModeSeen (type e : Nat) (out : List (Nat × Cx)) : Option Nat :=
  if type = 6 then some 4
  else
    let m := strongestMode e out
    let (len, k) := drmSpan m
    if (List.range 4).all fun i => decide (strongestMode (e - k * len * i) out = m) then some m else none

/-- The cells of the symbol of a mode that ends on elapsed tick `e`, at a frequency. -/
def drmCellsAt (mode opened e : Nat) (freq : Int) (out : List (Nat × Cx)) : List (Nat × Int × Cx) :=
  let (_, guard, _) := drmMode mode
  let xs := (drmSamples mode e out).zipIdx.map fun z => turnBack 24 ((freq * z.2) % 2 ^ 32).toNat z.1
  (Config.drmCarriers mode opened).map fun q => (0, q, cellOf (xs.drop guard) (drmStep mode opened q))

/-- The time references of the symbol that ends on elapsed tick `e` are located: it is a frame's first. -/
def timeSeen (mode opened e : Nat) (freq : Int) (out : List (Nat × Cx)) : Bool :=
  let l := (refsOn 2 mode opened 0 (drmCellsAt mode opened e freq out)).map (·.2)
  Config.timeLocated ((l.foldl Cx.add {}).narrow 40 1).power ((l.map Cx.power).sum)

/-- The whole carriers by which a symbol's frequency references are shifted, within the capture of Table DIG-9. -/
def carrierShift (mode opened e : Nat) (freq : Int) (out : List (Nat × Cx)) : Int :=
  let (useful, _, _) := drmMode mode
  let n := (drmCapture mode * useful / 2 ^ 32).toNat
  let level (s : Int) : Nat :=
    (((refsOn 0 mode opened 0 (drmCellsAt mode opened e (freq + Config.round (s * 2 ^ 32) useful) out)).map (·.2)).foldl Cx.add {}).power
  ((List.range (2 * n + 1)).foldl (fun (b : Int × Nat) i =>
    let s : Int := (i : Int) - n
    let v := level s
    if b.2 < v then (s, v) else b) (0, 0)).1

/-- DRM's detection at the end of a frame's first symbol: mode and frequency, once the time references of two frames in a row lie at one
place (R250). (DEDUCED, log 31) -/
def drmAcquire (type opened : Nat) (out : List (Nat × Cx)) (now : Nat) : Option (Nat × Int) :=
  match drmModeSeen type now out with
  | none => none
  | some mode =>
    let (useful, guard, _) := drmMode mode
    let frac := guardPhase useful (guardSum guard useful (drmSamples mode now out))
    let freq := frac + Config.round (carrierShift mode opened now frac out * 2 ^ 32) useful
    let frame := if type = 6 then 2457600 else 9830400
    if timeSeen mode opened now freq out && timeSeen mode opened (now - frame) freq out then
      some (mode, clampInt (-drmCapture mode) (drmCapture mode) freq)
    else none

end Sys2Proof.Machine
end

