-- ==== Sys2Proof/Machine/Contexts.lean ====
section
/-! DEFINITION. Context commands, coefficients and sync groups (R155-R177, R184, R336; chapters 06, 07 and 12 of the spec). -/

namespace Sys2Proof.Machine

/-! ## Shared -/

/-- Free load units of a half as counted under R171. -/
def freeLu (h : Nat) (m : Part) : Nat := 128 - luHeld h m

/-- A reply with a status alone. -/
def reply (status : Nat) : Option Reply := some { status := status }

/-- The status of a command that executes on a context that is not open. -/
def noCtx (c : Nat) (m : Part) : Nat := if slotFenced c m then stFenced else stNoContext

/-- A run in progress on half `h` has lasted its 39,322 ticks, or a bring-up run its four passes (R135, R143). -/
def runOver (h : Nat) (m : Part) : Bool :=
  (half h m).cal.run.any fun r =>
    decide (r.start + (if r.cause = .bringUp then 157288 else 39322) ≤ m.clock.elapsed)

/-- Half `h` carries a calibration HOLD: a run that has not lasted its length, or a placed run that has been asserted or whose tick
has come (R133, R136). On a half with a live partner a run in progress alone holds that half's copies, one half at a time, and the others
carry the contexts (R32). (DESIGN CHOICE / DEDUCED, log 21) -/
def calHolds (h : Nat) (m : Part) : Bool :=
  ((half h m).cal.run.isSome && !runOver h m)
    || (!(paired h m && decide ((half (partner h) m).mode ≠ .fenced))
        && (half h m).cal.placed.any fun p => p.asserted || decide (p.start ≤ m.clock.elapsed))

/-- The tile of half `h` is on the cradle clock (R86). -/
def tileHolds (h : Nat) (m : Part) : Bool := (tile (halfTile h) m).switch.isSome

/-- Put the causes of HOLD in force on half `h` on a context that has just opened there (R136, R86). -/
def joinHolds (c h : Nat) (m : Part) : Part :=
  let m := if calHolds h m then holdOn h .calibration causeCalibration c m else m
  if tileHolds h m then holdOn h .tile causeTile c m else m

/-- A copy that starts in SEARCH, or that its half's fence has withdrawn. -/
def newCopy (h : Nat) (m : Part) : CopyState :=
  if (half h m).mode = .fenced then { state := .fenced, held := .fenced }
  else { entered := m.clock.elapsed, searched := m.clock.elapsed, boundary := m.clock.elapsed, settle := m.clock.elapsed }

/-- A context that opens now (R147, R152, R156, R165, R187). -/
def newCtx (slot : Nat) (cfg : CtxCfg) (m : Part) : Ctx :=
  let now := m.clock.elapsed
  let h := ctxHalf slot
  { cfg := cfg, a := newCopy h m, b := if paired h m then some (newCopy (partner h) m) else none,
    chain := (({ zeroed := now, settle := now } : ChainState).tune cfg (tile (halfTile h) m).plan).defaults cfg,
    quality := { start := now, startHt := m.clock.ht, clipBase := (half h m).clipPeriods,
                 clipBaseB := (half (partner h) m).clipPeriods },
    opened := now }

/-- Narrowband I/Q of a context is produced from now on. -/
def startIq (c : Nat) (m : Part) : Part :=
  { m with flows := m.flows.map fun f =>
      if f.2.ofCtx c then (f.1, { f.2 with produced := m.clock.elapsed }) else f }

/-- Open a context in a slot, with EV_CTX_STATE. -/
def openCtx (slot : Nat) (cfg : CtxCfg) (m : Part) : Part :=
  let m := startIq slot { m with ctxs := put slot (newCtx slot cfg m) m.ctxs }
  let m := raise (halfSource (ctxHalf slot) 0) 0x80
    [⟨0, 2, slot⟩, ⟨2, 1, CtxState.closed.code⟩, ⟨3, 1, CtxState.search.code⟩, ⟨4, 1, causeCommand⟩] m
  (ctxHalves slot m).foldl (fun m h => joinHolds slot h m) m

/-! ## CTX_OPEN, CTX_WATCH, CTX_CLOSE (R171-R177) -/

/-- CTX_OPEN and CTX_WATCH take effect. -/
def performOpen (watch : Bool) (p : CtxParams) : Perform := fun _ _ m =>
  if slotFenced p.ctx m then (m, reply stFenced)
  else if (ctx p.ctx m).isSome then (m, reply stBusy)
  else
    let m := openCtx p.ctx (decodeCtx watch p) m
    (m, some { status := stOk, result := freeLu (ctxHalf p.ctx) m })

/-- CTX_OPEN (R171). -/
def execCtxOpen (d : Desc) (p : CtxParams) (s : State) : Host.Outcome State Fault Refusal :=
  s.run (accept d (.ctxOpen p) (openStatus false p) (performOpen false p))

/-- CTX_WATCH (R176). -/
def execCtxWatch (d : Desc) (p : CtxParams) (s : State) : Host.Outcome State Fault Refusal :=
  s.run (accept d (.ctxWatch p) (openStatus true p) (performOpen true p))

/-- CTX_CLOSE takes effect (R57, R171): a slot held by a pending open alone is released. -/
def performClose (c : Nat) : Perform := fun _ _ m =>
  if (ctx c m).isSome ∨ m.sched.queue.any fun a => isOpen a.cmd && (ctxsOf a.cmd).contains c then
    (closeNow c m, reply stOk)
  else (m, reply (noCtx c m))

/-- CTX_CLOSE (R171). -/
def execCtxClose (d : Desc) (ctx : Nat) (s : State) : Host.Outcome State Fault Refusal :=
  s.run (accept d (.ctxClose ctx) (slotStatusOwned ctx) (performClose ctx))

/-! ## CTX_RETUNE (R173, R215, R221) -/

/-- FM types of R173. -/
def fmType (t : Nat) : Bool := decide (2 ≤ t ∧ t ≤ 4)

/-- A retune between FM types (R173, R215). -/
def fmRetune (old new : CtxCfg) : Bool := fmType old.type && fmType new.type && decide (old.freq = new.freq)

/-- The canceller after a retune between FM types (R218, R221). -/
def fmRetuneMpc (x : Ctx) (new : CtxCfg) : Mpc :=
  if new.type ≠ 4 ∨ !new.fm.mpc then .off
  else if x.ana.mpc ≠ .off then x.ana.mpc
  else
    match x.state with
    | .detected => .adapting
    | .track => .adapting
    | .lost => .frozen
    | .hold => .frozen
    | _ => .waiting

/-- The FM parameters that change on the execution tick; the others wait for the next block (R215). -/
def fmNow (old new : FmCfg) : FmCfg :=
  { new with
    deemph := old.deemph, blendHi := old.blendHi, blendLo := old.blendLo, forceMono := old.forceMono,
    muteStart := old.muteStart, muteDepth := old.muteDepth, rdsStd := old.rdsStd, rdsCorr := old.rdsCorr }

/-- What a retune between FM types changes in the context, one that sets or clears the probe bit among them: state, loops and RDS carry over,
and the canceller's taps but where it starts or stops (R173, R215, R221). (DESIGN CHOICE, log 22) -/
def Ctx.fmRetuned (new : CtxCfg) (x : Ctx) : Ctx :=
  let runs (c : CtxCfg) : Bool := decide (c.type = 4) && c.fm.mpc
  let x := if runs x.cfg = runs new then x else x.onCopies CopyState.identity
  { x with
    cfg := { new with fm := fmNow x.cfg.fm new.fm },
    ana := { x.ana with
      pendingFm := some new.fm,
      mpc := fmRetuneMpc x new,
      blend := if new.type = 4 ∧ x.cfg.type ≠ 4 then 0 else x.ana.blend,
      muteRunning := if x.cfg.type = 2 then false else x.ana.muteRunning } }

/-- A retune changes the configuration of the chain, as it stands at the plan the chain runs at (R156). -/
def chainDiffers (x : Ctx) (new : CtxCfg) (plan : Nat) : Bool :=
  decide (configuration x.cfg.type x.chain.plan ≠ configuration new.type plan)

/-- A retune changes the bin or the configuration, so the chain is zeroed (R165). -/
def chainMoves (x : Ctx) (new : CtxCfg) (plan : Nat) : Bool :=
  chainDiffers x new plan || decide (x.chain.bin ≠ binOf plan (tuned new))

/-- Any other retune: new parameters, SEARCH, the chain as R165 gives for bin and configuration. -/
def Ctx.retuned (new : CtxCfg) (plan now : Nat) (x : Ctx) : Ctx :=
  let differ := chainDiffers x new plan
  let moved := chainMoves x new plan
  let chain := x.chain.tune new plan
  let chain := { chain with zeroed := if moved then now else chain.zeroed, phase := if moved then 0 else chain.phase }
  let chain := if differ then chain.defaults new else chain
  let enter (c : CopyState) : CopyState :=
    let c := CopyState.enter .search now c
    if c.inHold then { c with state := if new.probe then .search else .hold } else c
  Ctx.startSearch { (x.onCopies fun c => if c.isFenced then c else enter c) with
    cfg := new, chain := chain, ana := { x.ana with pendingFm := none } }

/-- The flows of a context that a change of type cuts off or brings back (R357). -/
def refitFlows (c old new : Nat) (m : Part) : Part :=
  let m := breakFlows (flowsWhere (fun f => f.ofCtx c && (f.fed old != f.fed new)) m) m
  closeFlows (flowsWhere (fun f => f.ofCtx c && decide (f.type = 1 ∨ f.type = 5)) m) m

/-- Retune an open context (R173). -/
def retuneCtx (slot cause : Nat) (new : CtxCfg) (m : Part) : Part :=
  match ctx slot m with
  | none => m
  | some x =>
    let m := if x.cfg.type = new.type then m else refitFlows slot x.cfg.type new.type (flushUp slot m)
    if fmRetune x.cfg new then
      changeCtx slot cause (Ctx.fmRetuned new) (settleNow slot m)
    else
      let plan := ctxPlan slot m
      let moved := chainMoves x new plan
      let m := catchUp slot m
      let m := if moved then completeFade slot m else settleFade slot m
      let m := if x.cfg.type = new.type then m else endSelections slot endRetuned x.sels m
      changeCtx slot cause (fun x => Ctx.retuned new plan m.clock.elapsed (Ctx.settleFrom m x)) m

/-- CTX_RETUNE takes effect: the reserve is judged again by what is selected then (R170). -/
def performRetune (p : CtxParams) : Perform := fun _ _ m =>
  if (ctx p.ctx m).isNone then (m, reply (noCtx p.ctx m))
  else if (ctx p.ctx m).any fun x => decide (x.cfg.type = 7 ∧ p.type = 7 ∧ (decodeCtx false p).reserve < x.sels.length) then
    (m, reply stNoCapacity)
  else
    let m := retuneCtx p.ctx causeCommand (decodeCtx false p) m
    (m, some { status := stOk, result := freeLu (ctxHalf p.ctx) m })

/-- CTX_RETUNE (R173). -/
def execCtxRetune (d : Desc) (p : CtxParams) (s : State) : Host.Outcome State Fault Refusal :=
  s.run (accept d (.ctxRetune p) (retuneStatus p) (performRetune p))

/-! ## CTX_QUERY (R124, R141, R175, R222, R260, R336) -/

/-- Successive 32-bit words from offset `off`. (DESIGN CHOICE / DEDUCED, log 23) -/
def wordFields (off : Nat) : List Int → List Field
  | [] => []
  | v :: rest => ⟨off, 4, v⟩ :: wordFields (off + 4) rest

/-- A section: its ID and length, then 32-bit words (R336). -/
def wordSection (id : Nat) (words : List Int) : Chunk :=
  { bytes := 4 + 4 * words.length, fields := ⟨0, 2, id⟩ :: ⟨2, 2, 4 + 4 * words.length⟩ :: wordFields 4 words }

/-- N/A in a 32-bit field (R188). -/
abbrev na32 : Int := 4294967295

/-- A measure, or N/A. -/
def wordOr (v : Option Int) : Int := v.getD na32

/-- The words of a bank: those loaded, or the default coefficients of its configuration, sign-extended (R155-R157). -/
def Bank.list (b : Bank) : List Nat :=
  b.words.getD ((List.range (if b.conf < 2 then 384 else 96)).map fun i => (b.tap i % 2 ^ 32).toNat)

/-- CRC-32 of a bank over the words that are in use. The spec does not say whether a bank of 384 coefficients is meant whole: the model
takes the words loaded, or the default set's. (DESIGN CHOICE, log 13) -/
def bankCrc (b : Bank) : Nat := Config.crc32 b.list

/-- Section 1, CONTEXT. (DESIGN CHOICE / DEDUCED, log 23) -/
def contextSection (c : Nat) (x : Ctx) (m : Part) : Chunk :=
  let h := ctxHalf c
  wordSection 1
    [x.state.code, x.cfg.type, x.cfg.freq, x.chain.bin,
     (tuned x.cfg : Int) - (x.chain.bin * binSpacing x.chain.plan : Nat), x.chain.word,
     if x.chain.active1 then 1 else 0, bankCrc x.chain.bank0, bankCrc x.chain.bank1, x.chain.firSat,
     (64 - (halfSlots h m).length : Nat), freeLu h m, (128 - programsHeld h m : Nat)]

/-- Section 2, QUALITY: the entry of the last window. (DESIGN CHOICE / DEDUCED, log 23) -/
def qualitySection (c : Nat) (x : Ctx) : List Chunk :=
  match x.quality.last with
  | none => []
  | some r =>
    [{ bytes := 68, fields := ⟨0, 2, 2⟩ :: ⟨2, 2, 68⟩ :: (reportFields c r).map fun f => { f with off := f.off + 4 } }]

/-- Leveller modes, in the order of Table RFI-7. -/
def LevMode.code : LevMode → Nat
  | .auto => 0
  | .hold => 1
  | .manual => 2

/-- Code of an ANTPWR setting, in the order of Table RFI-2. -/
def AntPower.code : AntPower → Nat
  | .off => 0
  | .v5 => 1
  | .v12 => 2

/-- Code of a calibration cause (Table CAL-6). -/
def CalCause.code : CalCause → Nat
  | .bringUp => 0
  | .temperature => 1
  | .command => 2

/-- Code of a background state (Table CAL-6). -/
def BgState.code : BgState → Nat
  | .converging => 0
  | .converged => 1
  | .paused => 2
  | .limit => 3
  | .held => 4

/-- The estimator pauses while the composite is clipped, during a run, a tile switch and BRACE (R139). -/
def bgPaused (h : Nat) (m : Part) : Bool :=
  (half h m).clipped || (half h m).cal.run.isSome || (tile (halfTile h) m).switch.isSome || m.power.brace.isSome

/-- bg_state as reported (Table CAL-6): a held half stays so through a pause. (DEDUCED, log 22) -/
def bgNow (h : Nat) (m : Part) : BgState :=
  let x := half h m
  if x.cal.bg ≠ .held ∧ bgPaused h m then .paused else x.cal.bg

/-- The ticks since the pass of a run in progress began (R135, R143). -/
def passTick (r : CalRunning) (m : Part) : Nat := m.clock.elapsed - (r.start + r.pass * 39322)

/-- The attenuation that a band stands at: in a run the sequencer's, 0 dB in the interleave phase and the sixteen settings, 192 ticks each
and rising, in the leveller phase; in its other phases the setting held (R114, R135). Where the bands without the tone stand in each third
of the leveller phase the spec does not say: the model steps all three together. (DESIGN CHOICE, log 22) -/
def attenNow (h : Nat) (b : Band) (m : Part) : Nat :=
  match (half h m).cal.run with
  | none => b.atten
  | some r =>
    match r.phase with
    | .interleave => 0
    | .leveller => 2 * min 15 ((passTick r m - 26720) % 3072 / 192)
    | _ => b.atten

/-- The calibration tones on in half `h` now, in kHz: six in turn in the interleave phase, one in each band in the leveller phase
(Table CAL-4). The spec gives no length to each of the six; the phase is divided equally. (DEDUCED, log 22) -/
def tonesNow (h : Nat) (m : Part) : List Nat :=
  match (half h m).cal.run with
  | none => []
  | some r =>
    match r.phase with
    | .interleave => ([7010, 23010, 61010, 97010, 187010, 233010][min 5 ((passTick r m - 2144) / 4096)]?).toList
    | .leveller => ([23010, 97010, 233010][min 2 ((passTick r m - 26720) / 3072)]?).toList
    | .residual => [233010]
    | _ => []

/-- The words of a band in the front-end status (R124). -/
def bandWords (h : Nat) (m : Part) (b : Band) : List Int := [attenNow h b m, b.mode.code, b.reading, b.stepsUp, b.stepsDown]

/-- Section 3, FRONT_END: the items of R124 and the record of Table CAL-6. (DESIGN CHOICE / DEDUCED, log 23) -/
def frontSection (c : Nat) (m : Part) : Chunk :=
  let h := half (ctxHalf c) m
  wordSection 3 ((h.bands.flatMap (bandWords (ctxHalf c) m) : List Int) ++
    ([h.clipSamples, h.clipPeriods, h.antpwr.code, h.antCurrent, if h.isoOpen then 1 else 0,
     h.cal.count, h.cal.lastHt % 2 ^ 32, h.cal.lastHt / 2 ^ 32, h.cal.lastT, h.cal.residual, h.cal.cause.code,
     (bgNow (ctxHalf c) m).code] : List Int))

/-- A measured value of Table ANA-7 that applies to the type. -/
def anaWord (x : Ctx) (i : Nat) (types : List Nat) : Int :=
  if types.contains x.cfg.type then wordOr ((x.quality.broadcast.getD i none)) else na32

/-- A value the part keeps itself that applies to the type. -/
def anaOwn (x : Ctx) (types : List Nat) (v : Int) : Int := if types.contains x.cfg.type then v else na32

/-- am_sync (Table ANA-7): a synchronous detector that has locked no carrier yet has no code there, and reads N/A. (DEDUCED, log 23) -/
def amSync (x : Ctx) : Int :=
  if x.cfg.am.detector = 0 then 0 else if x.delivered.amFallback then 2 else if x.delivered.amLocked then 1 else na32

/-- Section 4, ANALOGUE: Table ANA-7 in its order. (DESIGN CHOICE / DEDUCED, log 23) -/
def analogueSection (x : Ctx) : Chunk :=
  wordSection 4
    [anaWord x 0 [1, 2, 3, 4], anaWord x 1 [1], anaWord x 2 [1], anaOwn x [1] (amSync x), anaOwn x [1] x.ana.fallbacks,
     anaOwn x [1] x.quality.runs.1, anaOwn x [1] x.quality.runs.2.1, anaWord x 3 [2, 3, 4], anaWord x 4 [3, 4],
     anaWord x 5 [3, 4], anaWord x 6 [3, 4], anaWord x 7 [3, 4], anaOwn x [4] (1024 * x.quality.blend / 800 : Nat),
     anaOwn x [1, 3, 4] x.quality.mute, anaWord x 8 [4], anaWord x 9 [4], anaWord x 10 [4], anaOwn x [4] x.quality.runs.2.2]

/-- The words of one selection in sub_status: its coding as described and its size, the channel bit errors and bits and the RS codewords
corrected and uncorrectable of the last window, the units that failed (Table DIG-13). (DESIGN CHOICE, log 23) -/
def selWords (s : Selection) : List Int :=
  let l := s.seenLast
  (s.sel : Int) :: (s.coding.map fun v => (v : Int))
    ++ [(s.size : Int), wordOr (l.map fun e => (e.1 : Int)), wordOr (l.map fun e => (e.2.1 : Int)), wordOr (l.map fun e => (e.2.2.1 : Int)),
      wordOr (l.map fun e => (e.2.2.2 : Int)), (s.failed : Int)]

/-- Section 5, DIGITAL: Table DIG-13 in its order. (DESIGN CHOICE / DEDUCED, log 23) -/
def digitalSection (x : Ctx) : Chunk :=
  let q (i : Nat) : Int := wordOr (x.quality.reception.getD i none)
  let paths := ((x.quality.reception.drop 10).take 8).map wordOr
  let dab := decide (x.cfg.type = 7)
  let mode := (x.dig.mode.map fun k => (k : Int)).or (x.quality.reception.getD 5 none)
  wordSection 5
    ([q 0, q 1, (paths.length / 2 : Nat)] ++ paths ++ [q 2, q 3]
      ++ (if dab then
            [wordOr (if x.dig.cifKnown then some (x.dig.cif : Int) else none), (x.dig.tii.length : Int)]
              ++ (x.dig.tii.flatMap fun e => [(e.1 : Int), (e.2.1 : Int), e.2.2])
              ++ [(x.sels.length : Int)] ++ x.sels.flatMap selWords
              ++ x.sels.map fun s => if s.synced then 1 else 0
          else [wordOr mode, wordOr (if x.dig.occSignalled = 255 then none else some (x.dig.occSignalled : Int)), q 6, q 7, q 8, q 9, q 4])
      ++ [(x.dig.reconfigs : Int)])

/-- CTX_QUERY takes effect. -/
def performQuery (c : Nat) : Perform := fun _ _ m =>
  match ctx c m with
  | none => (m, reply (noCtx c m))
  | some x =>
    let last := if digitalType x.cfg.type then digitalSection x else analogueSection x
    (m, some { status := stOk, chunks := [contextSection c x m] ++ qualitySection c x ++ [frontSection c m, last] })

/-- CTX_QUERY (R336). -/
def execCtxQuery (d : Desc) (ctx : Nat) (s : State) : Host.Outcome State Fault Refusal :=
  s.run (accept d (.ctxQuery ctx) (slotStatus ctx) (performQuery ctx))

/-! ## COEF_LOAD and COEF_SWAP (R155-R161) -/

/-- A coefficient word is sign-extended from bit 17 (R157). -/
def coefWordOk (w : Nat) : Bool :=
  decide (w / 2 ^ 18 = if w % 2 ^ 18 < 2 ^ 17 then 0 else 2 ^ 14 - 1)

/-- Coefficients that a context type needs at the plan of its tile (R155, R157). -/
def tapsOf (c type : Nat) (m : Part) : Nat := (family type).taps (ctxPlan c m)

/-- Acceptance checks of COEF_LOAD (R157, R171, R300). (DEDUCED, log 25) -/
def coefLoadStatus (c count scale : Nat) (words : List Nat) (m : Part) : Nat :=
  firstStatus [
    (decide (slotStatusOwned c m ≠ stOk), slotStatusOwned c m),
    (decide ((cfgAfter c m).elim 0 (fun g => tapsOf c g.type m) ≠ count), stBadParam),
    (decide (7 < scale) || decide (words.length ≠ count) || !words.all coefWordOk, stBadParam)]

/-- COEF_LOAD takes effect: the inactive bank takes the words (R157, R159, R161). (DEDUCED, log 25) -/
def performCoefLoad (c count scale : Nat) (words : List Nat) : Perform := fun _ _ m =>
  let m := settleFade c m
  match ctx c m with
  | none => (m, reply (noCtx c m))
  | some x =>
    if x.chain.fade.isSome then (m, reply stCoefBusy)
    else if tapsOf c x.cfg.type m ≠ count then (m, reply stBadParam)
    else
      let bank : Bank := { words := some words, scale := scale }
      (onCtx c (fun x => { x with chain :=
          if x.chain.active1 then { x.chain with bank0 := bank } else { x.chain with bank1 := bank } }) m,
        some { status := stOk, result := Config.crc32 words })

/-- COEF_LOAD (R157). -/
def execCoefLoad (d : Desc) (ctx count scale : Nat) (words : List Nat) (s : State) :
    Host.Outcome State Fault Refusal :=
  s.run (accept d (.coefLoad ctx count scale words) (coefLoadStatus ctx count scale words)
    (performCoefLoad ctx count scale words))

/-- Acceptance checks of COEF_SWAP. -/
def coefSwapStatus (c xfade : Nat) (m : Part) : Nat :=
  firstStatus [
    (decide (slotStatusOwned c m ≠ stOk), slotStatusOwned c m), (decide (4096 < xfade), stBadParam)]

/-- COEF_SWAP takes effect: a cut, or a fade that starts on the first grid tick (R158, R159, R161). (DEDUCED, log 25) -/
def performCoefSwap (c xfade : Nat) : Perform := fun _ _ m =>
  let m := settleFade c m
  match ctx c m with
  | none => (m, reply (noCtx c m))
  | some x =>
    if x.chain.fade.isSome then (m, reply stCoefBusy)
    else
      let first := gridAt (family x.cfg.type).k m.clock.elapsed m
      (onCtx c (fun x => { x with chain := { x.chain with
          active1 := !x.chain.active1, fade := if xfade = 0 then none else some { len := xfade, first := first } } }) m,
        reply stOk)

/-- COEF_SWAP (R158). -/
def execCoefSwap (d : Desc) (ctx xfade : Nat) (s : State) : Host.Outcome State Fault Refusal :=
  s.run (accept d (.coefSwap ctx xfade) (coefSwapStatus ctx xfade) (performCoefSwap ctx xfade))

/-- XFADE_DONE (R158): the fade reaches output N. -/
def execXfadeDone (t ctx : Nat) (s : State) : Host.Outcome State Fault Refusal := s.run (onTick t (settleFade ctx))

/-! ## Sync groups (R162-R164) -/

/-- Acceptance checks of JOIN and LEAVE (R163, R172, R300). -/
def syncCtxStatus (c : Nat) (m : Part) : Nat :=
  firstStatus [
    (slotOutside c m, stBadParam), (slotFenced c m, stFenced), (!slotHeld c m, stBadParam), (policyOwned c m, stBusy)]

/-- A group number in range. (DEDUCED, log 24) -/
def groupStatus (g : Nat) : Nat := if 31 < g then stBadParam else stOk

/-- Acceptance checks of JOIN. (DEDUCED, log 24) -/
def joinStatus (g c : Nat) (m : Part) : Nat :=
  firstStatus [(decide (31 < g), stBadParam), (decide (syncCtxStatus c m ≠ stOk), syncCtxStatus c m)]

/-- JOIN and LEAVE take effect (Table CHN-5). (DEDUCED, log 24) -/
def performGroup (c : Nat) (g : Option Nat) : Perform := fun _ _ m =>
  if (ctx c m).isNone then (m, reply (noCtx c m))
  else (onCtx c (fun x => { x with group := g }) m, reply stOk)

/-- SYNC_ARM JOIN (R163). -/
def execSyncArmJoin (d : Desc) (group ctx : Nat) (s : State) : Host.Outcome State Fault Refusal :=
  s.run (accept d (.syncArmJoin group ctx) (joinStatus group ctx) (performGroup ctx (some group)))

/-- SYNC_ARM LEAVE (R163). -/
def execSyncArmLeave (d : Desc) (ctx : Nat) (s : State) : Host.Outcome State Fault Refusal :=
  s.run (accept d (.syncArmLeave ctx) (syncCtxStatus ctx) (performGroup ctx none))

/-- The members of a group (R162). -/
def members (g : Nat) (m : Part) : List Nat := (m.ctxs.filter fun e => decide (e.2.group = some g)).map (·.1)

/-- Zero the chains of several contexts. -/
def zeroChains (phase : Nat) : List Nat → Part → Part
  | [], m => m
  | c :: rest, m => zeroChains phase rest (zeroChain c phase m)

/-- SYNCOUT pulses for 16 ticks (R69). -/
def pulseSyncout (m : Part) : Part := { m with pins := { m.pins with syncoutEnd := some (m.clock.elapsed + 16) } }

/-- A group reset now (R164). Several of one group on one tick raise one event; when they name different phases, which the spec leaves
open, the last to execute sets the accumulators. (DESIGN CHOICE, log 24) -/
def resetGroup (g phase : Nat) (syncout : Bool) (m : Part) : Part :=
  let l := members g m
  let again := look g m.syncin.resets = some m.clock.elapsed
  let m := zeroChains phase l m
  let m := if syncout then pulseSyncout m else m
  if again then m
  else
    raise 5 0x0A [⟨0, 1, g⟩, ⟨4, 4, l.length⟩]
      { m with syncin := { m.syncin with resets := put g m.clock.elapsed m.syncin.resets } }

/-- The copies that a RESET names, with what became of each (R57, R162, R164). (DEDUCED, log 24) -/
def resetTargets (l : List Nat) (m : Part) : List Target :=
  l.flatMap fun c =>
    match ctx c m with
    | none => []
    | some x =>
      { kind := 3, status := if x.a.isFenced then stFenced else stOk, id := c, detail := 0 }
        :: (x.b.toList.map fun b =>
            { kind := 3, status := if b.isFenced then stFenced else stOk, id := c + 64, detail := 0 })

/-- The contexts that a fence has taken from group `g` since acceptance order `order`. (DEDUCED, log 24) -/
def lostMembers (g : Nat) (order : Option Nat) (m : Part) : List Nat :=
  (m.syncin.lost.filter fun e => decide (e.1 = g) && order.any fun n => decide (n < e.2.2)).map fun e => e.2.1

/-- A fence takes contexts from their groups: an action accepted before it still counts them among its targets (R57). What no queued
action can count any more is forgotten. (DEDUCED, log 24) -/
def loseMembers (cs : List Nat) (m : Part) : Part :=
  let kept := m.syncin.lost.filter fun e => m.sched.queue.any fun a => decide (a.order < e.2.2)
  let gone := cs.filterMap fun c => (ctx c m).bind fun x => x.group.map fun g => (g, c, m.sched.nextOrder)
  { m with syncin := { m.syncin with lost := kept ++ gone } }

/-- RESET takes effect (R164). `order` is the acceptance order of a scheduled one. (DEDUCED, log 24) -/
def performReset (order : Option Nat) (g syncout phase : Nat) : Perform := fun _ _ m =>
  let l := members g m
  let ts := resetTargets l m ++ (lostMembers g order m).map fun c => { kind := 3, status := stFenced, id := c, detail := 0 }
  let m := resetGroup g phase (decide (syncout = 1)) m
  let part := ts.any fun t => decide (t.status ≠ stOk)
  (m, some { status := if part then stPartial else stOk, result := l.length, targets := if part then ts else [] })

/-- Acceptance checks of RESET and ARM_SYNCIN: the group and the enumerated fields. -/
def resetStatus (g every syncout : Nat) (_ : Part) : Nat :=
  if 31 < g ∨ 1 < every ∨ 1 < syncout then stBadParam else stOk

/-- nco_phase: all ones is a valid phase, so it selects no default (R328). -/
def ncoPhase (phase : Nat) : Nat := phase % 2 ^ 32

/-- SYNC_ARM RESET (R164). -/
def execSyncArmReset (d : Desc) (group syncout phase : Nat) (s : State) : Host.Outcome State Fault Refusal :=
  s.run (accept d (.syncArmReset group syncout phase) (resetStatus group 0 syncout)
    (performReset none group syncout (ncoPhase phase)))

/-- ARM_SYNCIN takes effect (R163). What a second one does to a group already armed the spec does not say: it takes the place of the first.
(DESIGN CHOICE, log 24) -/
def performArm (g every syncout phase : Nat) : Perform := fun _ _ m =>
  let arm : Armed := { every := decide (every = 1), syncout := decide (syncout = 1), phase := ncoPhase phase }
  ({ m with syncin := { m.syncin with armed := put g arm m.syncin.armed } }, reply stOk)

/-- SYNC_ARM ARM_SYNCIN (R163). -/
def execArmSyncin (d : Desc) (group every syncout phase : Nat) (s : State) : Host.Outcome State Fault Refusal :=
  s.run (accept d (.armSyncin group every syncout phase) (resetStatus group every syncout)
    (performArm group every syncout phase))

/-- DISARM takes effect: a reset already fixed still executes (R163). -/
def performDisarm (g : Nat) : Perform := fun _ _ m =>
  ({ m with syncin := { m.syncin with armed := erase g m.syncin.armed } }, reply stOk)

/-- SYNC_ARM DISARM (R163). -/
def execDisarm (d : Desc) (group : Nat) (s : State) : Host.Outcome State Fault Refusal :=
  s.run (accept d (.disarm group) (fun _ => groupStatus group) (performDisarm group))

end Sys2Proof.Machine
end

