-- ==== Sys2Proof/Machine/LifeEvents.lean ====
section
/-! DEFINITION. What happens to an open context by itself: the transitions of Table CTX-4, the end of HOLD, quality windows, AGC
boundaries, the delivery of a pair and the pool's events (R27-R31, R178-R194). -/

namespace Sys2Proof.Machine

/-! ## Criteria and timeouts (Tables CTX-4, CTX-5) -/

/-- Acquire timeout of a type, in ticks. -/
def acquireLimit (type : Nat) : Nat :=
  if type = 7 then 12288000 else if type = 5 then 49152000 else if type = 6 then 14745600 else 4915200

/-- Confirm timeout of a type, in ticks. -/
def confirmLimit (type : Nat) : Nat :=
  if type = 7 then 24576000 else if type = 5 then 78643200 else if type = 6 then 24576000 else 12288000

/-- Ticks of 0.1 s. -/
abbrev tenth : Nat := 2457600

/-- The copy has been in its state for at least `limit` ticks. -/
def stayed (c : Nat) (k : Copy) (limit : CtxCfg → Nat) (m : Part) : Bool :=
  (ctx c m).any fun x => (x.copy k).any fun y => decide (y.entered + limit x.cfg ≤ m.clock.elapsed)

/-- Ticks of samples that the presence test needs (Table CTX-5): 40 ms for AM, 10 ms for FM, two null symbols for DAB; the spec
gives DRM none. (DEDUCED, log 22) -/
def presenceSpan (type : Nat) : Nat :=
  if type = 1 then 983040 else if type = 7 then 2359296 else if digitalType type then 0 else 245760

/-- The presence test of Table CTX-5 passes on what was measured: for AM the carrier line above the median in 0.1 dB, for FM the
envelope variance in 1/1000 of the mean square, for DAB the depth of the power dip in 0.1 dB, for DRM the mode at which the guard
interval correlates (0 A to 3 D, 4 E). -/
def presenceHolds (type : Nat) (test : Int) : Bool :=
  if type = 1 then decide (100 ≤ test)
  else if type = 7 then decide (60 ≤ test)
  else if type = 5 then decide (0 ≤ test ∧ test ≤ 3)
  else if type = 6 then decide (test = 4)
  else decide (test < 500)

/-- A copy has samples enough since its last entry into SEARCH, those in HOLD or SETTLING not counted (R180). -/
def sampled (c : Nat) (k : Copy) (span : Nat) (m : Part) : Bool :=
  (ctx c m).any fun x => (x.copy k).any fun y =>
    decide (span ≤ (m.clock.elapsed - y.searched) - spanIn y.searched m.clock.elapsed (copyExcluded x y m))

/-- What the DAB presence test finds in the powers of a copy whose sample path the model follows (R237). -/
def dipSeen (c : Nat) (k : Copy) (m : Part) : Bool :=
  (ctx c m).any fun x => (x.copy k).any fun y => decide (x.cfg.type ≠ 7) || !y.path.fed || nullRecurs y.ofdm

/-- CTX_PRESENCE_PASS (R180): when the test passes on enough samples. -/
def execCtxPresencePass (t ctx : Nat) (p : PresenceTest) (s : State) : Host.Outcome State Fault Refusal :=
  s.run (onTick t fun m =>
    let type := (look ctx m.ctxs).elim 0 fun x => x.cfg.type
    if copyIn ctx p.copy .search m && presenceHolds type p.test && sampled ctx p.copy (presenceSpan type) m && dipSeen ctx p.copy m then
      moveCopy ctx p.copy .acquire causeCriterion (fun x =>
        { x.startAcquire with quality := { x.quality with presence := true } }) m
    else m)

/-- The time constant of a type's fast AGC, in ticks (Table CTX-6). -/
def agcConstant (type : Nat) : Nat :=
  if type = 1 then 24576 else if type = 7 then 49152 else if type = 5 then 245760 else if type = 6 then 61440 else 12288

/-- The outputs of a copy's chain that its AGC and its meters measure from elapsed tick `lo` to `hi`: neither in HOLD nor SETTLING, nor
blanked, nor, for DAB, of the null symbol that begins with `null` (R181, R182, R185, R202). -/
def measured (x : Ctx) (c : CopyState) (null : Option Nat) (lo hi : Nat) (m : Part) : List Cx :=
  let bad := copyExcluded x c m
  (c.path.out.filter fun e =>
    decide (lo ≤ e.1 ∧ e.1 < hi) && !inSpans e.1 bad && !c.am.blanked.contains e.1
      && !null.any fun s => decide (s ≤ e.1 ∧ e.1 < s + 31872)).map (·.2)

/-- The null symbol of a DAB context's last whole frame. -/
def lastNull (x : Ctx) (now : Nat) : Option Nat := if x.cfg.type = 7 then some (now - 2359296) else none

/-- The gain error of a copy since its AGC last moved, in 0.01 dB: −15 dBFS less the mean power in the demodulator's input word, whose full
scale is a modulus of 2^23 (R184). Where the model does not follow the sample path the row tells it. (DEDUCED, log 28) -/
def agcError (x : Ctx) (c : CopyState) (row : Int) (m : Part) : Int :=
  if !c.path.fed then row
  else
    let l := measured x c (lastNull x m.clock.elapsed) c.boundary m.clock.elapsed m
    if l.isEmpty then 0 else -1500 - Config.centibels ((l.map Cx.power).sum : Nat) ((l.length * 2 ^ 46 : Nat) : Int) - c.agc

/-- A fast AGC moves by what it measured since it last moved (R184, R185), over the time that was neither in HOLD nor SETTLING (R181,
R182): not in HOLD, and not once it has frozen. (DEDUCED, log 28) -/
def fastMove (x : Ctx) (row : Int) (m : Part) (c : CopyState) : CopyState :=
  if c.inHold ∨ c.isFenced ∨ c.agcFrozen then c
  else
    let now := m.clock.elapsed
    let valid := (now - c.boundary) - spanIn c.boundary now (copyExcluded x c m)
    let move := if valid = 0 then 0 else Config.fastAgc (agcError x c row m) valid (agcConstant x.cfg.type)
    { c with agc := clampInt (-2000) 10000 (c.agc + move), boundary := now }

/-- The pilot is found for a copy: by its own loop, where the model follows the sample path, else by what the row reports (R210). -/
def pilotSeen (c : CopyState) (found : Bool) : Bool :=
  if c.path.fed then (c.fm.pilots.head?).any fun b => decide (3000 * 2 ^ 32 ≤ 384000 * b.1) else found

/-- The detection trigger of Table CTX-5: four blocks at 6 dB and, for FM, the pilot decision of the copy; for DAB and DRM what
Tables DIG-3 and DIG-9 ask of the samples, where the model follows the sample path, else what the row reports. -/
def detects (x : Ctx) (now : Nat) (c : CopyState) (d : DetectTest) : Bool :=
  if x.cfg.type = 7 ∧ c.path.fed then (dabAcquire c.path.out now).isSome
  else if digitalType x.cfg.type ∧ c.path.fed then (drmAcquire x.cfg.type x.cfg.occupancy c.path.out now).isSome
  else if digitalType x.cfg.type then d.found
  else decide (4 ≤ c.seen.high) && (decide (x.cfg.type = 1) || pilotSeen c d.found || decide (c.pilot ≠ .searching))

/-- A criterion of one copy of a context. -/
def copyMeets (c : Nat) (k : Copy) (p : Ctx → CopyState → Bool) (m : Part) : Bool :=
  (ctx c m).any fun x => (x.copy k).any fun y => p x y

/-- The carrier offset that acquisition found, where a DAB or DRM demodulator's loop begins (Tables DIG-3, DIG-9); a copy whose sample path
the model follows has found its own, and its mode. An FM copy enters with its pilot found where it is (R210). -/
def CopyState.acquired (x : Ctx) (now : Nat) (found : Bool) (offset : Int) (c : CopyState) : CopyState :=
  let type := x.cfg.type
  if !digitalType type then
    if c.pilot = .searching ∧ pilotSeen c found then { c with pilot := .found } else c
  else if c.path.fed then
    if type = 7 then { c with ofdm := { c.ofdm with freq := (dabAcquire c.path.out now).getD c.ofdm.freq } }
    else
      match drmAcquire type x.cfg.occupancy c.path.out now with
      | none => c
      | some (mode, freq) => { c with ofdm := { c.ofdm with mode := some mode, freq := freq } }
  else
    let rate := if type = 7 then 2048000 else if type = 6 then 192000 else 48000
    { c with ofdm := { c.ofdm with freq := Config.round (offset * 2 ^ 32) (10 * rate) } }

/-- CTX_DETECTION (R180, R185): the AGC freezes on the gain it has reached. -/
def execCtxDetection (t ctx : Nat) (d : DetectTest) (s : State) : Host.Outcome State Fault Refusal :=
  s.run (onTick t fun m =>
    if copyIn ctx d.copy .acquire m && copyMeets ctx d.copy (fun x y => detects x m.clock.elapsed y d) m then
      let m := onCtx ctx (fun x =>
        x.onCopy d.copy fun c => (fastMove x d.agcErr m c).acquired x m.clock.elapsed d.found d.offset) m
      moveCopy ctx d.copy .detected causeCriterion (Ctx.startDetected m.clock.elapsed) m
    else m)

/-- Confirmation of Table CTX-5: for AM the carrier loop locked, or with ENVELOPE the carrier held for 16 blocks at 6 dB; for FM
40 blocks at 6 dB and the pilot locked when present; for DAB 3 good FIBs in one frame; for DRM 2 good FACs in a row.
(DEDUCED, log 22) -/
def confirms (x : Ctx) (c : CopyState) : Bool :=
  if x.cfg.type = 7 then decide (3 ≤ c.seen.fibs)
  else if digitalType x.cfg.type then decide (2 ≤ c.seen.facOk)
  else if x.cfg.type = 1 then
    if x.cfg.am.detector = 0 then decide (16 ≤ c.seen.high) else c.amLocked
  else decide (40 ≤ c.seen.high) && decide (c.pilot = .absent ∨ c.pilot = .locked)

/-- The loss criterion of Table CTX-5. -/
def loses (x : Ctx) (c : CopyState) : Bool :=
  if x.cfg.type = 7 then decide (10 ≤ c.seen.noFib) || decide (4 ≤ c.seen.noNull)
  else if digitalType x.cfg.type then decide (5 ≤ c.seen.facBad)
  else decide (80 ≤ c.seen.low)

/-- CTX_CONFIRMATION (R180): from DETECTED or from LOST. -/
def execCtxConfirmation (t ctx : Nat) (copy : Copy) (s : State) : Host.Outcome State Fault Refusal :=
  s.run (onTick t fun m =>
    if (copyIn ctx copy .detected m || copyIn ctx copy .lost m) && copyMeets ctx copy confirms m then
      moveCopy ctx copy .track causeCriterion id m
    else m)

/-- CTX_LOSS (R180). -/
def execCtxLoss (t ctx : Nat) (copy : Copy) (s : State) : Host.Outcome State Fault Refusal :=
  s.run (onTick t fun m =>
    if copyIn ctx copy .track m && copyMeets ctx copy loses m then moveCopy ctx copy .lost causeCriterion id m else m)

/-- ACQUIRE_TIMEOUT (R179). -/
def execAcquireTimeout (t ctx : Nat) (copy : Copy) (s : State) : Host.Outcome State Fault Refusal :=
  s.run (onTick t fun m =>
    if copyIn ctx copy .acquire m && stayed ctx copy (fun g => acquireLimit g.type) m then
      moveCopy ctx copy .search causeTimeout Ctx.startSearch m
    else m)

/-- CONFIRM_TIMEOUT (R179). -/
def execConfirmTimeout (t ctx : Nat) (copy : Copy) (s : State) : Host.Outcome State Fault Refusal :=
  s.run (onTick t fun m =>
    if copyIn ctx copy .detected m && stayed ctx copy (fun g => confirmLimit g.type) m then
      moveCopy ctx copy .acquire causeTimeout Ctx.startAcquire m
    else m)

/-- LOST_TIMEOUT (R179). -/
def execLostTimeout (t ctx : Nat) (copy : Copy) (s : State) : Host.Outcome State Fault Refusal :=
  s.run (onTick t fun m =>
    if copyIn ctx copy .lost m && stayed ctx copy (fun g => tenth * g.lostTimeout) m then
      moveCopy ctx copy .search causeTimeout Ctx.startSearch m
    else m)

/-! ## The end of HOLD (R136, R165, R181) -/

/-- Whether the copy of context `c` on half `h` is held for `cause`. -/
def heldFor (h c : Nat) (cause : HoldCause) (m : Part) : Bool :=
  (ctx c m).any fun x => (x.copy (if x.b.isSome then copyOn h else .a)).any fun y => y.holds.contains cause

/-- End the calibration HOLD of context `c` on half `h`: the chain leaves a zero-fed interval (R165). -/
def endCalHold (h c : Nat) (m : Part) : Part :=
  if heldFor h c .calibration m then
    let fed := (ctx c m).any fun x => !x.inHold
    let m := releaseOn h .calibration c m
    if fed then settleCopy h c m else settleNow c m
  else m

/-- End what no longer holds the contexts of half `h`. -/
def endHolds (h : Nat) (m : Part) : Part :=
  (ctxsOn h m).foldl (fun m c =>
    let m := if calHolds h m then m else endCalHold h c m
    let m := if tileHolds h m then m else releaseOn h .tile c m
    if m.planHolds.any fun p => p.ctxs.contains c then m else releaseCtx .plan c m) m

/-- HOLD_END (R181): every cause that has ended lets the half's contexts resume the state they held. -/
def execHoldEnd (t half : Nat) (s : State) : Host.Outcome State Fault Refusal :=
  s.runIf (decide (half < halvesFitted s.part)) (onTick t (endHolds half))

/-! ## AGC (R184-R186) -/

/-- The interval since the copy's last boundary was at least half valid (R186). -/
def halfValid (x : Ctx) (c : CopyState) (m : Part) : Bool :=
  let lo := c.boundary
  let hi := m.clock.elapsed
  decide (2 * spanIn lo hi (copyExcluded x c m) ≤ hi - lo)

/-- A copy's AGC at an update boundary: `row` the error in 0.01 dB where the row tells it, `step` the largest step (Table CTX-6). Every
boundary begins a new interval, and none moves the gain in HOLD or LOST (R186). (DEDUCED, log 28) -/
def agcBoundary (x : Ctx) (step row : Int) (m : Part) (c : CopyState) : CopyState :=
  let now := m.clock.elapsed
  let next (agc : Int) : CopyState :=
    { c with agc := agc, boundary := now, out := c.out.filter fun s => decide (now ≤ s.2 + keptTicks) }
  let step' := if halfValid x c m then next (clampInt (-2000) 10000 (c.agc + clampInt (-step) step (agcError x c row m))) else next c.agc
  if c.inHold ∨ c.isFenced then next c.agc
  else
    match c.state with
    | .search => { fastMove x row m c with out := (next c.agc).out }
    | .acquire => { fastMove x row m c with out := (next c.agc).out }
    | .detected => step'
    | .track => step'
    | _ => next c.agc

/-- Both copies' AGC at a boundary. (DESIGN CHOICE / DEDUCED, log 28) -/
def agcStep (c : Nat) (step errA errB : Int) (m : Part) : Part :=
  onCtx c (fun x => { x with a := agcBoundary x step errA m x.a, b := x.b.map (agcBoundary x step errB m) }) m

/-! ## Delivery of a pair (R27-R30) -/

/-- The other copy's quality exceeds the delivered copy's by 3 dB at this evaluation (R30). -/
def exceeds (x : Ctx) (b : CopyState) (qa qb : Int) (m : Part) : Bool :=
  !(x.a.inHold || b.inHold || copySettling x x.a m || copySettling x b m)
    && (match x.pair.copy with
        | .a => decide (qa + 30 ≤ qb)
        | .b => decide (qb + 30 ≤ qa))

/-- An evaluation of R30 on a boundary of R28: the copies' quality in 0.1 dB and the measured delay of input B. -/
def deliver (c : Nat) (qa qb delay : Int) (m : Part) : Part :=
  let now := m.clock.elapsed
  onCtx c (fun x =>
    match x.b with
    | none => x
    | some b =>
      let x := if (half (halfA (ctxHalf c)) m).diversity then { x with pair := { x.pair with delayNs := delay } } else x
      let since := if exceeds x b qa qb m then some (x.pair.excessSince.getD now) else none
      { x with pair := delivery c x b since m }) m

/-! ## Quality windows (R187-R190) -/

/-- A window of the context's kind may end now: a window boundary in τ, or a frame start that the row reports. -/
def windowEnds (x : Ctx) (m : Part) : Bool := frameWindows x || decide (tau m % 2457600 = 0)

/-- PCM of the audio selections that decode nothing yet: silence, CONCEALED (Table DIG-1). It is produced up to two windows before
the present, where no unit still to be released can begin. -/
def fillSilence (c : Nat) (m : Part) : Part :=
  match ctx c m with
  | none => m
  | some x =>
    x.sels.foldl (fun m y =>
      if y.audio ∧ y.state ≠ .decoding then
        let led := (leadSet c y.sel m).isSome
        selFillAll c y.sel x (if led then 0 else flagConcealed) (!led) (m.clock.elapsed - 2 * windowLength x) m
      else m) m

/-- The carrier offset that the discriminator removes is the mean of its output over the window that ends (R209), whose peaks and sums
begin again. -/
def CopyState.noteOffset (c : CopyState) : CopyState :=
  { c with
    am := { c.am with modPos := 0, modNeg := 0 },
    fm := { c.fm with offset := if c.fm.cnt = 0 then c.fm.offset else Config.round c.fm.sum c.fm.cnt, sum := 0, cnt := 0,
                      peak := 0, eOut := 0, eIn := 0, mpxSum := 0, mpxCnt := 0,
                      mpxPast := if c.state = .track then ((c.fm.mpxSum, c.fm.mpxCnt) :: c.fm.mpxPast).take 600 else [],
                      rds := { c.fm.rds with level := 0, cnt := 0 } } }

/-- The strongest of several taps, each with its position against the reference path. -/
def strongest : List (Int × Cx) → Int × Nat
  | [] => (0, 0)
  | (k, z) :: rest =>
    let b := strongest rest
    let w := (z.re * z.re + z.im * z.im).toNat
    if b.2 < w then (k, w) else b

/-- The strongest echo of a canceller: its delay in taps against tap 8, feedback tap k being k behind it, and its power (Table ANA-7). -/
def echoOf (p : FmPath) : Int × Nat :=
  strongest ((p.ff.zipIdx.filter fun e => decide (e.2 ≠ 8)).map (fun e => ((e.2 : Int) - 8, e.1))
    ++ p.fb.zipIdx.map fun e => ((e.2 : Int) + 1, e.1))

/-- mpx_power: the power of 600 windows in TRACK, 60 s, against that of a sine of ±19 kHz deviation, 0 dBr (ITU-R BS.412, R222). -/
def mpxPower (c : CopyState) : Option Int :=
  let l := ((c.fm.mpxSum, c.fm.mpxCnt) :: c.fm.mpxPast).take 600
  if c.state ≠ .track ∨ l.length < 600 then none
  else
    let ref : Int := 19000 * 2 ^ 32 / 384000
    some (Config.decibels (2 * (l.map (·.1)).foldl (· + ·) 0) (((l.map (·.2)).sum : Nat) * ref * ref))

/-- A copy's carrier level of the window, before ext_gain, and its CNR, saturated at 45 dB, where its samples are followed (Table
CTX-7). -/
def Meter.level (x : Ctx) (w : Meter) : Option Int :=
  if w.cnt = 0 then none
  else some (Config.decibels w.power ((w.cnt * 2 ^ 46 : Nat) : Int) + Config.fullScale x.cfg.type x.chain.plan)

/-- The CNR of what a meter has taken. -/
def Meter.cnr (w : Meter) : Option Int := if w.cnt = 0 then none else some (min 450 (Config.decibels w.signal w.noise))

/-- A block's or a frame's powers enter a meter. -/
def Meter.add (power signal noise : Int) (cnt : Nat) (w : Meter) : Meter :=
  { w with power := w.power + power, cnt := w.cnt + cnt, signal := w.signal + signal, noise := w.noise + noise }

/-- For each tenth of a dB from 0.1 to 3.0, how many differences (0.1 dB) between two CNRs add at least that to the
larger. (DEDUCED, log 28) -/
def sumSteps : List Nat :=
  [194, 146, 123, 108, 97, 87, 80, 73, 67, 62, 57, 52, 48, 44, 41, 37, 34, 31, 28, 25, 22, 20, 17, 15, 13, 10, 8, 6, 4, 2]

/-- 10 log of the sum of two linear ratios, in 0.1 dB (R27, R281). (DEDUCED, log 28) -/
def logSum (a b : Int) : Int := max a b + ((sumSteps.filter fun s => decide ((a - b).natAbs < s)).length : Nat)

/-- The figures of a window as the meters of the copies tell them; those of a copy whose samples are not followed are the row's (R188). The
CNR of a pair that combines is that of the combined signal. -/
def heardQuality (x : Ctx) (q : QualityMeasure) : QualityMeasure :=
  let w := x.delivered.meter
  let both := x.pair.combined && decide (x.a.state = .track) && x.b.any fun b => decide (b.state = .track)
  let cnr := match both, x.a.meter.cnr, x.b.bind fun b => b.meter.cnr with
    | true, some a, some b => some (min 450 (logSum a b))
    | _, _, _ => w.cnr
  let figure (w : Meter) : Option Int := if digitalType x.cfg.type then w.mer else w.cnr
  { q with
    level := (w.level x).or q.level, cnr := cnr.or q.cnr, mer := w.mer.or q.mer,
    aLevel := (x.a.meter.level x).or q.aLevel, aQuality := (figure x.a.meter).or q.aQuality,
    bLevel := (x.b.bind fun b => b.meter.level x).or q.bLevel, bQuality := (x.b.bind fun b => figure b.meter).or q.bQuality }

/-- The measures of Table ANA-7 that the demodulators of the sample path give, in the order of `QualityMeasure.broadcast`; the rest are the
row's. (DESIGN CHOICE / DEDUCED, log 13) -/
def heardMeasures (x : Ctx) (c : CopyState) (row : List (Option Int)) : List (Option Int) :=
  if x.cfg.probe then []
  else if !c.path.fed ∨ !(decide (x.cfg.type = 1) || fmType x.cfg.type) then row
  else
    let old (i : Nat) : Option Int := row.getD i none
    if x.cfg.type = 1 then
      [if x.cfg.am.detector ≠ 0 ∧ c.amLocked then some (Config.round (c.am.freq * 48000) (2 ^ 32)) else old 0,
       some c.am.modPos, some c.am.modNeg] ++ row.drop 3
    else
      let hz (v : Int) (unit : Nat) (rate : Nat) : Int := Config.round (v * rate) (2 ^ 32 * unit)
      let echo := echoOf c.fm
      let ref := c.fm.ff.getD 8 {}
      [if c.fm.cnt = 0 then old 0 else some (hz (Config.round c.fm.sum c.fm.cnt) 1 384000), old 1, old 2,
       some (hz c.fm.peak 100 384000), mpxPower c, (c.fm.pilots.head?).map fun b => hz b.1 10 384000,
       some (Config.round (c.fm.freq * 192 * 10 ^ 8) (2 ^ 32 * 19)),
       if c.fm.rds.cnt = 0 then old 7 else some (Config.rdsDeviation c.fm.rds.level c.fm.rds.cnt),
       some (Config.decibels c.fm.eIn c.fm.eOut), some echo.1,
       some (Config.decibels echo.2 (ref.re * ref.re + ref.im * ref.im))]

/-- The strongest places of an impulse response, strongest first, with their powers. -/
def strongestPlaces (n : Nat) (l : List Nat) : List (Nat × Nat) :=
  match n with
  | 0 => []
  | n + 1 =>
    match l.zipIdx.foldl (fun (b : Nat × Nat) e => if b.1 < e.1 then e else b) (0, 0) with
    | (0, _) => []
    | (p, i) => (i, p) :: strongestPlaces n (l.set i 0)

/-- cir_paths of an impulse response of a DAB copy: delay in 10 ns and level in 0.1 dB of up to 4 places, against the strongest (R260). -/
def pathWords (l : List Nat) : List (Option Int) :=
  match strongestPlaces 4 l with
  | [] => []
  | (i0, p0) :: rest =>
    [some 0, some 0] ++ rest.flatMap fun e => [some (Config.round (((e.1 : Int) - i0) * 3125) 64), some (Config.decibels e.2 p0)]

/-- Samples between the first and the last place within 20 dB of the strongest. -/
def pathSpan (l : List Nat) : Nat :=
  let top := l.foldl max 0
  let near := (l.zipIdx.filter fun e => decide (top ≤ 100 * e.1)).map (·.2)
  (near.foldl max 0) - (near.foldl min l.length)

/-- The measures of Table DIG-13 that a followed demodulator gives, in the order of `QualityMeasure.reception`; the rest are the row's. -/
def heardReception (x : Ctx) (c : CopyState) (row : List (Option Int)) : List (Option Int) :=
  if !c.path.fed ∨ !digitalType x.cfg.type then row
  else
    let rate : Int := if x.cfg.type = 7 then 2048000 else if x.cfg.type = 6 then 192000 else 48000
    let old (i : Nat) : Option Int := row.getD i none
    let first := [some (Config.round (c.ofdm.freq * rate * 10) (2 ^ 32)), some (Config.round c.ofdm.rate 10)]
    if x.cfg.type ≠ 7 ∨ c.ofdm.prs.isEmpty then first ++ row.drop 2
    else
      let l := impulse 2048 1 2048 (c.ofdm.prs.zipIdx.map fun e => (dabCarrier e.2, e.1))
      let spread := Config.round (pathSpan l * 125) 256
      first ++ [some spread, some (246 - spread), old 4, old 5, old 6, old 7, old 8, old 9] ++ pathWords l

/-- A window ends for a selection: what Table DIG-13 counts in it is kept and counted anew. -/
def Selection.endWindow (s : Selection) : Selection := { s with seenLast := some s.seen, seen := (0, 0, 0, 0) }

/-- The window ends: its report is produced, kept and delivered, and the next begins. A fast AGC of a DAB or DRM context, which has no
block, moves here too (R185). -/
def endWindow (c : Nat) (q : QualityMeasure) (m : Part) : Part :=
  let m := if (ctx c m).any fun x => decide (x.cfg.type = 7) then settlePair c m else m
  match ctx c m with
  | none => m
  | some x =>
    if !windowEnds x m then m
    else
      let now := m.clock.elapsed
      let q := heardQuality x { q with
        broadcast := heardMeasures x x.delivered q.broadcast, reception := heardReception x x.delivered q.reception }
      let x := if digitalType x.cfg.type then
          { x with a := fastMove x q.agcErrA m x.a, b := x.b.map (fastMove x q.agcErrB m) }
        else x.onCopies CopyState.noteOffset
      let q := applicable c x q m
      let r := makeReport c x x.state q m
      let m := deliverReport c r m
      let (floor, floorEnd) := windowFloor x.quality q now
      onCtx c (fun _ =>
        Ctx.startWindow c m { x with sels := x.sels.map Selection.endWindow, ana := { x.ana with nbRuns := 0, nbLong := 0 }, quality := { x.quality with
          last := some r, floor := floor, floorEnd := floorEnd,
          broadcast := q.broadcast, reception := q.reception, blend := x.ana.blend, mute := x.ana.mute,
          runs := (x.ana.nbRuns, x.ana.nbLong, x.ana.mpcResets - x.quality.resetBase) } }) m

/-- QUALITY_WINDOW_END (R187). -/
def execQualityWindowEnd (t ctx : Nat) (q : QualityMeasure) (s : State) : Host.Outcome State Fault Refusal :=
  s.run (onTick t fun m => endWindow ctx q (fillSilence ctx m))

/-! ## The iteration pool's events (R194) -/

/-- A block of half `h` has been decoded, cut short or not. (DEDUCED, log 34) -/
def countBlock (h : Nat) (short : Bool) (m : Part) : Part :=
  let now := m.clock.elapsed
  onHalf h (fun x =>
    let p := if x.pool.since + ticksPerSecond ≤ now then
        { x.pool with since := now - (now - x.pool.since) % ticksPerSecond, blocks := 0, short := 0 } else x.pool
    { x with pool := { p with
        blocks := p.blocks + 1, short := p.short + (if short then 1 else 0),
        lastShort := if short then now else p.lastShort } }) m

/-- POOL_SATURATED (R194): at the end of an interval of 1 s. (DEDUCED, log 34) -/
def execPoolSaturated (t half : Nat) (s : State) : Host.Outcome State Fault Refusal :=
  s.runIf (decide (half < halvesFitted s.part)) (onTick t fun m =>
    let p := (m.halves.getD half {}).pool
    if !p.saturated && decide (p.since + ticksPerSecond ≤ m.clock.elapsed) && decide (p.blocks < 100 * p.short) then
      raise (halfSource half 5) 0x86 [⟨0, 2, 1024 * p.short / p.blocks⟩]
        (onHalf half (fun x => { x with pool := { x.pool with saturated := true } }) m)
    else m)

/-- POOL_CLEAR (R194). (DEDUCED, log 34) -/
def execPoolClear (t half : Nat) (s : State) : Host.Outcome State Fault Refusal :=
  s.runIf (decide (half < halvesFitted s.part)) (onTick t fun m =>
    let p := (m.halves.getD half {}).pool
    if p.saturated && decide (p.lastShort + 10 * ticksPerSecond ≤ m.clock.elapsed) then
      raise (halfSource half 5) 0x87 [⟨0, 2, 0⟩]
        (onHalf half (fun x => { x with pool := { x.pool with saturated := false } }) m)
    else m)

end Sys2Proof.Machine
end

