-- ==== Sys2Proof/Machine/Front.lean ====
section
/-! DEFINITION. The front end (R97-R128, R500): antenna power, external gain, the band levellers, clipping, the accessory pins
and the accessory bus. -/

namespace Sys2Proof.Machine

/-! ## Shared by the functions of HALF_SETUP (R500) -/

/-- Functions 0 to 3 name a fitted half (order 1 of R500). -/
def setupHalf (h : Nat) (m : Part) : Bool := decide (h < halvesFitted m)

/-- Half B of a SHARED pair is named (order 2 of R500, R26). -/
def sharedB (h : Nat) (m : Part) : Bool := decide (h % 2 = 1) && sharedPair h m

/-- The half is FENCED. -/
def isFenced (h : Nat) (m : Part) : Bool := decide ((half h m).mode = .fenced)

/-- The half is PARKED. -/
def isParked (h : Nat) (m : Part) : Bool := decide ((half h m).mode = .parked)

/-- The half is powered: neither FENCED nor PARKED. -/
def isLive (h : Nat) (m : Part) : Bool := !(isFenced h m || isParked h m)

/-- Orders 1 to 4 of R500 for LEVELLER, ANTPWR and EXT_GAIN. -/
def setupStatus (h : Nat) (bad : Bool) (m : Part) : Nat :=
  firstStatus [
    (!setupHalf h m, stBadParam), (sharedB h m, stBadParam), (isFenced h m, stFenced), (bad, stBadParam)]

/-! ## Bands (R108-R117) -/

/-- A band of a half. -/
def bandAt (h b : Nat) (m : Part) : Band := (half h m).bands.getD b {}

/-- Change one band. -/
def onBand (h b : Nat) (f : Band → Band) (m : Part) : Part := onHalf h (fun x => { x with bands := x.bands.modify b f }) m

/-- The half's levellers are frozen (R114). -/
def levFrozen (h : Nat) (m : Part) : Bool :=
  (tile (halfTile h) m).switch.isSome || (half h m).cal.run.isSome || m.power.brace.isSome || !isLive h m

/-- The attenuation that a band will have once every announced step has landed. -/
def Band.target (b : Band) : Nat := (b.steps.getLast?).elim b.atten LevStep.atten

/-- The landing tick of the band's latest step, landed or announced. -/
def Band.latest (b : Band) : Option Nat := ((b.steps.getLast?).map LevStep.landing).or b.lastLanding

/-- The landing tick of a step that would land on `wanted`: 32 ticks after the band's latest step when that lies less than 32
ticks before (R112, R113). -/
def Band.landing (b : Band) (wanted : Nat) : Nat :=
  match b.latest with
  | some l => if wanted < l + 32 then l + 32 else wanted
  | none => wanted

/-- Announce a step to `atten` (R112). -/
def Band.announce (atten wanted : Nat) (b : Band) : Band :=
  { b with steps := b.steps ++ [{ landing := b.landing wanted, atten := atten }] }

/-- Land the band's next step when its tick has come (R115): the dwell restarts (R111), and the step is counted (R124). -/
def Band.land (now : Nat) (b : Band) : Band :=
  match b.steps with
  | [] => b
  | s :: rest =>
    if now < s.landing then b
    else
      { b with
        atten := s.atten, lastDelta := (s.atten : Int) - b.atten, lastLanding := some s.landing, steps := rest,
        belowSince := now,
        stepsUp := b.stepsUp + (if s.atten < b.atten then 1 else 0),
        stepsDown := b.stepsDown + (if b.atten < s.atten then 1 else 0) }

/-- The halves whose bands take the steps that half `h` decides: in a SHARED pair half B takes half A's, unless its own
leveller is frozen (R127). -/
def stepHalves (h : Nat) (m : Part) : List Nat :=
  if sharedPair h m && decide (h % 2 = 0) && !levFrozen (halfB h) m then [h, halfB h] else [h]

/-- Announce a step of band `b` on every half that takes it. -/
def announceStep (h b atten wanted : Nat) (m : Part) : Part :=
  (stepHalves h m).foldl (fun m k => onBand k b (Band.announce atten wanted) m) m

/-- Half B of a SHARED pair takes half A's attenuation and announced steps: at formation, and after a freeze of its own (R127). How B
catches up when its own freeze ends the spec does not say: the model takes A's attenuation and steps at once, with no announcement.
(DESIGN CHOICE, log 20) -/
def followShared (h : Nat) (m : Part) : Part :=
  if sharedPair h m && !levFrozen (halfB h) m then
    let a := (half (halfA h) m).bands
    onHalf (halfB h) (fun x => { x with bands := x.bands.zipWith (fun y z => { y with
      atten := z.atten, steps := z.steps, lastLanding := z.lastLanding, lastDelta := z.lastDelta }) a }) m
  else m

/-- A band's announced steps are cancelled by a freeze (R89, R114). A MANUAL step announced before the freeze is taken again after it,
as one recorded during the freeze is; the spec speaks only of the latter. (DESIGN CHOICE, log 20) -/
def Band.freeze (b : Band) : Band :=
  { b with manualPending := b.manualPending || (decide (b.mode = .manual) && !b.steps.isEmpty), steps := [] }

/-- A freeze begins (R89, R114, R136): every announced step is cancelled, in a SHARED pair half A's on half B too, whose bands take only
the steps that land on half A (R127). -/
def freezeBands (h : Nat) (m : Part) : Part :=
  let m := onHalf h (fun x => { x with bands := x.bands.map Band.freeze }) m
  if sharedPair h m && decide (h % 2 = 0) then
    onHalf (halfB h) (fun x => { x with bands := x.bands.map fun b => { b with steps := [] } }) m
  else m

/-- A freeze may have ended (R111, R114): when it has, the dwell restarts and a recorded MANUAL step is announced, to land 16
ticks later. -/
def unfreezeBands (h : Nat) (m : Part) : Part :=
  if levFrozen h m then m
  else
    let now := m.clock.elapsed
    let m := onHalf h (fun x => { x with bands := x.bands.map fun b =>
      let b := { b with belowSince := now }
      if b.manualPending then
        let b := { b with manualPending := false }
        if b.mode = .manual ∧ b.target ≠ b.manual then b.announce b.manual (now + 16) else b
      else b }) m
    followShared h m

/-- Unfreeze both halves of a tile. -/
def unfreezeTile (t : Nat) (m : Part) : Part := unfreezeBands (2 * t + 1) (unfreezeBands (2 * t) m)

/-! ## HALF_SETUP LEVELLER, ANTPWR, EXT_GAIN (R100, R107, R108, R113) -/

/-- Leveller parameters with their defaults (R328): all ones is a valid upper, so it selects no default there. -/
structure LevCfg where
  mode : Nat
  upper : Int
  lower : Int
  dwell : Nat
  attenMin : Nat
  attenMax : Nat
  manual : Nat
deriving DecidableEq, Repr

/-- Decode the parameters of Table RFI-7. -/
def decodeLev (p : LevellerParams) : LevCfg :=
  { mode := orDefault 1 0 p.mode, upper := p.upper, lower := if p.lower = -1 then -18 else p.lower,
    dwell := orDefault 2 50 p.dwell, attenMin := orDefault 1 0 p.attenMin, attenMax := orDefault 1 30 p.attenMax,
    manual := orDefault 1 0 p.manual }

/-- The parameters are in range and pass the validation of R108. -/
def levValid (p : LevellerParams) : Bool :=
  let c := decodeLev p
  decide (p.band ≤ 2 ∧ c.mode ≤ 2) && decide (-20 ≤ c.upper ∧ c.upper ≤ -1) && decide (-40 ≤ c.lower ∧ c.lower ≤ -5)
    && decide (1 ≤ c.dwell ∧ c.dwell ≤ 1000) && decide (c.attenMax ≤ 30 ∧ c.attenMin ≤ c.attenMax)
    && decide (c.attenMin ≤ c.manual ∧ c.manual ≤ c.attenMax)
    && decide (c.attenMin % 2 = 0 ∧ c.attenMax % 2 = 0 ∧ c.manual % 2 = 0) && decide (c.lower ≤ c.upper - 4)

/-- The mode that a code selects. -/
def levMode (code : Nat) : LevMode := if code = 0 then .auto else if code = 1 then .hold else .manual

/-- A band takes new parameters; its dwell restarts (R111). -/
def Band.configure (c : LevCfg) (now : Nat) (b : Band) : Band :=
  { b with mode := levMode c.mode, upper := c.upper, lower := c.lower, dwell := c.dwell, attenMin := c.attenMin,
           attenMax := c.attenMax, manual := c.manual, belowSince := now, manualPending := false }

/-- Every announced step whose tick has come lands, on the halves that are not frozen: after the actions of that tick (R58, R115). -/
def landSteps (m : Part) : Part :=
  { m with halves := m.halves.mapIdx fun h x =>
      if levFrozen h m then x else { x with bands := x.bands.map (Band.land m.clock.elapsed) } }

/-- LEVELLER takes effect (R113): a MANUAL step is announced for the execution tick, where it lands after the other actions of the tick
(R58), or it waits for the end of the freeze. -/
def performLeveller (h : Nat) (p : LevellerParams) : Perform := fun _ _ m =>
  let c := decodeLev p
  let now := m.clock.elapsed
  if sharedB h m then (m, reply stBadParam)
  else
    let m := onBand h p.band (Band.configure c now) m
    let m :=
      if levMode c.mode ≠ .manual ∨ (bandAt h p.band m).target = c.manual then m
      else if levFrozen h m then onBand h p.band (fun b => { b with manualPending := true }) m
      else
        announceStep h p.band c.manual now m
    (m, reply stOk)

/-- HALF_SETUP LEVELLER executed outside the queue: no later action of this tick can precede the landing of a step without lead (R58). -/
def levellerNow (h : Nat) (p : LevellerParams) : Perform := fun d o m =>
  let (m, r) := performLeveller h p d o m
  (landSteps m, r)

/-- HALF_SETUP LEVELLER (R108). -/
def execHalfSetupLeveller (d : Desc) (half : Nat) (p : LevellerParams) (s : State) : Host.Outcome State Fault Refusal :=
  s.run (accept d (.halfSetupLeveller half p) (setupStatus half (!levValid p)) (levellerNow half p))

/-- The ANTPWRn setting that a code selects; all ones selects OFF, the default (R100, R328).
(DESIGN CHOICE / DEDUCED, log 19) -/
def antSetting (code : Nat) : Option AntPower :=
  match code with
  | 0 => some .off
  | 1 => some .v5
  | 2 => some .v12
  | 255 => some .off
  | _ => none

/-- A half's antenna output takes a setting; one it has already leaves what was measured on it. EV_ANTPWR_OPEN is told again only after
the current has risen above 5 mA, whatever the output has been set to since (R101). -/
def Half.setAntenna (p : AntPower) (x : Half) : Half :=
  if x.antpwr = p then x else { x with antpwr := p, antCurrent := 0 }

/-- ANTPWR takes effect; on a half parked or shared since its acceptance it changes nothing (R26, R102). -/
def performAntpwr (h setting : Nat) : Perform := fun _ _ m =>
  if sharedB h m || isParked h m then (m, reply stBadParam)
  else
    (onHalf h (Half.setAntenna ((antSetting setting).getD .off)) m, reply stOk)

/-- Checks of ANTPWR. -/
def antpwrStatus (h setting : Nat) (m : Part) : Nat := setupStatus h ((antSetting setting).isNone || isParked h m) m

/-- HALF_SETUP ANTPWR (R100). -/
def execHalfSetupAntpwr (d : Desc) (half setting : Nat) (s : State) : Host.Outcome State Fault Refusal :=
  s.run (accept d (.halfSetupAntpwr half setting)
    (antpwrStatus half setting) (performAntpwr half setting))

/-- EXT_GAIN takes effect. -/
def performExtGain (h : Nat) (gain : Int) : Perform := fun _ _ m =>
  if sharedB h m then (m, reply stBadParam) else (onHalf h (fun x => { x with extGain := gain }) m, reply stOk)

/-- Checks of EXT_GAIN. -/
def extGainStatus (h : Nat) (gain : Int) : Part → Nat := setupStatus h (decide (gain < -200 ∨ 400 < gain))

/-- HALF_SETUP EXT_GAIN (R107). -/
def execHalfSetupExtGain (d : Desc) (half : Nat) (gain : Int) (s : State) : Host.Outcome State Fault Refusal :=
  s.run (accept d (.halfSetupExtGain half gain) (extGainStatus half gain)
    (performExtGain half gain))

/-! ## Detectors and steps (R109-R114, R120) -/

/-- A detector reading within its range: -40 to +16 dBFS in 0.5 dB (R109). -/
def clampReading (v : Int) : Int := clampInt (-80) 32 v

/-- A step of the band lands, or has landed, after the detector period that ends now began (R110). -/
def Band.stepping (now : Nat) (b : Band) : Bool :=
  !b.steps.isEmpty || b.lastLanding.any fun l => decide (now < l + 16)

/-- A reading less what the steps add that land after its period began, in 0.5 dB (R110). -/
def Band.adjusted (now : Nat) (b : Band) : Int :=
  let landed : Int := if b.lastLanding.any fun l => decide (now < l + 16) then b.lastDelta else 0
  b.reading - 2 * ((b.target : Int) - b.atten + landed)

/-- The attenuation that a step down takes: the smallest multiple of 2 dB that brings the reading to upper - 2 dB, within
atten_max (R110). -/
def Band.stepDown (now : Nat) (b : Band) : Nat :=
  min b.attenMax (b.target + 2 * ((b.adjusted now - 2 * b.upper + 7) / 4).toNat)

/-- The adjusted reading exceeds upper. -/
def Band.exceeds (now : Nat) (b : Band) : Bool := decide (2 * b.upper < b.adjusted now)

/-- EV_BAND_LIMIT, once until a period that has not exceeded upper (R110). -/
def raiseLimit (h b : Nat) (m : Part) : Part :=
  let x := bandAt h b m
  if x.limitRaised then m
  else
    raise (halfSource h 2) 0x82 [⟨0, 1, b⟩, ⟨1, 1, x.atten⟩, ⟨2, 2, x.reading⟩]
      (onBand h b (fun y => { y with limitRaised := true }) m)

/-- What band `b` decides at the end of a detector period. Half B of a SHARED pair decides nothing (R127). -/
def judgeBand (h b : Nat) (m : Part) : Part :=
  let now := m.clock.elapsed
  let x := bandAt h b m
  if !x.exceeds now then onBand h b (fun y => { y with limitRaised := false }) m
  else if x.mode ≠ .auto ∨ sharedB h m then m
  else if levFrozen h m then raiseLimit h b m
  else if x.attenMax ≤ x.target then raiseLimit h b m
  else announceStep h b (x.stepDown now) (now + 16) m

/-- A period with a clipped sample and no band above upper: the bands within 6 dB of the highest step down by 2 dB (R120). -/
def judgeClip (h : Nat) (m : Part) : Part :=
  let now := m.clock.elapsed
  let bands := (half h m).bands
  let top := (bands.map Band.reading).foldl max (-80)
  if levFrozen h m || sharedB h m || bands.any (fun b => decide (2 * b.upper < b.reading)) || bands.any (Band.stepping now) then m
  else
    (List.range bands.length).foldl (fun m b =>
      let x := bandAt h b m
      if x.mode = .auto ∧ top - 12 ≤ x.reading ∧ x.target < x.attenMax then announceStep h b (x.target + 2) (now + 16) m
      else m) m

/-- The readings of a period are taken; a reading that is not below lower restarts the dwell (R109, R111). -/
def takeReadings (h : Nat) (r : DetectorPeriod) (m : Part) : Part :=
  let now := m.clock.elapsed
  onHalf h (fun x => { x with
    bands := x.bands.zipWith (fun b v => { b with
      reading := clampReading v, belowSince := if clampReading v < 2 * b.lower then b.belowSince else now })
        [r.readL, r.readV1, r.readV3],
    clipPeriods := if r.clipped && isLive h m then satBits 32 (x.clipPeriods + 1) else x.clipPeriods,
    clipped := r.clipped && isLive h m }) m

/-- A held half whose composite has entered the range of R139 starts to refine, and reports converging (R140). (DEDUCED, log 22) -/
def watchHeld (h : Nat) (r : DetectorPeriod) (m : Part) : Part :=
  if (half h m).cal.bg = .held ∧ isLive h m ∧ -500 ≤ r.composite ∧ r.composite ≤ -30 ∧ !bgPaused h m then
    onHalf h (fun x => { x with cal := { x.cal with bg := .converging, bgSince := m.clock.elapsed } }) m
  else m

/-- A detector period ends: the readings are taken and the bands decide; the detectors of a half that is FENCED or PARKED keep reporting
too (R110, R114, R120). -/
def endPeriod (h : Nat) (r : DetectorPeriod) (m : Part) : Part :=
  let m := watchHeld h r (takeReadings h r m)
  let m := if r.clipped then judgeClip h m else m
  (List.range 3).foldl (fun m b => judgeBand h b m) m

/-- LEVELLER_DWELL_EXPIRY (R111): a whole dwell below lower steps the band up by 2 dB. -/
def execLevellerDwellExpiry (t half band : Nat) (s : State) : Host.Outcome State Fault Refusal :=
  s.runIf (decide (half < halvesFitted s.part) && decide (band < 3)) (onTick t fun m =>
    let x := bandAt half band m
    let now := m.clock.elapsed
    if m.clock.ht % 16 ≠ 0 ∨ x.mode ≠ .auto ∨ levFrozen half m ∨ sharedB half m ∨ !x.steps.isEmpty
        ∨ now < x.belowSince + 24576 * x.dwell ∨ x.atten < x.attenMin + 2 then m
    else announceStep half band (x.atten - 2) (now + 16) m)

/-- A converter sample clipped on elapsed tick `e`: the blanker meets its output within the delay of a chain (R203). -/
def noteClip (e : Nat) (l : List Nat) : List Nat := e :: l.filter fun k => decide (e < k + 2 * 61440) && decide (k ≠ e)

/-- ADC_CLIP (R119): counted, and reported at most once in 100 ms. (DEDUCED, log 20) -/
def execAdcClip (t half samples : Nat) (s : State) : Host.Outcome State Fault Refusal :=
  s.runIf (decide (half < halvesFitted s.part)) (onTick t fun m =>
    if !isLive half m ∨ samples = 0 then m
    else
      let now := m.clock.elapsed
      let m := onHalf half (fun x => { x with
        clipSamples := satBits 32 (x.clipSamples + samples), clipped := true, clips := noteClip now x.clips,
        overloadFirst := some (x.overloadFirst.getD m.clock.ht), overloadCount := x.overloadCount + samples }) m
      let x := m.halves.getD half {}
      if x.overloadAt.all fun at0 => decide (at0 + 2457600 ≤ now) then
        raise (halfSource half 3) 0x83 [⟨0, 8, x.overloadFirst.getD m.clock.ht⟩, ⟨8, 4, x.overloadCount⟩]
          (onHalf half (fun x => { x with overloadAt := some now, overloadFirst := none, overloadCount := 0 }) m)
      else m)

/-! ## Antenna power faults (R101) -/

/-- ANTPWR_CURRENT_LIMIT (R101): the output, whose current has risen above 5 mA, is switched OFF. -/
def execAntpwrCurrentLimit (t half current : Nat) (s : State) : Host.Outcome State Fault Refusal :=
  s.runIf (decide (half < halvesFitted s.part)) (onTick t fun m =>
    if (m.halves.getD half {}).antpwr = .off then m
    else
      raise (halfSource half 4) 0x84 [⟨0, 2, current⟩]
        (onHalf half (fun x => { x with antpwr := .off, antCurrent := 0, antOpenRaised := false }) m))

/-- ANTPWR_OPEN (R101): the measured current of an output that is on; below 3 mA for 100 ms the event, once until the current
has risen above 5 mA. -/
def execAntpwrOpen (t half current : Nat) (s : State) : Host.Outcome State Fault Refusal :=
  s.runIf (decide (half < halvesFitted s.part)) (onTick t fun m =>
    let x := m.halves.getD half {}
    if x.antpwr = .off then m
    else
      let m := onHalf half (fun x => { x with antCurrent := current, antOpenRaised := x.antOpenRaised && decide (current ≤ 5) }) m
      if current < 3 ∧ !x.antOpenRaised then
        raise (halfSource half 4) 0x85 [⟨0, 2, current⟩] (onHalf half (fun x => { x with antOpenRaised := true }) m)
      else m)

/-! ## Accessory pins (R123, R126) -/

/-- The pin follows the isolation switch of half `h`. -/
def Gpio.follows (h : Nat) (g : Gpio) : Bool := decide (g.function = .isoFollow) && decide (g.half = h)

/-- MUTE_LEAD of the pins that name a half: the largest of them, or 0 (R136). -/
def muteLeadOf (h : Nat) (m : Part) : Nat := ((m.gpio.filter (Gpio.follows h)).map Gpio.lead).foldl max 0

/-- A command parks half `h`: HALF_SETUP MODE, or PLAN_COMMIT of a plan with such an entry. -/
def parks (h : Nat) (m : Part) : HostCmd → Bool
  | .halfSetupMode n mode _ => decide (n = h ∧ mode = 3)
  | .planCommit plan => (look plan m.plans).any fun p => p.entries.any fun e =>
      match e with
      | .halfMode n mode _ => decide (n = h ∧ mode = 3)
      | _ => false
  | _ => false

/-- The elapsed ticks on which the half's isolation switch is planned to open: placed runs, and queued changes to PARKED.
(DEDUCED, log 20) -/
def plannedOpenings (h : Nat) (m : Part) : List Nat :=
  (half h m).cal.placed.map PlacedRun.start ++ (m.sched.queue.filterMap fun a =>
    if parks h m a.cmd then some (elapsedOf a.due m) else none)

/-- The pin is due to be asserted now: the switch is open, or opens within MUTE_LEAD (R126). (DEDUCED, log 20) -/
def Gpio.wanted (m : Part) (g : Gpio) : Bool :=
  (m.halves.getD g.half {}).isoOpen || (plannedOpenings g.half m).any fun s => decide (s ≤ m.clock.elapsed + g.lead)

/-- The level that a pin drives when asserted or not. (DESIGN CHOICE / DEDUCED, log 19) -/
def Gpio.drive (asserted : Bool) (g : Gpio) : Gpio :=
  { g with asserted := asserted, level := if asserted = g.activeLow then 0 else 1 }

/-- Assert the pins of half `h` that are due; a pin asserted again has no trail to run (R126). (DEDUCED, log 20) -/
def assertPins (h : Nat) (m : Part) : Part :=
  { m with gpio := m.gpio.map fun g =>
      if g.follows h ∧ g.wanted m then { g.drive true with muteUntil := none } else g }

/-- The isolation switch of half `h` opens (R98). -/
def openIso (h : Nat) (m : Part) : Part := assertPins h (onHalf h (fun x => { x with isoOpen := true }) m)

/-- The isolation switch closes: each pin runs its trail (R126). -/
def closeIso (h : Nat) (m : Part) : Part :=
  let m := onHalf h (fun x => { x with isoOpen := false, tone := false }) m
  { m with gpio := m.gpio.map fun g =>
      if g.follows h && g.asserted then
        if g.trail = 0 ∧ !g.wanted m then g.drive false else { g with muteUntil := some (m.clock.elapsed + g.trail) }
      else g }

/-- A planned opening has been withdrawn: pins that nothing else asserts are released (R134). (DEDUCED, log 20) -/
def releasePins (h : Nat) (m : Part) : Part :=
  { m with gpio := m.gpio.map fun g =>
      if g.follows h && g.asserted && g.muteUntil.isNone && !g.wanted m then g.drive false else g }

/-- A planned change to PARKED may have been refused or withdrawn: on every half, pins that nothing else asserts are released (R126). -/
def tidyPins (m : Part) : Part := (List.range 16).foldl (fun m h => releasePins h m) m

/-- The acceptance checks of ACC_GPIO (R500, Table RFI-9): the fields that the function uses.
(DESIGN CHOICE / DEDUCED, log 19) -/
def gpioStatus (h : Nat) (p : GpioParams) (m : Part) : Nat :=
  let iso := decide (p.function = 2)
  firstStatus [
    (decide (h ≠ 255), stBadParam),
    (iso && (decide (halvesFitted m ≤ p.isoHalf) || sharedPair p.isoHalf m), stBadParam),
    (decide (15 < p.pin ∨ 2 < p.function ∨ 255 < p.debounce), stBadParam),
    (decide (p.function = 1) && decide (1 < p.level), stBadParam),
    (iso && (decide (1 < p.polarity) || decide (2048 < orDefault 2 512 p.muteLead)
      || decide (2048 < orDefault 2 512 p.muteTrail)), stBadParam)]

/-- ACC_GPIO takes effect; a pin that becomes IN is sampled from this tick on (R123). A pin that turns from OUT or ISO_FOLLOW to IN keeps
the level it last drove as the accepted level, since the spec gives no other. (DESIGN CHOICE / DEDUCED, log 19) -/
def performGpio (p : GpioParams) : Perform := fun _ _ m =>
  let now := m.clock.elapsed
  if p.function = 2 ∧ sharedPair p.isoHalf m then (m, reply stBadParam)
  else
    let set (g : Gpio) : Gpio :=
      match p.function with
      | 0 => { g with
          function := .input, debounce := p.debounce, asserted := false, muteUntil := none,
          acceptedAt := if g.function = .input then g.acceptedAt else some now }
      | 1 => { g with function := .output, level := p.level, asserted := false, muteUntil := none }
      | _ =>
        let g : Gpio := { g with
          function := .isoFollow, half := p.isoHalf, activeLow := decide (p.polarity = 1),
          lead := orDefault 2 512 p.muteLead, trail := orDefault 2 512 p.muteTrail, muteUntil := none }
        g.drive (g.wanted m)
    ({ m with gpio := m.gpio.modify p.pin set }, reply stOk)

/-- HALF_SETUP ACC_GPIO (R123). -/
def execAccGpio (d : Desc) (half : Nat) (p : GpioParams) (s : State) : Host.Outcome State Fault Refusal :=
  s.run (accept d (.accGpio half p) (gpioStatus half p) (performGpio p))

/-- GPIO_EDGE (R123): a level that an IN pin has held for debounce + 1 ticks since it accepted the other level. -/
def execGpioEdge (t pin level : Nat) (s : State) : Host.Outcome State Fault Refusal :=
  s.runIf (decide (pin < 16)) (onTick t fun m =>
    let g : Gpio := m.gpio.getD pin {}
    if g.function ≠ .input ∨ 1 < level ∨ g.level = level ∨ g.acceptedAt.any (fun e => decide (m.clock.elapsed ≤ e + g.debounce)) then m
    else
      raise 68 0x34 [⟨0, 1, pin⟩, ⟨1, 1, level⟩]
        { m with gpio := m.gpio.modify pin fun g => { g with level := level, acceptedAt := some m.clock.elapsed } })

/-! ## The accessory bus (R125) -/

/-- The acceptance checks of ACC_I2C. -/
def i2cStatus (h : Nat) (p : I2cParams) (_ : Part) : Nat :=
  firstStatus [
    (decide (h ≠ 255), stBadParam),
    (decide (127 < p.address ∨ 1 < p.speed ∨ 8 < p.wlen ∨ 8 < p.rlen), stBadParam)]

/-- ACC_I2C takes effect: the transaction takes its turn on the bus, and completes when it has run. (DEDUCED, log 61) -/
def performI2c (p : I2cParams) : Perform := fun d origin m =>
  ({ m with i2c := { m.i2c with
      queue := m.i2c.queue ++ [{ desc := d, origin := origin, params := p, execHt := m.clock.ht }] } }, none)

/-- HALF_SETUP ACC_I2C (R125). -/
def execAccI2c (d : Desc) (half : Nat) (p : I2cParams) (s : State) : Host.Outcome State Fault Refusal :=
  s.run (accept d (.accI2c half p) (i2cStatus half p) (performI2c p))

/-- I2C_TRANSACTION_START (R125): the bus is free, and the first queued transaction drives START. (DEDUCED, log 61) -/
def execI2cTransactionStart (t : Nat) (s : State) : Host.Outcome State Fault Refusal :=
  s.run (onTick t fun m =>
    match m.i2c.busy, m.i2c.queue with
    | none, j :: rest => { m with i2c := { queue := rest, busy := some { j with execHt := m.clock.ht } } }
    | _, _ => m)

/-- Complete the transaction on the bus. (DEDUCED, log 61) -/
def finishI2c (f : I2cJob → Reply) (m : Part) : Part :=
  match m.i2c.busy with
  | none => m
  | some j =>
    finish j.desc j.origin 0x10 { f j with execHt := some j.execHt } { m with i2c := { m.i2c with busy := none } }

/-- The little-endian number that bytes spell (R6). -/
def leNat : List Byte → Nat
  | [] => 0
  | b :: rest => b % 256 + 256 * leNat rest

/-- The bytes read, as fields of a block. -/
def byteFields : Nat → List Byte → List Field
  | _, [] => []
  | off, b :: rest => ⟨off, 1, b⟩ :: byteFields (off + 1) rest

/-- I2C_TRANSACTION_DONE (R125): bytes 0 to 3 stand in the completion, the bytes of a longer read in the block.
(DEDUCED, log 61) -/
def execI2cTransactionDone (t : Nat) (r : I2cResult) (s : State) : Host.Outcome State Fault Refusal :=
  s.run (onTick t (finishI2c fun j =>
    match r.nack with
    | some i => { status := stAborted, result := i }
    | none =>
      let data := r.data.take j.params.rlen
      { status := stOk, result := leNat (data.take 4),
        chunks := if 4 < j.params.rlen then [{ bytes := data.length, fields := byteFields 0 data }] else [] }))

/-- I2C_CLOCK_HELD (R125): the transaction ends with ST_ABORTED and the bus is freed. (DEDUCED, log 61) -/
def execI2cClockHeld (t : Nat) (s : State) : Host.Outcome State Fault Refusal :=
  s.run (onTick t (finishI2c fun _ => { status := stAborted }))

end Sys2Proof.Machine
end

