-- ==== Sys2Proof/Machine/Calibration.lean ====
section
/-! DEFINITION. Calibration of the halves (R129-R143): due halves, placement in windows, CAL_POLICY, CAL_RUN, runs and their
ramps, the background estimator. -/

namespace Sys2Proof.Machine

/-! ## Lengths (R135, R137, R143) -/

abbrev runTicks : Nat := 39322
abbrev rampTicks : Nat := 1572864
abbrev rampSteps : Nat := 6144

/-- Change a half's calibration. -/
def onCal (h : Nat) (f : HalfCal → HalfCal) (m : Part) : Part := onHalf h (fun x => { x with cal := f x.cal }) m

/-- Length of a run: a bring-up run makes four passes (R143). -/
def runLength (cause : CalCause) : Nat := if cause = .bringUp then 157288 else runTicks

/-! ## Windows and placement (R132-R134) -/

/-- The earliest occurrence of a window that ends after HT `x`: its start and its end (Table CAL-3). -/
def occurrence (w : CalWindow) (x : Nat) : Nat × Nat :=
  let base := w.phase * ticksPerSecond + w.offset
  let p := max 1 w.period * ticksPerSecond
  let k := if x < base + w.length then 0 else (x - base - w.length) / p + 1
  (base + k * p, base + k * p + w.length)

/-- The end of the permitted interval that holds `b`, as far as occurrences that overlap or touch carry it. -/
def growInterval (ws : List CalWindow) : Nat → Nat → Nat
  | 0, b => b
  | fuel + 1, b =>
    let ends := ws.filterMap fun w => let (s, e) := occurrence w b; if s ≤ b then some e else none
    match ends with
    | [] => b
    | e :: rest => growInterval ws fuel (rest.foldl max e)

/-- The occurrence that begins, or is in progress, earliest at or after `x`. -/
def firstOccurrence (ws : List CalWindow) (x : Nat) : Option (Nat × Nat) :=
  (ws.map fun w => occurrence w x).foldl (fun best o =>
    match best with
    | none => some o
    | some b => if o.1 < b.1 then some o else some b) none

/-- The earliest HT at or after `x` from which a whole run lies inside one permitted interval (R133). -/
def permitted (ws : List CalWindow) : Nat → Nat → Nat
  | 0, x => x
  | fuel + 1, x =>
    match firstOccurrence ws x with
    | none => x
    | some (a, b) =>
      let a := max a x
      let b := if a + runTicks ≤ b then b else growInterval ws 8 b
      if a + runTicks ≤ b then a else permitted ws fuel b

/-- A run that is in progress, placed or fixed: its half, its start and its end in elapsed ticks. -/
structure RunSpan where
  half : Nat
  start : Nat
  stop : Nat
deriving DecidableEq, Repr

/-- The runs of a tile that are in progress, placed or fixed. -/
def tileRuns (t : Nat) (m : Part) : List RunSpan :=
  [2 * t, 2 * t + 1].flatMap fun h =>
    let c := (half h m).cal
    (c.run.toList.map fun r => ⟨h, r.start, r.start + runLength r.cause⟩)
      ++ c.placed.map fun p => ⟨h, p.start, p.start + runLength p.cause⟩

/-- The elapsed tick on which a half's ramp is due to end. -/
def rampEnd (h : Nat) (m : Part) : Nat :=
  match (half h m).cal.ramp with
  | none => 0
  | some r => (if r.paused then m.clock.elapsed + r.next else r.next) + (rampSteps - r.done - 1) * 256

/-- The first tick at or after `c` on which a run of half `h` meets no other run of its tile, and in a pair no ramp of the
partner (R134). Each round passes at least one run. -/
def fitRun (h : Nat) (m : Part) : Nat → Nat → Nat
  | 0, c => c
  | fuel + 1, c =>
    let gap (k : Nat) : Nat := if paired h m && decide (k ≠ h) then rampTicks else 0
    let next := (tileRuns (halfTile h) m).foldl (fun e r =>
      if r.start < c + runTicks + gap r.half ∧ c < r.stop + gap r.half then max e (r.stop + gap r.half) else e) c
    if next = c then c else fitRun h m fuel next

/-- The start of a run that a CAL_RUN fixes, not before `lo` (R134). -/
def fixedStart (h lo : Nat) (m : Part) : Nat :=
  fitRun h m ((tileRuns (halfTile h) m).length + 1) (if paired h m then max lo (rampEnd (partner h) m) else lo)

/-- The earliest tick that satisfies R133 for a run of `len` ticks, not before `lo`: inside a permitted interval, clear of every other run
of the tile, and in a pair after the ramp of the partner's last run before it. Each round passes at least one run or ramp. -/
def placedFrom (h len : Nat) (m : Part) : Nat → Nat → Nat
  | 0, lo => lo
  | fuel + 1, lo =>
    let c := m.clock.elapsed + (permitted (half h m).cal.windows 8 (htOf lo m) - m.clock.ht)
    let runs := tileRuns (halfTile h) m
    let clash := (runs.filter fun r => decide (r.start < c + len ∧ c < r.stop)).map RunSpan.stop
    let ramps :=
      if paired h m then
        rampEnd (partner h) m :: (runs.filter fun r => decide (r.half ≠ h ∧ r.start < c)).map fun r => r.stop + rampTicks
      else []
    let next := (clash ++ ramps).foldl max c
    if next = c then c else placedFrom h len m fuel next

/-- The tick on which R133 places a run of half `h`. -/
def placedStart (h : Nat) (cause : CalCause) (m : Part) : Nat :=
  placedFrom h (runLength cause) m (2 * (tileRuns (halfTile h) m).length + 3) (m.clock.elapsed + 2048)

/-- Insert a placed run in rising order of its start. -/
def insertRun (r : PlacedRun) : List PlacedRun → List PlacedRun
  | [] => [r]
  | p :: rest => if r.start < p.start then r :: p :: rest else p :: insertRun r rest

/-- Place a run. -/
def placeRun (h start : Nat) (cause : CalCause) (command : Option Nat) (m : Part) : Part :=
  onCal h (fun c => { c with
    placed := insertRun { start := start, cause := cause, command := command, asserted := false, decided := m.clock.elapsed } c.placed }) m

/-- A run of half `h` is placed when it owes its bring-up run, or is due with auto ON, and none is placed (R133): none in BRACE, after an
abandoned run none until the tile's switch has ended (R138), and none for the due that the run in progress serves. -/
def placeWanted (h : Nat) (m : Part) : Part :=
  let c := (half h m).cal
  let cause := if c.bringUpOwed then CalCause.bringUp else .temperature
  if (c.bringUpOwed || (c.due && c.auto)) && isLive h m && (c.run.isNone || !c.started)
      && !(c.placed.any fun p => p.command.isNone) && m.power.brace.isNone && !(c.started && tileHolds h m) then
    placeRun h (placedStart h cause m) cause none m
  else m

/-- A run of a half is placed where one is wanted. When both halves of a tile become due on one tick half A's run is placed first (R133):
the run that half B has been given on this tick is placed again after it. -/
def wantRun (h : Nat) (m : Part) : Part :=
  let again (p : PlacedRun) : Bool := p.command.isNone && decide (p.decided = m.clock.elapsed)
  if h % 2 = 0 ∧ (half (halfB h) m).cal.placed.any again then
    placeWanted (halfB h) (placeWanted h (onCal (halfB h) (fun c => { c with placed := c.placed.filter fun p => !again p }) m))
  else placeWanted h m

/-! ## The corrections (R129, R137, R139) -/

/-- The items of Table CAL-1 in the order of `Config.coefficient`: four sub-converter offsets, the DC offset of each band path and of the
recombined path, three interleave gains and three skews, gain and phase ratio of each band's sixteen settings, and the three detector
offsets. -/
inductive CalItem where
  | sub (i : Nat) | dc (path : Nat) | gain (i : Nat) | skew (i : Nat) | stepGain (band setting : Nat)
  | stepPhase (band setting : Nat) | detector (band : Nat)
deriving DecidableEq, Repr

/-- An item's number. -/
def CalItem.index : CalItem → Nat
  | .sub i => i
  | .dc p => 4 + p
  | .gain i => 8 + i
  | .skew i => 11 + i
  | .stepGain b k => 14 + 16 * b + k
  | .stepPhase b k => 62 + 16 * b + k
  | .detector b => 110 + b

/-- A value that a ramp has moved `done` of its 6144 increments from `a` to `b`. -/
def rampAt (a b : Int) (done : Nat) : Int := a + (b - a) * done / rampSteps

/-- The excursion of the background estimator in an item, as its ramp stands. -/
def HalfCal.excursion (c : HalfCal) (i : Nat) : Int :=
  rampAt (c.fine.getD i 0) (c.fineNew.getD i 0) (c.fineRamp.elim 0 CalRamp.done)

/-- The correction of an item in use now: detector offsets are those of the last run at once, every other one as the ramp stands, with the
background estimator's excursion in gain and skew. -/
def HalfCal.correction (c : HalfCal) (x : CalItem) : Int :=
  let run := rampAt (Config.coefficient c.corr x.index) (Config.coefficient c.corrNew x.index) (c.ramp.elim 0 CalRamp.done)
  match x with
  | .detector _ => Config.coefficient c.corrDet x.index
  | .gain i => run + c.excursion i
  | .skew i => run + c.excursion (3 + i)
  | _ => run

/-- The increments that a ramp has made by elapsed tick `e`. -/
def CalRamp.doneAt (e : Nat) (r : CalRamp) : Nat :=
  if r.paused then r.done else min rampSteps ((r.done : Int) + ((e : Int) - r.next + 256) / 256).toNat

/-- The correction of an item on elapsed tick `e`, not far from the present (R137). -/
def HalfCal.correctionAt (c : HalfCal) (e : Nat) (x : CalItem) : Int :=
  match c.ramp, c.ended with
  | some r, _ => HalfCal.correction { c with ramp := some { r with done := r.doneAt e } } x
  | none, some (corr, at_) =>
    if e < at_ then HalfCal.correction { c with corr := corr, ramp := some { done := rampSteps - 1, next := at_, paused := false } } x
    else c.correction x
  | none, none => c.correction x

/-- A ramp ends at its final value at once. -/
def HalfCal.jump (c : HalfCal) : HalfCal :=
  { c with
    corr := if c.ramp.isSome then c.corrNew else c.corr, ramp := none, ended := none,
    fine := if c.fineRamp.isSome then c.fineNew else c.fine, fineRamp := none }

/-- A ramp moves by every increment whose tick has come: the ramp left, or none when it has reached its end. -/
def CalRamp.advance (now : Nat) (r : CalRamp) : Option CalRamp :=
  if r.paused ∨ now < r.next then some r
  else
    let k := (now - r.next) / 256 + 1
    if rampSteps ≤ r.done + k then none else some { r with done := r.done + k, next := r.next + 256 * k }

/-- Judge a half against its CAL_LAST_T (R131). -/
def judgeDue (h : Nat) (m : Part) : Part :=
  if !isLive h m then onCal h (fun c => { c with due := false, overdue := false }) m
  else
    let x := half h m
    let diff := (x.temp - x.cal.lastT).natAbs
    let limit := 4 * x.cal.deltaT
    let m :=
      if limit < diff ∧ !x.cal.due then
        raise (192 + h) 0x60 [⟨0, 1, h⟩, ⟨2, 2, x.temp⟩]
          (onCal h (fun c => { c with due := true, overdue := false, started := false }) m)
      else m
    let c := (half h m).cal
    let m :=
      if c.due ∧ !c.overdue ∧ !c.started ∧ 3 * limit < diff then
        raise (192 + h) 0x61 [⟨0, 1, h⟩, ⟨2, 2, x.temp⟩] (onCal h (fun c => { c with overdue := true }) m)
      else m
    wantRun h m

/-! ## CAL_POLICY (R132) -/

/-- The halves that a calibration command names: one, or every fitted half (0xFE). -/
def calHalves (h : Nat) (m : Part) : List Nat := if h = 254 then List.range (halvesFitted m) else [h]

/-- A window with its defaults (Table CAL-3). (DESIGN CHOICE / DEDUCED, log 21) -/
def decodeWindow (w : CalWindow) : CalWindow :=
  { period := orDefault 4 1 w.period, phase := orDefault 4 0 w.phase, offset := orDefault 4 0 w.offset,
    length := orDefault 4 24576000 w.length }

/-- A window is in range. -/
def windowValid (w : CalWindow) : Bool :=
  let w := decodeWindow w
  decide (1 ≤ w.period ∧ w.period ≤ 86400 ∧ w.phase < w.period ∧ w.offset ≤ 24575999 ∧ runTicks ≤ w.length
    ∧ w.length ≤ 24576000)

/-- Acceptance checks of CAL_POLICY. auto: 0 ON, 1 OFF (Table CAL-3, R328). -/
def calPolicyStatus (h auto deltaT : Nat) (ws : List CalWindow) (m : Part) : Nat :=
  firstStatus [
    (decide (h ≠ 254 ∧ halvesFitted m ≤ h), stBadParam),
    (decide (1 < orDefault 1 0 auto), stBadParam),
    (decide (orDefault 1 4 deltaT < 1 ∨ 15 < orDefault 1 4 deltaT), stBadParam),
    (decide (ws.length < 1 ∨ 4 < ws.length) || !ws.all windowValid, stBadParam)]

/-- CAL_POLICY takes effect: placements decided from now on follow it. (DESIGN CHOICE / DEDUCED, log 21) -/
def performCalPolicy (h auto deltaT : Nat) (ws : List CalWindow) : Perform := fun _ _ m =>
  ((calHalves h m).foldl (fun m k => wantRun k (onCal k (fun c => { c with
      auto := decide (orDefault 1 0 auto = 0), deltaT := orDefault 1 4 deltaT, windows := ws.map decodeWindow }) m)) m,
    reply stOk)

/-- CAL_POLICY (R132). -/
def execCalPolicy (d : Desc) (half auto deltaT : Nat) (windows : List CalWindow) (s : State) :
    Host.Outcome State Fault Refusal :=
  s.run (accept d (.calPolicy half auto deltaT windows) (calPolicyStatus half auto deltaT windows)
    (performCalPolicy half auto deltaT windows))

/-! ## The record and the completion of CAL_RUN (R134, R141) -/

/-- The record of Table CAL-6 of a half, as CAL_RUN's block gives it. -/
def calRecord (h : Nat) (m : Part) : Chunk :=
  let c := (half h m).cal
  { bytes := 24,
    fields := [⟨0, 1, h⟩, ⟨4, 4, c.count⟩, ⟨8, 8, c.lastHt⟩, ⟨16, 2, c.lastT⟩, ⟨18, 2, c.residual⟩, ⟨20, 1, c.cause.code⟩,
      ⟨21, 1, (bgNow h m).code⟩] }

/-- The record of the Kite transmitter: the residual image stands for cal_residual and bg_state is 0, since the spec names only its own
count and last HT (R144). (DESIGN CHOICE, log 46) -/
def kiteRecord (m : Part) : Chunk :=
  let c := m.kiteCal
  { bytes := 24,
    fields := [⟨0, 1, 255⟩, ⟨4, 4, c.count⟩, ⟨8, 8, c.lastHt⟩, ⟨16, 2, c.lastT⟩, ⟨18, 2, c.image⟩, ⟨20, 1, c.cause.code⟩] }

/-- A target that does not count towards the status of a CAL_RUN naming every half. -/
def CalTarget.counts (t : CalTarget) : Bool := decide (t.status ≠ stFenced ∧ t.status ≠ stBadParam)

/-- The status of a CAL_RUN naming every half (R134). -/
def calStatus (ts : List CalTarget) : Nat :=
  let l := ts.filter CalTarget.counts
  if l.isEmpty then (if ts.any fun t => decide (t.status = stFenced) then stFenced else stBadParam)
  else if l.all fun t => decide (t.status = stOk) then stOk
  else if l.any fun t => decide (t.status = stOk) then stPartial
  else if l.any fun t => decide (t.status = stAborted) then stAborted
  else stBusy

/-- The reply of a CAL_RUN whose runs have all ended. -/
def calReply (c : CalCommand) (m : Part) : Reply :=
  if c.half = 255 then
    { status := (c.targets.head?).elim stOk CalTarget.status, chunks := [kiteRecord m], execHt := some (c.startHt.getD c.execHt) }
  else if c.half = 254 then
    { status := calStatus c.targets, chunks := c.targets.map fun t => calRecord t.half m,
      targets := c.targets.map fun t => { kind := 1, status := t.status, id := t.half, detail := 0 }, execHt := some c.execHt }
  else
    { status := (c.targets.head?).elim stOk CalTarget.status, chunks := [calRecord c.half m],
      execHt := some (c.startHt.getD c.execHt) }

/-- Complete a CAL_RUN once every target has finished. (DESIGN CHOICE / DEDUCED, log 21) -/
def settleCal (id : Nat) (m : Part) : Part :=
  match m.calCommands.find? fun c => decide (c.id = id) with
  | none => m
  | some c =>
    if c.targets.all CalTarget.finished then
      finish c.desc c.origin 0x61 (calReply c m) { m with calCommands := m.calCommands.filter fun c => decide (c.id ≠ id) }
    else m

/-- A target of a CAL_RUN has finished with `status`. -/
def endTarget (command : Option Nat) (h status : Nat) (m : Part) : Part :=
  match command with
  | none => m
  | some id =>
    settleCal id { m with calCommands := m.calCommands.map fun c =>
      if c.id = id then
        { c with targets := c.targets.map fun t =>
            if t.half = h ∧ !t.finished then { t with status := status, finished := true } else t }
      else c }

/-! ## HOLD for calibration (R32, R136) -/

/-- No other copy of the context carries it while that on half `h` is held. -/
def holdsWhole (h c : Nat) (m : Part) : Bool :=
  (ctx c m).any fun x => x.b.isNone || (x.copy (otherCopy (copyOn h))).all fun y => y.inHold || y.isFenced

/-- The copies on half `h` enter HOLD for a run on it or ahead of one; where no other copy carries the context the audio before it is faded,
since the hold is planned (R32, R136, R198). -/
def beginCalHold (h : Nat) (m : Part) : Part :=
  if calHolds h m then
    (ctxsOn h m).foldl (fun m c =>
      if heldFor h c .calibration m then m
      else holdOn h .calibration causeCalibration c (if holdsWhole h c m then fadeOut c m else m)) m
  else m

/-- Drop a placed run that will not start: the HOLD and the pins begun for it are withdrawn (R134). -/
def dropPlaced (h : Nat) (p : PlacedRun) (status : Nat) (m : Part) : Part :=
  let m := onCal h (fun c => { c with placed := c.placed.filter fun q => decide (q ≠ p) }) m
  endTarget p.command h status (endHolds h (releasePins h m))

/-- Drop every placed run of a half. -/
def dropAllPlaced (h status : Nat) (m : Part) : Part :=
  (half h m).cal.placed.foldl (fun m p => dropPlaced h p status m) m

/-! ## CAL_RUN (R134) -/

/-- Fix the runs of an accepted CAL_RUN from its execution tick on, on a half that is PARKED now as well, since it may run by then. (DESIGN
CHOICE / DEDUCED, log 21) -/
def fixRuns (order h at0 : Nat) (m : Part) : Part :=
  if h = 255 then m
  else
    (calHalves h m).foldl (fun m k =>
      if isFenced k m then m
      else
        let a := if k % 2 = 1 then (half (partner k) m).cal.placed.find? fun p => decide (p.command = some order) else none
        let lo := a.elim at0 fun p => p.start + runTicks
        placeRun k (fixedStart k lo m) .command (some order) m) m

/-- Fix the runs of every CAL_RUN accepted since acceptance order `first`; nothing when no action has been accepted since.
(DESIGN CHOICE / DEDUCED, log 21) -/
def fixAccepted (first : Nat) (m : Part) : Part :=
  if m.sched.nextOrder = first then m
  else
    m.sched.queue.foldl (fun m a =>
      match a.cmd with
      | .calRun h => if first ≤ a.order then fixRuns a.order h (elapsedOf a.due m) m else m
      | _ => m) m

/-- CAL_RUN executes: its runs start on the ticks fixed at acceptance, and it completes when the last has ended. `order` is its
acceptance order. One that names the Kite transmitter while a Kite run is in progress, or another such CAL_RUN waits, completes with ST_BUSY
and the record: the spec gives it no status (R144). (DESIGN CHOICE, log 46) -/
def performCalRun (order h : Nat) : Perform := fun d origin m =>
  if h = 255 then
    if m.kiteCal.command.isSome ∨ m.kiteCal.running.isSome then
      (m, some { status := stBusy, chunks := [kiteRecord m] })
    else
      let c : CalCommand := { id := order, desc := d, origin := origin, half := 255, execHt := m.clock.ht, startHt := none,
                              targets := [{ half := 255, status := stOk, finished := false, ran := false }] }
      ({ m with kiteCal := { m.kiteCal with command := some order }, calCommands := m.calCommands ++ [c] }, none)
  else
    let target (k : Nat) : CalTarget :=
      if isFenced k m then { half := k, status := stFenced, finished := true, ran := false }
      else if isParked k m then { half := k, status := stBadParam, finished := true, ran := false }
      else { half := k, status := stOk, finished := false, ran := false }
    let c : CalCommand := { id := order, desc := d, origin := origin, half := h, execHt := m.clock.ht, startHt := none,
                            targets := (calHalves h m).map target }
    let m := { m with calCommands := m.calCommands ++ [c] }
    let m := (calHalves h m).foldl (fun m k =>
      if isLive k m && !((half k m).cal.placed.any fun p => decide (p.command = some order)) then
        placeRun k (fixedStart k m.clock.elapsed m) .command (some order) m
      else if isLive k m then m
      else
        ((half k m).cal.placed.filter fun p => decide (p.command = some order)).foldl (fun m p => dropPlaced k p stBadParam m) m) m
    (settleCal order m, none)

/-- Acceptance checks of CAL_RUN. -/
def calRunStatus (h : Nat) (m : Part) : Nat :=
  if h = 254 ∨ h = 255 ∨ h < halvesFitted m then stOk else stBadParam

/-- CAL_RUN (R134): it is always a scheduled action, so it executes from the queue. -/
def execCalRun (d : Desc) (half : Nat) (s : State) : Host.Outcome State Fault Refusal :=
  s.run fun m => fixAccepted m.sched.nextOrder (accept d (.calRun half) (calRunStatus half) (fun _ _ m => (m, none)) m)

/-- The runs fixed for CAL_RUNs that are still queued are forgotten when HT steps: their ticks have moved (R67).
(DESIGN CHOICE / DEDUCED, log 21) -/
def forgetRuns (m : Part) : Part :=
  let ids := m.sched.queue.filterMap fun a => match a.cmd with
    | .calRun _ => some a.order
    | _ => none
  let clear (x : Half) : Half := { x with cal := { x.cal with
    placed := x.cal.placed.filter fun p => !(p.command.any fun i => ids.contains i) } }
  { m with halves := m.halves.map clear }

/-- After a step of HT, the runs of every CAL_RUN still queued are fixed afresh (R133, R67).
(DESIGN CHOICE / DEDUCED, log 21) -/
def refixRuns (m : Part) : Part :=
  let m := fixAccepted 0 m
  (List.range (halvesFitted m)).foldl (fun m h => endHolds h (releasePins h m)) m

/-- The runs fixed for CAL_RUNs that the queue no longer holds and that have not executed are dropped (R57). -/
def dropOrphans (m : Part) : Part :=
  let live (i : Nat) : Bool := (m.sched.queue.any fun a => decide (a.order = i)) || m.calCommands.any fun c => decide (c.id = i)
  (List.range (halvesFitted m)).foldl (fun m h =>
    ((half h m).cal.placed.filter fun p => p.command.any fun i => !live i).foldl (fun m p => dropPlaced h p stAborted m) m) m

/-! ## Runs (R133, R135-R138) -/

/-- Nothing stands in the way of a run on half `h` now (R133). -/
def tileFree (h : Nat) (m : Part) : Bool :=
  isLive h m && !tileHolds h m && m.power.brace.isNone && (half h m).cal.run.isNone
    && (half (partner h) m).cal.run.isNone && (!paired h m || (half (partner h) m).cal.ramp.isNone)

/-- The CAL_RUN of a placed run has executed; a temperature run needs none. -/
def runReady (p : PlacedRun) (m : Part) : Bool :=
  p.command.all fun i => m.calCommands.any fun c => decide (c.id = i)

/-- A run starts (R98, R135, R137): the switch opens, the levellers freeze, a ramp in progress jumps to its end, contexts enter
HOLD unless the partner carries them. -/
def startRun (h : Nat) (cause : CalCause) (command : Option Nat) (m : Part) : Part :=
  let m := catchHalf h m
  let now := m.clock.elapsed
  let run : CalRunning := { start := now, ht := m.clock.ht, pass := 0, phase := .isolate, cause := cause, command := command }
  let m := onCal h (fun c => { HalfCal.jump c with run := some run, started := true }) m
  let m := { m with calCommands := m.calCommands.map fun c =>
    if command = some c.id then
      { c with startHt := some (c.startHt.getD m.clock.ht),
               targets := c.targets.map fun t => if t.half = h then { t with ran := true } else t }
    else c }
  beginCalHold h (freezeBands h (openIso h m))

/-- The first run due on half `h` starts when nothing stands in its way; its HOLD begins all the same. A CAL_RUN's run that finds a run
in progress on its own half ends with ST_BUSY (R133, R134). -/
def startPlaced (h : Nat) (m : Part) : Part :=
  match (half h m).cal.placed with
  | [] => m
  | p :: rest =>
    if m.clock.elapsed < p.start ∨ !runReady p m then m
    else if (half h m).cal.run.isSome ∧ p.command.isSome then dropPlaced h p stBusy m
    else if tileFree h m then startRun h p.cause p.command (onCal h (fun c => { c with placed := rest }) m)
    else beginCalHold h m

/-- The next phase of a pass, with its first tick from the start of the pass (Table CAL-4). -/
def nextPhase : CalPhase → Option (CalPhase × Nat)
  | .isolate => some (.offsets, 96)
  | .offsets => some (.interleave, 2144)
  | .interleave => some (.leveller, 26720)
  | .leveller => some (.residual, 35936)
  | .residual => some (.reconnect, 38400)
  | .reconnect => none

/-- The tone runs in a phase (Table CAL-4). -/
def CalPhase.tone : CalPhase → Bool
  | .interleave => true
  | .leveller => true
  | .residual => true
  | _ => false

/-- Set the phase of the run in progress. -/
def setPhase (h pass : Nat) (ph : CalPhase) (m : Part) : Part :=
  onHalf h (fun x => { x with
    tone := ph.tone, cal := { x.cal with run := x.cal.run.map fun r => { r with pass := pass, phase := ph } } }) m

/-- CAL_PHASE_END (R135): the isolation switch closes when the reconnect phase begins; a bring-up run goes on to its next
pass (R143). -/
def execCalPhaseEnd (t half : Nat) (s : State) : Host.Outcome State Fault Refusal :=
  s.runIf (decide (half < halvesFitted s.part)) (onTick t fun m =>
    match (m.halves.getD half {}).cal.run with
    | none => m
    | some r =>
      let base := r.start + r.pass * runTicks
      match nextPhase r.phase with
      | some (ph, off) =>
        if m.clock.elapsed < base + off then m
        else
          let m := setPhase half r.pass ph m
          if ph = .reconnect then closeIso half m else m
      | none =>
        if r.cause = .bringUp ∧ r.pass < 3 ∧ base + runTicks ≤ m.clock.elapsed then
          openIso half (setPhase half (r.pass + 1) .isolate m)
        else m)

/-- The switch of a half that is FENCED or PARKED stays open (R98). -/
def closeIfLive (h : Nat) (m : Part) : Part := if isLive h m && (half h m).isoOpen then closeIso h m else m

/-- A run is abandoned (R138): the corrections in use stay, it counts for nothing, a CAL_RUN ends with ST_ABORTED.
(DEDUCED, log 22) -/
def abandonRun (h : Nat) (m : Part) : Part :=
  match (half h m).cal.run with
  | none => m
  | some r =>
    let m := closeIfLive h (onHalf h (fun x => { x with tone := false, cal := { x.cal with run := none } }) (catchHalf h m))
    endTarget r.command h stAborted (endHolds h (unfreezeBands h m))

/-- A ramp pauses: `next` is then the ticks left to its next increment. -/
def CalRamp.pause (now : Nat) (r : CalRamp) : CalRamp := if r.paused then r else { r with paused := true, next := r.next - now }

/-- A paused ramp goes on where it left off. -/
def CalRamp.resume (now : Nat) (r : CalRamp) : CalRamp := if r.paused then { r with paused := false, next := now + r.next } else r

/-- A tile's ramps pause (R138, R89). -/
def pauseRamp (h : Nat) (m : Part) : Part :=
  let now := m.clock.elapsed
  onCal h (fun c => { c with ramp := c.ramp.map (CalRamp.pause now), fineRamp := c.fineRamp.map (CalRamp.pause now) }) m

/-- A ramp resumes where it left off once neither a tile switch nor BRACE pauses it. -/
def resumeRamp (h : Nat) (m : Part) : Part :=
  if tileHolds h m || m.power.brace.isSome then m
  else
    let now := m.clock.elapsed
    onCal h (fun c => { c with ramp := c.ramp.map (CalRamp.resume now), fineRamp := c.fineRamp.map (CalRamp.resume now) }) m

/-- What ended a tile switch or BRACE for half `h`: levellers and ramp resume, an abandoned temperature or bring-up run is placed again
(R114, R138). -/
def resumeHalf (h : Nat) (m : Part) : Part := wantRun h (resumeRamp h (unfreezeBands h m))

/-- The highest temperature of a tile's halves (R84). -/
def tileTemp (t : Nat) (m : Part) : Int := max (half (2 * t) m).temp (half (2 * t + 1) m).temp

/-- The band-memory entry of the running plan is rewritten: the live band code, the tuning word as it stands, which no row reports, and the
present temperature (R84, R137). -/
def rewriteEntry (t : Nat) (m : Part) : Part :=
  onTile t (fun x => { x with
    memory := x.memory.set x.plan { band := x.band, preset := m.free, temp := tileTemp t m } }) { m with free := m.free + 1 }

/-- A run ends (R137): the record, EV_CAL_DONE, the detector offsets at once and the ramp of the rest, in which the estimator's excursions
go to zero, the end of HOLD, and a CAL_RUN's completion. -/
def endRun (h : Nat) (residual : Int) (r : CalRunning) (m : Part) : Part :=
  let finish_ := r.start + runLength r.cause
  let n := m.free
  let m := closeIfLive h (catchHalf h { m with free := n + 1 })
  let m := onHalf h (fun x => { x with tone := false, cal := { x.cal with
    run := none, due := false, overdue := false, started := false, count := satBits 32 (x.cal.count + 1), lastHt := r.ht,
    lastT := x.temp, residual := residual, cause := r.cause, corrNew := n, corrDet := n,
    ramp := some { done := 0, next := finish_ + 256, paused := false },
    fineNew := List.replicate 6 0, fineRamp := some { done := 0, next := finish_ + 256, paused := false },
    bringUpOwed := x.cal.bringUpOwed && decide (r.cause ≠ .bringUp),
    bg := if r.cause = .bringUp then .converging else x.cal.bg,
    bgSince := if r.cause = .bringUp then finish_ else x.cal.bgSince } }) m
  let m := unfreezeBands h (rewriteEntry (halfTile h) m)
  let x := half h m
  let m := raiseAt (htOf finish_ m) (192 + h) 0x62
    [⟨0, 1, h⟩, ⟨2, 2, x.cal.lastT⟩, ⟨4, 4, x.cal.count⟩, ⟨8, 2, residual⟩, ⟨10, 1, r.cause.code⟩, ⟨11, 1, (bgNow h m).code⟩] m
  endTarget r.command h stOk (endHolds h m)

/-- CAL_RUN_END (R137). -/
def execCalRunEnd (t half : Nat) (r : CalResult) (s : State) : Host.Outcome State Fault Refusal :=
  s.runIf (decide (half < halvesFitted s.part)) (onTick t fun m =>
    match (m.halves.getD half {}).cal.run with
    | none => m
    | some x => if runOver half m then endRun half r.residual x m else m)

/-- CAL_RAMP_INCREMENT (R137, R139): the ramps of the half move by every increment whose tick has come. -/
def execCalRampIncrement (t half : Nat) (s : State) : Host.Outcome State Fault Refusal :=
  s.runIf (decide (half < halvesFitted s.part)) (onTick t fun m =>
    let now := m.clock.elapsed
    onCal half (fun c =>
      let ramp := c.ramp.bind (CalRamp.advance now)
      let fineRamp := c.fineRamp.bind (CalRamp.advance now)
      { c with
        ramp := ramp, corr := if ramp.isNone ∧ c.ramp.isSome then c.corrNew else c.corr,
        ended := if ramp.isNone ∧ c.ramp.isSome then c.ramp.map fun r => (c.corr, r.next + (rampSteps - r.done - 1) * 256) else c.ended,
        fineRamp := fineRamp, fine := if fineRamp.isNone ∧ c.fineRamp.isSome then c.fineNew else c.fine }) m)

/-! ## Mutes (R126, R136) -/

/-- MUTE_LEAD (R126, R136): the pins due are asserted, and from the largest MUTE_LEAD before a run the half's contexts are in
HOLD. -/
def execMuteLead (t half : Nat) (s : State) : Host.Outcome State Fault Refusal :=
  s.runIf (decide (half < halvesFitted s.part)) (onTick t fun m =>
    let lead := muteLeadOf half m
    let m := assertPins half m
    let m := onCal half (fun c => { c with placed := c.placed.map fun p =>
      if lead ≠ 0 ∧ p.start ≤ m.clock.elapsed + lead then { p with asserted := true } else p }) m
    beginCalHold half m)

/-- MUTE_TRAIL (R126): the trail has run, and the pin de-asserts. -/
def execMuteTrail (t pin : Nat) (s : State) : Host.Outcome State Fault Refusal :=
  s.runIf (decide (pin < 16)) (onTick t fun m =>
    { m with gpio := m.gpio.modify pin fun g =>
        if g.muteUntil.any fun u => decide (u ≤ m.clock.elapsed) then
          { (if g.wanted m then g else g.drive false) with muteUntil := none }
        else g })

/-! ## The background estimator (R139, R140) -/

/-- The excursion limits of the estimator: 0.03 dB of gain, 0.8 ps of skew, in the units of `BgEstimate` (R139). -/
def excursionLimits : List Int := [300, 300, 300, 800, 800, 800]

/-- An excursion kept within its limit. -/
def limited (l x : Int) : Int := max (-l) (min l x)

/-- The estimator's update goes through a 64 ms ramp, its excursion from the last run limited; at a limit it says so (R139, R141).
(DEDUCED, log 22) -/
def refine (e : BgEstimate) (now : Nat) (c : HalfCal) : HalfCal :=
  let raw := [e.gain.getD 0 0, e.gain.getD 1 0, e.gain.getD 2 0, e.skew.getD 0 0, e.skew.getD 1 0, e.skew.getD 2 0]
  let kept := excursionLimits.zipWith limited raw
  { c with
    bg := if (raw.zip excursionLimits).any (fun x => decide (x.2 ≤ x.1.natAbs)) then .limit else .converged,
    fine := (List.range 6).map c.excursion, fineNew := kept,
    fineRamp := some { done := 0, next := now + 256, paused := false } }

/-- BG_CONVERGED (R139): an update with which the estimator of a half stands converged; a held half converges by way of converging
(R140). -/
def execBgConverged (t : Nat) (e : BgEstimate) (s : State) : Host.Outcome State Fault Refusal :=
  s.runIf (decide (e.half < halvesFitted s.part)) (onTick t fun m =>
    if isLive e.half m && !bgPaused e.half m && decide ((m.halves.getD e.half {}).cal.bg ≠ .held) then
      onHalf e.half (fun x => { x with restored := false, cal := refine e m.clock.elapsed x.cal }) m
    else m)

/-- BG_HELD (R140): 3.6 s after the bring-up run or a tile reset without convergence. -/
def execBgHeld (t half : Nat) (s : State) : Host.Outcome State Fault Refusal :=
  s.runIf (decide (half < halvesFitted s.part)) (onTick t fun m =>
    let c := (m.halves.getD half {}).cal
    if (isLive half m || (m.halves.getD half {}).restored) && decide (c.bg = .converging) && decide (c.bgSince + 88473600 ≤ m.clock.elapsed) then
      onHalf half (fun x => { x with restored := false, cal := { x.cal with bg := .held } }) m
    else m)

end Sys2Proof.Machine
end

