-- ==== Sys2Proof/Machine/Sampling.lean ====
section
/-! DEFINITION. Converter samples reach the slicer of a half and the chains that read it, at the end of each detector period (R19, R110,
R115, R136, R145-R155). -/

namespace Sys2Proof.Machine

/-- The calibrated gain and phase ratio of an attenuator setting of a band, as the ramp stands on elapsed tick `e` (R115, R129, R137). -/
def HalfCal.ratio (c : HalfCal) (band atten e : Nat) : Int × Int :=
  (c.correctionAt e (.stepGain band (atten / 2)), c.correctionAt e (.stepPhase band (atten / 2)))

/-- The compensation that a context of band `b` applies on half `h` at bin sample `n`, which starts in elapsed tick `e` (R115, R117). -/
def bandGain (h b : Nat) (m : Part) (e : Nat) (n : Int) : Cx :=
  let x := bandAt h b m
  let cal := (half h m).cal
  let plan := (tile (halfTile h) m).plan
  let landed := x.lastLanding.map fun l => (planM plan : Int) * (tau m + ((l : Int) - m.clock.elapsed))
  stepGainAt (cal.ratio b ((x.atten : Int) - x.lastDelta).toNat e) (cal.ratio b x.atten e) landed n

/-- Where the chains of a context work that reads half `h`: the frequency offset is that of each tick (R64, R65). -/
def placeOn (h : Nat) (x : Ctx) (m : Part) : PathPlace :=
  let w : PathPlace := {
    tau := tau m, elapsed := m.clock.elapsed, m := planM (tile (halfTile h) m).plan, ppb := (freqOffset · m), gain := fun _ => {} }
  { w with gain := fun n => bandGain h ((bandOf x.cfg).getD 0) m (w.tick n) n }

/-- A context's chain on half `h` takes the bin samples of a period; one that is fed for the first time takes them from the tick on which
it was last zeroed (R165). The outputs of two AM or FM blocks, or of a DAB or DRM frame and a quarter, stay at hand. -/
def feedCopy (h : Nat) (lines : List (Int × List Int)) (m : Part) (x : Ctx) : Ctx :=
  let now := m.clock.elapsed
  let k := if x.b.isSome then copyOn h else .a
  match x.copy k with
  | none => x
  | some c =>
    let p := if c.path.fed then c.path else { c.path with fed := true, ops := [x.pathSet x.chain.zeroed true c] }
    let before := p.out.length
    let (p, sat) := p.run (placeOn h x m) lines
    let fresh_ := (p.out.drop before).map (·.2)
    let kept := if x.cfg.type = 7 ∨ x.cfg.type = 6 then 3072000 else if x.cfg.type = 5 then 12288000 else 2 * 61440
    let p := { p with out := p.out.filter (fun e => decide (now ≤ e.1 + kept)), fedTo := now }
    let x := x.onCopy k fun c => { c with path := p, ofdm := if x.cfg.type = 7 then notePowers fresh_ c.ofdm else c.ofdm }
    { x with chain := { x.chain with firSat := satBits 32 (x.chain.firSat + sat) } }

/-- The ticks on which samples of a period clipped (R119). -/
def clippedTicks (a : Int) (samplesPerTick : Nat) (m : Part) (l : List Int) : List Nat :=
  (l.zipIdx.filter fun s => decide (s.1 ≤ -8192 ∨ 8191 ≤ s.1)).map fun s =>
    ((m.clock.elapsed : Int) + ((a + s.2) / samplesPerTick - tau m)).toNat

/-- The converter samples that a period ends with reach the slicer and every context of the half; narrowband I/Q is brought up to the
period's end while their outputs are at hand. A half whose converter is powered down or idled delivers none (R37, R86). -/
def feedHalf (h : Nat) (samples : List Int) (m : Part) : Part :=
  if samples.isEmpty || !isLive h m || tileHolds h m then m
  else
    let k := planM (tile (halfTile h) m).plan
    let a : Int := k * tau m - samples.length
    let m := captureSamples h k samples m
    let (lines, slicer) := sliceLines (half h m).slicer a samples
    let m := onHalf h (fun x => { x with
      slicer := slicer, clips := (clippedTicks a k m samples).foldl (fun l e => noteClip e l) x.clips }) m
    let m := (ctxsOn h m).foldl (fun m c => { m with ctxs := change c (feedCopy h lines m) m.ctxs }) m
    (ctxsOn h m).foldl (fun m c => catchUp c m) m

/-- DETECTOR_PERIOD_END (R110): a period ends on a tick whose HT is a multiple of 16. -/
def execDetectorPeriodEnd (t half : Nat) (r : DetectorPeriod) (s : State) : Host.Outcome State Fault Refusal :=
  s.runIf (decide (half < halvesFitted s.part)) (onTick t fun m =>
    if m.clock.ht % 16 ≠ 0 then m else endPeriod half r (feedHalf half r.samples m))

end Sys2Proof.Machine
end

