-- ==== Sys2Proof/Machine/Reception.lean ====
section
/-! DEFINITION. The AM and FM demodulators on the chain's outputs, one 2.5 ms block at a time (R27, R195, R200-R204, R208-R217). -/

namespace Sys2Proof.Machine

/-- The filters whose coefficients the spec does not give: single sideband's real and imaginary branch and the low-pass of each aud_bw, the
30 Hz high-pass, NRSC de-emphasis, the MPX filter (60 kHz) and the audio filter (15 kHz) (R200, R204, R208). -/
inductive FilterKind where
  | ssbRe (bw : Nat) | ssbIm (bw : Nat) | high | low (bw : Nat) | nrsc | mpx | audio
deriving DecidableEq, Repr

/-- A filter's number in `Config.filter`. -/
def FilterKind.code : FilterKind → Nat
  | .high => 1
  | .nrsc => 2
  | .mpx => 3
  | .audio => 4
  | .ssbRe b => 8 + 3 * b
  | .ssbIm b => 9 + 3 * b
  | .low b => 10 + 3 * b

/-- One step of a filter: the output and the next state. -/
def FilterKind.run (k : FilterKind) (state x : Int) : Int × Int := Config.filter k.code state x

/-- One step of a first-order low-pass at 48 kHz with 0 dB at 0 Hz: `gain`, in 2^−16, is 1 − exp(−1 / (48,000 T)) for its time constant T;
the state has 16 fractional bits. The output and the next state (R200, R214). (DEDUCED, log 28) -/
def lowPass (gain : Nat) (state x : Int) : Int × Int :=
  let s := state + Config.round ((x * 65536 - state) * gain) 65536
  (Config.round s 65536, s)

/-- The gains for 100 ms, 50 µs and 75 µs; that of 100 ms, with 16 more fractional bits. -/
abbrev carrierGain : Int := 894692
abbrev deemph50 : Nat := 22332
abbrev deemph75 : Nat := 15895

/-- One step of the carrier estimate: the mean amplitude smoothed with 100 ms (R200). (DEDUCED, log 28) -/
def carrierStepAm (state x : Int) : Int × Int :=
  let s := state + Config.round ((x * 65536 - state) * carrierGain) (2 ^ 32)
  (Config.round s 65536, s)

/-! ## Input (R27, R184, R195) -/

/-- The outputs of a copy's chain in the block that ends now, after its AGC. -/
def blockInput (c : CopyState) (m : Part) : List (Nat × Cx) :=
  let now := m.clock.elapsed
  let g := Config.dbGain c.agc
  (c.path.out.filter fun e => decide (now ≤ e.1 + 61440 ∧ e.1 < now)).map fun e => (e.1, (e.2.scale g).narrow 24 65536)

/-- Maximal-ratio combining of two copies' samples on the same ticks: weights are the linear CNRs, and B is turned onto A by the phase of
their correlation over the block, since the spec gives no way to align them (R27). (DESIGN CHOICE / DEDUCED, log 28) -/
def combineInput (wa wb : Int) (a b : List (Nat × Cx)) : List (Nat × Cx) :=
  let sum := (a.zipWith (fun x y => x.2.mul y.2.conj) b).foldl Cx.add {}
  let turn := ((-(Config.angle sum.re sum.im)) % 2 ^ 32).toNat
  a.zipWith (fun x y => (x.1, ((x.2.scale wa).add ((turnBack 24 turn y.2).scale wb)).narrow 24 (wa + wb).toNat)) b

/-- The loops of a copy update on this sample: it is in none of the copy's own intervals of HOLD and SETTLING (R181-R183, R201). -/
def loopRuns (bad : List (Nat × Nat)) (e : Nat) : Bool := !inSpans e bad

/-! ## The noise blanker (R202, R203) -/

/-- Insert a power in rising order. -/
def insertPower (v : Nat) : List Nat → List Nat
  | [] => [v]
  | w :: rest => if v ≤ w then v :: w :: rest else w :: insertPower v rest

/-- The median of several powers, times two. -/
def medianTwice (l : List Nat) : Nat :=
  let s := l.foldr insertPower []
  s.getD (l.length / 2) 0 + s.getD ((l.length - 1) / 2) 0

/-- The output lies within 3 samples of the one whose stamp lies nearest to a clipped converter sample (R203). -/
def nearClip (x : Ctx) (clips : List Nat) (e : Nat) : Bool :=
  let f := family x.cfg.type
  let d : Int := nominalDelay f x.chain.plan
  clips.any fun k => decide ((210 * (e : Int) - d - 210 * k).natAbs * 2 < 210 * 7 * f.k)

/-- New samples enter the blanker's window: each is judged against the median of the 512 powers before it, and of fewer until there are as
many; the spec does not say whether the last 512 samples hold the sample judged (R202). (DESIGN CHOICE, log 28) -/
def noteSamples (x : Ctx) (clips : List Nat) : List (Nat × Cx) → AmPath → AmPath
  | [], p => p
  | (t, z) :: rest, p =>
    let high := !p.powers.isEmpty
      && decide ((medianTwice p.powers : Int) * Config.linear (10 * (x.cfg.am.nbThresh : Int)) < 2 * 65536 * z.power)
    let cell : BlankCell := { tick := t, x := z, high := high, clip := nearClip x clips t }
    noteSamples x clips rest { p with powers := (z.power :: p.powers).take 512, cells := p.cells ++ [cell] }

/-- Runs of samples that exceed the reference: first index and length. -/
def highRuns : Nat → List BlankCell → List (Nat × Nat)
  | _, [] => []
  | i, c :: rest =>
    match c.high, highRuns (i + 1) rest with
    | false, l => l
    | true, (j, n) :: l => if j = i + 1 then (i, n + 1) :: l else (i, 1) :: (j, n) :: l
    | true, [] => [(i, 1)]

/-- Sample `i` of the window is blanked: a clipped one, or inside a run of at most 48 samples extended by 2 at each end. -/
def blanks (runs : List (Nat × Nat)) (cells : List BlankCell) (i : Nat) : Bool :=
  (cells[i]?).any BlankCell.clip || runs.any fun r => decide (r.2 ≤ 48 ∧ r.1 ≤ i + 2 ∧ i < r.1 + r.2 + 2)

/-- Linear interpolation between the samples that bound a blanked one. -/
def interpolate (blank : Nat → Bool) (cells : List BlankCell) (i : Nat) : Cx :=
  let n := cells.length
  let at_ (k : Nat) : Cx := (cells[k]?).elim {} BlankCell.x
  let lo := (List.range i).reverse.find? fun k => !blank k
  let hi := ((List.range (n - i)).map (· + i)).find? fun k => !blank k
  match lo, hi with
  | some a, some b => ((at_ a).add (((at_ b).sub (at_ a)).scale ((i - a : Nat) : Int) |>.map fun v => Config.round v (b - a)))
  | some a, none => at_ a
  | none, some b => at_ b
  | none, none => {}

/-- The samples that leave the blanker, each with its tick and whether it was blanked, and the runs blanked and left: a sample leaves once
56 more are known, beyond the longest run with its extension. -/
def blankBlock (on_ : Bool) (p : AmPath) : AmPath × List (Nat × Cx × Bool) × Nat × Nat :=
  let n := p.cells.length
  let stop := n - 56
  let runs := highRuns 0 p.cells
  let blank (i : Nat) : Bool := on_ && blanks runs p.cells i
  let out := ((List.range stop).drop p.past).map fun i =>
    let c := p.cells.getD i { tick := 0, x := {}, high := false, clip := false }
    (c.tick, (if blank i then interpolate blank p.cells i else c.x), blank i)
  let begun := runs.filter fun r => decide (p.past ≤ r.1 ∧ r.1 < stop)
  let off := ((List.range n).filter blank).filterMap fun i => (p.cells[i]?).map BlankCell.tick
  ({ p with cells := p.cells.drop (stop - 56), past := min 56 stop, blanked := off }, out,
    (begun.filter fun r => decide (r.2 ≤ 48)).length, (begun.filter fun r => decide (48 < r.2)).length)

/-! ## AM: loop, detector and audio chain (R200, R201, R204) -/

/-- A second-order loop moves by a phase error: the next phase and frequency (2^−32 turn a sample), the frequency within ±`limit`. -/
def loopStep (bw rate : Nat) (limit err : Int) (phase : Nat) (freq : Int) : Nat × Int :=
  let (kp, ki) := Config.loopGain bw rate
  let freq := clampInt (-limit) limit (freq + Config.round (err * ki) (2 ^ 32))
  ((((phase : Int) + freq + Config.round (err * kp) (2 ^ 32)) % 2 ^ 32).toNat, freq)

/-- A modulation depth in 0.1 %: the audio against the carrier estimate. -/
def depthOf (v carrier : Int) : Int := if carrier ≤ 0 then 0 else Config.round (1000 * v) carrier.toNat

/-- One sample of the AM demodulator: the carrier loop, the detector, and the audio chain up to soft mute; 100 % modulation gives half of
full scale (R200, R201, R204). The sums are of squared phase errors and of the samples that had one. -/
def amSample (x : Ctx) (c : CopyState) (bad : List (Nat × Nat)) (s : Nat × Cx × Bool) (p : AmPath) (sums : Int × Nat) :
    AmPath × Int × (Int × Nat) :=
  let (t, z, blanked) := s
  let g := x.cfg.am
  let sync := decide (g.detector ≠ 0)
  let r := turnBack 24 p.phase z
  let err := Config.angle r.re r.im
  let runs := sync && !blanked && loopRuns bad t
  let (phase, freq) :=
    if runs then loopStep (if c.amLocked then 80 else 400) 48000 8947849 err p.phase p.freq
    else ((((p.phase : Int) + p.freq) % 2 ^ 32).toNat, p.freq)
  let sums := if runs then (sums.1 + err * err, sums.2 + 1) else sums
  let envelope := !sync || c.amFallback
  let amp := if envelope then Config.magnitude z.re z.im else r.re
  let (carrier, carrierF) := carrierStepAm p.carrierF amp
  let (a, ssbRe) := (FilterKind.ssbRe g.audBw).run p.ssbRe r.re
  let (b, ssbIm) := (FilterKind.ssbIm g.audBw).run p.ssbIm r.im
  let det := if envelope ∨ g.detector = 1 then amp else if g.detector = 2 then a - b else a + b
  let depth := depthOf (det - carrier) carrier
  let (v, high) := FilterKind.high.run p.high (det - carrier)
  let (v, low) := (FilterKind.low g.audBw).run p.low v
  let (w, deemph) := FilterKind.nrsc.run p.deemph v
  let v := if g.deemph = 1 then w else v
  ({ p with phase := phase, freq := freq, carrier := carrier, carrierF := carrierF, ssbRe := ssbRe, ssbIm := ssbIm, high := high,
            low := low, deemph := deemph, modPos := max p.modPos depth, modNeg := max p.modNeg (-depth) },
    if carrier ≤ 0 then 0 else satWord 24 (Config.round (v * 2 ^ 22) carrier.toNat), sums)

/-- Several samples of the AM demodulator. -/
def amSamples (x : Ctx) (c : CopyState) (bad : List (Nat × Nat)) :
    List (Nat × Cx × Bool) → AmPath → Int × Nat → AmPath × List (Nat × Int) × (Int × Nat)
  | [], p, sums => (p, [], sums)
  | s :: rest, p, sums =>
    let (p, v, sums) := amSample x c bad s p sums
    let (p, l, sums) := amSamples x c bad rest p sums
    (p, (s.1, v) :: l, sums)

/-- The mean square of the phase errors of the last `n` blocks, once there are as many, satisfies `test` on its sum and count. -/
def errorsTest (n : Nat) (errs : List (Int × Nat)) (test : Int → Int → Bool) : Bool :=
  let l := errs.take n
  let cnt := (l.map (·.2)).sum
  decide (l.length = n ∧ 0 < cnt) && test ((l.map (·.1)).foldl (· + ·) 0) cnt

/-- The carrier loop's lock: below 15° rms over 40 ms (R201). -/
def amInLock (p : AmPath) : Bool := errorsTest 16 p.errs fun s n => decide (s * 576 < n * 2 ^ 64)

/-- Its loss: above 40° rms over 20 ms. -/
def amOutOfLock (p : AmPath) : Bool := errorsTest 8 p.errs fun s n => decide (n * 2 ^ 64 < s * 81)

/-- What a demodulator gives for a block: the mono and difference words on their ticks, for FM the signal and noise power of the input
samples behind each (R281), and what R201, R202 and R219 measure. -/
structure Demodulated where
  audio : List (Nat × Int × Int)
  power : List (Int × Int) := []
  amLost : Bool := false
  amLock : Bool := false
  nbRuns : Nat := 0
  nbLong : Nat := 0
  dispersion : Int := 0
deriving DecidableEq, Repr

/-- A block of an AM context's copy: its audio leaves 56 samples after the samples it was computed from, a part of the delay of R195. -/
def amBlock (x : Ctx) (c : CopyState) (bad : List (Nat × Nat)) (clips : List Nat) (input : List (Nat × Cx)) : AmPath × Demodulated :=
  let (p, samples, runs, long) := blankBlock (decide (x.cfg.am.nb = 1)) (noteSamples x clips input c.am)
  let (p, l, sums) := amSamples x c bad samples p (0, 0)
  let p := { p with errs := (sums :: p.errs).take 16 }
  (p, { audio := l.map fun e => (e.1 + 56 * 512, e.2, 0), amLost := amOutOfLock p, amLock := amInLock p, nbRuns := runs, nbLong := long })

/-! ## FM: the canceller (R216, R217) -/

/-- The taps at identity: the reference tap 8 is 1. The spec gives a tap 18 bits a component and no binary point: the model takes 16
fractional bits, so that 1 is a tap. (DESIGN CHOICE, log 28) -/
def identityTaps : List Cx := (List.range 32).map fun k => if k = 8 then ⟨2 ^ 16, 0⟩ else {}

/-- The sum of products of two complex lists. -/
def dotCx (a b : List Cx) : Cx := (a.zipWith Cx.mul b).foldl Cx.add {}

/-- A tap moved by mu·e·conj(v) with mu = 2^−k, in 18-bit components; `sign` is that of the update (R216, R217). What happens beyond 18 bits
the spec does not say: the component saturates. (DESIGN CHOICE, log 28) -/
def moveTap (sign : Int) (k : Nat) (e v tap : Cx) : Cx :=
  (tap.add (((e.mul v.conj).scale (sign * 2 ^ 16)).map fun w => Config.round w (Config.decisionPower * 2 ^ k))).map (satWord 18)

/-- A word projected on the circle of the AGC's target. -/
def project (y : Cx) : Cx := let d := Config.decision y.re y.im; ⟨d.1, d.2⟩

/-- One sample through the canceller, or through the fixed delay of 8 samples: the output, and the powers of the modulus error at output and
input. The taps adapt at mu_acq over the first 50 ms, 19,200 samples, and at mu_track after that (R208, R216-R218). -/
def cancel (act : Mpc) (adapts : Bool) (g : FmCfg) (x : Cx) (p : FmPath) : FmPath × Cx × Int × Int :=
  let xs := (x :: p.xs).take 32
  let ref := xs.getD 8 {}
  let eIn := (ref.sub (project ref)).power
  match act with
  | .off => ({ p with xs := xs, ds := [], ff := [], fb := [], adapted := 0 }, ref, eIn, eIn)
  | .waiting => ({ p with xs := xs, ds := [], ff := [], fb := [], adapted := 0 }, ref, eIn, eIn)
  | _ =>
    let ff := if p.ff.isEmpty then identityTaps else p.ff
    let fb := if p.fb.isEmpty then List.replicate 16 {} else p.fb
    let y := ((dotCx ff xs).sub (dotCx fb p.ds)).narrow 24 (2 ^ 16)
    let d := project y
    let e := y.sub d
    let k := if p.adapted < 19200 then g.muAcq else g.muTrack
    let moves := adapts && decide (act = .adapting)
    let pad (n : Nat) (l : List Cx) : List Cx := (List.range n).map fun i => l.getD i {}
    let ff' := if moves then ff.zipWith (fun t v => moveTap (-1) k e v t) (pad 32 xs) else ff
    let fb' := if moves then fb.zipWith (fun t v => moveTap 1 k e v t) (pad 16 p.ds) else fb
    ({ p with xs := xs, ds := (d :: p.ds).take 16, ff := ff', fb := fb', adapted := p.adapted + (if moves then 1 else 0) },
      y, e.power, eIn)

/-! ## FM: discriminator, pilot loop, stereo decoder (R208-R211, R214) -/

/-- Sums over a block: power, squared modulus errors out and in, the pilot's phasor, the MPX samples. -/
structure FmSums where
  power : Int := 0
  eOut : Int := 0
  eIn : Int := 0
  pilot : Cx := {}
  cnt : Nat := 0
deriving DecidableEq, Repr

/-- The step of 19 kHz at 192 kS/s, in 2^−32 turn. -/
def pilotStep : Int := Config.round (2 ^ 32 * 19) 192

/-- 10 Hz at 192 kS/s: the capture range of the pilot loop (R210). -/
abbrev pilotCapture : Int := 223696

/-- 57 kHz at 192 kS/s, in 2^−32 turn, and the ±6 Hz that the Costas loop captures (R223). -/
abbrev rdsStep : Int := 1275068416
abbrev rdsCapture : Int := 134218

/-- One MPX sample of the RDS demodulator (R223): the carrier is three times the pilot phase while the pilot is locked, else the Costas
loop's own; a bit is 48 turns of it, biphase, decoded differentially, and decided hard but where `on_` says that it is HOLD or SETTLING
(R228). -/
def rdsSample (pilot : Option (Nat × Int)) (on_ : Bool) (v : Int) (p : RdsPath) : RdsPath :=
  let phase := pilot.elim p.phase fun q => 3 * q.1 % 2 ^ 32
  let c := cis phase
  let i := Config.round (v * c.im) (2 ^ 17)
  let q := Config.round (v * c.re) (2 ^ 17)
  let (kp, ki) := Config.loopGain 0 192000
  let err := if 0 ≤ i then q else -q
  let freq := if on_ then clampInt (-rdsCapture) rdsCapture (p.freq + Config.round (err * ki) (2 ^ 32)) else p.freq
  let step := pilot.elim (rdsStep + freq + (if on_ then Config.round (err * kp) (2 ^ 32) else 0)) fun q => q.2
  let late := decide (24 * 2 ^ 32 ≤ p.clock)
  let p := { p with
    level := p.level + (i.natAbs : Nat), cnt := p.cnt + 1,
    phase := (((phase : Int) + step) % 2 ^ 32).toNat, freq := freq, clock := p.clock + step, open_ := p.open_ || !on_,
    first := if late then p.first else p.first + i, second := if late then p.second + i else p.second }
  if p.clock < 48 * 2 ^ 32 then p
  else
    let sym := decide (p.second < p.first)
    let bit := if p.open_ then none else some (sym != p.last)
    { p with clock := p.clock - 48 * 2 ^ 32 + Config.bitTiming p.first p.second, first := 0, second := 0, open_ := false, last := sym,
             bits := (bit :: p.bits).take 26 }

/-- De-emphasis of a context's deemph: OFF, 50 µs, 75 µs (R214). -/
def deemphasise (deemph : Nat) (state x : Int) : Int × Int :=
  match deemph with
  | 1 => lowPass deemph50 state x
  | 2 => lowPass deemph75 state x
  | _ => (x, state)

/-- An MPX sample at 192 kS/s: the pilot loop with its regenerated 38 and 57 kHz, the RDS demodulator, and the audio filters of M and S; on
every fourth, the audio words. Without a locked pilot S is 0 (R210, R211). `held` is false for a sample in HOLD or SETTLING, which
the measures leave out (R182). -/
def mpxSample (x : Ctx) (k : CopyState) (held runs whole : Bool) (v : Int) (p : FmPath) (s : FmSums) : FmPath × FmSums × Option (Int × Int) :=
  let c := cis p.phase
  let err := Config.round (v * c.re) (2 ^ 17)
  let locked := decide (k.pilot = .locked)
  let (_, freq) := if runs then loopStep (if locked then 20 else 200) 192000 pilotCapture err p.phase p.freq else (p.phase, p.freq)
  let (kp, _) := Config.loopGain (if locked then 20 else 200) 192000
  let step := pilotStep + freq + if runs then Config.round (err * kp) (2 ^ 32) else 0
  let s := if runs then { s with pilot := s.pilot.add ⟨v * c.im, v * c.re⟩, cnt := s.cnt + 1 } else s
  let stereo := locked && decide (x.cfg.type = 4)
  let (mono, audioM) := FilterKind.audio.run p.audioM v
  let diff := if stereo then Config.round (2 * v * (cis (2 * p.phase)).im) (2 ^ 17) else 0
  let (side, audioS) := FilterKind.audio.run p.audioS diff
  let runsRds := match k.under with
    | .detected => true
    | .track => true
    | .lost => true
    | _ => false
  let rds := if runsRds then rdsSample (if locked then some (p.phase, 3 * step) else none) held v p.rds else {}
  let p := { p with
    phase := (((p.phase : Int) + step) % 2 ^ 32).toNat, freq := freq, audioM := audioM, audioS := audioS, rds := rds,
    peak := if held then max p.peak v.natAbs else p.peak, mpxSum := if held then p.mpxSum + v * v else p.mpxSum,
    mpxCnt := if held then p.mpxCnt + 1 else p.mpxCnt }
  if !whole then (p, s, none)
  else
    let (a, deemphM) := deemphasise x.cfg.fm.deemph p.deemphM mono
    let (b, deemphS) := deemphasise x.cfg.fm.deemph p.deemphS side
    ({ p with deemphM := deemphM, deemphS := deemphS }, s, some (a, b))

/-- One sample of the FM demodulator. The discriminator's phase step, in 2^−32 turn at 384 kS/s, is the instantaneous frequency; its mean
over the quality window is removed (R208, R209). -/
def fmSample (x : Ctx) (c : CopyState) (bad : List (Nat × Nat)) (act : Mpc) (flywheel : Bool) (m : Part) (t : Nat) (z : Cx) (p : FmPath)
    (s : FmSums) : FmPath × FmSums × Option (Int × Int) :=
  let runs := loopRuns bad t
  let (p, y, eOut, eIn) := cancel act runs x.cfg.fm z p
  let s := { s with power := s.power + z.power, eOut := s.eOut + eOut, eIn := s.eIn + eIn }
  let u := project y
  let turn := u.mul p.last.conj
  let step := Config.angle turn.re turn.im
  let (v, mpx) := FilterKind.mpx.run p.mpx (step - p.offset)
  let p := { p with last := u, mpx := mpx, sum := if runs then p.sum + step else p.sum, cnt := if runs then p.cnt + 1 else p.cnt }
  let at_ := tau m + ((t : Int) - m.clock.elapsed)
  if at_ % 128 ≠ 0 then (p, s, none) else mpxSample x c runs (runs && !flywheel) (decide (at_ % 512 = 0)) v p s

/-- Several samples of the FM demodulator. -/
def fmSamples (x : Ctx) (c : CopyState) (bad : List (Nat × Nat)) (act : Mpc) (flywheel : Bool) (m : Part) :
    List (Nat × Cx) → FmPath → FmSums → FmPath × FmSums × List (Nat × (Int × Int) × Int × Int)
  | [], p, s => (p, s, [])
  | (t, z) :: rest, p, s =>
    let (p, s, out) := fmSample x c bad act flywheel m t z p s
    let (p, s', l) := fmSamples x c bad act flywheel m rest p s
    (p, s', (out.toList.map fun v => (t, v, s.power, s.eIn)) ++ l)

/-- The steps between successive sums. -/
def stepsOf (last : Int × Int) : List (Int × Int) → List (Int × Int)
  | [] => []
  | s :: rest => (s.1 - last.1, s.2 - last.2) :: stepsOf s rest

/-- A block of an FM context's copy. `flywheel` is a block below 6 dB, in which the pilot loop holds and its tests rest (R210). -/
def fmBlock (x : Ctx) (c : CopyState) (bad : List (Nat × Nat)) (act : Mpc) (flywheel : Bool) (m : Part) (input : List (Nat × Cx)) :
    FmPath × Demodulated :=
  let (p, s, l) := fmSamples x c bad act flywheel m input c.fm {}
  let p :=
    if s.cnt = 0 then p
    else
      let inj := 2 * Config.round (Config.magnitude s.pilot.re s.pilot.im) (s.cnt * 2 ^ 17)
      { p with pilots := ((inj, Config.angle s.pilot.re s.pilot.im) :: p.pilots).take 40 }
  let p := { p with eOut := p.eOut + s.eOut, eIn := p.eIn + s.eIn }
  (p, { audio := l.map fun e => (e.1, e.2.1), power := stepsOf (0, 0) (l.map fun e => e.2.2), dispersion := if input.isEmpty then 0 else Config.decibels s.eOut s.eIn })

/-- A deviation in Hz as a phase step at 384 kS/s. -/
def deviation (hz : Nat) : Int := ((hz * 2 ^ 32 / 384000 : Nat) : Int)

/-- The pilot's injection reaches ±3.0 kHz. -/
def pilotFound (p : FmPath) : Bool := (p.pilots.head?).any fun b => decide (deviation 3000 ≤ b.1)

/-- The pilot loop's phase error over the last `n` blocks satisfies `test` on its sum of squares and their number. The spec does not say on
what resolution the error is taken: the model takes the mean angle of each 2.5 ms block (R210). (DESIGN CHOICE, log 28) -/
def pilotErrors (n : Nat) (p : FmPath) (test : Int → Int → Bool) : Bool :=
  errorsTest n (p.pilots.map fun b => (b.2 * b.2, 1)) test

/-- The pilot is locked: found, with a phase error below 3° rms over 50 ms (R210). -/
def pilotInLock (p : FmPath) : Bool := pilotFound p && pilotErrors 20 p fun s n => decide (s * 14400 < n * 2 ^ 64)

/-- A locked pilot is lost: below ±1.5 kHz for 100 ms, or above 10° rms over 20 ms (R210). -/
def pilotGone (p : FmPath) : Bool :=
  (decide (p.pilots.length = 40) && p.pilots.all fun b => decide (b.1 < deviation 1500))
    || pilotErrors 8 p fun s n => decide (n * 2 ^ 64 < s * 1296)

/-! ## A block of a context -/

/-- Activity of a copy's canceller in a block (Table ANA-6). -/
def copyActivity (x : Ctx) (c : CopyState) (cnr : Int) : Mpc :=
  if x.ana.mpc = .off then .off
  else
    match c.state with
    | .detected => if cnr < 60 then .frozen else .adapting
    | .track => if cnr < 60 then .frozen else .adapting
    | .lost => .frozen
    | .hold => .frozen
    | _ => .waiting

/-- What the canceller as it stands makes of several samples: the power at the limiter's input and that of its modulus error. -/
def limiterInput (act : Mpc) (g : FmCfg) : List (Nat × Cx) → FmPath → Int × Int → Int × Int
  | [], _, s => s
  | (_, z) :: rest, p, s =>
    let (p, y, e, _) := cancel act false g z p
    limiterInput act g rest p (s.1 + (y.power : Nat), s.2 + e)

/-- The signal and the noise of a copy's block by which R188 defines its CNR, and the power of its chain's outputs before the AGC: samples
in HOLD or SETTLING and blanked ones left out. FM's is taken at the limiter's input, with the canceller's taps as the block finds them, so
that the block's CNR is known before the loops that rest on it run. (DEDUCED, log 28) -/
def copyMeter (x : Ctx) (bad : List (Nat × Nat)) (clips : List Nat) (input : List (Nat × Cx)) (c : CopyState) : Meter :=
  let good (e : Nat × Cx) : Bool := !inSpans e.1 bad
  let raw := c.path.out.filter fun e => (input.any fun i => decide (i.1 = e.1)) && good e
  if x.cfg.type = 1 then
    let off := (blankBlock (decide (x.cfg.am.nb = 1)) (noteSamples x clips input c.am)).1.blanked
    let l := raw.filter fun e => !off.contains e.1
    let (s, n) := Config.amLine (l.map fun e => (e.2.re, e.2.im))
    { power := (s : Nat), cnt := l.length, signal := (s : Nat), noise := (n : Nat) }
  else
    let (s, n) := limiterInput (copyActivity x c 450) x.cfg.fm (input.filter good) c.fm (0, 0)
    { power := ((raw.map fun e => e.2.power).sum : Nat), cnt := raw.length, signal := s, noise := n }

/-- One copy's demodulator takes its input; `cnr` is that of the block. -/
def demodCopy (x : Ctx) (cnr : Int) (clips : List Nat) (m : Part) (input : List (Nat × Cx)) (c : CopyState) : CopyState × Demodulated :=
  let bad := copyExcluded x c m
  if x.cfg.type = 1 then let (p, d) := amBlock x c bad clips input; ({ c with am := p }, d)
  else let (p, d) := fmBlock x c bad (copyActivity x c cnr) (decide (cnr < 60)) m input; ({ c with fm := p }, d)

/-- What a block's row tells of a copy whose samples are not followed (R201, R202, R219). -/
def rowDemod (b : BlockMeasure) : Demodulated :=
  { audio := [], amLost := b.amLost, amLock := b.amLock, nbRuns := b.nbRuns, nbLong := b.nbLong, dispersion := b.dispersion }

/-- The carrier loop of a copy after a block: it locks; in TRACK it falls back to ENVELOPE from the next block, and resumes at the first
block after relock (R201). -/
def CopyState.amLoop (x : Ctx) (d : Demodulated) (c : CopyState) : CopyState :=
  let sync := decide (x.cfg.type = 1 ∧ x.cfg.am.detector ≠ 0)
  if sync && d.amLost && c.amLocked && decide (c.state = .track) then { c with amLocked := false, amFallback := true }
  else if sync && d.amLock then { c with amLocked := true, amFallback := false }
  else c

/-- The divergence guard of a copy's canceller after a block (R219): eight blocks in a row 3 dB worse return the taps to identity, which it
answers. -/
def CopyState.guard (x : Ctx) (cnr : Int) (d : Demodulated) (c : CopyState) : CopyState × Bool :=
  let act := copyActivity x c cnr
  let bad := if decide (act = .adapting ∨ act = .frozen) && decide (30 ≤ d.dispersion) then c.mpcBad + 1 else 0
  if bad < 8 then ({ c with mpcBad := bad }, false)
  else ({ c with mpcBad := 0, fm := { c.fm with ds := [], ff := [], fb := [], adapted := 0 } }, true)

/-- A copy's block: its demodulator, its carrier loop and its canceller's guard. -/
def copyBlock (x : Ctx) (b : BlockMeasure) (cnr : Int) (clips : List Nat) (m : Part) (input : List (Nat × Cx)) (c : CopyState) :
    CopyState × Demodulated × Bool :=
  let (c, d) := if c.path.fed then demodCopy x cnr clips m input c else (c, rowDemod b)
  let (c, reset) := (c.amLoop x d).guard x cnr d
  (c, d, reset)

/-- The block's figures with each copy's CNR as its own samples tell it, and those samples in its meter (R188, R205). -/
def measureBlock (c : Nat) (b : BlockMeasure) (m : Part) (x : Ctx) : Ctx × BlockMeasure :=
  let h := ctxHalf c
  let meter (h : Nat) (k : CopyState) : Meter :=
    if k.path.fed then copyMeter x (copyExcluded x k m) (half h m).clips (blockInput k m) k else {}
  let a := meter h x.a
  let w := x.b.elim {} (meter (partner h))
  let add (w : Meter) (k : CopyState) : CopyState := { k with meter := k.meter.add w.power w.signal w.noise w.cnt }
  ({ x with a := add a x.a, b := x.b.map (add w) }, { b with cnrA := a.cnr.getD b.cnrA, cnrB := w.cnr.getD b.cnrB })

/-- What the demodulators of a context give in a block: the delivered copy's, whether its own loop fell back, and how many cancellers were
reset. -/
structure BlockHeard where
  heard : Demodulated
  fell : Bool
  resets : Nat
deriving DecidableEq, Repr

/-- The demodulators of a context take the block that ends now: half A's on the combined signal while the two copies combine, half B's on
its own; what the delivered copy's gives (R27, R221). -/
def demodulate (c : Nat) (b : BlockMeasure) (m : Part) (x : Ctx) : Ctx × BlockHeard :=
  let h := ctxHalf c
  let clips (k : Nat) : List Nat := (half k m).clips
  let a := blockInput x.a m
  let fell (old new_ : CopyState) : Bool := !old.amFallback && new_.amFallback
  match x.b with
  | none =>
    let (y, d, r) := copyBlock x b b.cnrA (clips h) m a x.a
    ({ x with a := y }, { heard := d, fell := fell x.a y, resets := if r then 1 else 0 })
  | some k =>
    let own := blockInput k m
    let both := x.pair.combined && decide (x.a.state = .track) && decide (k.state = .track)
    let inA := if both then combineInput (Config.linear b.cnrA) (Config.linear b.cnrB) a own else a
    let cnrA := if both then logSum b.cnrA b.cnrB else b.cnrA
    let (ya, da, ra) := copyBlock x b cnrA (clips h) m inA x.a
    let (yb, db, rb) := copyBlock x b b.cnrB (clips (partner h)) m own k
    let fromB := !both && decide (x.pair.copy = .b)
    ({ x with a := ya, b := some yb },
      { heard := if fromB then db else da, fell := if fromB then fell k yb else fell x.a ya,
        resets := (if ra then 1 else 0) + (if rb then 1 else 0) })

/-- Mute attenuation and blend at sample `i` of `n` of a block, on their ramps across it: in 0.01 dB and 1/800 (R205, R212). The attenuation
runs linearly in dB. (DEDUCED, log 28) -/
def rampAcross (a b i n : Nat) : Int := Config.round ((a : Int) * ((n : Int) - i) + (b : Int) * i) n

/-- A block's audio as source sets take it: after de-emphasis and before blend and soft mute, which it carries along (R281). An AM sample's
powers are those of the block CNR. -/
def setTaps (x : Ctx) (before after : Analogue) (d : Demodulated) : List Tap :=
  let n := d.audio.length
  d.audio.zipIdx.map fun e =>
    let (t, mono, side) := e.1
    let (power, noise) := d.power.getD e.2 (Config.linear x.ana.blockCnr, 65536)
    { tick := t, mono := mono, side := side, power := power, noise := noise, pilot := decide (x.pilot = .locked),
      on_ := decide (x.state = .track) && !heldAt x t, blend := rampAcross before.blend after.blend (e.2 + 1) n,
      mute := rampAcross (10 * before.mute) (10 * after.mute) (e.2 + 1) n }

/-- Audio words of a block as PCM of 24 bits, with blend and soft mute on their ramps from `before` to `after` (R204, R205, R209, R212). An
FM word is a phase step, of which ±150 kHz are full scale: the step / 200. -/
def pcmBlock (x : Ctx) (before after : Analogue) (l : List (Nat × Int × Int)) : List (Nat × List Int) :=
  let n := l.length
  l.zipIdx.map fun e =>
    let (t, mono, side) := e.1
    let g := Config.dbGain (-(rampAcross (10 * before.mute) (10 * after.mute) (e.2 + 1) n))
    let s := rampAcross before.blend after.blend (e.2 + 1) n
    let word (v : Int) (unit : Nat) : Int := satWord 24 (Config.round (v * g) (65536 * unit))
    (t, if x.cfg.type = 1 then [word mono 1]
      else if x.cfg.type = 4 then [word (800 * mono + s * side) 160000, word (800 * mono - s * side) 160000]
      else [word mono 200])

end Sys2Proof.Machine
end

