-- ==== Sys2Proof/Machine/Database.lean ====
section
/-! DEFINITION. Side-data items (R304, R310), the service database (R285-R291) and announcements and alarms (R311, R312). -/

namespace Sys2Proof.Machine

/-! ## Side-data items -/

/-- The body of a side-data item: its fields, counted from the end of the 12-byte header, and raw bytes after them. -/
structure SideBody where
  type : Nat
  status : Nat
  ctx : Nat
  sel : Nat
  bytes : Nat
  fields : List Field
  raw : List Byte
deriving DecidableEq, Repr

/-- Length of an item: header and body, a multiple of 4 (Table SVC-7). -/
def SideBody.len (b : SideBody) : Nat := 4 * ceilDiv (12 + b.bytes + b.raw.length) 4

/-- An item with its header: the flow's counter and the ticks from the record's stamp. -/
def sideItem (cnt dt : Nat) (b : SideBody) : Item :=
  { bytes := b.len,
    fields := [⟨0, 2, b.len⟩, ⟨2, 1, b.type⟩, ⟨3, 1, b.status⟩, ⟨4, 2, b.ctx⟩, ⟨6, 1, b.sel⟩, ⟨7, 1, cnt⟩, ⟨8, 4, dt⟩]
      ++ b.fields.map (fun f => { f with off := f.off + 12 }),
    body := b.raw, bodyAt := 12 + b.bytes }

/-- Give a side-data item stamped `ht` to a flow; an item with status 1 or 2 makes its record ERASED (R310). -/
def appendSide (ht : Nat) (flags : Nat) (b : SideBody) (n : Nat) (m : Part) : Part :=
  match flow n m with
  | none => m
  | some f =>
    let base := match f.opened with
      | some o => if f.length < o.bytes + b.len then ht else o.ht
      | none => ht
    let flags := orFlags flags (flagIf (decide (b.status ≠ 0)) flagErased)
    onFlow n (fun f => { f with itemCnt := (f.itemCnt + 1) % 256 })
      (appendItem n ht ((ht : Int) - m.clock.grid) flags (sideItem f.itemCnt (ht - base) b) m)

/-- Give an item to several flows. -/
def appendSides (ht flags : Nat) (b : SideBody) (l : List Nat) (m : Part) : Part :=
  l.foldl (fun m n => appendSide ht flags b n m) m

/-- The bound side-data flows of a subtype and a context (`sel` 255 where the subtype names no selection). -/
def sideFlows (subtype c sel : Nat) (m : Part) : List Nat :=
  flowsWhere (fun f => decide (f.type = 3 ∧ f.subtype = subtype ∧ f.source = c) && (!sideOfSelection subtype || decide (f.sel = sel))) m

/-- The flags of an item stamped elapsed tick `e` (R310). -/
def heldFlags (x : Ctx) (e : Nat) : Nat := flagIf (inHoldSpan x 0 e) flagHold

/-- Status of a checked item stamped elapsed tick `e`: 0 good, 1 check failed, 2 erased, as every item stamped in HOLD is (R136, R235, Table
SVC-7). -/
def itemStatus (x : Ctx) (e : Nat) (ok : Bool) : Nat := if inHoldSpan x 0 e then 2 else if ok then 0 else 1

/-! ## Items of the database (Table SVC-8) -/

abbrev opAdd : Nat := 0
abbrev opUpdate : Nat := 1
abbrev opRemove : Nat := 2

/-- Source of an entry in the order of R294 and 7 for SCAN. -/
abbrev sourceScan : Nat := 7

/-- DB_SERVICE. -/
def serviceBody (op : Nat) (e : DbService) : SideBody :=
  { type := 0x40, status := 0, ctx := 65535, sel := 255, bytes := 9, raw := e.label,
    fields := [⟨0, 1, op⟩, ⟨1, 1, e.key.kind⟩, ⟨2, 1, if e.heard then 0 else 1⟩, ⟨3, 1, e.pty⟩, ⟨4, 1, e.ecc⟩, ⟨5, 4, e.key.id⟩] }

/-- DB_FREQ. -/
def freqBody (op : Nat) (e : DbFreq) : SideBody :=
  { type := 0x41, status := 0, ctx := 65535, sel := 255, bytes := 15, raw := [],
    fields := [⟨0, 1, op⟩, ⟨1, 1, e.key.kind⟩, ⟨2, 4, e.key.id⟩, ⟨6, 1, e.standard⟩, ⟨7, 1, e.source⟩,
      ⟨8, 1, if e.regional then 1 else 0⟩, ⟨9, 4, e.kHz⟩, ⟨13, 2, e.eid⟩] }

/-- The members of a linkage set, 5 bytes each. -/
def linkMembers (off : Nat) : List ServiceKey → List Field
  | [] => []
  | k :: rest => ⟨off, 1, k.kind⟩ :: ⟨off + 1, 4, k.id⟩ :: linkMembers (off + 5) rest

/-- DB_LINK. -/
def linkBody (op : Nat) (e : DbLink) : SideBody :=
  { type := 0x42, status := 0, ctx := 65535, sel := 255, bytes := 5 + 5 * e.members.length, raw := [],
    fields := [⟨0, 1, op⟩, ⟨1, 2, e.lsn⟩,
      ⟨3, 1, (if e.active then 1 else 0) + (if e.hard then 2 else 0) + (if e.ils then 4 else 0)⟩, ⟨4, 1, e.members.length⟩]
      ++ linkMembers 5 e.members }

/-- DB_MARK. -/
def markBody (v : Nat) : SideBody :=
  { type := 0x44, status := 0, ctx := 65535, sel := 255, bytes := 1, raw := [], fields := [⟨0, 1, v⟩] }

/-- The bound SD_DATABASE flows. -/
def dbFlows (m : Part) : List Nat := flowsWhere (fun f => decide (f.type = 3 ∧ f.subtype = 10)) m

/-- An item on every SD_DATABASE flow, stamped with the change (R291, R304). -/
def dbItem (b : SideBody) (m : Part) : Part := appendSides m.clock.ht 0 b (dbFlows m) m

/-- Change the database. -/
def onDb (f : Database → Database) (m : Part) : Part :=
  { m with service := { m.service with db := f m.service.db } }

/-- Ticks of a minute. -/
abbrev minute : Nat := 60 * 24576000

/-- A replacement or a drop counts; EV_SVC_DB_FULL at most once a minute (R287). -/
def dbFull (table : Nat) (m : Part) : Part :=
  let m := onDb (fun b => { b with dropped := b.dropped + 1 }) m
  if m.service.db.fullAt.all fun t => decide (t + minute ≤ m.clock.elapsed) then
    raise 96 0x40 [⟨0, 1, table⟩, ⟨4, 4, m.service.db.dropped⟩]
      (onDb (fun b => { b with fullAt := some m.clock.elapsed, dropped := 0 }) m)
  else m

/-- The entry of a list for which `p` holds that was confirmed least recently. -/
def oldest {α : Type} (p : α → Bool) (time : α → Nat) (l : List α) : Option α :=
  (l.filter p).foldl (fun best e =>
    match best with
    | none => some e
    | some b => if time e < time b then some e else some b) none

/-- The service is the key of a follow policy (R287). -/
def keyed (key : ServiceKey) (m : Part) : Bool := m.service.policies.any fun p => decide (p.2.key = some key)

/-- A service arrives in checked data (R286, R287, R291); the key of a policy is never replaced. What DB_SERVICE does not carry makes no
item. -/
def learnService (e : DbService) (m : Part) : Part :=
  let db := m.service.db
  match db.services.find? fun x => decide (x.key = e.key) with
  | some old =>
    let e := { e with heard := e.heard || old.heard, confirmed := m.clock.elapsed }
    let m := onDb (fun b => { b with services := b.services.map fun x => if x.key = e.key then e else x }) m
    if { e with confirmed := 0, traffic := 0, support := 0 } = { old with confirmed := 0, traffic := 0, support := 0 } then m
    else dbItem (serviceBody opUpdate e) m
  | none =>
    let e := { e with confirmed := m.clock.elapsed }
    if db.services.length < 8192 then
      dbItem (serviceBody opAdd e) (onDb (fun b => { b with services := b.services ++ [e] }) m)
    else
      match oldest (fun x => !x.heard && !keyed x.key m) DbService.confirmed db.services with
      | some old =>
        let m := onDb (fun b => { b with services := (b.services.filter fun x => decide (x.key ≠ old.key)) ++ [e] }) m
        dbFull 0 (dbItem (serviceBody opAdd e) (dbItem (serviceBody opRemove old) m))
      | none => dbFull 0 m

/-- Change or begin the entry of a service; what has not been received reads 0. (DESIGN CHOICE, log 34) -/
def refineService (key : ServiceKey) (heard : Bool) (f : DbService → DbService) (m : Part) : Part :=
  let e := f ((m.service.db.services.find? fun x => decide (x.key = key)).getD
    { key := key, heard := heard, pty := 0, ecc := 0, label := [], confirmed := 0 })
  learnService { e with key := key, heard := heard } m

/-- Two frequency entries are of one service on one channel. -/
def sameFreq (a b : DbFreq) : Bool := decide (a.key = b.key ∧ a.standard = b.standard ∧ a.kHz = b.kHz ∧ a.regional = b.regional)

/-- A frequency arrives in checked data. -/
def learnFreq (e : DbFreq) (m : Part) : Part :=
  let db := m.service.db
  match db.freqs.find? (sameFreq e) with
  | some old =>
    let e := { e with
      heard := e.heard || old.heard, source := min e.source old.source,
      schedule := if e.schedule.isEmpty then old.schedule else e.schedule }
    let m := onDb (fun b => { b with freqs := b.freqs.map fun x => if sameFreq e x then e else x }) m
    if { e with confirmed := 0, schedule := [] } = { old with confirmed := 0, schedule := [] } then m else dbItem (freqBody opUpdate e) m
  | none =>
    if db.freqs.length < 32768 then
      dbItem (freqBody opAdd e) (onDb (fun b => { b with freqs := b.freqs ++ [e] }) m)
    else
      match oldest (fun x => !x.heard) DbFreq.confirmed db.freqs with
      | some old =>
        let m := onDb (fun b => { b with freqs := (b.freqs.filter fun x => !sameFreq old x) ++ [e] }) m
        dbFull 1 (dbItem (freqBody opAdd e) (dbItem (freqBody opRemove old) m))
      | none => dbFull 1 m

/-- The part hears a service itself on a channel (R286): its entry, and entries of that frequency, are heard. -/
def hearService (key : ServiceKey) (standard kHz : Nat) (m : Part) : Part :=
  let m := refineService key true id m
  (m.service.db.freqs.filter fun e => decide (e.key = key ∧ e.standard = standard ∧ e.kHz = kHz)).foldl (fun m e =>
    learnFreq { e with heard := true, confirmed := m.clock.elapsed } m) m

/-- A linkage set arrives in checked data (R289). Every linkage set is signalled. -/
def learnLink (e : DbLink) (m : Part) : Part :=
  let db := m.service.db
  match db.links.find? fun x => decide (x.lsn = e.lsn ∧ x.ils = e.ils) with
  | some old =>
    let m := onDb (fun b => { b with links := b.links.map fun x => if x.lsn = e.lsn ∧ x.ils = e.ils then e else x }) m
    if { e with confirmed := 0 } = { old with confirmed := 0 } then m else dbItem (linkBody opUpdate e) m
  | none =>
    if db.links.length < 2048 then
      dbItem (linkBody opAdd e) (onDb (fun b => { b with links := b.links ++ [e] }) m)
    else
      match oldest (fun _ => true) DbLink.confirmed db.links with
      | some old =>
        let m := onDb (fun b => { b with links := (b.links.filter fun x => decide ¬(x.lsn = old.lsn ∧ x.ils = old.ils)) ++ [e] }) m
        dbFull 2 (dbItem (linkBody opAdd e) (dbItem (linkBody opRemove old) m))
      | none => dbFull 2 m

/-! ## Announcements and alarms (R311, R312) -/

/-- An announcement as it starts or ends. -/
structure Announcement where
  start : Bool
  typeMask : Nat
  alarm : Bool
  test : Bool
  key : ServiceKey
  cluster : Nat
  kHz : Nat
deriving DecidableEq, Repr

/-- EV_ANNOUNCE and DB_ANNOUNCE. -/
def announce (c sel : Nat) (a : Announcement) (m : Part) : Part :=
  let s := if a.start then 1 else 0
  let bits := (if a.alarm then 1 else 0) + (if a.test then 2 else 0)
  let m := if m.service.db.annMask &&& a.typeMask = 0 then m else
    raise 98 0x42 [⟨0, 1, s⟩, ⟨1, 1, bits + 16 * a.key.kind⟩, ⟨2, 2, a.typeMask⟩, ⟨4, 2, c⟩, ⟨6, 1, sel⟩, ⟨7, 1, a.cluster⟩,
      ⟨8, 4, a.key.id⟩, ⟨12, 4, a.kHz⟩] m
  if m.service.db.annMask &&& a.typeMask = 0 then m else
    dbItem { type := 0x43, status := 0, ctx := 65535, sel := 255, bytes := 17, raw := [],
             fields := [⟨0, 1, s⟩, ⟨1, 2, a.typeMask⟩, ⟨3, 1, bits⟩, ⟨4, 1, a.key.kind⟩, ⟨5, 4, a.key.id⟩, ⟨9, 2, c⟩,
               ⟨11, 1, sel⟩, ⟨12, 4, a.kHz⟩, ⟨16, 1, a.cluster⟩] } m

/-- The notice of an announcement. -/
def noticeOf (c sel : Nat) (a : Announcement) : ActiveNotice :=
  { ctx := c, sel := sel, alarm := a.alarm, key := a.key, typeMask := a.typeMask }

/-- An announcement is signalled: only its start and its end count (R311). -/
def signalAnnounce (c sel : Nat) (a : Announcement) (m : Part) : Part :=
  let n := noticeOf c sel a
  let same (x : ActiveNotice) : Bool := decide (x.ctx = n.ctx ∧ x.sel = n.sel ∧ x.key = n.key ∧ x.alarm = n.alarm)
  let on_ := m.service.db.notices.any same
  if a.start && !on_ then
    announce c sel a (onDb (fun b => { b with notices := b.notices ++ [n] }) m)
  else if !a.start && on_ then
    announce c sel a (onDb (fun b => { b with notices := b.notices.filter fun x => !same x }) m)
  else m

/-- EV_ALARM (R312); standard 0 RDS, 1 RBDS, 2 DAB, 3 DRM. -/
def alarmEvent (c standard : Nat) (start test : Bool) (key : ServiceKey) (kHz : Nat) (m : Part) : Part :=
  raise 99 0x43 [⟨0, 1, if start then 1 else 0⟩, ⟨1, 1, if test then 1 else 0⟩, ⟨2, 1, standard⟩, ⟨3, 1, 255⟩, ⟨4, 2, c⟩,
    ⟨6, 1, key.kind⟩, ⟨8, 4, key.id⟩, ⟨12, 4, kHz⟩] m

/-! ## DB_CONFIG, DB_DUMP, DB_ENTRY_AGED (R287, R290, R291) -/

/-- Acceptance checks of DB_CONFIG (Table SVC-2). -/
def dbConfigStatus (age luKeep : Nat) (_ : Part) : Nat :=
  let age := orDefault 2 15 age
  let keep := orDefault 1 8 luKeep
  if age < 1 ∨ 1440 < age ∨ 64 < keep then stBadParam else stOk

/-- DB_CONFIG: it applies from the next evaluation (R290). All ones is a valid ann_mask, and it is the default. -/
def performDbConfig (age luKeep annMask : Nat) : Perform := fun _ _ m =>
  (onDb (fun b => { b with next := some (orDefault 2 15 age, orDefault 1 8 luKeep, annMask) }) m, reply stOk)

/-- An evaluation applies a DB_CONFIG that waits. -/
def Database.configured (b : Database) : Database :=
  match b.next with
  | none => b
  | some (age, keep, mask) => { b with age := age, luKeep := keep, annMask := mask, next := none }

/-- SVC_FOLLOW_POLICY DB_CONFIG (R290). -/
def execDbConfig (d : Desc) (age luKeep annMask : Nat) (s : State) : Host.Outcome State Fault Refusal :=
  s.run (accept d (.dbConfig age luKeep annMask) (dbConfigStatus age luKeep) (performDbConfig age luKeep annMask))

/-- DB_DUMP takes effect: BEGIN, an ADD for each entry, END (R291). -/
def performDbDump : Perform := fun _ _ m =>
  let m := dbItem (markBody 0) m
  let m := m.service.db.services.foldl (fun m e => dbItem (serviceBody opAdd e) m) m
  let m := m.service.db.freqs.foldl (fun m e => dbItem (freqBody opAdd e) m) m
  let m := m.service.db.links.foldl (fun m e => dbItem (linkBody opAdd e) m) m
  (dbItem (markBody 1) m, reply stOk)

/-- SVC_FOLLOW_POLICY DB_DUMP (R291). -/
def execDbDump (d : Desc) (s : State) : Host.Outcome State Fault Refusal :=
  s.run (accept d .dbDump (fun _ => stOk) performDbDump)

/-- An entry has not been confirmed for db_age. -/
def aged (confirmed : Nat) (m : Part) : Bool := decide (confirmed + minute * m.service.db.age ≤ m.clock.elapsed)

/-- DB_ENTRY_AGED (R287): every entry not confirmed for db_age is removed, with REMOVE. -/
def execDbEntryAged (t : Nat) (s : State) : Host.Outcome State Fault Refusal :=
  s.run (onTick t fun m =>
    let goneS (e : DbService) : Bool := aged e.confirmed m && !keyed e.key m
    let goneF (e : DbFreq) : Bool := aged e.confirmed m
    let goneL (e : DbLink) : Bool := aged e.confirmed m
    let db := m.service.db
    let m := onDb (fun b => { b with
      services := b.services.filter fun e => !goneS e,
      freqs := b.freqs.filter fun e => !goneF e, links := b.links.filter fun e => !goneL e }) m
    let m := (db.services.filter goneS).foldl (fun m e => dbItem (serviceBody opRemove e) m) m
    let m := (db.freqs.filter goneF).foldl (fun m e => dbItem (freqBody opRemove e) m) m
    (db.links.filter goneL).foldl (fun m e => dbItem (linkBody opRemove e) m) m)

end Sys2Proof.Machine
end

