-- ==== Sys2Proof/Machine/Text.lean ====
section
/-! DEFINITION. Text: its rendering to UTF-8 (R305), and what RDS groups carry (R285, R286, R288, R306, R311). The places of the fields of a
group are those of IEC 62106, the published standard. (PRESUMED, log 64) -/

namespace Sys2Proof.Machine

/-! ## Rendering (R305) -/

/-- UTF-8 of a code point. -/
def utf8Bytes (c : Nat) : List Byte :=
  if c < 0x80 then [c]
  else if c < 0x800 then [0xC0 + c / 64, 0x80 + c % 64]
  else if c < 0x10000 then [0xE0 + c / 4096, 0x80 + c / 64 % 64, 0x80 + c % 64]
  else [0xF0 + c / 262144, 0x80 + c / 4096 % 64, 0x80 + c / 64 % 64, 0x80 + c % 64]

/-- Code points rendered; a character that cannot be becomes U+FFFD. -/
def render (l : List (Option Nat)) : List Byte := l.flatMap fun c => utf8Bytes (c.getD 0xFFFD)

/-- A code point that is a character. -/
def scalar (c : Nat) : Option Nat := if c < 0xD800 ∨ (0xE000 ≤ c ∧ c < 0x110000) then some c else none

/-- Code points of UCS-2, the more significant byte first. (PRESUMED, log 64) -/
def ucs2Points : List Nat → List (Option Nat)
  | a :: b :: rest => scalar (256 * a + b) :: ucs2Points rest
  | [_] => [none]
  | [] => []

/-- A UTF-8 sequence in progress: bytes that it still needs, its value so far and the least value of its length. -/
structure Utf8 where
  need : Nat := 0
  code : Nat := 0
  least : Nat := 0
  out : List (Option Nat) := []
deriving DecidableEq, Repr

/-- The first byte of a sequence. -/
def Utf8.lead (b : Nat) (u : Utf8) : Utf8 :=
  if b < 0x80 then { u with need := 0, out := u.out ++ [some b] }
  else if 0xC0 ≤ b ∧ b < 0xE0 then { u with need := 1, code := b - 0xC0, least := 0x80 }
  else if 0xE0 ≤ b ∧ b < 0xF0 then { u with need := 2, code := b - 0xE0, least := 0x800 }
  else if 0xF0 ≤ b ∧ b < 0xF8 then { u with need := 3, code := b - 0xF0, least := 0x10000 }
  else { u with need := 0, out := u.out ++ [none] }

/-- A byte of UTF-8. -/
def Utf8.take (u : Utf8) (b : Nat) : Utf8 :=
  if u.need = 0 then u.lead b
  else if 0x80 ≤ b ∧ b < 0xC0 then
    let code := 64 * u.code + (b - 0x80)
    if u.need = 1 then { u with need := 0, out := u.out ++ [if u.least ≤ code then scalar code else none] }
    else { u with need := u.need - 1, code := code }
  else { u with need := 0, out := u.out ++ [none] }.lead b

/-- Code points of UTF-8. -/
def utf8Points (l : List Nat) : List (Option Nat) :=
  let u := l.foldl Utf8.take {}
  u.out ++ (if u.need = 0 then [] else [none])

/-- A DAB or DRM text in UTF-8. -/
def renderSet (set : Charset) (l : List Byte) : List Byte :=
  render (match set with
    | .ebuLatin => l.map Config.ebuLatin
    | .ucs2 => ucs2Points l
    | .utf8 => utf8Points l)

/-! ## DAB and DRM service information (R285, R286) -/

/-- The service key of a DAB or DRM context's SId. -/
def keyOf (type sid : Nat) : ServiceKey := { kind := if type ≠ 7 then 3 else if sid < 65536 then 1 else 2, id := sid }

/-- The context receives the service itself: its multiplex carries it. -/
def hearsService (c : Nat) (key : ServiceKey) (m : Part) : Bool :=
  (ctx c m).any fun x => x.dig.organisation.any fun s => decide (keyOf x.cfg.type s.sid = key)

/-- Standard of a context type as DB_FREQ codes it: 0 AM, 1 FM, 2 DAB, 3 DRM. -/
def standardOf (type : Nat) : Nat := if type = 7 then 2 else if type = 5 ∨ type = 6 then 3 else if type = 1 then 0 else 1

/-- A service that a context's multiplex carries is heard on its channel (R286). -/
def hearOwn (c : Nat) (key : ServiceKey) (m : Part) : Part :=
  match ctx c m with
  | none => m
  | some x => if hearsService c key m then hearService key (standardOf x.cfg.type) (x.cfg.freq / 1000) m else m

/-- A frequency is that of the channel on which the context receives the service itself. -/
def hearsFreq (c : Nat) (key : ServiceKey) (standard kHz : Nat) (m : Part) : Bool :=
  hearsService c key m && (ctx c m).any fun x => decide (standardOf x.cfg.type = standard ∧ x.cfg.freq / 1000 = kHz)

/-- The announcement types of a FIG 0/19 that count: those that FIG 0/18 declares for the service, and all of an alarm's cluster 0xFF (R311,
R312). (DEDUCED, log 34) -/
def supported (c : Nat) (key : ServiceKey) (cluster types : Nat) (m : Part) : Nat :=
  if (ctx c m).any fun x => decide (x.cfg.type = 7 ∧ cluster ≠ 255) then
    types &&& (m.service.db.services.find? fun e => decide (e.key = key)).elim 0 DbService.support
  else types

/-- One item of service information, decoded on context `c` (R285, R286). -/
def learn (c : Nat) (it : DbItem) (m : Part) : Part :=
  let now := m.clock.elapsed
  match it with
  | .service key pty ecc label =>
    hearOwn c key (refineService key (hearsService c key m)
      (fun e => { e with
        pty := pty.getD e.pty, ecc := ecc.getD e.ecc, label := label.elim e.label fun l => renderSet l.1 l.2 }) m)
  | .freq key standard source regional kHz eid =>
    learnFreq { key := key, standard := standard, source := source, regional := regional, heard := hearsFreq c key standard kHz m, kHz := kHz,
                eid := eid, confirmed := now } m
  | .link lsn active hard ils members =>
    learnLink { lsn := lsn, active := active, hard := hard, ils := ils, members := members, confirmed := now } m
  | .announce start typeMask alarm test key cluster kHz =>
    signalAnnounce c 255
      { start := start, typeMask := supported c key cluster typeMask m, alarm := alarm, test := test, key := key, cluster := cluster, kHz := kHz } m
  | .support key types => refineService key (hearsService c key m) (fun e => { e with support := types }) m
  | .schedule key standard kHz times =>
    (m.service.db.freqs.filter fun e => decide (e.key = key ∧ e.standard = standard ∧ e.kHz = kHz)).foldl (fun m e =>
      learnFreq { e with schedule := times, confirmed := now } m) m

/-- Several items. -/
def learnAll (c : Nat) (l : List DbItem) (m : Part) : Part := l.foldl (fun m it => learn c it m) m

/-- The items of the blocks that pass their CRC (R286). -/
def goodItems (blocks : List CheckedBlock) (l : List (Nat × DbItem)) : List DbItem :=
  l.filterMap fun e => if (blocks[e.1]?).any CheckedBlock.ok then some e.2 else none

/-- What the announcements of some items say of alarms: whether the alarm is set, its test flag and its service. `p` takes the clusters that
count. -/
def alarmsOf (p : Nat → Bool) (l : List DbItem) : List (Bool × Bool × ServiceKey) :=
  l.filterMap fun it =>
    match it with
    | .announce start _ alarm test key cluster _ => if p cluster then some (start && alarm, test, key) else none
    | _ => none

/-! ## RDS groups (R286, R306) -/

/-- Ticks of a group of 104 bits at 1187.5 bit/s. -/
abbrev groupTicks : Nat := 2152320

/-- Change a context's RDS state. -/
def onRds (c : Nat) (f : Rds → Rds) (m : Part) : Part := onCtx c (fun x => { x with rds := f x.rds }) m

/-- Change what RDS groups have carried. -/
def onText (c : Nat) (f : RdsText → RdsText) (m : Part) : Part := onRds c (fun r => { r with text := f r.text }) m

/-- What a context's groups have carried. -/
def rdsText (c : Nat) (m : Part) : RdsText := (ctx c m).elim {} fun x => x.rds.text

/-- Information of block `i` of a group, where it is error-free or corrected by at most 2 bits (R286). -/
def groupWord (g : List (Nat × Nat × Nat)) (i : Nat) : Option Nat :=
  (g[i]?).bind fun b => if b.2.2 ≤ 2 ∧ b.2.1 ≠ 5 then some b.1 else none

/-- An item is received; whether it is identical to its reception before (R286). `key` numbers the item. -/
def twice (c key v : Nat) (m : Part) : Part × Bool :=
  (onText c (fun t => { t with seen := put key v t.seen }) m, decide (look key (rdsText c m).seen = some v))

/-- A decoded text item: stamped with the group that completed it, with HOLD where that lies in one (R304, R310). -/
def rdsItem (c type bytes : Nat) (fields : List Field) (raw : List Byte) (m : Part) : Part :=
  let flags := (ctx c m).elim 0 fun x => heldFlags x (m.clock.elapsed - groupTicks)
  appendSides (m.clock.ht - groupTicks) flags
    { type := type, status := 0, ctx := c, sel := 255, bytes := bytes, fields := fields, raw := raw } (sideFlows 2 c 255 m) m

/-- Change the entry of the service that a context receives, once its PI is confirmed. -/
def ownService (c : Nat) (f : DbService → DbService) (m : Part) : Part :=
  match (ctx c m).bind fun x => x.rds.pi with
  | none => m
  | some pi => refineService { kind := 0, id := pi } true f m

/-- The characters of a segment. -/
def charsOf (words : List Nat) : List Nat := words.flatMap fun w => [w / 256 % 256, w % 256]

/-- A segment of the PS: delivered when all 8 characters have been accepted and differ from the last ones (R306).
(DEDUCED, log 64) -/
def rdsPs (c address word : Nat) (m : Part) : Part :=
  let (m, again) := twice c address word m
  if !again then m
  else
    let m := onText c (fun t => { t with ps := put address word t.ps }) m
    let t := rdsText c m
    let s := charsOf (t.ps.map (·.2))
    if t.ps.length < 4 ∨ t.psSent = some s then m
    else
      let text := render (Config.rdsPoints s)
      ownService c (fun e => { e with label := text })
        (rdsItem c 0x10 0 [] (s ++ text) (onText c (fun t => { t with psSent := some s }) m))

/-- The text of accepted segments up to the end marker 0x0D or to the last: none while one is missing. -/
def rtFrom (rt : List (Nat × List Nat)) : List Nat → Option (List Nat)
  | [] => some []
  | i :: rest =>
    match look i rt with
    | none => none
    | some cs => if cs.contains 13 then some (cs.takeWhile (· ≠ 13)) else (rtFrom rt rest).map (cs ++ ·)

/-- The radiotext, where every segment of it has been accepted. -/
def rtWhole (t : RdsText) : Option (List Nat) := rtFrom t.rt (List.range 16)

/-- RT+ tags follow the RDS_RT to which they refer (R306). Tags that repeat the last ones delivered are not delivered again.
(DESIGN CHOICE, log 64) -/
def rdsPlus (c : Nat) (m : Part) : Part :=
  let t := rdsText c m
  match t.plusHeld with
  | none => m
  | some b =>
    if t.rtSent.isNone ∨ (rtWhole t).isNone then m
    else
      let m := onText c (fun t => { t with plusHeld := none, plusSent := some (t.rtSeq :: b) }) m
      if t.plusSent = some (t.rtSeq :: b) then m
      else rdsItem c 0x12 2 [⟨0, 2, t.rtSeq⟩] b m

/-- A segment of the radiotext; `kind` is its A/B flag, 2 added for group 2B. A change of it discards partly received text (R306). -/
def rdsRt (c address kind : Nat) (words : List Nat) (m : Part) : Part :=
  let (m, again) := twice c (16 + address) (words.foldl (fun v w => 65536 * v + w) (4 + kind)) m
  if !again then m
  else
    let m := onText c (fun t => { t with
      rtKind := some kind, rt := put address (charsOf words) (if t.rtKind = some kind then t.rt else []) }) m
    let t := rdsText c m
    match rtWhole t with
    | none => m
    | some s =>
      if t.rtSent = some (kind % 2, s) then rdsPlus c m
      else
        let seq := (t.rtSeq + 1) % 65536
        let text := render (Config.rdsPoints s)
        rdsPlus c (rdsItem c 0x11 4 [⟨0, 1, kind % 2⟩, ⟨1, 2, seq⟩, ⟨3, 1, text.length⟩] text
          (onText c (fun t => { t with rtSeq := seq, rtSent := some (kind % 2, s) }) m))

/-- RT+ tags of a group of the type that group 3A names. A tag of content type 0 is none. (PRESUMED, log 64) -/
def rdsTags (c b w d : Nat) (m : Part) : Part :=
  let (m, again) := twice c 52 ((b % 32 * 65536 + w) * 65536 + d) m
  if !again then m
  else
    let one := ((b % 8 * 8 + w / 8192), w / 128 % 64, w / 2 % 64)
    let two := ((w % 2 * 32 + d / 2048), d / 32 % 64, d % 32)
    let tags := [one, two].filter fun t => decide (t.1 ≠ 0)
    rdsPlus c (onText c (fun t => { t with
      plusHeld := some ([b / 16 % 2, b / 8 % 2] ++ tags.flatMap fun t => [t.1, t.2.1, t.2.2]) }) m)

/-- Numbers of the flag items. -/
abbrev itemPty : Nat := 40
abbrev itemTp : Nat := 41
abbrev itemTa : Nat := 42
abbrev itemMs : Nat := 43
abbrev itemDi : Nat := 44

/-- A flag of block B: its value counts when 2 consecutive groups carry it (R306). -/
def rdsFlag (c key v : Nat) (m : Part) : Part :=
  let (m, again) := twice c key v m
  if again then onText c (fun t => { t with flags := put key v t.flags }) m else m

/-- The decoder identification, once each of its four bits is known; the bit of address 0 is the most significant. (PRESUMED, log 64) -/
def rdsDi (t : RdsText) : Option Nat :=
  match look itemDi t.flags, look (itemDi + 1) t.flags, look (itemDi + 2) t.flags, look (itemDi + 3) t.flags with
  | some a, some b, some c, some d => some (8 * a + 4 * b + 2 * c + d)
  | _, _, _, _ => none

/-- RDS_FLAGS when a value has changed; one not received yet reads all ones. (DESIGN CHOICE, log 64) -/
def rdsFlags (c : Nat) (m : Part) : Part :=
  let t := rdsText c m
  if t.flags = t.flagsSent then m
  else
    let at_ (k : Nat) : Nat := (look k t.flags).getD 255
    rdsItem c 0x13 5 [⟨0, 1, at_ itemPty⟩, ⟨1, 1, at_ itemTp⟩, ⟨2, 1, at_ itemTa⟩, ⟨3, 1, at_ itemMs⟩, ⟨4, 1, (rdsDi t).getD 255⟩] []
      (onText c (fun t => { t with flagsSent := t.flags }) m)

/-- An announcement of traffic (R311): `key` is the service whose TP and TA are set. (DESIGN CHOICE, log 64) -/
def trafficNotice (c kHz : Nat) (key : ServiceKey) (on_ : Bool) (m : Part) : Part :=
  signalAnnounce c 255
    { start := on_, typeMask := Config.trafficTypes % 65536, alarm := false, test := false, key := key, cluster := 0, kHz := kHz } m

/-- RDS TA with TP, which the entry of the service keeps (R285, R311). -/
def rdsTraffic (c : Nat) (m : Part) : Part :=
  match ctx c m with
  | none => m
  | some x =>
    match x.rds.pi, look itemTp x.rds.text.flags, look itemTa x.rds.text.flags with
    | some pi, some tp, some ta =>
      trafficNotice c (x.cfg.freq / 1000) { kind := 0, id := pi } (decide (tp = 1 ∧ ta = 1))
        (ownService c (fun e => { e with traffic := tp + 2 * ta }) m)
    | _, _, _ => m

/-- RDS_CT: group 4A with every field in range, its MJD of 17 bits, hour, minute and local offset (R306). (DEDUCED, log 64) -/
def rdsCt (c b w d : Nat) (m : Part) : Part :=
  let mjd := b % 4 * 32768 + w / 2
  let hour := w % 2 * 16 + d / 4096
  let minutes := d / 64 % 64
  let offset := d % 32
  if 23 < hour ∨ 59 < minutes then m
  else
    rdsItem c 0x14 6 [⟨0, 3, mjd⟩, ⟨3, 1, hour⟩, ⟨4, 1, minutes⟩,
      ⟨5, 1, if d / 32 % 2 = 1 then (256 - offset) % 256 else offset⟩] [] m

/-! ## AF codes (R288) -/

/-- FM frequency of an AF code, in kHz. -/
def afFm (code : Nat) : Option Nat := if 1 ≤ code ∧ code ≤ 204 then some (87500 + 100 * code) else none

/-- LF or MF frequency of an AF code, in kHz, on the raster of RDS or RBDS. -/
def afAm (rbds : Bool) (code : Nat) : Option Nat :=
  if 1 ≤ code ∧ code ≤ 15 then some (153 + 9 * (code - 1))
  else if 16 ≤ code ∧ code ≤ 133 ∧ rbds then some (530 + 10 * (code - 16))
  else if 16 ≤ code ∧ code ≤ 135 ∧ !rbds then some (531 + 9 * (code - 16))
  else none

/-- The frequencies that a run of codes names, each with its standard (0 AM, 1 FM). -/
def afNames (rbds : Bool) : List Nat → List (Nat × Nat)
  | 250 :: code :: rest => ((afAm rbds code).toList.map fun f => (0, f)) ++ afNames rbds rest
  | code :: rest => ((afFm code).toList.map fun f => (1, f)) ++ afNames rbds rest
  | [] => []

/-- The code that begins a list. -/
def afBegins (code : Nat) : Bool := decide (224 ≤ code ∧ code ≤ 249)

/-- A list is of method B when every pair after its first contains its first-named frequency. A list without such a pair is of method A.
(DEDUCED, log 64) -/
def afMethodB (l : List (Nat × Nat)) : Bool :=
  match l with
  | (_, tuned) :: pairs =>
    (afFm tuned).isSome && !pairs.isEmpty && pairs.all fun p => decide (p.1 = tuned ∨ p.2 = tuned)
  | [] => false

/-- What a whole list says: frequencies with their standard, whether they carry a regional variant and the place in the order of R294
(method B same-programme 0, method A 1). -/
def afEntries (rbds : Bool) (l : List (Nat × Nat)) : List (Nat × Nat × Bool × Nat) :=
  if afMethodB l then
    match l with
    | (_, tuned) :: pairs =>
      (afNames rbds [tuned]).map (fun f => (f.1, f.2, false, 0))
        ++ pairs.flatMap fun p =>
          let af := if p.1 = tuned then p.2 else p.1
          (afNames rbds [af]).map fun f => (f.1, f.2, decide (af < tuned), 0)
    | [] => []
  else (afNames rbds (l.flatMap fun p => [p.1, p.2])).map fun f => (f.1, f.2, false, 1)

/-- A whole AF list enters the database for a service; `eon` for a list of another network (R285, R294). -/
def learnAfs (c : Nat) (key : ServiceKey) (eon : Bool) (l : List (Nat × Nat)) (m : Part) : Part :=
  let rbds := (ctx c m).any fun x => decide (x.cfg.fm.rdsStd = 1)
  (afEntries rbds l).foldl (fun m e =>
    learnFreq { key := key, standard := e.1, source := if eon then 4 else e.2.2.2, regional := e.2.2.1, heard := false, kHz := e.2.1, eid := 0,
                confirmed := m.clock.elapsed } m) m

/-- A pair of AF codes of a service: a code that begins a list ends the one before, which is taken when it is identical to the list before
it (R286). (DEDUCED, log 64) -/
def rdsAf (c : Nat) (key : ServiceKey) (eon : Bool) (word : Nat) (m : Part) : Part :=
  let p := (word / 256 % 256, word % 256)
  let t := rdsText c m
  let now := (look key.id t.afNow).getD []
  if !afBegins p.1 then
    if now.isEmpty ∨ 64 ≤ now.length then m
    else onText c (fun t => { t with afNow := put key.id (now ++ [p]) t.afNow }) m
  else
    let m := onText c (fun t => { t with afNow := put key.id [p] t.afNow, afLast := put key.id now t.afLast }) m
    if now ≠ [] ∧ look key.id t.afLast = some now then learnAfs c key eon now m else m

/-! ## EON (R285, R311) -/

/-- The number of an item of EON: a variant of group 14A (16 for 14B) of a network. -/
def eonItem (variant pi : Nat) : Nat := 128 + 32 * pi + variant

/-- TA of another network (R311). -/
def eonTraffic (c pi tp ta : Nat) (m : Part) : Part :=
  let key : ServiceKey := { kind := 0, id := pi }
  let kHz := (m.service.db.freqs.find? fun e => decide (e.key = key)).elim 0 DbFreq.kHz
  trafficNotice c kHz key (decide (tp = 1 ∧ ta = 1)) m

/-- The PS of another network, once its four segments have been accepted. -/
def eonName (pi : Nat) (t : RdsText) : Option (List Nat) :=
  match look (eonItem 17 pi) t.flags, look (eonItem 18 pi) t.flags, look (eonItem 19 pi) t.flags, look (eonItem 20 pi) t.flags with
  | some a, some b, some c, some d => some (charsOf [a, b, c, d])
  | _, _, _, _ => none

/-- Group 14A: variants 0 to 3 PS, 4 AF list, 5 to 8 mapped FM and 9 mapped AM frequency, 13 PTY and TA of another network.
(PRESUMED, log 64) -/
def rdsEonA (c b w pi : Nat) (m : Part) : Part :=
  let variant := b % 16
  let key : ServiceKey := { kind := 0, id := pi }
  if variant = 4 then rdsAf c key true w m
  else
    let (m, again) := twice c (eonItem variant pi) w m
    if !again then m
    else if variant < 4 then
      let m := onText c (fun t => { t with
        flags := put (eonItem (17 + variant) pi) w t.flags, flagsSent := put (eonItem (17 + variant) pi) w t.flagsSent }) m
      (eonName pi (rdsText c m)).elim m fun s => refineService key false (fun e => { e with label := render (Config.rdsPoints s) }) m
    else if variant ≤ 9 then
      let rbds := (ctx c m).any fun x => decide (x.cfg.fm.rdsStd = 1)
      (if variant = 9 then (afAm rbds (w % 256)).map fun f => (0, f) else (afFm (w % 256)).map fun f => (1, f)).elim m fun f =>
        learnFreq { key := key, standard := f.1, source := 4, regional := false, heard := false, kHz := f.2, eid := 0,
                    confirmed := m.clock.elapsed } m
    else if variant = 13 then
      eonTraffic c pi (b / 16 % 2) (w % 2) (refineService key false (fun e => { e with
        pty := w / 2048 % 32, traffic := b / 16 % 2 + 2 * (w % 2) }) m)
    else m

/-- Group 14B: TA switching of another network. (PRESUMED, log 64) -/
def rdsEonB (c b pi : Nat) (m : Part) : Part :=
  let (m, again) := twice c (eonItem 16 pi) (b / 8 % 4) m
  if again then eonTraffic c pi (b / 16 % 2) (b / 8 % 2) m else m

/-! ## A whole group -/

/-- What groups 0A and 0B carry: TA, music or speech, a bit of the decoder identification, a PS segment, and the AF pair of 0A. -/
def rdsBasic (c kind b : Nat) (w d : Option Nat) (m : Part) : Part :=
  let m := rdsFlag c itemTa (b / 16 % 2) m
  let m := rdsFlag c itemMs (b / 8 % 2) m
  let m := rdsFlag c (itemDi + b % 4) (b / 4 % 2) m
  let m := d.elim m fun d => rdsPs c (b % 4) d m
  match kind, w, (ctx c m).bind fun x => x.rds.pi with
  | 0, some w, some pi => rdsAf c { kind := 0, id := pi } false w m
  | _, _, _ => m

/-- A group of the type of RT+ that group 3A has named. -/
def rdsOda (c kind b : Nat) (w d : Option Nat) (m : Part) : Part :=
  match w, d with
  | some w, some d => if (rdsText c m).plusType = some kind then rdsTags c b w d m else m
  | _, _ => m

/-- A whole group is decoded: `kind` is twice its type, 1 added for version B. -/
def rdsGroup (c : Nat) (g : List (Nat × Nat × Nat)) (m : Part) : Part :=
  match groupWord g 1 with
  | none => m
  | some b =>
    let kind := b / 2048 % 32
    let w := groupWord g 2
    let d := groupWord g 3
    let m := rdsFlag c itemPty (b / 32 % 32) (rdsFlag c itemTp (b / 1024 % 2) m)
    let m := match kind, w, d with
      | 0, _, _ => rdsBasic c 0 b w d m
      | 1, _, _ => rdsBasic c 1 b w d m
      | 2, some w, _ =>
        if w / 4096 % 8 = 0 then
          let (m, again) := twice c 50 (w % 256) m
          if again then ownService c (fun e => { e with ecc := w % 256 }) m else m
        else m
      | 4, some w, some d => rdsRt c (b % 16) (b / 16 % 2) [w, d] m
      | 5, _, some d => rdsRt c (b % 16) (2 + b / 16 % 2) [d] m
      | 6, _, some d =>
        let (m, again) := twice c (64 + b % 32) d m
        if again && decide (d = 0x4BD7) then onText c (fun t => { t with plusType := some (b % 32) }) m else m
      | 8, some w, some d => rdsCt c b w d m
      | 28, some w, some d => rdsEonA c b w d m
      | 29, _, some d => rdsEonB c b d m
      | _, _, _ => rdsOda c kind b w d m
    let m := if kind ≤ 2 then (look itemPty (rdsText c m).flags).elim m fun p => ownService c (fun e => { e with pty := p }) m else m
    rdsTraffic c (rdsFlags c m)

end Sys2Proof.Machine
end

