-- ==== Sys2Proof/Machine/Analogue.lean ====
section
/-! DEFINITION. AM and FM reception: the 2.5 ms block, the pilot, and RDS (chapter 08 of the spec, R185, R281, R282, R312). -/

namespace Sys2Proof.Machine

/-! ## CNR -/

/-- 10 log of the sum of several. (DESIGN CHOICE / DEDUCED, log 28) -/
def logSumAll : List Int → Option Int
  | [] => none
  | a :: rest => some ((logSumAll rest).elim a (logSum a))

/-- The block CNR of a context: of the combined signal, or of the copy delivered (R27, R205). -/
def ctxCnr (x : Ctx) (b : BlockMeasure) : Int :=
  match x.b with
  | none => b.cnrA
  | some y =>
    if x.pair.combined ∧ x.a.state = .track ∧ y.state = .track then logSum b.cnrA b.cnrB
    else match x.pair.copy with
      | .a => b.cnrA
      | .b => b.cnrB

/-- The CNR that governs a context's mute and blend: of the set it leads while members of its branch have weight, else its
own (R281). -/
def muteCnr (c : Nat) (x : Ctx) (m : Part) : Int :=
  match leadSet c 255 m with
  | none => x.ana.blockCnr
  | some (_, s) =>
    let own := s.members.head?.map (·.branch)
    let l := s.members.filter fun y => decide (some y.branch = own) && memberWeighs y m
    (logSumAll (l.map fun y => (ctx y.ctx m).elim 0 fun z => z.ana.blockCnr)).getD x.ana.blockCnr

/-! ## Soft mute and blend (R205, R212, R213) -/

/-- mute_start and mute_depth of a context. -/
def muteParams (x : Ctx) : Nat × Nat :=
  if x.cfg.type = 1 then (x.cfg.am.muteStart, x.cfg.am.muteDepth) else (x.cfg.fm.muteStart, x.cfg.fm.muteDepth)

/-- The target attenuation for a CNR, in 0.1 dB (R205). -/
def muteTarget (start depth : Nat) (cnr : Int) : Nat :=
  let below := (10 * start : Int) - cnr
  if below ≤ 0 then 0
  else if 70 ≤ below then 10 * depth
  else (roundDiv (10 * depth * below) 70).toNat

/-- The applied attenuation moves by at most 2 dB to mute and 1 dB to release (R205). (DESIGN CHOICE / DEDUCED, log 28) -/
def muteMove (cur target : Nat) : Nat := if cur ≤ target then min target (cur + 20) else max target (cur - 10)

/-- The blend target for a CNR, in 1/800 (R212). (DESIGN CHOICE / DEDUCED, log 28) -/
def blendTarget (x : Ctx) (cnr : Int) : Nat :=
  let lo : Int := 10 * x.cfg.fm.blendLo
  let span : Int := 10 * x.cfg.fm.blendHi - 10 * x.cfg.fm.blendLo
  if x.pilot ≠ .locked ∨ x.cfg.fm.forceMono then 0
  else (clampInt 0 800 (roundDiv (800 * (cnr - lo)) (max 1 span))).toNat

/-- s moves by at most 0.025 to mono and 0.00125 to stereo (R212). (DESIGN CHOICE / DEDUCED, log 28) -/
def blendMove (cur target : Nat) : Nat := if target ≤ cur then max target (cur - 20) else min target (cur + 1)

/-- Audio runs in these states; HOLD freezes it (R181, R205). -/
def audioState (x : Ctx) : Bool :=
  match x.state with
  | .detected => true
  | .track => true
  | .lost => true
  | _ => false

/-- Mute and blend at a block. -/
def Ctx.muteBlock (cnr : Int) (x : Ctx) : Ctx :=
  if !audioState x ∨ x.cfg.type = 2 then x
  else
    let (start, depth) := muteParams x
    let tgt := muteTarget start depth cnr
    { x with ana := { x.ana with
      mute := if x.ana.muteRunning then muteMove x.ana.mute tgt else tgt, muteRunning := true,
      blend := if x.cfg.type = 4 then blendMove x.ana.blend (blendTarget x cnr) else 0 } }

/-! ## What a block's demodulators report (R201, R202, R219) -/

/-- Fallbacks of the delivered copy's carrier loop and the blanker's runs are counted (R201, R202). -/
def Ctx.countBlock (d : BlockHeard) (x : Ctx) : Ctx :=
  if x.cfg.type ≠ 1 then x
  else
    let nb := x.cfg.am.nb = 1
    { x with ana := { x.ana with
      fallbacks := if d.fell then satBits 32 (x.ana.fallbacks + 1) else x.ana.fallbacks,
      nbRuns := if nb then satBits 32 (x.ana.nbRuns + d.heard.nbRuns) else x.ana.nbRuns,
      nbLong := if nb then satBits 32 (x.ana.nbLong + d.heard.nbLong) else x.ana.nbLong } }

/-- Resets by the divergence guard are counted, with EV_MPC_RESET at most once a second (R219). -/
def noteResets (c resets : Nat) (m : Part) : Part :=
  match ctx c m with
  | none => m
  | some x =>
    if resets = 0 then m
    else
      let n := satBits 16 (x.ana.mpcResets + resets)
      let m := onCtx c (fun x => { x with ana := { x.ana with mpcResets := n } }) m
      if x.ana.mpcEventAt.all fun e => decide (e + ticksPerSecond ≤ m.clock.elapsed) then
        raise (halfSource (ctxHalf c) 7) 0x89 [⟨0, 2, c⟩, ⟨2, 2, n⟩]
          (onCtx c (fun x => { x with ana := { x.ana with mpcEventAt := some m.clock.elapsed } }) m)
      else m

/-! ## AM_FM_BLOCK -/

/-- Parameters that a retune between FM types left waiting take effect (R215). -/
def Ctx.applyPending (x : Ctx) : Ctx :=
  match x.ana.pendingFm with
  | none => x
  | some f => { x with cfg := { x.cfg with fm := f }, ana := { x.ana with pendingFm := none } }

/-- How a branch stands in a set after this instant: bad or good, and since when (R282). -/
def judgeBranch (br : Branch) (bad : Bool) (now : Nat) : List BranchJudge → List BranchJudge
  | [] => [{ branch := br, bad := bad, since := now, failedAt := none }]
  | j :: rest =>
    if j.branch = br then (if j.bad = bad then j else { j with bad := bad, since := now }) :: rest
    else j :: judgeBranch br bad now rest

/-- The combined CNR of a branch of AM or FM members (R281). -/
def branchCnr (s : SourceSet) (br : Branch) (m : Part) : Option Int :=
  logSumAll ((s.members.filter fun y => decide (y.branch = br) && memberWeighs y m).map fun y =>
    (ctx y.ctx m).elim 0 fun z => z.ana.blockCnr)

/-- Judge the branch of an AM or FM member at a block of its context (R282). -/
def judgeAnalogue (c : Nat) (m : Part) : Part :=
  (setsOf c m).foldl (fun m n =>
    match sourceSet n m with
    | none => m
    | some s =>
      match s.members.find? fun y => decide (y.ctx = c) with
      | none => m
      | some mem =>
        let bad := (branchCnr s mem.branch m).all fun v => decide (v < 10 * (s.cfg.blendGood : Int))
        onSet n (fun s => { s with judge := judgeBranch mem.branch bad m.clock.elapsed s.judge }) m) m

/-- How far the block's CNRs count towards the criteria of Table CTX-5: consecutive blocks below 3 dB, and at 6 dB or more (R180). Blocks
with samples in HOLD or SETTLING count for neither. -/
def CopyState.countCnr (x : Ctx) (cnr : Int) (m : Part) (c : CopyState) : CopyState :=
  let now := m.clock.elapsed
  if 0 < spanIn (now - 61440) now (copyExcluded x c m) then c
  else
    { c with seen := { c.seen with
      low := if cnr < 30 then c.seen.low + 1 else 0, high := if 60 ≤ cnr then c.seen.high + 1 else 0 } }

/-- One block of a context of type 1 to 4: its CNR, the demodulators, AGC, delivery, mute, blend and PCM; then parameters that wait for the
boundary take effect (R28, R185, R201, R205, R212, R215, R219). A probe demodulates nothing (R177). -/
def amFmBlock (c : Nat) (b : BlockMeasure) (m : Part) : Part :=
  match ctx c m with
  | none => m
  | some x =>
    if digitalType x.cfg.type ∨ tau m % 61440 ≠ 0 then m
    else
      let pilot := x.pilot
      let (x, b) := measureBlock c b m x
      let (x, d) := if x.cfg.probe then (x, { heard := rowDemod b, fell := false, resets := 0 }) else demodulate c b m x
      let count (y : Ctx) : Ctx := { y with a := y.a.countCnr y b.cnrA m, b := y.b.map (CopyState.countCnr y b.cnrB m) }
      let m := agcStep c 50 b.agcErrA b.agcErrB (onCtx c (fun _ => count x) m)
      let m := notePilot c pilot (deliver c b.cnrA b.cnrB b.delayNs m)
      let m := onCtx c (fun x => { x with ana := { x.ana with
        blockCnr := ctxCnr x b, lowAt := if ctxCnr x b < 200 then some m.clock.elapsed else x.ana.lowAt } }) m
      let cnr := (ctx c m).elim 0 fun x => muteCnr c x m
      let m := onCtx c (fun x =>
        let y := (x.muteBlock cnr).countBlock d
        let old := m.clock.elapsed - 25 * ticksPerSecond
        let before := if x.ana.muteRunning then x.ana else { x.ana with mute := y.ana.mute }
        { y with ana := { y.ana with
          audio := y.ana.audio ++ pcmBlock y before y.ana d.heard.audio,
          heardTo := if d.heard.audio.isEmpty then y.ana.heardTo else m.clock.elapsed,
          taps := if (setsOf c m).isEmpty then []
            else y.ana.taps.filter (fun t => decide (old ≤ t.tick)) ++ setTaps y before y.ana d.heard } }) m
      judgeAnalogue c (noteResets c d.resets (onCtx c Ctx.applyPending (blockPcm c m)))

/-- AM_FM_BLOCK (R185). -/
def execAmFmBlock (t ctx : Nat) (b : BlockMeasure) (s : State) : Host.Outcome State Fault Refusal :=
  s.run (onTick t (amFmBlock ctx b))

/-! ## The pilot (R210) -/

/-- The pilot loop of an FM context runs. -/
def pilotRuns (x : Ctx) : Bool := fmType x.cfg.type && !x.cfg.probe && decide (x.state ≠ .search)

/-- What the pilot loop of a copy finds, where the model follows its sample path; elsewhere the row speaks for it (R210). -/
def pilotShows (c : CopyState) (test : FmPath → Bool) : Bool := !c.path.fed || test c.fm

/-- Each copy's pilot for which `test` speaks is `p` from now on, with EV_FM_PILOT when the context's is locked now, or locked no more
(R183, R210). -/
def setPilots (c : Nat) (p : Pilot) (test : CopyState → Bool) (m : Part) : Part :=
  match ctx c m with
  | none => m
  | some x => notePilot c x.pilot (onCtx c (fun x => x.onCopies fun k => if test k then { k with pilot := p } else k) m)

/-- A copy's pilot is declared absent (R210): none found 40 ms after its entry into ACQUIRE, nor in HOLD. -/
def pilotLate (now : Nat) (k : CopyState) : Bool :=
  decide (k.pilot = .searching ∧ k.state ≠ .search) && !k.inHold && decide (k.entered + 983040 ≤ now)
    && pilotShows k fun p => !pilotFound p

/-- A copy's pilot is locked: a pilot found, or one that appears late (R210). -/
def pilotLocks (k : CopyState) : Bool := decide (k.pilot ≠ .locked ∧ k.state ≠ .search) && !k.inHold && pilotShows k pilotInLock

/-- A copy's locked pilot is lost (R210): in TRACK, outside HOLD, SETTLING and blocks below 6 dB. -/
def pilotLoses (x : Ctx) (m : Part) (k : CopyState) : Bool :=
  decide (k.pilot = .locked ∧ k.state = .track) && !copySettling x k m && decide (60 ≤ x.ana.blockCnr) && pilotShows k pilotGone

/-- PILOT_ABSENT (R210). -/
def execPilotAbsent (t ctx : Nat) (s : State) : Host.Outcome State Fault Refusal :=
  s.run (onTick t fun m =>
    if (look ctx m.ctxs).any pilotRuns then setPilots ctx .absent (pilotLate m.clock.elapsed) m else m)

/-- PILOT_LOCK (R210). -/
def execPilotLock (t ctx : Nat) (s : State) : Host.Outcome State Fault Refusal :=
  s.run (onTick t fun m => if (look ctx m.ctxs).any pilotRuns then setPilots ctx .locked pilotLocks m else m)

/-- PILOT_LOST (R210). -/
def execPilotLost (t ctx : Nat) (s : State) : Host.Outcome State Fault Refusal :=
  s.run (onTick t fun m =>
    match look ctx m.ctxs with
    | none => m
    | some x => if pilotRuns x then setPilots ctx .absent (pilotLoses x m) m else m)

/-! ## RDS (R223-R230, R304, R306, R312) -/

/-- The place in a group of an offset: A, B, C or C', D. -/
def rdsPlace (offset : Nat) : Nat := if offset = 0 then 0 else if offset = 1 then 1 else if offset ≤ 3 then 2 else 3

/-- The offset fits the place in the group; E fits every place when rds_std is RBDS (R229). -/
def rdsFits (rbds : Bool) (place offset : Nat) : Bool :=
  if offset = 5 then rbds else decide (offset ≤ 4 ∧ rdsPlace offset = place)

/-- Two blocks in sequence (R224). -/
def rdsSequence (a b : Nat) : Bool :=
  decide (a ≤ 4 ∧ b ≤ 4 ∧ (rdsPlace a + 1) % 4 = rdsPlace b)

/-- The offset that a place is expected to carry. -/
def rdsExpected (place : Nat) : Nat := ([0, 1, 2, 4].getD place 0)

/-- Status of a block and the offset it is delivered with: 0 error-free, 1 to 5 bits corrected, 255 uncorrectable (R225, R228). An
uncorrectable block has no offset that it was received with; it is delivered with the one its place expects, C for the third.
(DESIGN CHOICE, log 28) -/
def rdsStatus (rbds : Bool) (corr place : Nat) (held : Bool) (b : RdsBlock) : Nat × Nat :=
  if b.undecided ∨ held then (255, rdsExpected place)
  else
    match b.clean with
    | some o => if rdsFits rbds place o then (0, o) else (255, rdsExpected place)
    | none =>
      match b.burst with
      | some (o, n) =>
        if rdsFits rbds place o ∧ 1 ≤ n ∧ n ≤ rdsCorrBits corr then (n, o) else (255, rdsExpected place)
      | none => (255, rdsExpected place)

/-- EV_RDS_SYNC. -/
def rdsSyncEvent (c state : Nat) (m : Part) : Part :=
  raise (halfSource (ctxHalf c) 8) 0x8A [⟨0, 2, c⟩, ⟨2, 1, 255⟩, ⟨3, 1, state⟩] m

/-- The fields of a group's blocks (Table SVC-8, RDS_GROUP). -/
def groupFields (off : Nat) : List (Nat × Nat × Nat) → List Field
  | [] => []
  | (info, o, st) :: rest => ⟨off, 2, info⟩ :: ⟨off + 2, 1, o⟩ :: ⟨off + 3, 1, st⟩ :: groupFields (off + 4) rest

/-- A whole group reaches the SD_RDS_RAW flows (R227). Its stamp is the first bit of its block A; a row's tick is the instant at the input
of the block's end. (DESIGN CHOICE / DEDUCED, log 13) -/
def deliverGroup (c : Nat) (g : List (Nat × Nat × Nat)) (erased : Bool) (m : Part) : Part :=
  let status := if erased then 2 else if g.any fun b => decide (b.2.2 = 255) then 1 else 0
  let flags := (ctx c m).elim 0 fun x => heldFlags x (m.clock.elapsed - groupTicks)
  appendSides (m.clock.ht - groupTicks) flags
    { type := 1, status := status, ctx := c, sel := 255, bytes := 16, fields := groupFields 0 g, raw := [] }
    (sideFlows 1 c 255 m) m

/-- The SCAN that a context works for counts a channel on which a PI was heard (R291). -/
def scanHeard (c kHz : Nat) (key : ServiceKey) (fresh_ : Bool) (m : Part) : Part :=
  if (m.service.scans.any fun r => r.ctxs.any fun e => decide (e.1 = c)) then
    let m := learnFreq { key := key, standard := 1, source := sourceScan, regional := false, heard := true, kHz := kHz, eid := 0,
                         confirmed := m.clock.elapsed } m
    if fresh_ then
      { m with service := { m.service with scans := m.service.scans.map fun r =>
          if (r.ctxs.any fun e => decide (e.1 = c)) then { r with found := r.found + 1 } else r } }
    else m
  else m

/-- A PI code arrives in a block A or C' that is error-free or corrected: two alike confirm it (R230), and enter the database when both were
corrected by at most 2 bits, which `low` says (R286). `back` are the ticks since the first bit of the group's block A (R59). -/
def rdsPi (c pi back : Nat) (low : Bool) (m : Part) : Part :=
  match ctx c m with
  | none => m
  | some x =>
    if x.rds.piCandidate = some pi then
      let new_ := decide (x.rds.pi ≠ some pi)
      let m := onRds c (fun r => { r with pi := some pi, piCandidate := none, piTimes := if new_ then 1 else r.piTimes + 1 }) m
      let key : ServiceKey := { kind := 0, id := pi }
      let m := appendSides (m.clock.ht - back) (heldFlags x (m.clock.elapsed - back))
        { type := 0x15, status := 0, ctx := c, sel := 255, bytes := 3,
          fields := [⟨0, 2, pi⟩, ⟨2, 1, if new_ then 1 else 0⟩], raw := [] } (sideFlows 3 c 255 m) m
      if low && x.rds.piLow then scanHeard c (x.cfg.freq / 1000) key new_ (hearService key 1 (x.cfg.freq / 1000) m) else m
    else onRds c (fun r => { r with piCandidate := some pi, piLow := low }) m

/-- PTY of a block B. -/
def ptyOf (info : Nat) : Nat := info / 32 % 32

/-- PTY in a block B that is error-free or corrected by at most 2 bits starts and ends an alarm (Table SVC-9). A test alarm that PTY 30
started ends by 8 groups of another PTY than 30: the table says 'As for RDS', of PTY 31, and names no code for it. (DESIGN CHOICE, log 33)
-/
def rdsPty (c info : Nat) (m : Part) : Part :=
  match ctx c m with
  | none => m
  | some x =>
    let rbds := decide (x.cfg.fm.rdsStd = 1)
    let code := ptyOf info
    let calls := decide (code = 31) || (rbds && decide (code = 30))
    let run := if calls then (if x.rds.ptyCode = code then x.rds.ptyRun + 1 else 1) else 0
    let key : ServiceKey := { kind := 0, id := x.rds.pi.getD 0 }
    let event (start : Bool) (test : Bool) := alarmEvent c (if rbds then 1 else 0) start test key (x.cfg.freq / 1000)
    let m := onRds c (fun r => { r with ptyCode := code, ptyRun := run }) m
    match x.rds.alarm with
    | none =>
      if 2 ≤ run then event true (decide (code = 30)) (onRds c (fun r => { r with alarm := some code, ptyOff := 0 }) m) else m
    | some a =>
      if code = a then onRds c (fun r => { r with ptyOff := 0 }) m
      else if x.rds.ptyOff + 1 < 8 then onRds c (fun r => { r with ptyOff := r.ptyOff + 1 }) m
      else event false (decide (a = 30)) (onRds c (fun r => { r with alarm := none, ptyOff := 0, ptyRun := 0 }) m)

/-- What a block with its status is decoded for by itself: PI and the alarm codes of PTY. A watch decodes the PI alone (R230). -/
def rdsDecode (c type status offset : Nat) (b : RdsBlock) (m : Part) : Part :=
  if status = 255 then m
  else
    let m := if offset = 0 ∨ offset = 3 then rdsPi c b.info (if offset = 0 then groupTicks / 4 else 3 * (groupTicks / 4)) (decide (status ≤ 2)) m else m
    if type = 2 ∨ 2 < status ∨ offset ≠ 1 then m else rdsPty c b.info m

/-- A block while synchronisation is held: its status, the loss rule, the counts of Table CTX-7, the group, which a watch neither delivers
nor decodes (R176, R188, R225-R229). -/
def rdsSynced (c : Nat) (x : Ctx) (b : RdsBlock) (m : Part) : Part :=
  let r := x.rds
  let (st, o) := rdsStatus (decide (x.cfg.fm.rdsStd = 1)) x.cfg.fm.rdsCorr r.position x.inHold b
  let window := (decide (st = 255) :: r.window).take 32
  let erased := r.erased || b.undecided || x.inHold
  let group := r.group ++ [(b.info, o, st)]
  let whole := decide (r.position = 3)
  let m := onRds c (fun r => { r with
    window := window, position := (r.position + 1) % 4, group := if whole then [] else group,
    erased := if whole then false else erased }) m
  let m := countErrors c (if st = 0 then 0 else 1) 1 (if st = 255 then 1 else 0) 1 m
  let m := if whole && decide (group.length = 4 ∧ x.cfg.type ≠ 2) then deliverGroup c group erased m else m
  let m := rdsDecode c x.cfg.type st o b m
  let m := if whole && decide (group.length = 4 ∧ x.cfg.type ≠ 2) then rdsGroup c group m else m
  if 20 ≤ (window.filter id).length then
    rdsSyncEvent c 1 (onRds c (fun r => { r with synced := false, lastClean := none, window := [], group := [], erased := false }) m)
  else m

/-- Two blocks whose ends lie `e` ticks apart lie 26 bits apart: 538,085 ticks to the nearest bit (R224). (DEDUCED, log 28) -/
def apart (e : Nat) : Bool := decide (527737 ≤ e ∧ e ≤ 548433)

/-- A block that ends on a gap after the last clean one is not yet 26 bits behind it (R224). -/
def early (gap : Nat) : Bool := decide (gap + 10348 < 538085)

/-- A block while unsynchronised: two in sequence and 26 bits apart, both clean, declare synchronisation (R224). A group whose first block is
the first of the two is complete. -/
def rdsSearch (c : Nat) (x : Ctx) (b : RdsBlock) (m : Part) : Part :=
  let clean := if b.undecided ∨ x.inHold then none
    else b.clean.filter fun o => decide (o ≤ 4) || (decide (o = 5) && decide (x.cfg.fm.rdsStd = 1))
  match x.rds.lastClean, clean with
  | some a, some o =>
    if rdsSequence a o && apart (m.clock.elapsed - x.rds.cleanAt) then
      let m := onRds c (fun r => { r with
        synced := true, lastClean := none, position := (rdsPlace o + 1) % 4, window := [], erased := false,
        group := if rdsPlace o = 1 then r.group ++ [(b.info, o, 0)] else if rdsPlace o = 0 then [(b.info, o, 0)] else [] }) m
      rdsDecode c x.cfg.type 0 o b (rdsSyncEvent c 0 m)
    else onRds c (fun r => { r with lastClean := some o, cleanAt := m.clock.elapsed, group := [(b.info, o, 0)] }) m
  | _, some o => onRds c (fun r => { r with lastClean := some o, cleanAt := m.clock.elapsed, group := [(b.info, o, 0)] }) m
  | some _, none =>
    if early (m.clock.elapsed - x.rds.cleanAt) then m else onRds c (fun r => { r with lastClean := none, group := [] }) m
  | none, none => onRds c (fun r => { r with lastClean := none, group := [] }) m

/-- RDS runs in DETECTED, TRACK and LOST, in every FM type; HOLD leaves its bits undecided (R223, R228). -/
def rdsRuns (x : Ctx) : Bool :=
  fmType x.cfg.type && !x.cfg.probe && (match x.under with
    | .detected => true
    | .track => true
    | .lost => true
    | _ => false)

/-- A block as the demodulator of the delivered copy decided its 26 bits, where the model follows the sample path; one with a bit received in
HOLD or from SETTLING samples is undecided (R223-R225, R228). -/
def heardBlock (x : Ctx) (m : Part) (b : RdsBlock) : RdsBlock :=
  let now := m.clock.elapsed
  let out := decide (0 < spanIn (now - 538085) now (copyExcluded x x.delivered m))
  let bits := x.delivered.fm.rds.bits
  if !x.delivered.path.fed ∨ bits.length < 26 then { b with undecided := b.undecided || out }
  else
    let word := bits.reverse.map fun e => decide (e = some true)
    let number (l : List Bool) : Nat := l.foldl (fun v e => 2 * v + if e then 1 else 0) 0
    let clean := Config.rdsClean word
    let burst := Config.rdsBurst word
    { b with
      undecided := out || bits.any Option.isNone, clean := clean, burst := burst.map fun e => (e.1, e.2.1),
      info := if clean.isNone then burst.elim (number (word.take 16)) fun e => e.2.2 else number (word.take 16) }

/-- RDS_BLOCK (R225). -/
def execRdsBlock (t ctx : Nat) (b : RdsBlock) (s : State) : Host.Outcome State Fault Refusal :=
  s.run (onTick t fun m =>
    match look ctx m.ctxs with
    | none => m
    | some x =>
      if !rdsRuns x then m
      else if x.rds.synced then rdsSynced ctx x (heardBlock x m b) m
      else rdsSearch ctx x (heardBlock x m b) m)

end Sys2Proof.Machine
end

