-- ==== Sys2Proof/Machine/Halves.lean ====
section
/-! DEFINITION. Half modes, pairs and fencing (R22-R39, R464, R500). -/

namespace Sys2Proof.Machine

/-! ## Checks of HALF_SETUP MODE (R23-R26, R500) -/

/-- The mode that a code names (Table ARC-4); all ones selects INDEPENDENT, the default. (DESIGN CHOICE / DEDUCED, log 19) -/
def halfModeOf (code : Nat) : Option HalfMode :=
  match code with
  | 0 => some .independent
  | 1 => some .combine
  | 2 => some .standby
  | 3 => some .parked
  | 255 => some .independent
  | _ => none

/-- The mode's code with its default. -/
def modeCode (code : Nat) : Nat := orDefault 1 0 code

/-- No slot is held on the half, nor for a pairing change on its partner (R23). -/
def modeFree (h mode input : Nat) (m : Part) : Bool :=
  deliveryChange h mode input m
    || ((halfSlots h m).isEmpty && (!pairingChange h mode input m || (halfSlots (partner h) m).isEmpty))

/-- The command would form a pair: it names half A of a tile that is not paired (R25). -/
def formsPair (h mode : Nat) (m : Part) : Bool := decide (mode = 1 ∨ mode = 2) && decide (h % 2 = 0) && !paired h m

/-- A prepared plan sets the mode of the partner half, and one of the two changes is a pairing change (R339). -/
def partnerLocked (h mode input : Nat) (m : Part) : Bool :=
  m.plans.any fun p => p.2.entries.any fun e =>
    match e with
    | .halfMode k mode' input' => decide (k = partner h) && (pairingChange h mode input m || pairingChange k (modeCode mode') input' m)
    | _ => false

/-- The ordered checks of R500 for MODE. -/
def modeStatus (h mode input : Nat) (m : Part) : Nat :=
  let mode := modeCode mode
  firstStatus [
    (!setupHalf h m, stBadParam),
    (pairedB h m, stBadParam),
    (isFenced h m || (formsPair h mode m && isFenced (partner h) m), stFenced),
    ((halfModeOf mode).isNone || (decide (mode = 1 ∨ mode = 2) && decide (1 < input ∨ h % 2 = 1)), stBadParam),
    (!modeFree h mode input m || (half h m).restored, stBusy),
    (partnerLocked h mode input m, stBusy)]

/-! ## Entering and leaving modes -/

/-- The half is PARKED (R98, R102, R114, R131): its run is abandoned, nothing stays placed, its converter stops.
(DEDUCED, log 22) -/
def parkHalf (h : Nat) (m : Part) : Part :=
  if isParked h m then m
  else
    let m := stopCapture h (abandonRun h m)
    let m := dropAllPlaced h stBadParam m
    let m := onHalf h (fun x => { x with
      mode := .parked, antpwr := .off, antCurrent := 0,
      cal := { x.cal with due := false, overdue := false } }) m
    openIso h (freezeBands h m)

/-- The half takes a mode in which it runs; one that leaves PARKED is powered up and judged at once (R25, R131). -/
def liveHalf (h : Nat) (mode : HalfMode) (m : Part) : Part :=
  if isParked h m then
    judgeDue h (unfreezeBands h (closeIso h (onHalf h (fun x => { x with mode := mode }) m)))
  else onHalf h (fun x => { x with mode := mode }) m

/-- A half of a pair takes a mode unless it is FENCED. -/
def liveUnlessFenced (h : Nat) (mode : HalfMode) (m : Part) : Part := if isFenced h m then m else liveHalf h mode m

/-- A change of delivery waits for each context's next boundary of R28; AM and FM judge at every block (R23). -/
def noteDue (h : Nat) (m : Part) : Part :=
  (ctxsOn h m).foldl (fun m c =>
    onCtx c (fun x => { x with pair := { x.pair with due := x.pair.due.or (boundaryAfter x m.clock.elapsed) } }) m) m

/-- Form or rearrange the pair of half A `h`, or change its delivery (R23, R25, R127). An ISO_FOLLOW pin that names a half of the pair goes
on following it when the pair becomes SHARED: R126 refuses only the command that would set it. (DESIGN CHOICE, log 19) -/
def setPair (h : Nat) (mode : HalfMode) (diversity : Bool) (m : Part) : Part :=
  let change := !paired h m || decide ((half h m).diversity ≠ diversity)
  let m := onHalf h (fun x => { x with diversity := diversity }) m
  let m := liveUnlessFenced (partner h) mode (liveHalf h mode m)
  if change ∧ !diversity then
    followShared h (onHalf (partner h) (fun x => { x with antpwr := .off, antCurrent := 0 }) m)
  else if change then m
  else noteDue h m

/-- The half leaves its pair, or changes alone between INDEPENDENT and PARKED; half B of an ended pair returns to INDEPENDENT
(R25). -/
def setAlone (h : Nat) (mode : HalfMode) (m : Part) : Part :=
  let was := paired h m
  let m := onHalf h (fun x => { x with diversity := false }) m
  let m := if mode = .parked then parkHalf h (onHalf h (fun x => if x.mode.paired then { x with mode := .independent } else x) m)
           else liveHalf h mode m
  if was then liveUnlessFenced (partner h) .independent m else m

/-- A half or a pair takes a mode. -/
def applyMode (h mode input : Nat) (m : Part) : Part × Option Reply :=
  match halfModeOf mode with
  | none => (m, reply stBadParam)
  | some k => ((if k.paired then setPair h k (decide (input = 1)) m else setAlone h k m), reply stOk)

/-- MODE is to take effect on a half that a fence has withdrawn, or to form a pair with one. -/
def modeFenced (h mode : Nat) (m : Part) : Bool := isFenced h m || (formsPair h (modeCode mode) m && isFenced (partner h) m)

/-- MODE takes effect (R23): on a tile whose state has changed since acceptance it is judged again. -/
def performMode (h mode input : Nat) : Perform := fun _ _ m =>
  let code := modeCode mode
  if pairedB h m then (m, reply stBadParam)
  else if modeFenced h mode m then (m, reply stFenced)
  else if !deliveryChange h code input m
      && ((m.ctxs.any fun c => decide (ctxHalf c.1 = h))
        || (pairingChange h code input m && m.ctxs.any fun c => decide (ctxHalf c.1 = partner h))) then (m, reply stBusy)
  else applyMode h mode input m

/-- HALF_SETUP MODE (R23). -/
def execHalfSetupMode (d : Desc) (half mode input : Nat) (s : State) : Host.Outcome State Fault Refusal :=
  s.run (accept d (.halfSetupMode half mode input) (modeStatus half mode input) (performMode half mode input))

/-! ## Fencing (R36-R39, R57) -/

/-- The halves of a capture mask. -/
def maskHalves (mask : Nat) : List Nat := (List.range 16).filter fun h => decide (bitsOf mask h 1 = 1)

/-- A queued action names only what fenced halves hold, so it ends with ST_FENCED (R57). (DEDUCED, log 59) -/
def actionFenced (m : Part) (a : Action) : Bool :=
  (halvesOf a.cmd).any (fun h => isFenced h m) || (ctxsOf a.cmd).any (fun c => slotFenced c m)
    || (match a.cmd with
        | .captureStart mask _ _ _ => !(maskHalves mask).isEmpty && (maskHalves mask).all fun h => isFenced h m
        | .captureStop mask => !(maskHalves mask).isEmpty && (maskHalves mask).all fun h => isFenced h m
        | _ => false)

/-- The copy of a paired context on a half that is fenced is withdrawn (R38, R183). (DEDUCED, log 22) -/
def fenceCopy (h c : Nat) (m : Part) : Part :=
  changeCtx c causeFence (fun x => x.onCopy (copyOn h) fun y => { y with state := .fenced, held := .fenced, holds := [] })
    (catchUp c m)

/-- Withdraw a half: its run and placements end, it is isolated, its antenna output is off (R37, R98, R102, R126, R136, R138). (DEDUCED,
log 22 and 59) -/
def withdrawHalf (h cause : Nat) (m : Part) : Part :=
  let m := stopCapture h (abandonRun h m)
  let m := dropAllPlaced h stFenced m
  let m := onHalf h (fun x => { x with
    mode := .fenced, antpwr := .off, antCurrent := 0, restored := false, fenceCause := some cause,
    cal := { x.cal with due := false, overdue := false, ramp := none } }) m
  openIso h (freezeBands h m)

/-- Fence a half for a cause of Table PWR-9 (R37, R38). (DEDUCED, log 22 and 59) -/
def fenceHalf (h cause scope detail : Nat) (m : Part) : Part :=
  if isFenced h m then m
  else
    let covered := paired h m && !isFenced (partner h) m
    let own := ctxsOn h m
    let m := if covered then own.foldl (fun m c => fenceCopy h c m) m else closeCtxs .fenced causeFence own (loseMembers own m)
    let m := withdrawHalf h cause m
    let m := tidyPins (dropOrphans (withdraw (actionFenced m) stFenced m))
    raise (halfSource h 11) 0x8F
      [⟨0, 1, h⟩, ⟨1, 1, cause⟩, ⟨2, 1, scope⟩, ⟨4, 4, if covered then 0 else own.length⟩, ⟨8, 4, detail⟩] m

/-- Fence both halves of a tile (R36). -/
def fenceTile (t cause detail : Nat) (m : Part) : Part :=
  fenceHalf (2 * t + 1) cause 1 detail (fenceHalf (2 * t) cause 1 detail m)

abbrev fenceSelftest : Nat := 0
abbrev fenceRail : Nat := 1
abbrev fenceTsyn : Nat := 2
abbrev fenceLink : Nat := 3
abbrev fenceMemory : Nat := 4
abbrev fenceConverter : Nat := 5
abbrev fenceThermal : Nat := 6

/-- TILE_LINK_FAULT (R464). -/
def execTileLinkFault (t tile detail : Nat) (s : State) : Host.Outcome State Fault Refusal :=
  s.runIf (decide (tile < tilesFitted s.part)) (onTick t (fenceTile tile fenceLink detail))

/-- MEMORY_FAULT (R464). -/
def execMemoryFault (t half detail : Nat) (s : State) : Host.Outcome State Fault Refusal :=
  s.runIf (decide (half < halvesFitted s.part)) (onTick t (fenceHalf half fenceMemory 0 detail))

/-- CONVERTER_STUCK (R464): while the converter is not idled. -/
def execConverterStuck (t half : Nat) (s : State) : Host.Outcome State Fault Refusal :=
  s.runIf (decide (half < halvesFitted s.part)) (onTick t fun m =>
    if isLive half m && !tileHolds half m then fenceHalf half fenceConverter 0 0 m else m)

end Sys2Proof.Machine
end

