-- ==== Sys2Proof/Machine/Egress.lean ====
section
/-! DEFINITION. When a record may leave: release points, buckets, links and finish tags (R344, R360-R366, R430, R433). -/

namespace Sys2Proof.Machine

/-! ## Release points (R283, R364, R366) -/

/-- Ticks of a millisecond. -/
abbrev msTicks : Nat := 24576

/-- The flow's source is a context. -/
def Flow.fromCtx (f : Flow) : Bool :=
  decide (f.source ≠ 65535) && (decide (f.type = 1 ∧ f.subtype = 0) || decide (2 ≤ f.type ∧ f.type ≤ 5))

/-- The sync group that a flow is a member flow of (R366). -/
def groupOf (f : Flow) (m : Part) : Option Nat := if f.fromCtx then (ctx f.source m).bind Ctx.group else none

/-- The group delay, in ms: the largest delay among the group's member flows (R366). -/
def groupDelay (g : Nat) (m : Part) : Nat :=
  ((m.flows.filter fun f => decide (groupOf f.2 m = some g)).map fun f => f.2.delay).foldl max 0

/-- The delay that holds a flow's records, in ms: its own, or its group's in its place (R364, R366). -/
def delayOf (f : Flow) (m : Part) : Nat := (groupOf f m).elim f.delay fun g => groupDelay g m

/-- The record's release point has been reached. -/
def released (f : Flow) (r : Record) (m : Part) : Bool :=
  decide (r.tau + delayOf f m * msTicks ≤ tau m)

/-! ## Buckets (R361, R362) -/

/-- The balance now, in 2^−16 byte: it accrues at the rate and never rises above the burst. -/
def ballastNow (f : Flow) (m : Part) : Int :=
  match f.rate with
  | none => f.ballast
  | some r =>
    if r = 0 then f.ballast
    else max f.ballast (min (65536 * f.burst) (f.ballast + r * (m.clock.elapsed - f.accrued : Nat) / 375))

/-- Bring the balance up to the present. -/
def accrue (m : Part) (f : Flow) : Flow := { f with ballast := ballastNow f m, accrued := m.clock.elapsed }

/-- The bucket lets a record start. -/
def rateOpen (f : Flow) (m : Part) : Bool :=
  match f.rate with
  | none => true
  | some r => decide (r ≠ 0) && decide (0 ≤ ballastNow f m)

/-! ## Links and targets (R344, R360, R430, R433) -/

abbrev linkPcie : Nat := 0
abbrev linkUp : Nat := 1
abbrev linkDown : Nat := 2

/-- The Tether port by which traffic for address `a` leaves (R430). -/
def portFor (a : Nat) (m : Part) : Nat :=
  if decide (a < ownAddr m) ≠ goesAround a m then linkUp else linkDown

/-- A Tether port's link is up. -/
def linkIsUp (link : Nat) (m : Part) : Bool := if link = linkUp then m.chain.up.up else m.chain.down.up

/-- A route joins this part to address `a` (R433). -/
def canReach (a : Nat) (m : Part) : Bool :=
  joined (ownAddr m) a m

/-- The link by which a flow's records leave. -/
def linkOf (f : Flow) (m : Part) : Option Nat :=
  match f.target with
  | .ring _ => some linkPcie
  | .chain a _ => some (portFor a m)
  | _ => none

/-- The target can take a record: the ring has a buffer, or the Tether port carries traffic to the address. -/
def canTake (f : Flow) (m : Part) : Bool :=
  match f.target with
  | .ring r =>
    m.hif.enable && (look r m.hif.flq).any fun q => !q.stopped && (q.current.isSome || !q.posted.isEmpty)
  | .chain a _ => linkIsUp (portFor a m) m && canReach a m
  | _ => false

/-- The flow's oldest staged record is eligible (R360). -/
def eligible (f : Flow) (m : Part) : Bool :=
  (f.staged.head?).any (fun r => released f r m) && rateOpen f m && canTake f m

/-! ## Finish tags (R363) -/

/-- The virtual time of a link. (DESIGN CHOICE, log 43) -/
def virtualTime (link : Nat) (m : Part) : Nat :=
  if link = linkPcie then m.egress.pcie else if link = linkUp then m.egress.up else m.egress.down

/-- The link's virtual time becomes `v`. (DESIGN CHOICE, log 43) -/
def setVirtualTime (link v : Nat) (m : Part) : Part :=
  { m with egress :=
      if link = linkPcie then { m.egress with pcie := v }
      else if link = linkUp then { m.egress with up := v } else { m.egress with down := v } }

/-- What a record of the flow advances its tag by. (DESIGN CHOICE, log 43) -/
def tagStep (f : Flow) (r : Record) : Nat := charge r.length * 65536 / f.weight

/-- A flow's backlog and tag brought in line with its eligibility: one that wakes starts at the link's virtual time.
(DESIGN CHOICE, log 43) -/
def retag (m : Part) (f : Flow) : Flow :=
  if eligible f m then
    if f.backlogged then f
    else
      { f with backlogged := true,
               tag := virtualTime ((linkOf f m).getD linkPcie) m + (f.staged.head?).elim 0 (tagStep f) }
  else { f with backlogged := false }

/-- Bring every flow's backlog in line. -/
def refreshTags (m : Part) : Part := { m with flows := m.flows.map fun f => (f.1, retag m f.2) }

/-- The backlogged flow of a link with the smallest tag, the lower number among equals. (DESIGN CHOICE, log 43) -/
def pickFlow (link : Nat) (m : Part) : Option (Nat × Flow) :=
  (m.flows.filter fun f => f.2.backlogged && decide (linkOf f.2 m = some link)).foldl (fun best f =>
    match best with
    | none => some f
    | some b => if f.2.tag < b.2.tag then some f else some b) none

end Sys2Proof.Machine
end

