-- ==== Sys2Proof/Machine/Host.lean ====
section
/-! DEFINITION. The host interface: the doorbell and shadow pages, rings and their errors, NOP, IDENTIFY, EVENT_ROUTE, HIF_CTRL and
MSI-X (R313-R324, R331-R335, R346-R350, R472-R474, R482). -/

namespace Sys2Proof.Machine

/-! ## NOP and IDENTIFY (R333, R335) -/

/-- NOP takes effect. -/
def performNop : Perform := fun _ _ m => (m, reply stOk)

/-- NOP (R333). -/
def execNop (d : Desc) (s : State) : Host.Outcome State Fault Refusal :=
  s.run (accept d .nop (fun _ => stOk) performNop)

/-- Code of a half's mode (Table HIF-9); 0xFF for a half that is not fitted. -/
def modeByte (h : Nat) (m : Part) : Nat :=
  if halvesFitted m ≤ h then 255
  else match (half h m).mode with
    | .independent => 0
    | .combine => 1
    | .standby => 2
    | .parked => 3
    | .fenced => 4

/-- The half counts one live unit (R34): an INDEPENDENT half, or half A's place in a pair with a half that is not fenced. -/
def liveUnit (h : Nat) (m : Part) : Bool :=
  if paired h m then decide (h % 2 = 0) else decide ((half h m).mode = .independent)

/-- Live units of the part (R34). -/
def liveUnits (m : Part) : Nat := ((List.range (halvesFitted m)).filter fun h => liveUnit h m).length

/-- LU that a live unit counts for: 128, or the 24 that its contexts can draw while REDUCED (R34, R462).
(DESIGN CHOICE / DEDUCED, log 23) -/
def unitLu (m : Part) : Nat := if m.ident.full then 128 else 24

/-- Code of the variant (Table HIF-9). -/
def Variant.code : Variant → Nat
  | .bh2820 => 0
  | .bh2840 => 1
  | .bh2880 => 2

/-- The plan of a tile, 0xFF for one that is not fitted. -/
def planByte (t : Nat) (m : Part) : Nat := if tilesFitted m ≤ t then 255 else (tile t m).plan

/-- Fields of one byte each, from offset `off`. -/
def byteRun (off : Nat) : List Nat → List Field
  | [] => []
  | v :: rest => ⟨off, 1, v⟩ :: byteRun (off + 1) rest

/-- The IDENTIFY body (Table HIF-9), at offsets from its start. Sizes are in whole MiB, rounded down.
(DESIGN CHOICE / DEDUCED, log 23) -/
def identifyBody (m : Part) : Chunk :=
  let mib (n : Nat) : Int := (n / 2 ^ 20 : Nat)
  let units := liveUnits m
  { bytes := 88,
    fields :=
      [⟨0, 1, m.ident.variant.code⟩, ⟨1, 1, if m.ident.gradeI then 1 else 0⟩, ⟨2, 1, m.ident.siliconLetter⟩,
       ⟨3, 1, m.ident.siliconDigit⟩, ⟨4, 1, m.ident.fw.major⟩, ⟨5, 1, m.ident.fw.minor⟩, ⟨6, 2, m.ident.fw.patch⟩,
       ⟨8, 2, ownAddr m⟩, ⟨10, 2, if m.chain.addr.isSome then m.chain.parts else 1⟩, ⟨12, 1, units⟩,
       ⟨14, 2, (units * unitContexts m : Nat)⟩, ⟨16, 2, (units * unitLu m : Nat)⟩, ⟨18, 2, (units * unitPrograms m : Nat)⟩,
       ⟨20, 1, m.clock.state.code⟩, ⟨21, 1, if m.clock.aligned then 1 else 0⟩, ⟨22, 1, m.clock.source.code⟩,
       ⟨23, 1, if m.ident.full then 1 else 0⟩, ⟨24, 8, m.clock.grid⟩]
      ++ byteRun 32 ((List.range 16).map fun h => modeByte h m)
      ++ byteRun 48 ((List.range 8).map fun t => planByte t m)
      ++ [⟨56, 4, m.dram.installed⟩, ⟨60, 4, mib (dramUsable m)⟩, ⟨64, 4, 1024⟩, ⟨68, 4, mib (captureBytes m)⟩,
          ⟨72, 4, mib (windowBytes m)⟩, ⟨76, 4, mib (poolSize m)⟩, ⟨80, 4, mib (poolUsed m)⟩,
          ⟨84, 4, m.dram.retired.length⟩] }

/-- IDENTIFY takes effect. (DESIGN CHOICE / DEDUCED, log 23) -/
def performIdentify : Perform := fun _ _ m => (m, some { status := stOk, chunks := [identifyBody m] })

/-- IDENTIFY (R335). -/
def execIdentify (d : Desc) (s : State) : Host.Outcome State Fault Refusal :=
  s.run (accept d .identify (fun _ => stOk) performIdentify)

/-! ## EVENT_ROUTE (R349, R350) -/

/-- A source of Table HIF-13. (DEDUCED, log 37) -/
def sourceDefined (n : Nat) : Bool :=
  decide (n ≤ 6) || decide (8 ≤ n ∧ n ≤ 19) || decide (32 ≤ n ∧ n ≤ 35) || decide (64 ≤ n ∧ n ≤ 70)
    || decide (96 ≤ n ∧ n ≤ 100) || decide (128 ≤ n ∧ n ≤ 132) || decide (192 ≤ n ∧ n ≤ 208)
    || decide (224 ≤ n ∧ n ≤ 231) || decide (256 ≤ n ∧ n ≤ 511 ∧ n % 16 ≤ 11)

/-- Every source from `first` to `last`. (DEDUCED, log 37) -/
def sourceRange (first last : Nat) : List Nat := (List.range (last + 1 - first)).map fun i => first + i

/-- Checks of EVENT_ROUTE SOURCES (R349). (DEDUCED, log 37) -/
def routeSourcesStatus (first last toRing vec : Nat) (_ : Part) : Nat :=
  firstStatus [
    (decide (last < first ∨ 511 < last), stBadParam), (!(sourceRange first last).all sourceDefined, stBadParam),
    (decide (1 < toRing), stBadParam), (decide (63 < vec ∧ vec ≠ 255), stBadParam)]

/-- EVENT_ROUTE SOURCES takes effect. -/
def performRouteSources (first last toRing vec : Nat) : Perform := fun _ _ m =>
  let r : Route := { toRing := decide (toRing = 1), vector := vec }
  ({ m with hif := { m.hif with routes := (sourceRange first last).foldl (fun l n => put n r l) m.hif.routes } }, reply stOk)

/-- EVENT_ROUTE SOURCES (R349). -/
def execEventRouteSources (d : Desc) (first last toRing vector : Nat) (s : State) : Host.Outcome State Fault Refusal :=
  s.run (accept d (.eventRouteSources first last toRing vector) (routeSourcesStatus first last toRing vector)
    (performRouteSources first last toRing vector))

/-- Checks of EVENT_ROUTE VECTOR (R350). (DEDUCED, log 37) -/
def routeVectorStatus (vec holdoff count : Nat) (_ : Part) : Nat :=
  let n := orDefault 1 1 count
  firstStatus [(decide (63 < vec ∨ 1000 < orDefault 2 0 holdoff ∨ n < 1 ∨ 128 < n), stBadParam)]

/-- EVENT_ROUTE VECTOR takes effect: pending triggers that the new count or a holdoff of 0 completes are sent (R350).
(DEDUCED, log 37) -/
def performRouteVector (vec holdoff count : Nat) : Perform := fun _ _ m =>
  let x : Vector := { vector vec m with holdoff := orDefault 2 0 holdoff, count := orDefault 1 1 count }
  let m := setVector vec x m
  (if 0 < x.triggers ∧ (x.holdoff = 0 ∨ x.count ≤ x.triggers) then sendVector vec m else m, reply stOk)

/-- EVENT_ROUTE VECTOR (R350). -/
def execEventRouteVector (d : Desc) (vector holdoff count : Nat) (s : State) : Host.Outcome State Fault Refusal :=
  s.run (accept d (.eventRouteVector vector holdoff count) (routeVectorStatus vector holdoff count)
    (performRouteVector vector holdoff count))

/-! ## Ring errors (R317) -/

abbrev ringCommand : Nat := 0
abbrev ringCompletion : Nat := 1
abbrev ringEvent : Nat := 2
abbrev ringFlow : Nat := 3
abbrev ringDoorbell : Nat := 4

/-- EV_RING_ERROR: the ring kind, the cause (0 index, 1 DMA), the ring and the index seen. (DEDUCED, log 38) -/
def ringError (kind cause ring seen : Nat) (m : Part) : Part :=
  raise 65 0x31 [⟨0, 1, kind⟩, ⟨1, 1, cause⟩, ⟨2, 2, ring⟩, ⟨4, 4, seen⟩] m

/-- ring_stop of the shadow page (Table HIF-3). -/
def ringStop (m : Part) : Nat :=
  let bit (k : Nat) (p : Bool) : Nat := if p then 2 ^ k else 0
  ((List.range 4).map fun n => bit n (m.hif.cmdq.getD n {}).stopped + bit (4 + n) (cplRing n m).stopped).sum
    + bit 8 m.hif.evq.stopped + bit 9 (m.hif.flq.any fun e => e.2.stopped)

/-- A ring has stopped: ring_stop shows it, and EV_RING_ERROR is raised (R317, R319). -/
def stopRing (kind cause ring seen : Nat) (m : Part) : Part := ringError kind cause ring seen (writeShadow 0x30 4 (ringStop m) m)

/-- Change the command ring `n`. -/
def onCmd (n : Nat) (f : CmdRing → CmdRing) (m : Part) : Part := { m with hif := { m.hif with cmdq := m.hif.cmdq.modify n f } }

/-- Command ring `n` shows producer index `prod`: one that would put in more entries than the ring holds stops it.
(DESIGN CHOICE, log 8, DEDUCED, log 38) -/
def fetchCmd (n prod : Nat) (m : Part) : Part :=
  let q := m.hif.cmdq.getD n {}
  if q.log2 = 0 ∨ q.stopped then m
  else if 2 ^ q.log2 < ringUsed prod q.cons then stopRing ringCommand 0 n prod (onCmd n (fun q => { q with stopped := true }) m)
  else onCmd n (fun q => { q with prod := prod }) m

/-- Completion ring `n` shows consumer index `cons`: one beyond the part's producer index stops the ring. (DEDUCED, log 38) -/
def fetchCpl (n cons : Nat) (m : Part) : Part :=
  let r := cplRing n m
  if r.log2 = 0 ∨ r.stopped then m
  else if 2 ^ r.log2 < ringUsed r.prod cons then
    stopRing ringCompletion 0 n cons (onCpl n (fun r => { r with stopped := true }) m)
  else onCpl n (fun r => { r with cons := cons }) m

/-- The event ring shows its consumer index. (DEDUCED, log 38) -/
def fetchEvt (cons : Nat) (m : Part) : Part :=
  let r := m.hif.evq
  if r.log2 = 0 ∨ r.stopped then m
  else if 2 ^ r.log2 < ringUsed r.prod cons then
    stopRing ringEvent 0 0 cons { m with hif := { m.hif with evq := { m.hif.evq with stopped := true } } }
  else { m with hif := { m.hif with evq := { m.hif.evq with cons := cons } } }

/-- The flow ring `r` in use. -/
def flowRing (r : Nat) (m : Part) : Option FlowRing := look r m.hif.flq

/-- Change a flow ring. -/
def onRing (r : Nat) (f : FlowRing → FlowRing) (m : Part) : Part := { m with hif := { m.hif with flq := change r f m.hif.flq } }

/-- A bound flow uses ring `r` (R342). -/
def ringInUse (r : Nat) (m : Part) : Bool := m.flows.any fun f => decide (f.2.target = .ring r)

/-- A flow ring shows its producer index and the buffers newly posted (R343). (DEDUCED, log 38) -/
def fetchFlow (x : FlowDoorbell) (m : Part) : Part :=
  match flowRing x.ring m with
  | none => m
  | some r =>
    if r.stopped || !ringInUse x.ring m then m
    else if 2 ^ r.entry.log2 < ringUsed x.prod r.cons then
      stopRing ringFlow 0 x.ring x.prod (onRing x.ring (fun r => { r with stopped := true }) m)
    else
      onRing x.ring (fun r => { r with
        posted := r.posted ++ x.bufs.take (ringUsed x.prod r.prod), prod := x.prod }) m

/-- Read the indices of several rings. -/
def fetchList (f : Nat → Nat → Part → Part) (n : Nat) : List Nat → Part → Part
  | [], m => m
  | v :: rest, m => fetchList f (n + 1) rest (f n v m)

/-- Read the flow part of the doorbell page. -/
def fetchFlows : List FlowDoorbell → Part → Part
  | [], m => m
  | x :: rest, m => fetchFlows rest (fetchFlow x m)

/-- Write what has been held, in order, while the rings have space (R324, R347). -/
def drainHeld (m : Part) : Part :=
  let n (i : Nat) (m : Part) : Nat := (cplRing i m).held.length
  let m := drainCompletions 0 (n 0 m) m
  let m := drainCompletions 1 (n 1 m) m
  let m := drainCompletions 2 (n 2 m) m
  let m := drainCompletions 3 (n 3 m) m
  drainEvents (m.hif.evq.held.length + 1) m

/-- A DMA read or write on a ring in use has ended in an error completion: the ring stops (R317). (DEDUCED, log 38) -/
def dmaError (m : Part) (e : Nat × Nat) : Part :=
  let (kind, n) := e
  if kind = ringCommand then
    let q := m.hif.cmdq.getD n {}
    if n < 4 ∧ q.log2 ≠ 0 ∧ !q.stopped then
      stopRing ringCommand 1 n q.prod (onCmd n (fun q => { q with stopped := true }) m)
    else m
  else if kind = ringCompletion then
    let r := cplRing n m
    if n < 4 ∧ r.log2 ≠ 0 ∧ !r.stopped then
      stopRing ringCompletion 1 n r.prod (onCpl n (fun r => { r with stopped := true }) m)
    else m
  else if kind = ringEvent then
    if m.hif.evq.log2 ≠ 0 ∧ !m.hif.evq.stopped then
      stopRing ringEvent 1 0 m.hif.evq.prod { m with hif := { m.hif with evq := { m.hif.evq with stopped := true } } }
    else m
  else
    match flowRing n m with
    | none => m
    | some r =>
      if r.stopped || !ringInUse n m then m
      else stopRing ringFlow 1 n r.prod (onRing n (fun r => { r with stopped := true }) m)

/-- The number of the DB_POLL period, since the enable, in which an elapsed tick lies: periods of dbPoll × 0.5 µs (R320).
(DESIGN CHOICE, log 38) -/
def pollPeriod (e : Nat) (m : Part) : Nat := (e - m.hif.enabledAt) * 1000 / (12288 * max 1 m.hif.dbPoll)

/-- A trigger of R320 asks for a fetch: a DB_POLL period has begun since the latest one, or a completion or a nudge came. -/
def fetchDue (m : Part) : Bool :=
  m.hif.fetchAgain || m.hif.fetchedAt.all fun e => decide (pollPeriod e m < pollPeriod m.clock.elapsed m)

/-- A doorbell fetch that begins now (R46, R317-R320): fetch_seq and then ht are written to the shadow page, the page's indices are
taken, and what the freed space allows is written. (DEDUCED, log 38, DESIGN CHOICE, log 52) -/
def fetchDoorbell (p : DoorbellPage) (m : Part) : Part :=
  if !m.hif.enable || !fetchDue m then m
  else
    let seq := (m.hif.fetchSeq + 1) % 2 ^ 32
    let m := writeShadow 0x28 8 m.clock.ht (writeShadow 0x24 4 seq m)
    let m := { m with hif := { m.hif with
      fetchSeq := seq, shadowHt := m.clock.ht, fetchAgain := false, fetchedAt := some m.clock.elapsed } }
    if !p.ok then
      let m := { m with hif := { m.hif with fetchFails := m.hif.fetchFails + 1 } }
      if m.hif.fetchFails = 16 then ringError ringDoorbell 1 0 0 m else m
    else
      let m := { m with hif := { m.hif with fetchFails := 0 } }
      let m := fetchList fetchCmd 0 (p.cmdProd.take 4) m
      let m := fetchList fetchCpl 0 (p.cplCons.take 4) m
      let m := fetchFlows p.flows (fetchEvt p.evtCons m)
      refreshTags (drainHeld (p.dmaErrors.foldl dmaError m))

/-- DOORBELL_FETCH (R320). -/
def execDoorbellFetch (t : Nat) (page : DoorbellPage) (s : State) : Host.Outcome State Fault Refusal :=
  s.run (onTick t (fetchDoorbell page))

/-! ## HIF_CTRL (R472-R474, R482) -/

/-- The first item of a list that `p` names. -/
def firstItem (p : Nat → Bool) (l : List Nat) : Option Nat := l.find? p

/-- The log2 of the size of a command ring. -/
def cmdLog (n : Nat) (m : Part) : Nat := (m.hif.cmdq.getD n {}).log2

/-- The host memory that each item of err_ring occupies: its base and its size; nothing for an unused ring. -/
def hifExtent (m : Part) (i : Nat) : Nat × Nat :=
  let h := m.hif
  if i < 4 then (if cmdLog i m = 0 then (0, 0) else ((h.cmdq.getD i {}).base, 64 * 2 ^ cmdLog i m))
  else if i < 8 then (if cmdLog (i - 4) m = 0 then (0, 0) else ((cplRing (i - 4) m).base, 16 * 2 ^ (cplRing (i - 4) m).log2))
  else if i = 8 then (h.evq.base, 32 * 2 ^ h.evq.log2)
  else if i = 9 then (h.dbPage, 4096)
  else if i = 10 then (h.shadowPage, 4096)
  else (h.flqTable, 8192)

/-- Two items overlap. -/
def extentsMeet (a b : Nat × Nat) : Bool := decide (0 < a.2 ∧ 0 < b.2 ∧ a.1 < b.1 + b.2 ∧ b.1 < a.1 + a.2)

/-- The checks of an enable in code order, each with the item that fails it (HIF_STATUS, R472). (DEDUCED, log 38) -/
def hifChecks (m : Part) : List (Nat × Option Nat) :=
  let h := m.hif
  let used (n : Nat) : Bool := decide (cmdLog n m ≠ 0)
  [(1, if m.boot.stage = 8 ∨ m.boot.stage = 9 then none else some 0),
   (2, firstItem (fun i => decide ((if i = 9 then h.dbPage else if i = 10 then h.shadowPage else h.flqTable) = 0)) [9, 10, 11]),
   (3, if used 0 then none else some 0),
   (4, firstItem (fun i =>
      if i < 4 then used i && decide (cmdLog i m < 4 ∨ 12 < cmdLog i m)
      else if i < 8 then used (i - 4) && decide ((cplRing (i - 4) m).log2 < 4 ∨ 16 < (cplRing (i - 4) m).log2)
      else decide (h.evq.log2 < 6 ∨ 16 < h.evq.log2)) (List.range 9)),
   (5, firstItem (fun i => used (i - 4) && decide ((cplRing (i - 4) m).log2 < cmdLog (i - 4) m)) [4, 5, 6, 7]),
   (6, firstItem (fun i => used (i - 4) && decide (63 < (cplRing (i - 4) m).vector ∧ (cplRing (i - 4) m).vector ≠ 255))
      [4, 5, 6, 7]),
   (7, firstItem (fun i => (List.range 12).any fun j => decide (j ≠ i) && extentsMeet (hifExtent m i) (hifExtent m j))
      (List.range 12))]

/-- Restart the rings for an enable: stopped rings run again; a ring pair whose registers were changed starts at index 0 (R473,
R474). -/
def restartRings (m : Part) : Part :=
  let zero (n : Nat) : Bool := m.hif.changed.contains n
  { m with hif := { m.hif with
      enable := true, quiesced := false, cfgErr := 0, errRing := 0, everEnabled := true, changed := [],
      cmdq := m.hif.cmdq.mapIdx fun n q =>
        { q with stopped := false, prod := if zero n then 0 else q.prod, cons := if zero n then 0 else q.cons },
      cplq := m.hif.cplq.mapIdx fun n r =>
        { r with stopped := false, prod := if zero n then 0 else r.prod, cons := if zero n then 0 else r.cons },
      evq := { m.hif.evq with stopped := false },
      flq := m.hif.flq.map fun e => (e.1, { e.2 with stopped := false }) } }

/-- A write of 1 to enable (R472, R473): the first check that fails is reported, otherwise the interface runs and writes what it
has held. -/
def enableHif (m : Part) : Part :=
  if m.hif.enable then m
  else
    match (hifChecks m).find? fun c => c.2.isSome with
    | some (code, item) => { m with hif := { m.hif with cfgErr := code, errRing := item.getD 0 } }
    | none =>
      let m := restartRings m
      refreshTags (drainHeld { m with hif := { m.hif with enabledAt := m.clock.elapsed, fetchedAt := none } })

/-- A write of 0 to enable (R474). -/
def disableHif (m : Part) : Part :=
  if m.hif.enable then refreshTags { m with hif := { m.hif with enable := false, fetchAgain := false, fetchFails := 0 } } else m

/-- HIF_ENABLE (R472). -/
def execHifEnable (t : Nat) (s : State) : Host.Outcome State Fault Refusal := s.run (onTick t enableHif)

/-- HIF_DISABLE (R474). -/
def execHifDisable (t : Nat) (s : State) : Host.Outcome State Fault Refusal := s.run (onTick t disableHif)

/-- HIF_LOCK (R482). -/
def execHifLock (t : Nat) (s : State) : Host.Outcome State Fault Refusal :=
  s.run (onTick t fun m => { m with hif := { m.hif with lock := true } })

/-- HIF_QUIESCED (R474). -/
def execHifQuiesced (t : Nat) (s : State) : Host.Outcome State Fault Refusal :=
  s.run (onTick t fun m => if m.hif.enable then m else { m with hif := { m.hif with quiesced := true } })

/-- A write to HIF_NUDGE asks for a fetch while the interface runs (R320, R474). -/
def nudge (m : Part) : Part := if m.hif.enable then { m with hif := { m.hif with fetchAgain := true } } else m

/-- HIF_NUDGE (R320), whatever value is written. -/
def execHifNudge (t _value : Nat) (s : State) : Host.Outcome State Fault Refusal := s.run (onTick t nudge)

/-! ## MSI-X (R350) -/

/-- A holdoff in ticks. -/
def holdoffTicks (us : Nat) : Nat := ceilDiv (us * 24576) 1000

/-- MSIX_HOLDOFF_EXPIRY (R350). -/
def execMsixHoldoffExpiry (t vector : Nat) (s : State) : Host.Outcome State Fault Refusal :=
  s.runIf (decide (vector < 64)) (onTick t fun m =>
    let x := Sys2Proof.Machine.vector vector m
    if 0 < x.triggers ∧ x.since.any (fun e => decide (e + holdoffTicks x.holdoff ≤ m.clock.elapsed)) then sendVector vector m
    else m)

/-- A vector's mask is set or cleared; unmasking one whose pending bit is set sends its message (R350). -/
def setMask (v : Nat) (masked : Bool) (m : Part) : Part :=
  let x := vector v m
  let send_ := x.pba && !masked
  let m := setVector v { x with masked := masked, pba := x.pba && masked } m
  if send_ then sendMsix v m else m

/-- MSIX_UNMASK (R350). -/
def execMsixUnmask (t vector : Nat) (s : State) : Host.Outcome State Fault Refusal :=
  s.runIf (decide (vector < 64)) (onTick t (setMask vector false))

end Sys2Proof.Machine
end

