-- ==== Sys2Proof/Machine/Flows.lean ====
section
/-! DEFINITION. Flows: creation, binding, shaping, deletion, time-shift, raw capture, the egress scheduler, buffers and fill
(R342-R345, R351-R370). -/

namespace Sys2Proof.Machine

/-! ## FLOW_CREATE (R351, R356) -/

/-- Type and subtype are in Table FLW-1, and a source that is no context fits them. -/
def typeValid (p : FlowParams) : Bool :=
  match p.type with
  | 1 => decide (p.subtype = 0)
      || (decide (p.subtype = 1) && (decide (p.source = 65535) || decide (p.source % 256 < 8 ∧ p.source / 256 < 8)))
  | 2 => decide (p.subtype = 0)
  | 3 => decide (1 ≤ p.subtype ∧ p.subtype ≤ 10) && (decide (p.subtype ≠ 10) || decide (p.source = 65535))
  | 4 => decide (p.subtype = 0)
  | 5 => decide (p.subtype = 0)
  | 6 => decide (p.subtype = 0 ∧ p.source = 65535)
  | 7 => (decide (p.subtype ≤ 1) && decide (p.source < 2048 ∨ p.source = 65535)) || decide (p.subtype = 2 ∧ p.source = 65535)
  | _ => false

/-- The record payload length with its default (R354). -/
def payloadLength (p : FlowParams) : Nat := orDefault 4 4096 p.length

/-- The flow's source is a context of this part. -/
def ctxSource (p : FlowParams) : Bool :=
  decide (p.source ≠ 65535) && (decide (p.type = 1 ∧ p.subtype = 0) || decide (2 ≤ p.type ∧ p.type ≤ 5))

/-- The selection of an open context fits the subtype's kind (R303). -/
def flowKindFits (p : FlowParams) (m : Part) : Bool :=
  let audio := decide (p.type = 2) || (decide (p.type = 3) && sideOfSelection p.subtype)
  !audio || ((ctx p.source m).bind fun x => x.sel p.sel).all fun s => audioKind s.kind

/-- The context of a flow to be created has a type that feeds it, as far as one is held. (DEDUCED, log 39) -/
def flowSourceFits (p : FlowParams) (m : Part) : Bool :=
  !ctxSource p || (cfgAfter p.source m).all fun c => flowFits p.type p.subtype p.sel c.type && flowKindFits p m

/-- The checks of R356 in order. (DEDUCED, log 39) -/
def flowCreateStatus (p : FlowParams) (m : Part) : Nat :=
  firstStatus [
    (decide (4095 < p.flow) || !typeValid p || decide (payloadLength p < 8 ∨ 65504 < payloadLength p ∨ payloadLength p % 8 ≠ 0)
      || (p.blank && decide (p.type ≠ 5)) || (ctxSource p && slotOutside p.source m) || !flowSourceFits p m, stBadParam),
    (ctxSource p && slotFenced p.source m, stFenced),
    (ctxSource p && !slotHeld p.source m, stNoContext),
    (has p.flow m.flows, stBusy)]

/-- FLOW_CREATE takes effect: a new flow is unbound, with default shaping and its balance equal to its burst. -/
def performFlowCreate (p : FlowParams) : Perform := fun _ _ m =>
  let f : Flow := {
    type := p.type, subtype := p.subtype, source := p.source, sel := p.sel, blank := p.blank, length := payloadLength p,
    accrued := m.clock.elapsed, produced := m.clock.elapsed }
  ({ m with flows := put p.flow f m.flows }, reply stOk)

/-- FLOW_CREATE (R356). -/
def execFlowCreate (d : Desc) (p : FlowParams) (s : State) : Host.Outcome State Fault Refusal :=
  s.run (accept d (.flowCreate p) (flowCreateStatus p) (performFlowCreate p))

/-! ## Flow rings and their buffers (R342-R345) -/

/-- Bytes 12 to 15 of a buffer descriptor as it returns (Table HIF-12). -/
def returnBytes (b : ReturnedBuffer) : List Byte :=
  packFields 4 [⟨0, 2, b.used⟩,
    ⟨2, 1, (if b.done then 1 else 0) + (if b.flushed then 2 else 0) + (if b.emptied then 4 else 0)⟩, ⟨3, 1, b.records⟩]

/-- Return a buffer to the host: its descriptor is written back, flow_cons advances and the ring's vector is triggered (R323, R343, R350).
(DEDUCED, log 40) -/
def returnBuffer (r : Nat) (b : ReturnedBuffer) (m : Part) : Part :=
  match flowRing r m with
  | none => m
  | some q =>
    let cons := (q.cons + 1) % 2 ^ 32
    let m := writeHost (entryAddr q.entry.base q.entry.log2 16 q.cons + 12) (returnBytes b) m
    let m := writeShadow (0x40 + 4 * r) 4 cons m
    trigger q.entry.vector
      { onRing r (fun q => { q with cons := cons }) m with
        host := { m.host with buffers := b :: m.host.buffers } }

/-- Return the buffer that a ring is filling. (DEDUCED, log 40) -/
def closeBuffer (r : Nat) (flushed : Bool) (m : Part) : Part :=
  match (flowRing r m).bind FlowRing.current with
  | none => m
  | some b =>
    returnBuffer r
      { ring := r, desc := b.desc, used := b.used / 8, records := satBits 8 b.records, done := true, flushed := flushed,
        emptied := false } (onRing r (fun q => { q with current := none }) m)

/-- Return every posted buffer unfilled. (DEDUCED, log 40) -/
def emptyBuffers (r : Nat) : List BufferDesc → Part → Part
  | [], m => m
  | d :: rest, m =>
    emptyBuffers r rest (returnBuffer r
      { ring := r, desc := d, used := 0, records := 0, done := false, flushed := false, emptied := true } m)

/-- The last flow bound to a ring has left it: its buffers return (R344). -/
def releaseRing (r : Nat) (m : Part) : Part :=
  if ringInUse r m then m
  else
    let m := closeBuffer r false m
    emptyBuffers r ((flowRing r m).elim [] FlowRing.posted) (onRing r (fun q => { q with posted := [] }) m)

/-- A ring's entry of the flow ring table is in use and in range (R342). (DEDUCED, log 39) -/
def entryValid (e : RingEntry) : Bool :=
  decide (4 ≤ e.log2 ∧ e.log2 ≤ 16 ∧ e.base % 4096 = 0 ∧ (e.vector < 64 ∨ e.vector = 255) ∧ 1 ≤ e.flush ∧ e.flush ≤ 10000)

/-! ## FLOW_BIND (R358, R359) -/

/-- What a flow is asked to be bound to. -/
def bindTarget (p : BindParams) : FlowTarget :=
  match p.target with
  | 1 => .ring p.a
  | 2 => .port p.a p.b
  | 3 => .chain p.a p.remote
  | _ => .none

/-- The checks of FLOW_BIND at acceptance: the flow exists, and the target exists and allows its type. (DEDUCED, log 39) -/
def flowBindStatus (n : Nat) (p : BindParams) (m : Part) : Nat :=
  match flow n m with
  | none => stBadParam
  | some f =>
    let ok := match p.target with
      | 0 => true
      | 1 => decide (p.a < 512)
      | 2 => decide (p.a < 8 ∧ p.b < 8) && decide (f.type = 1 ∧ f.subtype = 0)
      | 3 => decide (p.a < m.chain.parts ∧ p.a ≠ ownAddr m ∧ p.remote < 4096)
      | _ => false
    if ok then stOk else stBadParam

/-- The conditions of FLOW_BIND that are judged when it executes: the slot pair is free and the port has it, the ring's entry is
valid when it is first used, the remote flow matches. (DEDUCED, log 39) -/
def bindAllowed (n : Nat) (p : BindParams) (m : Part) : Bool :=
  match p.target with
  | 1 => ringInUse p.a m || entryValid p.entry
  | 2 => m.flows.all (fun f => decide (f.1 = n ∨ f.2.target ≠ .port p.a p.b))
      && ((m.ports.getD p.a {}).cfg.all fun c => decide (p.b < c.slots / 2))
  | 3 => p.remoteOk
  | _ => true

/-- Stop the tapping of a flow that leaves its target: what it has filled and staged is discarded. -/
def discardStaged (f : Flow) : Flow := { f with opened := none, staged := [], backlogged := false }

/-- The slot pairs of every port follow the flows bound to them: a pair that a flow leaves has none, and a new binding has no
presentation delay yet (R359, R411). -/
def bindPair (n : Nat) (t : FlowTarget) (m : Part) : Part :=
  let clear (x : Port) : Port :=
    { x with pairs := x.pairs.map fun q => if q.flow = some n then { pair := q.pair, flow := none } else q }
  let m := { m with ports := m.ports.map clear }
  match t with
  | .port p k =>
    { m with ports := m.ports.modify p fun x =>
        { x with pairs := (x.pairs.filter fun q => decide (q.pair ≠ k)) ++ [{ pair := k, flow := some n }] } }
  | _ => m

/-- The capture region of captures that have delivered their last record is freed (R370). -/
def freeCaptures (m : Part) : Part :=
  { m with captures := m.captures.filter fun c =>
      !(c.stopped && c.spans.isEmpty && c.opened.isNone && (flow c.flow m).all fun f => f.staged.isEmpty && f.opened.isNone) }

/-- Bring the content of a flow up to the present before its target changes. -/
def catchFlow (f : Flow) (m : Part) : Part := if f.fromCtx then catchUp f.source m else m

/-- The target of a flow changes on this tick (R358, R359): staged records move with it, a flow bound again after being unbound
starts with DISCONTINUITY, and an unbound flow discards what it holds. -/
def retarget (n : Nat) (t : FlowTarget) (m : Part) : Part :=
  match flow n m with
  | none => m
  | some f0 =>
    let m := catchFlow f0 m
    let m := onFlow n (fun f =>
      let g := { f with target := t, everBound := f.everBound || decide (t ≠ .none), backlogged := false }
      if t = .none then discardStaged g
      else if f.bound then g
      else { g with produced := m.clock.elapsed, disc := f.disc || f.everBound, accrued := f.accrued }) m
    let m := bindPair n t m
    let m := match f0.target with
      | .ring r => releaseRing r m
      | _ => m
    refreshTags (freeCaptures (catchWhere (fun c => decide (c.flow = n)) id m.captures [] m))

/-- The ring's entry is read when the first flow is bound to it (R342). -/
def takeRing (r : Nat) (e : RingEntry) (m : Part) : Part :=
  if ringInUse r m then m
  else
    { m with hif := { m.hif with flq := put r (match flowRing r m with
        | some q => { q with entry := e }
        | none => { entry := e }) m.hif.flq } }

/-- FLOW_BIND takes effect. -/
def performFlowBind (n : Nat) (p : BindParams) : Perform := fun _ _ m =>
  if flowBindStatus n p m ≠ stOk ∨ !bindAllowed n p m then (m, reply stBadParam)
  else
    let m := if p.target = 1 then takeRing p.a p.entry m else m
    (retarget n (bindTarget p) m, reply stOk)

/-- FLOW_BIND (R358). -/
def execFlowBind (d : Desc) (flow : Nat) (p : BindParams) (s : State) : Host.Outcome State Fault Refusal :=
  s.run (accept d (.flowBind flow p) (flowBindStatus flow p) (performFlowBind flow p))

/-! ## FLOW_SHAPE (R361, R362) -/

/-- The checks of FLOW_SHAPE. -/
def flowShapeStatus (n weight _rate burst : Nat) (m : Part) : Nat :=
  let w := orDefault 2 256 weight
  let b := orDefault 4 65536 burst
  firstStatus [((flow n m).isNone, stBadParam), (decide (w < 1 ∨ b < 64), stBadParam)]

/-- FLOW_SHAPE takes effect: the balance accrues up to now at the old rate; a debt is kept, a positive balance is clipped. -/
def performFlowShape (n weight rate burst : Nat) : Perform := fun _ _ m =>
  if (flow n m).isNone then (m, reply stBadParam)
  else
    let b := orDefault 4 65536 burst
    let m := onFlow n (fun f =>
      let f := accrue m f
      { f with weight := orDefault 2 256 weight, rate := if rate = 2 ^ 32 - 1 then none else some rate, burst := b,
               ballast := min f.ballast (65536 * b) }) m
    (refreshTags m, reply stOk)

/-- FLOW_SHAPE (R361). -/
def execFlowShape (d : Desc) (flow weight rate burst : Nat) (s : State) : Host.Outcome State Fault Refusal :=
  s.run (accept d (.flowShape flow weight rate burst) (flowShapeStatus flow weight rate burst)
    (performFlowShape flow weight rate burst))

/-! ## FLOW_DELETE (R359) -/

/-- FLOW_DELETE takes effect: the flow goes with what it holds; a capture that delivers to it ends. -/
def performFlowDelete (n : Nat) : Perform := fun _ _ m =>
  let m := retarget n .none m
  (refreshTags { m with flows := erase n m.flows, captures := m.captures.filter fun c => decide (c.flow ≠ n) }, reply stOk)

/-- Checks of FLOW_DELETE. -/
def flowExists (n : Nat) (m : Part) : Nat := if has n m.flows then stOk else stBadParam

/-- FLOW_DELETE (R359). -/
def execFlowDelete (d : Desc) (flow : Nat) (s : State) : Host.Outcome State Fault Refusal :=
  s.run (accept d (.flowDelete flow) (flowExists flow) (performFlowDelete flow))

/-! ## TIMESHIFT_SET (R364-R366) -/

/-- A flow of a variable type (Table FLW-1). -/
def Flow.variable (f : Flow) : Bool := decide (2 ≤ f.type ∧ f.type ≤ 4) || decide (f.type = 7)

/-- Channels of a PCM flow (R353): one for AM and mono FM, else two. (DEDUCED, log 42) -/
def pcmChans (f : Flow) (m : Part) : Nat :=
  if f.subtype = 0 ∧ f.sel = 255 then
    match ctx f.source m with
    | some x => if x.cfg.type = 4 then 2 else 1
    | none => 2
  else 2

/-- The stream rate that sizes a window, in bytes per second (R365). (DEDUCED, log 42) -/
def streamRate (f : Flow) (m : Part) : Nat :=
  if f.type = 1 then 48000 * 4 * pcmChans f m
  else if f.type = 5 then 8 * (ticksPerSecond / ((ctx f.source m).elim Family.fm fun x => family x.cfg.type).k)
  else f.rate.getD 0

/-- The DRAM that a window of `w` ms takes (R365). -/
def windowSize (f : Flow) (w : Nat) (m : Part) : Nat := 4096 * ceilDiv (w * streamRate f m) (1000 * 4096)

/-- The parameter checks of TIMESHIFT_SET (R364). (DEDUCED, log 42) -/
def timeshiftStatus (n w d : Nat) (m : Part) : Nat :=
  match flow n m with
  | none => stBadParam
  | some f =>
    firstStatus [
      (decide (3600000 < w ∨ w < d), stBadParam),
      (f.variable && f.rate.isNone && decide (0 < w), stBadParam),
      (decide (f.type = 6), stBadParam)]

/-- The window leaves the staging pool its minimum (R368). (DEDUCED, log 42) -/
def windowFits (n w : Nat) (m : Part) : Bool :=
  (flow n m).any fun f => decide (2 ^ 30 + windowSize f w m ≤ poolSize m + f.windowBytes)

/-- TIMESHIFT_SET takes effect. (DEDUCED, log 42) -/
def performTimeshift (n w d : Nat) : Perform := fun _ _ m =>
  if timeshiftStatus n w d m ≠ stOk then (m, reply (timeshiftStatus n w d m))
  else if !windowFits n w m then (m, reply stNoCapacity)
  else
    (refreshTags (onFlow n (fun f => { f with window := w, delay := d, windowBytes := windowSize f w m }) m), reply stOk)

/-- Checks of TIMESHIFT_SET at acceptance, with the capacity that its window needs. -/
def timeshiftAccept (n w d : Nat) (m : Part) : Nat :=
  if timeshiftStatus n w d m = stOk ∧ !windowFits n w m then stNoCapacity else timeshiftStatus n w d m

/-- TIMESHIFT_SET (R364). -/
def execTimeshiftSet (d : Desc) (flow window delay : Nat) (s : State) : Host.Outcome State Fault Refusal :=
  s.run (accept d (.timeshiftSet flow window delay)
    (timeshiftAccept flow window delay) (performTimeshift flow window delay))

/-! ## Raw capture commands (R370) -/

/-- The checks of a capture's mask: it names halves, all fitted, and not only fenced ones. -/
def maskStatus (mask : Nat) (m : Part) : Nat :=
  let hs := maskHalves mask
  firstStatus [
    (hs.isEmpty || decide (2 ^ 16 ≤ mask) || hs.any fun h => decide (halvesFitted m ≤ h), stBadParam),
    (hs.all fun h => isFenced h m, stFenced)]

/-- The checks of CAPTURE_START at acceptance. (DEDUCED, log 41) -/
def captureStartStatus (mask mode n _bytes : Nat) (m : Part) : Nat :=
  firstStatus [
    (decide (maskStatus mask m = stBadParam) || decide (1 < mode) || !(flow n m).any (fun f => decide (f.type = 6)), stBadParam),
    (decide (maskStatus mask m ≠ stOk), maskStatus mask m)]

/-- Whether a half can be captured: a FENCED or PARKED one cannot. (DEDUCED, log 41) -/
def captureTarget (h : Nat) (m : Part) : Nat :=
  if isFenced h m then stFenced else if isParked h m then stNoCapacity else stOk

/-- The reply of a command on several targets: ST_PARTIAL with a list when only some succeed (R57). -/
def targetsReply (ts : List Target) : Reply :=
  let bad := ts.filter fun x => decide (x.status ≠ stOk)
  match bad with
  | [] => { status := stOk }
  | b :: _ =>
    if bad.length = ts.length ∧ bad.all fun x => decide (x.status = b.status) then { status := b.status, targets := ts }
    else { status := stPartial, targets := ts }

/-- CAPTURE_START takes effect: the region is allocated, and each half's capture begins (R368, R370). (DEDUCED, log 41) -/
def performCaptureStart (mask mode n bytes : Nat) : Perform := fun _ _ m =>
  let hs := maskHalves mask
  if !(flow n m).any (fun f => decide (f.type = 6)) then (m, reply stBadParam)
  else if m.captures.any fun c => hs.contains c.half then (m, reply stBusy)
  else
    let ok := hs.filter fun h => decide (captureTarget h m = stOk)
    let size (h : Nat) : Nat := let g := groupBytes (tile (halfTile h) m).plan; bytes / g * g
    if poolSize m < 2 ^ 30 + (ok.map size).sum then (m, reply stNoCapacity)
    else
      let new_ := ok.map fun h => ({
        half := h, circular := decide (mode = 1), flow := n, size := size h, produced := m.clock.elapsed } : Capture)
      ({ m with captures := m.captures ++ new_ },
        some (targetsReply (hs.map fun h => { kind := 1, status := captureTarget h m, id := h, detail := 0 })))

/-- CAPTURE_START (R370). -/
def execCaptureStart (d : Desc) (mask mode flow bytes : Nat) (s : State) : Host.Outcome State Fault Refusal :=
  s.run (accept d (.captureStart mask mode flow bytes) (captureStartStatus mask mode flow bytes)
    (performCaptureStart mask mode flow bytes))

/-- CAPTURE_STOP takes effect: the captures of the halves named stop. (DEDUCED, log 41) -/
def performCaptureStop (mask : Nat) : Perform := fun _ _ m =>
  let hs := maskHalves mask
  let ts := hs.map fun h => ({ kind := 1, status := if isFenced h m then stFenced else stOk, id := h, detail := 0 } : Target)
  (freeCaptures (hs.foldl (fun m h => stopCapture h m) m), some (targetsReply ts))

/-- CAPTURE_STOP (R370). -/
def execCaptureStop (d : Desc) (mask : Nat) (s : State) : Host.Outcome State Fault Refusal :=
  s.run (accept d (.captureStop mask) (maskStatus mask) (performCaptureStop mask))

/-! ## Closing, egress and flush -/

/-- RECORD_CLOSE_TIMEOUT (R354): a variable record closes 50 ms after its first item. -/
def execRecordCloseTimeout (t flow : Nat) (s : State) : Host.Outcome State Fault Refusal :=
  s.run (onTick t fun m =>
    if (Sys2Proof.Machine.flow flow m).any fun f =>
        f.variable && f.opened.any fun o => decide (o.first + 1228800 ≤ m.clock.elapsed)
    then closeRecord flow m else m)

/-- The oldest staged record of a flow leaves staging. -/
def unstage (n : Nat) (m : Part) : Part := onFlow n (fun f => { f with staged := f.staged.tail }) m

/-- The flow's next record carries DISCONTINUITY after a staged one is lost (R345, R372). -/
def markLost (n : Nat) (m : Part) : Part :=
  onFlow n (fun f =>
    match f.staged with
    | r :: rest => { f with staged := { r with flags := orFlags r.flags flagDiscontinuity } :: rest }
    | [] => { f with disc := true }) m

/-- A record larger than the buffer it would open is dropped and counted (R345). (DEDUCED, log 40) -/
def dropTooSmall (r n bytes : Nat) (m : Part) : Part :=
  let m := markLost n (unstage n m)
  let m := onFlow n (fun f => { f with backlogged := false }) m
  let m := onRing r (fun q => { q with smallDrops := q.smallDrops + 1 }) m
  match flowRing r m with
  | none => m
  | some q =>
    if q.smallAt.all fun e => decide (e + ticksPerSecond ≤ m.clock.elapsed) then
      raise 66 0x32 [⟨0, 2, r⟩, ⟨2, 2, n⟩, ⟨4, 4, bytes⟩, ⟨8, 4, q.smallDrops⟩]
        (onRing r (fun q => { q with smallAt := some m.clock.elapsed, smallDrops := 0 }) m)
    else m

/-- The 32-byte header of a record (Table FLW-2). -/
def headerBytes (x : Record) : List Byte :=
  packFields 32 [⟨0, 2, x.flow⟩, ⟨2, 2, x.flags⟩, ⟨4, 4, x.length⟩, ⟨8, 8, x.ht⟩, ⟨16, 4, x.seq⟩, ⟨20, 1, x.type⟩, ⟨21, 1, x.subtype⟩,
    ⟨22, 2, x.origin⟩, ⟨24, 4, x.count⟩, ⟨28, 1, x.chans⟩, ⟨29, 1, x.plan⟩]

/-- The images of items, one after the other from offset `off`. -/
def itemPieces (off : Nat) : List Item → List (Nat × List Byte)
  | [] => []
  | it :: rest => (off, overlay (packFields it.bytes it.fields) it.bodyAt it.body) :: itemPieces (off + it.bytes) rest

/-- Bytes of one payload unit of a fixed record: a PCM frame, an I/Q sample, a group of 4 ticks (R353). -/
def unitBytes (x : Record) : Nat :=
  if x.type = 5 then 8 else if x.type = 6 then groupBytes x.plan else 4 * max 1 x.chans

/-- A sample word as its flow carries it: 24 bits in bits 31 to 8, or 16 bits of a converter sample (R353). -/
def wordBytes (type : Nat) (v : Int) : List Byte := if type = 6 then leBytes 2 (wrapBits 16 v) else leBytes 4 (wrapBits 32 (256 * v))

/-- A record as it lies in host memory, from its first byte: header, items, samples as far as they are known, bytes that are zeros, and the
padding to 8 bytes (R344, R352, R353). -/
def recordPieces (x : Record) : List (Nat × List Byte) :=
  (0, headerBytes x) :: itemPieces 32 x.items
    ++ x.data.map (fun d => (32 + unitBytes x * d.1, d.2.flatMap (wordBytes x.type)))
    ++ x.zeros.map (fun z => (32 + z.1, List.replicate z.2 0))
    ++ [(32 + x.length, List.replicate (charge x.length - 32 - x.length) 0)]

/-- Write pieces of bytes from address `base` on. -/
def writePieces (base : Nat) (l : List (Nat × List Byte)) (m : Part) : Part :=
  (l.filter fun p => !p.2.isEmpty).foldl (fun m p => writeHost (base + p.1) p.2 m) m

/-- Write a record into the buffer that its ring is filling. -/
def fillBuffer (r : Nat) (x : Record) (m : Part) : Part :=
  let at_ := ((flowRing r m).bind FlowRing.current).elim 0 fun b => b.desc.addr + b.used
  let m := writePieces at_ (recordPieces x) m
  { onRing r (fun q => { q with current := q.current.map fun b =>
      { b with used := b.used + charge x.length, records := b.records + 1 } }) m with
    host := { m.host with records := (r, x) :: m.host.records } }

/-- How a record meets its ring's buffers (R344, R345). -/
inductive Room where
  | current | opens (d : BufferDesc) (rest : List BufferDesc) | waits | tooSmall
deriving DecidableEq, Repr

/-- Where a record of `bytes` goes. (DEDUCED, log 40) -/
def roomFor (q : FlowRing) (bytes : Nat) : Room :=
  if q.current.any fun b => decide (b.used + bytes ≤ 64 * b.desc.size) then .current
  else
    match q.posted with
    | [] => .waits
    | d :: rest => if bytes ≤ 64 * d.size then .opens d rest else .tooSmall

/-- The oldest record of a flow has started on its link (R362, R363). (DEDUCED, log 40) -/
def chargeFlow (n link : Nat) (x : Record) (m : Part) : Part :=
  match flow n m with
  | none => m
  | some f =>
    let m := setVirtualTime link f.tag m
    onFlow n (fun f =>
      let f := accrue m f
      let f := { f with
        staged := f.staged.tail,
        ballast := if f.rate.isSome then f.ballast - 65536 * charge x.length else f.ballast }
      if eligible f m then { f with tag := f.tag + (f.staged.head?).elim 0 (tagStep f) } else { f with backlogged := false }) m

/-- A record leaves for a flow ring. (DEDUCED, log 40) -/
def sendToRing (r n : Nat) (x : Record) (m : Part) : Part :=
  match flowRing r m with
  | none => m
  | some q =>
    match roomFor q (charge x.length) with
    | .current => chargeFlow n linkPcie x (fillBuffer r x m)
    | .opens d rest =>
      let m := onRing r (fun q => { q with
        posted := rest, current := some { desc := d, used := 0, records := 0, first := m.clock.elapsed } }) (closeBuffer r false m)
      chargeFlow n linkPcie x (fillBuffer r x m)
    | .waits => closeBuffer r false m
    | .tooSmall => dropTooSmall r n (charge x.length) (closeBuffer r false m)

/-- A free link takes the backlogged flow with the smallest tag and starts its oldest record (R360, R363). -/
def startRecord (link : Nat) (m : Part) : Part :=
  let m := refreshTags m
  match pickFlow link m with
  | none => m
  | some (n, f) =>
    match f.staged with
    | [] => m
    | x :: _ =>
      let m := match f.target with
        | .ring r => sendToRing r n x m
        | .chain a g => chargeFlow n link x (send a (.record g { x with flow := g }) m)
        | _ => m
      refreshTags (freeCaptures m)

/-- EGRESS_RECORD_START (R363). Links: 0 PCIe, 1 UP, 2 DOWN. -/
def execEgressRecordStart (t link : Nat) (s : State) : Host.Outcome State Fault Refusal :=
  s.runIf (decide (link < 3)) (onTick t (startRecord link))

/-- BUFFER_FLUSH (R344): the flush time has passed since the first record was written into the buffer. -/
def execBufferFlush (t ring : Nat) (s : State) : Host.Outcome State Fault Refusal :=
  s.run (onTick t fun m =>
    if m.hif.enable && (flowRing ring m).any fun q => !q.stopped && q.current.any fun b =>
        decide (b.first + ceilDiv (q.entry.flush * 24576) 10 ≤ m.clock.elapsed)
    then refreshTags (closeBuffer ring true m) else m)

/-! ## Fill (R367) -/

/-- Ticks of content that a staged record of a flow holds. -/
def recordTicks (f : Flow) (r : Record) (m : Part) : Nat :=
  if f.type = 1 then r.count * 512
  else if f.type = 5 then r.count * ((ctx f.source m).elim Family.fm fun x => family x.cfg.type).k
  else 1

/-- The fill of a flow for `span` ticks from τ `from_`: silence, zero samples or no items. (DEDUCED, log 42) -/
def fillRecord (n : Nat) (f : Flow) (from_ : Int) (span : Nat) (m : Part) : Record :=
  let fixed := decide (f.type = 1 ∨ f.type = 5)
  let chans := if f.type = 1 then pcmChans f m else 0
  let step := if f.type = 1 then 512 else ((ctx f.source m).elim Family.fm fun x => family x.cfg.type).k
  let count := if fixed then max 1 (span / step) else 0
  { flow := n, flags := orFlags (if f.type = 1 then flagConcealed else flagErased) (flagIf f.disc flagDiscontinuity),
    length := if f.type = 1 then count * 4 * chans else if f.type = 5 then count * 8 else 0,
    ht := if fixed then (from_ + m.clock.grid).toNat else m.clock.ht, tau := from_, seq := f.seq, type := f.type,
    subtype := f.subtype, origin := ownAddr m, count := count, chans := chans, plan := 0, items := [] }

/-- A member flow has not staged the content whose release point is now: `span` ticks of it are filled. (DEDUCED, log 42) -/
def fillMember (n span : Nat) (m : Part) : Part :=
  match flow n m with
  | none => m
  | some f =>
    match groupOf f m with
    | none => m
    | some g =>
      let d := groupDelay g m
      let due := tau m - d * msTicks
      let covered := f.staged.any fun r => decide (r.tau ≤ due ∧ due < r.tau + recordTicks f r m)
      if d = 0 ∨ !f.bound ∨ covered ∨ f.filled.any fun e => decide (due < e) then m
      else
        let r := fillRecord n f due span m
        let span_ := if f.variable then max 1 span else recordTicks f r m
        onFlow n (fun f => { f with
          staged := f.staged ++ [r], seq := (f.seq + 1) % 2 ^ 32, disc := false, filled := some (due + span_) }) m

/-- MEMBER_UNDERRUN (R367). -/
def execMemberUnderrun (t flow span : Nat) (s : State) : Host.Outcome State Fault Refusal :=
  s.run (onTick t fun m => refreshTags (fillMember flow span m))

end Sys2Proof.Machine
end

