-- ==== Sys2Proof/Machine/Audio.lean ====
section
/-! DEFINITION. Serial audio ports: configuration, frame layouts, start and stop, presentation by house time, slave clocking and
the swap hazard (R402-R421). -/

namespace Sys2Proof.Machine

/-! ## Frame layouts (R404, R405) -/

/-- The order in which a frame sends its slots (Table AUD-3): even slots first in I²S and LEFT_J, in sequence in TDM. -/
def slotOrder (format slots : Nat) : List Nat :=
  if format = 2 then List.range slots
  else (List.range (slots / 2)).map (2 * ·) ++ (List.range (slots / 2)).map (2 * · + 1)

/-- BCLKs from the FS edge that starts a frame to the first data bit (Table AUD-3). -/
def firstBit (format : Nat) : Nat := if format = 1 then 0 else 1

/-- The level of FS in BCLK `b` of a frame of `n` BCLKs (Table AUD-3). -/
def fsLevel (format n b : Nat) : Bool :=
  match format with
  | 0 => decide (n ≤ 2 * b)
  | 1 => decide (2 * b < n)
  | _ => decide (b = 0)

/-- A 24-bit sample as it stands in a slot of `bits` (R405). -/
def slotWord (bits : Nat) (x : BitVec 24) : BitVec 32 :=
  match bits with
  | 32 => x.setWidth 32 <<< 8
  | 24 => x.setWidth 32
  | _ =>
    let r : Int := (x.toInt + 128) / 256
    BitVec.ofInt 32 ((min 32767 r) % 65536)

/-- The 24-bit sample that an input slot of `bits` carries (R405). -/
def slotSample (bits : Nat) (w : BitVec 32) : BitVec 24 :=
  match bits with
  | 32 => (w >>> 8).setWidth 24
  | 24 => w.setWidth 24
  | _ => w.setWidth 24 <<< 8

/-- The 24-bit samples of slot pair `k` in a frame's slot words (R405): none where the row gives no words for every slot. -/
def pairSamples (c : PortCfg) (k : Nat) (words : List Nat) : List Int :=
  if words.length = c.slots then ((words.drop (2 * k)).take 2).map fun w => (slotSample c.bits (BitVec.ofNat 32 w)).toInt else []

/-- BCLKs of a frame (R403). -/
def PortCfg.frameBits (c : PortCfg) : Nat := c.slots * c.bits

/-- A single-pair format: I²S or LEFT_J with two slots (R407). -/
def PortCfg.singlePair (c : PortCfg) : Bool := decide (c.format ≠ 2 ∧ c.slots = 2)

/-- Port `p`. -/
def port (p : Nat) (m : Part) : Port := m.ports.getD p {}

/-- Change port `p`. -/
def onPort (p : Nat) (f : Port → Port) (m : Part) : Part := { m with ports := m.ports.modify p f }

/-- The port is configured as a slave. -/
def Port.slave (x : Port) : Bool := x.cfg.any PortCfg.slave

/-! ## AUDIO_PORT_CONFIG (R402, R403, R406) -/

/-- The configuration that the fields of Table AUD-1 give, with their defaults; none when one lies outside its range or a master's
bit clock is not in Table AUD-2. -/
def portCfg (p : PortParams) : Option PortCfg :=
  let format := orDefault 1 0 p.format
  let role := orDefault 1 0 p.role
  let slots := orDefault 1 2 p.slots
  let bits := orDefault 1 32 p.bits
  let lead := orDefault 2 256 p.clkLead
  let trail := orDefault 2 256 p.clkTrail
  let mclk := orDefault 1 0 p.mclk
  let inRange := decide (format ≤ 2 ∧ role ≤ 1 ∧ 2 ≤ slots ∧ slots ≤ 16 ∧ slots % 2 = 0 ∧ mclk ≤ 2)
    && decide (bits = 16 ∨ bits = 24 ∨ bits = 32) && decide (16 ≤ lead ∧ lead ≤ 4096 ∧ 16 ≤ trail ∧ trail ≤ 4096)
  let clocked := decide (role = 1) || (decide (bits ≠ 24) && decide (slots = 2 ∨ slots = 4 ∨ slots = 8 ∨ slots = 16))
  if inRange && clocked then
    some { format := format, slave := decide (role = 1), slots := slots, bits := bits, clkLead := lead, clkTrail := trail,
           mclk := mclk }
  else none

/-- A flow is bound to a slot pair of the port at or above `pairs`. -/
def pairBeyond (p pairs : Nat) (m : Part) : Bool :=
  m.flows.any fun f =>
    match f.2.target with
    | .port q k => decide (q = p ∧ pairs ≤ k)
    | _ => false

/-- The checks of AUDIO_PORT_CONFIG. -/
def portConfigStatus (p : PortParams) (m : Part) : Nat :=
  match portCfg p with
  | none => stBadParam
  | some c =>
    firstStatus [
      (decide (8 ≤ p.port) || pairBeyond p.port (c.slots / 2) m, stBadParam),
      (decide ((port p.port m).state ≠ .idle), stBusy)]

/-- MCLKOUT runs at the highest MCLK of the configured ports (R406): 0 held low, 1 256 fs, 2 512 fs. -/
def settleMclk (m : Part) : Part := { m with mclk := (m.ports.map fun x => x.cfg.elim 0 PortCfg.mclk).foldl max 0 }

/-- AUDIO_PORT_CONFIG takes effect. -/
def performPortConfig (p : PortParams) : Perform := fun _ _ m =>
  (settleMclk (onPort p.port (fun x => { x with cfg := portCfg p }) m), reply stOk)

/-- AUDIO_PORT_CONFIG (R402). -/
def execAudioPortConfig (d : Desc) (p : PortParams) (s : State) : Host.Outcome State Fault Refusal :=
  s.run (accept d (.audioPortConfig p) (portConfigStatus p) (performPortConfig p))

/-! ## Starting (R408, R410) -/

/-- The action starts port `p`. -/
def startsPort (p : Nat) (a : Action) : Bool := decide (a.cmd = .audioPortStart p)

/-- A start of port `p` has been accepted and has not completed. (DESIGN CHOICE / DEDUCED, log 49) -/
def startPending (p : Nat) (m : Part) : Bool := (port p m).start.isSome || m.sched.queue.any (startsPort p)

/-- The checks of AUDIO_PORT_START at acceptance: a configured port, a first frame on the grid of a master port, no start
pending. -/
def portStartStatus (d : Desc) (p : Nat) (m : Part) : Nat :=
  firstStatus [
    (decide (8 ≤ p) || (port p m).cfg.isNone, stBadParam),
    (decide (d.due ≠ 0 ∧ portTick (.audioPortStart p) d.due m ≠ d.due), stBadParam),
    (startPending p m, stBusy)]

/-- A trail that has ended leaves the port IDLE (R409, R410). -/
def settleTrail (p : Nat) (m : Part) : Part :=
  if (port p m).state = .trail ∧ (port p m).trailEnd.all fun e => decide (e ≤ m.clock.elapsed) then
    onPort p (fun x => { x with state := .idle, trailEnd := none }) m
  else m

/-- The clock start of a start whose first data frame is due at HT `due`: an IDLE port enters LEAD, its counters cleared, its word
counter to be locked afresh and the delays of its pairs to be fixed again; any other state leaves the port as it is (R408, R410,
R411, R421). -/
def clockStart (p due : Nat) (m : Part) : Part :=
  let m := settleTrail p m
  if (port p m).state = .idle then
    onPort p (fun x => { x with
      state := .lead, start := some { verdict := .lead, due := due }, trailEnd := none, frame := 0, good := 0,
      locked := !x.slave, out := [], lastIn := [], txFill := 16, rxFill := 16, lastTx := none, lastRx := none, slipped := false,
      counters := List.replicate 16 0, skew := 0,
      pairs := (x.pairs.filter fun q => q.flow.isSome).map fun q => { q with delay := none, last := none } }) m
  else onPort p (fun x => { x with start := some { verdict := .busy, due := due } }) m

/-- AUDIO_CLOCK_START (R408): CLK_LEAD frames before the first data frame of a start. -/
def execAudioClockStart (t port : Nat) (s : State) : Host.Outcome State Fault Refusal :=
  s.runIf (decide (port < 8)) (onTick t fun m =>
    let x := Sys2Proof.Machine.port port m
    match m.sched.queue.find? (startsPort port) with
    | none => m
    | some a =>
      if x.start.isNone ∧ a.due ≤ m.clock.ht + 512 * x.cfg.elim 0 PortCfg.clkLead then clockStart port a.due m else m)

/-- AUDIO_PORT_START comes to its tick: it ends with ST_BUSY or ST_ABORTED as its clock start or a stop decided, else it completes
when the first data frame begins. -/
def performPortStart (p : Nat) : Perform := fun d o m =>
  let m := if (port p m).start.isNone then clockStart p m.clock.ht m else m
  match (port p m).start with
  | none => (m, reply stBusy)
  | some st =>
    match st.verdict with
    | .busy => (onPort p (fun x => { x with start := none }) m, reply stBusy)
    | .aborted => (onPort p (fun x => { x with start := none }) m, reply stAborted)
    | .lead => (onPort p (fun x => { x with start := some { st with job := some (d, o) } }) m, none)

/-- AUDIO_PORT_START (R408). -/
def execAudioPortStart (d : Desc) (port : Nat) (s : State) : Host.Outcome State Fault Refusal :=
  s.run (accept d (.audioPortStart port) (portStartStatus d port) (performPortStart port))

/-- A start that the scheduled-action queue still holds comes to its tick with the first data frame. -/
def takeStart (p : Nat) (m : Part) : Part :=
  match m.sched.queue.find? (startsPort p) with
  | none => m
  | some a =>
    let o := if a.late then a.origin.late else a.origin
    onPort p (fun x => { x with start := x.start.map fun st => { st with job := some (a.desc, o) } })
      (keepQueue (fun b => decide (b.order ≠ a.order)) m)

/-- The first data frame of a start begins: the port runs and the start completes (R408). -/
def firstFrame (p : Nat) (m : Part) : Part :=
  let x := port p m
  match x.start with
  | none => m
  | some st =>
    if x.state = .lead ∧ st.due ≤ m.clock.ht ∧ x.locked ∧ (x.slave ∨ tau m % 512 = 0) then
      let m := takeStart p m
      let job := (port p m).start.bind PortStart.job
      let m := onPort p (fun x => { x with state := .run, start := none }) m
      match job with
      | some (d, o) => finish d o 0x59 { status := stOk } m
      | none => m
    else m

/-- AUDIO_FIRST_FRAME (R408). -/
def execAudioFirstFrame (t port : Nat) (s : State) : Host.Outcome State Fault Refusal :=
  s.runIf (decide (port < 8)) (onTick t (firstFrame port))

/-! ## Input and stalls (R413, R415) -/

/-- The flows that take the input of port `p`, slot pair `k` (R351). -/
def inputFlows (p : Nat) (keep : Nat → Bool) (m : Part) : List Nat :=
  flowsWhere (fun f => decide (f.type = 1 ∧ f.subtype = 1 ∧ f.source % 256 = p) && keep (f.source / 256)) m

/-- `n` input frames of a port with the same slot words, the first stamped `ht` (τ `t`), enter the flows of its pairs (R405, R413).
(DESIGN CHOICE / DEDUCED, log 48) -/
def inputFrames (p n ht : Nat) (t : Int) (flags : Nat) (words : List Nat) (m : Part) : Part :=
  (port p m).cfg.elim m fun c =>
    (inputFlows p (fun k => decide (k < c.slots / 2)) m).foldl (fun m f =>
      let k := (flow f m).elim 0 fun x => x.source / 256
      appendFixed f (n + 1) {
        n := n, unit := 8, step := 512, per := 1, ht := ht, tau := t, flags := flags, chans := 2, plan := 0,
        data := (List.replicate n (pairSamples c k words)).flatten } m) m

/-- Count `n` happenings in counter `i` of a port, saturating (R421). -/
def countPort (p i n : Nat) (m : Part) : Part :=
  onPort p (fun x => { x with counters := x.counters.modify i fun v => min (2 ^ 32 - 1) (v + n) }) m

/-- Frames of the internal grid that fall due after elapsed tick `a` up to the present. -/
def framesDue (a : Nat) (m : Part) : Nat :=
  let here := tau m
  (here / 512 - (here - ((m.clock.elapsed - a : Nat) : Int)) / 512).toNat

/-- Follow a stall up to the present: each transmit frame that fell due was dropped, each receive frame repeated the last one with
SLIPPED, and both count as slips (R415). (DESIGN CHOICE / DEDUCED, log 49) -/
def followStall (p : Nat) (m : Part) : Part :=
  let x := port p m
  if x.state ≠ .stalled ∨ x.held = .lead then m
  else
    let n := framesDue x.stallDue m
    let last := tau m / 512 * 512
    let first := last - 512 * ((n : Int) - 1)
    let m := onPort p (fun x => { x with stallDue := m.clock.elapsed }) m
    if n = 0 then m
    else
      inputFrames p n (first + m.clock.grid).toNat first flagSlipped x.lastIn (countPort p 3 n (countPort p 0 n m))

/-- AUDIO_STALL (R415): no BCLK edge of a slave port for 2048 ticks. -/
def execAudioStall (t port : Nat) (s : State) : Host.Outcome State Fault Refusal :=
  s.runIf (decide (port < 8)) (onTick t fun m =>
    let x := Sys2Proof.Machine.port port m
    if x.slave ∧ (x.state = .run ∨ x.state = .hazard ∨ x.state = .lead) then
      raise (224 + port) 0x68 [⟨0, 1, port⟩, ⟨4, 4, x.frame - 1⟩]
        (onPort port (fun x => { x with
          state := .stalled, held := x.state, stalledAt := m.clock.elapsed, stallDue := m.clock.elapsed }) m)
    else m)

/-! ## Stopping (R409) -/

/-- A running port stops on this tick: data ends, the clocks trail for CLK_TRAIL frames, a start in its lead is aborted.
(DESIGN CHOICE / DEDUCED, log 49) -/
def stopPort (p : Nat) (m : Part) : Part :=
  let x := port p m
  if x.state = .idle ∨ x.state = .trail then m
  else
    let m := followStall p m
    let m := breakFlows (inputFlows p (fun _ => true) m) m
    let m := onPort p (fun x => { x with
      state := .trail, out := [], trailEnd := some (m.clock.elapsed + 512 * x.cfg.elim 0 PortCfg.clkTrail),
      start := x.start.map fun st => if st.verdict = .lead then { st with verdict := .aborted } else st }) m
    match x.start with
    | some st =>
      match st.job with
      | some (d, o) => finish d o 0x59 { status := stAborted } (onPort p (fun x => { x with start := none }) m)
      | none => m
    | none => m

/-- AUDIO_PORT_STOP executes. (DESIGN CHOICE / DEDUCED, log 49) -/
def performPortStop (p : Nat) : Perform := fun _ _ m => (stopPort p m, reply stOk)

/-- Checks of AUDIO_PORT_STOP. (DESIGN CHOICE / DEDUCED, log 49) -/
def portStopStatus (p : Nat) (_ : Part) : Nat := if 8 ≤ p then stBadParam else stOk

/-- AUDIO_PORT_STOP (R409). -/
def execAudioPortStop (d : Desc) (port : Nat) (s : State) : Host.Outcome State Fault Refusal :=
  s.run (accept d (.audioPortStop port) (portStopStatus port) (performPortStop port))

/-- AUDIO_TRAIL_END (R409). -/
def execAudioTrailEnd (t port : Nat) (s : State) : Host.Outcome State Fault Refusal :=
  s.runIf (decide (port < 8)) (onTick t (settleTrail port))

/-! ## Underruns, overruns and the swap hazard (R416-R418) -/

/-- Underruns and overruns of a port since its start. -/
def Port.xruns (x : Port) : Nat := ((x.counters.drop 4).take 4).sum

/-- A multi-slot port runs on from the word it had reached, so that its slots are shifted by what was lost (R417): the bits by which an FS
edge came early, else a number of bits that the spec leaves open. (DESIGN CHOICE, log 49) -/
def shiftSlots (p : Nat) (lost : Option Nat) (m : Part) : Part :=
  let (n, m) := fresh m
  onPort p (fun x => { x with
    skew := (x.skew + lost.getD (Config.bitsLost n)) % max 1 (x.cfg.elim 0 PortCfg.frameBits) }) m

/-- An underrun (`ovr` false) or overrun of a port that runs, in which `lost` bits were lost: a single-pair format realigns and stays in RUN,
another enters HAZARD (R417). (DESIGN CHOICE / DEDUCED, log 49) -/
def portXrun (p : Nat) (ovr : Bool) (cause : Nat) (lost : Option Nat) (m : Part) : Part :=
  let x := port p m
  match x.cfg with
  | none => m
  | some c =>
    if x.state ≠ .run ∧ x.state ≠ .hazard then m
    else
      let hazard := decide (x.state = .hazard) || !c.singlePair
      let m := countPort p (4 + cause) 1 m
      let m := if c.singlePair then m else shiftSlots p lost m
      let m := raise (224 + p) 0x6A
        [⟨0, 1, p⟩, ⟨1, 1, if ovr then 1 else 0⟩, ⟨2, 1, cause⟩, ⟨3, 1, if hazard then 1 else 0⟩, ⟨4, 4, x.frame - 1⟩,
         ⟨8, 4, (port p m).xruns⟩] m
      if hazard ∧ x.state = .run then
        raise (224 + p) 0x6B [⟨0, 1, p⟩, ⟨1, 1, c.format⟩, ⟨2, 1, c.slots⟩, ⟨4, 4, x.frame - 1⟩]
          (onPort p (fun x => { x with state := .hazard }) m)
      else m

/-- The cause fits the port's role and the direction (R417): 0 FS_EARLY, 1 FS_LATE, 2 FIFO_LIMIT, 3 DRAM.
(DESIGN CHOICE / DEDUCED, log 49) -/
def xrunFits (x : Port) (dir : PortDir) (ovr : Bool) (cause : Nat) : Bool :=
  match cause with
  | 0 => x.slave && !ovr
  | 1 => x.slave && ovr
  | 2 => x.slave && decide (dir = .rx) == ovr
  | 3 => true
  | _ => false

/-- AUDIO_XRUN (R417). -/
def execAudioXrun (t port : Nat) (dir : PortDir) (overrun : Bool) (cause : Nat) (s : State) : Host.Outcome State Fault Refusal :=
  s.runIf (decide (port < 8)) (onTick t fun m =>
    if xrunFits (Sys2Proof.Machine.port port m) dir overrun cause then portXrun port overrun cause none m else m)

/-- The word counter of a slave port in LEAD locks to the first FS edge that follows two whole frames with the correct BCLK count
(R408). -/
def lockWord (p bclks : Nat) (edge : Bool) (m : Part) : Part :=
  onPort p (fun x =>
    if x.locked then x
    else
      let good := if edge ∧ x.cfg.any (fun c => decide (c.frameBits = bclks)) then x.good + 1 else 0
      { x with good := good, locked := decide (2 ≤ good) }) m

/-- AUDIO_FS_EDGE (R416): an FS edge after `bclks` BCLKs, or (`edge` false) none when the count reaches `bclks`.
(DESIGN CHOICE / DEDUCED, log 49) -/
def execAudioFsEdge (t port bclks : Nat) (edge : Bool) (s : State) : Host.Outcome State Fault Refusal :=
  s.runIf (decide (port < 8)) (onTick t fun m =>
    let x := Sys2Proof.Machine.port port m
    match x.cfg with
    | none => m
    | some c =>
      if !c.slave then m
      else if x.state = .lead then lockWord port bclks edge m
      else if edge && decide (bclks < c.frameBits) then portXrun port false 0 (some (c.frameBits - bclks)) m
      else if !edge && decide (c.frameBits ≤ bclks) then portXrun port true 1 none m
      else m)

/-- AUDIO_RESUME (R415): BCLK returns; the first FS edge is where the held word counter expects it, or an FS glitch follows.
(DESIGN CHOICE / DEDUCED, log 49) -/
def execAudioResume (t port : Nat) (aligned : Bool) (s : State) : Host.Outcome State Fault Refusal :=
  s.runIf (decide (port < 8)) (onTick t fun m =>
    let x := Sys2Proof.Machine.port port m
    if x.state ≠ .stalled then m
    else
      let n := if x.held = .lead then 0 else framesDue x.stalledAt m
      let m := followStall port m
      let m := raise (224 + port) 0x69
        [⟨0, 1, port⟩, ⟨1, 1, if aligned then 1 else 0⟩, ⟨4, 4, (m.clock.elapsed - x.stalledAt) / 512⟩, ⟨8, 4, n⟩, ⟨12, 4, n⟩]
        (onPort port (fun x => { x with state := x.held }) m)
      if aligned then m
      else if x.held = .lead then onPort port (fun x => { x with good := 0 }) m
      else portXrun port false 0 none m)

/-! ## Slips (R414) -/

/-- AUDIO_SLIP (R414): a FIFO of a slave port stands at `fill` frames. At 18 one frame is dropped, at 14 one is repeated, at most once in
64 frames of a direction. (DESIGN CHOICE / DEDUCED, log 48) -/
def execAudioSlip (t port fill : Nat) (dir : PortDir) (s : State) : Host.Outcome State Fault Refusal :=
  s.runIf (decide (port < 8)) (onTick t fun m =>
    let x := Sys2Proof.Machine.port port m
    if !x.slave ∨ (x.state ≠ .run ∧ x.state ≠ .hazard) ∨ 32 < fill then m
    else
      let last := if dir = .tx then x.lastTx else x.lastRx
      let free := last.all fun f => decide (f + 64 ≤ x.frame)
      let slips := free && decide (18 ≤ fill ∨ fill ≤ 14)
      let fill' := if slips then (if 18 ≤ fill then fill - 1 else fill + 1) else fill
      let kind := if 18 ≤ fill then 0 else 1
      match dir with
      | .tx =>
        let m := onPort port (fun x => { x with txFill := fill', lastTx := if slips then some x.frame else x.lastTx }) m
        if slips then countPort port kind 1 m else m
      | .rx =>
        let m := onPort port (fun x => { x with
          rxFill := fill', lastRx := if slips then some x.frame else x.lastRx, slipped := x.slipped || slips }) m
        if slips then countPort port (2 + kind) 1 m else m)

/-! ## Presentation (R411, R412) -/

/-- The presentation delay of a pair's flow, in ticks: its delay or its group's, or what the first staged record fixed (R411). -/
def pairDelay (q : SlotPair) (f : Flow) (m : Part) : Option Int :=
  if delayOf f m = 0 then q.delay else some (delayOf f m * msTicks : Nat)

/-- The sample of a record nearest to τ `x`, the earlier of two (R411). (DESIGN CHOICE / DEDUCED, log 48) -/
def sampleAt (r : Record) (x : Int) : Int := -((-(x - r.tau - 256)) / 512)

/-- The record of a list, and its sample, that is due at τ `x`. (DESIGN CHOICE / DEDUCED, log 48) -/
def dueSample (x : Int) : List Record → Option (Record × Nat)
  | [] => none
  | r :: rest =>
    let i := sampleAt r x
    if 0 ≤ i ∧ i < r.count then some (r, i.toNat) else dueSample x rest

/-- Records that lie wholly before the sample due at τ `x` leave staging. (DESIGN CHOICE / DEDUCED, log 48) -/
def dropPast (x : Int) (rs : List Record) : List Record := rs.dropWhile fun r => decide ((r.count : Int) ≤ sampleAt r x)

/-- The words of sample `i` of a record, as far as they are known (R372, R411). -/
def Record.sampleWords (r : Record) (i : Nat) : List Int :=
  let unit := 4 * r.chans
  if r.zeros.any fun z => decide (z.1 < unit * (i + 1) ∧ unit * i < z.1 + z.2) then List.replicate r.chans 0
  else (r.data.find? fun d => decide (d.1 ≤ i ∧ r.chans * (i - d.1) < d.2.length)).elim [] fun d =>
    (d.2.drop (r.chans * (i - d.1))).take r.chans

/-- The word in slot `s` of the frame that a port sends (R405); none where its sample is not known. -/
def Port.slotOut (x : Port) (c : PortCfg) (s : Nat) : Option (BitVec 32) :=
  match x.out.find? fun o => decide (o.pair = s / 2) with
  | none => some 0
  | some o => (o.words[if o.mono then 0 else s % 2]?).map fun v => slotWord c.bits (BitVec.ofInt 24 v)

/-- The words of the frame that a port sends, in the order of its format (R404). -/
def Port.sdo (x : Port) : List (Option (BitVec 32)) :=
  x.cfg.elim [] fun c => (slotOrder c.format c.slots).map (x.slotOut c)

/-- A pair carries zeros in a frame because nothing is staged: a content underrun (R412). (DESIGN CHOICE / DEDUCED, log 48) -/
def contentUnderrun (p k : Nat) (m : Part) : Part := countPort p (8 + k) 1 m

/-- What a slot pair carries in the frame that begins now (R411, R412). A sample already presented is not presented again.
(DESIGN CHOICE / DEDUCED, log 48) -/
def presentPair (p : Nat) (q : SlotPair) (m : Part) : Part :=
  match q.flow.bind fun n => (flow n m).map fun f => (n, f) with
  | none => contentUnderrun p q.pair m
  | some (n, f) =>
    match pairDelay q f m with
    | none => contentUnderrun p q.pair m
    | some delay =>
      let x := tau m - delay
      let m := onFlow n (fun f => { f with staged := dropPast x f.staged }) m
      match dueSample x f.staged with
      | none => if q.last.any fun l => decide (x ≤ l) then m else contentUnderrun p q.pair m
      | some (r, i) =>
        let at_ : Int := r.tau + 512 * (i : Int)
        if q.last.any fun l => decide (at_ ≤ l) then m
        else
          onPort p (fun y => { y with
            out := y.out ++ [{ pair := q.pair, flow := n, seq := r.seq, index := i, mono := decide (r.chans = 1), words := r.sampleWords i }],
            pairs := y.pairs.map fun z => if z.pair = q.pair then { z with last := some at_ } else z }) m

/-- A frame of a running port begins: the slot words of its input are taken, each slot pair presents its sample (R411-R413). A slave's input
has waited in its FIFO. -/
def portFrame (p : Nat) (sdi : List Nat) (m : Part) : Part :=
  let x := port p m
  if tau m % 512 ≠ 0 ∨ (x.state ≠ .run ∧ x.state ≠ .hazard) then m
  else
    let wait := if x.slave then 512 * x.rxFill else 0
    let m := inputFrames p 1 (m.clock.ht - wait) (tau m - wait) (flagIf x.slipped flagSlipped) sdi m
    let m := onPort p (fun y => { y with frame := y.frame + 1, slipped := false, lastIn := sdi, out := [] }) m
    freeCaptures ((port p m).pairs.foldl (fun m q => presentPair p q m) m)

/-- AUDIO_PORT_FRAME (R411). (DESIGN CHOICE / DEDUCED, log 48) -/
def execAudioPortFrame (t : Nat) (f : PortFrame) (s : State) : Host.Outcome State Fault Refusal :=
  s.runIf (decide (f.port < 8)) (onTick t (portFrame f.port f.sdi))

end Sys2Proof.Machine
end

