-- ==== Sys2Proof/Machine/Clocking.lean ====
section
/-! DEFINITION. House time and the synthesizers (R40-R49, R61-R90, R163, R164): the SPLL, PPSIN, slews and steps, SYNCIN, the tile
switches and CLOCK_CONFIG. -/

namespace Sys2Proof.Machine

/-! ## HT state (R43, R76) -/

/-- The time master is another part that this part follows. -/
def otherMaster (m : Part) : Bool := !m.chain.quarantined && m.chain.master.any fun a => decide (a ≠ ownAddr m)

/-- The source that the part acts on (R434): with source LOCAL it follows a master that is another part as though its source were
CHAIN. -/
def effSource (m : Part) : HtSource := if m.clock.source = .loc ∧ otherMaster m then .chain else m.clock.source

/-- A time master is reachable and locked (Table HTM-2, R434). -/
def masterGood (m : Part) : Bool := otherMaster m && m.chain.masterLocked

/-- The HT state that source and SPLL give. -/
def htStateOf (m : Part) : HtState :=
  match effSource m, m.spll.state with
  | .free, _ => .free
  | _, .free => .free
  | .loc, .locked => .locked
  | .chain, .locked => if masterGood m then .follow else .coast
  | _, _ => .coast

/-- The part claims the time master role (R434, R439). -/
def ownClaim (m : Part) : Bool := decide (m.clock.source = .loc) && !m.chain.quarantined

/-- Flood this part's claim, in a chain that has other parts (R434). -/
def flood (m : Part) : Part :=
  if m.chain.parts ≤ 1 then m else send 65535 (.claim { claims := ownClaim m, locked := decide (m.clock.state = .locked) }) m

/-- Bring the HT state in line and set ALIGNED; one EV_HT_STATE when either changes (R43). A claimant tells the chain of its lock. -/
def setHt (aligned : Bool) (m : Part) : Part :=
  let st := htStateOf m
  let aligned := aligned && decide (st ≠ .free) && decide (effSource m ≠ .chain ∨ st = .follow)
  let tell := ownClaim m && (decide (st = .locked) != decide (m.clock.state = .locked))
  if m.clock.state = st ∧ m.clock.aligned = aligned then m
  else
    let m := raise 0 0x01 [⟨0, 1, st.code⟩, ⟨1, 1, if aligned then 1 else 0⟩, ⟨2, 1, m.clock.source.code⟩]
      { m with clock := { m.clock with state := st, aligned := aligned } }
    if tell then flood m else m

/-- Bring the HT state in line with the SPLL. -/
def refreshHt (m : Part) : Part := setHt m.clock.aligned m

/-! ## Demands, slews and steps (R61-R66) -/

/-- STEP_LIMIT in 1/1024 tick. -/
def stepLimitTicks (m : Part) : Nat := m.clock.stepLimit * 24576 * 1024 / 1000

/-- Ticks that a change of the offset by `ppb` takes at 5 ppm per second. -/
def rampFor (ppb : Nat) : Nat := ppb * ticksPerSecond / 5000

/-- The elapsed tick on which a slew ends. -/
def Slew.ends (s : Slew) : Nat := s.since + s.up + s.flat + s.down

/-- 1/1024 tick in ppb times ticks, doubled. -/
abbrev demandUnit : Int := 1953125

/-- The slew that removes `e` (1/1024 tick) from an offset `g` (ppb) on: the offset runs at 5 ppm per second to its peak, which SLEW_LIMIT
bounds, stays there and runs back to zero, so that its sum over time is the demand (R64). (DEDUCED, log 14) -/
def planSlew (e g : Int) (limitPpm now : Nat) : Slew :=
  let sign : Int := if e * demandUnit * 5000 < g * g.natAbs * ticksPerSecond then -1 else 1
  let e' := sign * e
  let g' := sign * g
  let square := (e' * demandUnit * 5000 / (2 * ticksPerSecond) + g' * g' / 2).toNat
  let peak : Nat := min (1000 * limitPpm) (isqrt square)
  let up := (peak - g').natAbs
  let ramps := (peak * peak : Int) + up * (peak + g')
  let flat := (e' * demandUnit / 2 - ramps * ticksPerSecond / 10000) / max 1 peak
  { demand := e, since := now, from_ := g, peak := sign * peak, up := rampFor up, flat := flat.toNat, down := rampFor peak }

/-- The offset of the running slew now, in ppb. -/
def slewOffset (m : Part) : Int := m.clock.slew.elim 0 fun x => x.offset m.clock.elapsed

/-- The SPLL's phase term removes a demand below one tick at SLEW_LIMIT, at once and with no event (R64, R81). -/
def startPhase (e : Int) (m : Part) : Part :=
  if e = 0 then m
  else
    let now := m.clock.elapsed
    let limit := m.clock.slewLimit
    { m with clock := { m.clock with phaseTerm := some {
        demand := e, since := now, until_ := now + ceilDiv (e.natAbs * 1000000) (1024 * max 1 limit),
        offset := if e < 0 then -(1000 * limit : Int) else 1000 * limit } } }

/-- Slew by a demand from the offset of this moment (R63, R64). A demand below one tick is the phase term's, with no slew event, and an
offset still at work runs back to zero within a slew that removes nothing. (DEDUCED, log 14) -/
def startSlew (e : Int) (m : Part) : Part :=
  let g := slewOffset m
  let by_ (e : Int) : Slew := planSlew e g m.clock.slewLimit m.clock.elapsed
  if e.natAbs < 1024 then
    startPhase e { m with clock := { m.clock with slew := if g = 0 then none else some (by_ 0) } }
  else raise 3 0x06 [⟨0, 8, roundDiv e 1024⟩] { m with clock := { m.clock with slew := some (by_ e) } }

/-- A step that waits: a new demand takes the place of the one before it, and never of an epoch set (R61, R63). The tick that a marker has
fixed for the demand before it stays the step tick of the new one (R66). (DEDUCED, log 17) -/
def putStep (st : Step) (m : Part) : Part :=
  let kept := m.clock.steps.filter fun x => decide (x.epoch.isSome ≠ st.epoch.isSome)
  let old := (m.clock.steps.find? fun x => decide (x.epoch.isSome = st.epoch.isSome)).bind (·.tick)
  { m with clock := { m.clock with steps := kept ++ [{ st with tick := st.tick.or (if st.epoch.isNone then old else none) }] } }

/-- A demand that steps by its whole ticks, and leaves the rest to its step tick (R63). It takes the place of the remainder of a running
slew at once, whose offset then runs back to zero and removes nothing more. (DEDUCED, log 14) -/
def stepBy (e : Int) (tick : Option Nat) (edge : Bool) (grid : Option Int) (m : Part) : Part :=
  let steps := Int.tdiv e 1024
  putStep { tick := tick, steps := steps, rem := e - 1024 * steps, epoch := none, grid := grid, edge := edge }
    (if m.clock.slew.isSome then startSlew 0 m else m)

/-- Resolve a demand of `e` (1/1024 tick) whose step tick would be `tick`, an old count (R63, R66): it takes the place of a demand whose
step still waits. (DEDUCED, log 14) -/
def resolveDemand (e : Int) (tick : Option Nat) (edge : Bool) (grid : Option Int) (m : Part) : Part :=
  if e.natAbs ≤ stepLimitTicks m then
    startSlew e { m with clock := { m.clock with steps := m.clock.steps.filter fun x => x.epoch.isSome } }
  else stepBy e tick edge grid m

/-- Every open record closes at the last sample before the step, and the next of every flow carries DISCONTINUITY (R60). A CIRCULAR capture
that runs has delivered nothing yet: of what it holds, the first group after the step begins the record so marked. -/
def closeForStep (m : Part) : Part :=
  let m := (m.ctxs.map (·.1)).foldl (fun m c => flushUp c m) m
  let m := catchCaptures m
  let m := cutCaptures m.captures [] m
  breakFlows ((flowsWhere (fun _ => true) m).filter fun n =>
    !m.captures.any fun c => decide (c.flow = n) && c.circular && !c.stopped) m

/-- How a step meets a running slew (R63, R64, R66): a demand that steps has replaced it on arrival, and its own remainder is the phase
term's; an epoch set drops its remainder when the step tick is a PPSIN edge, and else leaves it. -/
def stepSlew (s : Step) (m : Part) : Part :=
  match s.epoch with
  | none => startPhase s.rem m
  | some _ => if s.edge ∧ m.clock.slew.isSome then startSlew 0 m else m

/-- The count takes its corrected value on the step tick (R66, R148); a PPS step leaves HT aligned. (DEDUCED, log 14) -/
def applyStep (s : Step) (m : Part) : Part :=
  let m := closeForStep m
  let old := m.clock.ht
  let new_ : Nat := match s.epoch with
    | some e => e * ticksPerSecond
    | none => ((old : Int) + s.steps).toNat
  let delta := (new_ : Int) - old
  let m := { m with
    clock := { m.clock with
      ht := new_, grid := s.grid.getD (m.clock.grid + delta), steps := m.clock.steps.filter fun x => decide (x ≠ s) },
    pps := { m.pps with offsets := [] } }
  let m := stepSlew s (raise 3 0x08 [⟨0, 8, delta⟩] m)
  if s.epoch.isNone ∧ effSource m = .loc then setHt true m else m

/-- HT_SLEW_DONE (R64): the slew's offset has returned to zero. A slew that only brought an offset back to zero has no event. -/
def execHtSlewDone (t : Nat) (s : State) : Host.Outcome State Fault Refusal :=
  s.run (onTick t fun m =>
    match m.clock.slew with
    | none => m
    | some x =>
      if m.clock.elapsed < x.ends then m
      else
        let m := { m with clock := { m.clock with slew := none } }
        if x.demand.natAbs < 1024 then m else raise 3 0x07 [⟨0, 8, roundDiv x.demand 1024⟩] m)

/-- The Oasis stores the current HT (R45). -/
def storeHt (m : Part) : Part :=
  { m with oasis := { m.oasis with lastHt := some m.clock.ht, lastAt := m.clock.elapsed } }

/-- HT_SECONDS_BOUNDARY (R41, R45, R70): PPSOUT pulses for 245,760 ticks and the Oasis stores HT. -/
def execHtSecondsBoundary (t : Nat) (s : State) : Host.Outcome State Fault Refusal :=
  s.run (onTick t fun m =>
    if onSecond m then
      storeHt { m with pins := { m.pins with ppsoutEnd := some (m.clock.elapsed + 245760) } }
    else m)

/-! ## Tile switches (R84-R90) -/

/-- Why a switch is not a plan change. -/
def SwitchKind.search : SwitchKind → Bool
  | .planSearch => true
  | .relockSearch => true
  | _ => false

/-- A plan change, which raises EV_PLAN_SWITCHED. -/
def SwitchKind.isPlan : SwitchKind → Bool
  | .planFast => true
  | .planSearch => true
  | _ => false

/-- The band-memory entry of a plan is stale (R84). -/
def entryStale (t plan : Nat) (m : Part) : Bool :=
  decide (120 < (tileTemp t m - ((tile t m).memory.getD plan {}).temp).natAbs)

/-- The contexts of a tile enter HOLD; ahead of a planned switch their audio is faded out (R86, R198). -/
def holdTile (t : Nat) (planned : Bool) (m : Part) : Part :=
  (ctxsOfTile t m).foldl (fun m c => holdCtx .tile causeTile c (if planned then fadeOut c m else m)) m

/-- The band code and preset that a commit makes live: those in the shadow registers for its plan (R85, R86). -/
def Tile.takeShadow (plan : Nat) (x : Tile) : Tile :=
  match x.shadow with
  | some s => if s.plan = plan then { x with band := s.band, preset := s.preset } else x
  | none => x

/-- The tile moves to the cradle clock (R86, R89): levellers freeze, contexts hold, runs are abandoned, ramps pause, and the shadow
registers become live; a loss of lock freezes the tuning word (R74, R90), and a re-lock from a fresh entry takes band code and preset from
it. (DESIGN CHOICE / DEDUCED, log 18) -/
def beginSwitch (t : Nat) (kind : SwitchKind) (plan : Nat) (byPlan : Option Nat) (m : Part) : Part :=
  let m := catchHalf (2 * t + 1) (catchHalf (2 * t) m)
  let m := holdTile t (kind.isPlan || decide (kind = .rePhase)) m
  let m := onTile t (fun x =>
    let e := x.memory.getD plan {}
    let x := if byPlan.isSome then x.takeShadow plan
      else if kind = .relockFast then { x with band := e.band, preset := e.preset } else x
    { x with switch := some { start := m.clock.elapsed, kind := kind, plan := plan, byPlan := byPlan }, plan := plan,
             frozen := decide (kind = .relockFast ∨ kind = .relockSearch) }) m
  let m := freezeBands (2 * t + 1) (freezeBands (2 * t) m)
  let m := pauseRamp (2 * t + 1) (pauseRamp (2 * t) m)
  abandonRun (2 * t + 1) (abandonRun (2 * t) m)

/-- A tile takes no further part in the HOLD of a committed plan (R340): once none of the plan's tiles is left, its contexts leave HOLD and
the first record of each of their flows carries DISCONTINUITY. -/
def leavePlans (t : Nat) (m : Part) : Part :=
  let left := m.planHolds.map fun p => { p with tiles := p.tiles.filter fun x => decide (x ≠ t) }
  let over_ := left.filter fun p => p.tiles.isEmpty
  let m := { m with planHolds := left.filter fun p => !p.tiles.isEmpty }
  (over_.flatMap PlanHold.ctxs).foldl (fun m c =>
    if m.planHolds.any fun p => p.ctxs.contains c then m else releaseCtx .plan c (breakCtx c (flushUp c m))) m

/-- The tile returns to its sample clock (R86, Table CHN-6): the slicer restarts on τ, chains restart on the plan, contexts leave HOLD,
the first record of each of their flows carries DISCONTINUITY; a search has written a fresh entry (R84). (DESIGN CHOICE / DEDUCED, log 18)
-/
def returnTile (t : Nat) (sw : TileSwitch) (m : Part) : Part :=
  let m := resumeCapture (2 * t + 1) (resumeCapture (2 * t) m)
  let n := m.free
  let m := if sw.kind.search then
      onTile t (fun x => { x with memory := x.memory.set sw.plan { band := n, preset := n, temp := tileTemp t m }, band := n, preset := n })
        { m with free := n + 1 }
    else m
  let m := onTile t (fun x => { x with switch := none, frozen := false }) m
  let m := onHalf (2 * t) (fun x => { x with slicer := [] }) (onHalf (2 * t + 1) (fun x => { x with slicer := [] }) m)
  let m := (ctxsOfTile t m).foldl (fun m c => breakCtx c (restartChain sw.plan c (flushUp c m))) m
  let m := if sw.kind.isPlan then
      raise (8 + t) 0x0D [⟨0, 1, t⟩, ⟨1, 1, sw.plan⟩, ⟨2, 1, if sw.kind.search then 1 else 0⟩] m
    else m
  let m := endHolds (2 * t + 1) (endHolds (2 * t) (leavePlans t m))
  resumeHalf (2 * t + 1) (resumeHalf (2 * t) m)

/-- What happens on the tick after this row's: `f` with the clock there. (DESIGN CHOICE, log 12) -/
def onNextTick (f : Part → Part) (m : Part) : Part :=
  let n := f { m with clock := { m.clock with ht := m.clock.ht + 1, elapsed := m.clock.elapsed + 1 } }
  { n with clock := { n.clock with ht := m.clock.ht, elapsed := m.clock.elapsed } }

/-- TSYN_UNLOCK (R90): the tuning word freezes, and the tile moves to the cradle clock on the next tick; the third loss within 1 s fences
both halves of the tile as well. -/
def execTsynUnlock (t tile : Nat) (s : State) : Host.Outcome State Fault Refusal :=
  s.runIf (decide (tile < tilesFitted s.part)) (onTick t fun m =>
    let x : Tile := m.tiles.getD tile {}
    if x.switch.isSome ∨ x.railOff ∨ x.inReset then m
    else
      let now := m.clock.elapsed
      let stale := entryStale tile x.plan m
      let losses := (now :: x.unlocks).filter fun u => decide (now ≤ u + ticksPerSecond)
      let m := onTile tile (fun x => { x with unlocks := losses, frozen := true }) m
      let m := raise (8 + tile) 0x0C [⟨0, 1, tile⟩, ⟨1, 1, x.plan⟩, ⟨2, 1, if stale then 1 else 0⟩] m
      let m := if 3 ≤ losses.length then fenceTile tile fenceTsyn losses.length m else m
      onNextTick (beginSwitch tile (if stale then .relockSearch else .relockFast) x.plan none) m)

/-- TSYN_RELOCK_RETRY (R90): a re-lock from a fresh entry has not locked within 100 µs (2457.6 ticks). -/
def execTsynRelockRetry (t tile : Nat) (s : State) : Host.Outcome State Fault Refusal :=
  s.runIf (decide (tile < tilesFitted s.part)) (onTick t fun m =>
    onTile tile (fun x => { x with switch := x.switch.map fun w =>
      if w.kind = .relockFast ∧ w.start + 2458 ≤ m.clock.elapsed then { w with kind := .relockSearch } else w }) m)

/-- The re-phase of R81: every tile that is not already switching re-aligns to the moved tick boundary. (DEDUCED, log 16) -/
def rePhase (m : Part) : Part :=
  let m := { m with pps := { m.pps with rePhased := true } }
  let m := breakFlows (flowsWhere (fun _ => true) m) ((m.ctxs.map (·.1)).foldl (fun m c => flushUp c (fadeOut c m)) m)
  (List.range (tilesFitted m)).foldl (fun m t =>
    if (tile t m).switch.isSome ∨ (tile t m).railOff then m else beginSwitch t .rePhase (tile t m).plan none m) m

/-! ## PPSIN (R47-R49, R81) -/

/-- A second, in 1/1024 tick. (DESIGN CHOICE, log 9) -/
abbrev second1024 : Nat := 24576000 * 1024

/-- Offset of an HT instant, in 1/1024 tick, from the nearest seconds boundary. -/
def offsetOf (x : Int) : Int :=
  let r := x % (second1024 : Int)
  if r ≤ 12288000 * 1024 then r else r - second1024

/-- A gap between edges is in cadence: 1.000 s ± 1 ms. (DEDUCED, log 15) -/
def inCadence (gap : Nat) : Bool := decide (second1024 ≤ gap + 24576 * 1024 ∧ gap ≤ second1024 + 24576 * 1024)

/-- EV_PPS events carry the offset in ticks and the stray count. -/
def ppsEvent (code : Nat) (offset : Int) (m : Part) : Part :=
  raise 2 code [⟨0, 8, roundDiv offset 1024⟩, ⟨8, 4, m.pps.strays⟩] m

/-- The offsets of consecutive accepted edges that agree within ±1 tick, newest first. -/
def agreeing (o : Int) (l : List Int) : List Int :=
  match l with
  | [] => [o]
  | p :: _ => if (o - p).natAbs ≤ 1024 then (o :: l).take 3 else [o]

/-- Judge the offset of an accepted edge under source LOCAL; `tick` is the tick that starts at the edge, `rest` the sub-tick residual that
a re-phase has left (R49, R81). An edge in step leaves its residual to the phase term, which removes it long before the next boundary, so
that every boundary from then on lies within an HT-clock cycle of its edge (R48). A demand starts the count of 3 afresh.
(DEDUCED, log 14 and 15) -/
def judgeOffset (o rest : Int) (tick : Nat) (m : Part) : Part :=
  let l := agreeing o m.pps.offsets
  let m := { m with pps := { m.pps with offsets := l } }
  if effSource m ≠ .loc then m
  else if o.natAbs ≤ 1024 then setHt true (if m.clock.slew.isSome then m else startPhase (rest - o) m)
  else
    let m := setHt false (startPhase rest m)
    if l.length = 3 ∧ m.clock.state = .locked then
      resolveDemand (-o) (some tick) true none { m with pps := { m.pps with offsets := [] } }
    else m

/-- The re-phase at the first accepted edge after the first lock: the tick boundary moves by -2 to +1 HT-clock cycles; the offset
that is left is a whole number of ticks, and the residual of less than half a cycle is the phase term's (R81). (DEDUCED, log 16) -/
def rePhaseEdge (o : Int) (m : Part) : Part × Int × Int :=
  if m.pps.rePhased ∨ !m.spll.everLocked then (m, o, 0)
  else
    let q := roundDiv o 256
    let c := (q + 2) % 4 - 2
    (rePhase m, 256 * (q - c), 256 * q - o)

/-- An accepted edge: an epoch set that waits for it takes its tick (R66). A re-phase moves the boundary under the offsets kept from the
edges before it as well, so that they compare with those to come (R49, R81). (DEDUCED, log 14) -/
def acceptEdge (instant : Nat) (o : Int) (tick : Nat) (m : Part) : Part :=
  let m := { m with pps := { m.pps with accepted := some instant } }
  let (m, o', rest) := if effSource m = .loc then rePhaseEdge o m else (m, o, 0)
  let m := { m with pps := { m.pps with offsets := m.pps.offsets.map fun x => x + (o' - o) } }
  if m.clock.steps.any fun st => st.epoch.isSome && st.tick.isNone then
    startPhase rest { m with clock := { m.clock with steps := m.clock.steps.map fun st =>
        if st.epoch.isSome ∧ st.tick.isNone then { st with tick := some tick, edge := true } else st } }
  else judgeOffset o' rest tick m

/-- A PPSIN edge at `instant` (in 1/1024 tick) with its offset and the tick it is nearest to: acquisition counts three edges that each come
1 s after the edge before them, so the first edge after reset, a missing edge or a stray is not one of the three; a stray is counted and
reported, an accepted edge acts (R47-R49). (DEDUCED, log 14 and 15) -/
def ppsEdge (instant : Nat) (o : Int) (tick : Nat) (m : Part) : Part :=
  let p := m.pps
  let m := { m with pps := { p with prev := some instant } }
  if p.acquiring then
    match p.prev with
    | none => { m with pps := { m.pps with count := 0, offsets := [] } }
    | some before =>
      if !inCadence (instant - before) then
        ppsEvent 0x03 o { m with pps := { m.pps with count := 0, offsets := [], strays := p.strays + 1 } }
      else if p.count < 2 then { m with pps := { m.pps with count := p.count + 1, offsets := agreeing o p.offsets } }
      else
        let l := if (agreeing o p.offsets).length = 3 then p.offsets else []
        let m := { m with pps := { m.pps with acquiring := false, afterMissing := false, count := 0, offsets := l } }
        acceptEdge instant o tick (if p.afterMissing then ppsEvent 0x05 o m else m)
  else if p.accepted.any fun a => inCadence (instant - a) then acceptEdge instant o tick m
  else ppsEvent 0x03 o { m with pps := { m.pps with strays := p.strays + 1 } }

/-- PPSIN_EDGE (R49): `sub` is the edge's place in tick `t`, in 1/1024 tick. -/
def execPpsinEdge (t sub : Nat) (s : State) : Host.Outcome State Fault Refusal :=
  s.run (onTick t fun m =>
    let x : Int := (1024 * m.clock.ht + sub : Nat) + 256 * m.clock.ppsDelay
    ppsEdge (1024 * m.clock.elapsed + sub) (offsetOf x) ((x + 512) / 1024).toNat m)

/-- The next seconds boundary, as an old count. -/
def nextSecond (m : Part) : Nat := (m.clock.ht / ticksPerSecond + 1) * ticksPerSecond

/-- PPS_MISSING (R49): no edge in cadence by 1.001 s. An epoch set that waited for an edge now waits for a seconds boundary.
(DEDUCED, log 15) -/
def execPpsMissing (t : Nat) (s : State) : Host.Outcome State Fault Refusal :=
  s.run (onTick t fun m =>
    if m.pps.acquiring || !(m.pps.accepted.any fun a => decide (a + second1024 + 24576 * 1024 ≤ 1024 * m.clock.elapsed)) then m
    else
      let m := { m with
        pps := { m.pps with acquiring := true, afterMissing := true, count := 0, offsets := [] },
        clock := { m.clock with steps := m.clock.steps.map fun st =>
          if st.tick.isNone ∧ st.epoch.isSome then { st with tick := some (nextSecond m) } else st } }
      let m := ppsEvent 0x04 0 m
      if effSource m = .loc then setHt false m else m)

/-! ## SYNCIN (R68) -/

/-- SYNCIN_EDGE (R68). -/
def execSyncinEdge (t : Nat) (s : State) : Host.Outcome State Fault Refusal :=
  s.run (onTick t fun m =>
    let now := m.clock.elapsed
    if m.syncin.last.any fun l => decide (now < l + 2048) then
      { m with syncin := { m.syncin with ignored := m.syncin.ignored + 1 } }
    else
      let fixed : List SyncReset := m.syncin.armed.map fun a => { due := now + 2048, group := a.1, arm := a.2 }
      raise 4 0x09 [⟨0, 4, m.syncin.ignored⟩]
        { m with syncin := { m.syncin with
            last := some now, pending := m.syncin.pending ++ fixed, armed := m.syncin.armed.filter fun a => a.2.every } })

/-- The resets that an edge fixed to this tick take effect (R68). -/
def syncinResets (m : Part) : Part :=
  let due := m.syncin.pending.filter fun r => decide (r.due ≤ m.clock.elapsed)
  let m := { m with syncin := { m.syncin with
    pending := m.syncin.pending.filter fun r => decide (m.clock.elapsed < r.due) } }
  due.foldl (fun m r => resetGroup r.group r.arm.phase r.arm.syncout m) m

/-! ## The SPLL (R71-R82) -/

abbrev lossMissing : Nat := 0
abbrev lossRange : Nat := 1
abbrev lossSource : Nat := 2
abbrev lossCompare : Nat := 3

/-- The SPLL enters a state. -/
def enterSpll (st : SpllState) (f : Spll → Spll) (m : Part) : Part :=
  refreshHt { m with spll := { f m.spll with state := st, entered := m.clock.elapsed } }

/-- EV_REF_LOSS (R76). -/
def refLoss (cause : Nat) (m : Part) : Part := raise 1 0x02 [⟨0, 1, cause⟩] m

/-- Enter HOLDOVER: a missing edge in LOCKED freezes the DCO word as it stands (R74, R78); an out-of-range window takes it back to the
last window that passed both measurements, and RELOCK to the held value (R79, Table CLK-5). -/
def holdover (cause : Nat) (m : Part) : Part :=
  let keep := decide (cause = lossMissing) && decide (m.spll.state = .locked)
  enterSpll .holdover (fun x => if keep then x else { x with dco := x.held }) (refLoss cause m)

/-- The reference of a window lies inside the pull range (R77); with ref AUTO either frequency will do in QUALIFY (R476). -/
def inPull (w : RefWindow) (m : Part) : Bool :=
  decide (w.refPpb.natAbs ≤ 50000)
    && (decide (effSource m = .chain) || decide (w.is25 = m.spll.ref25)
      || (m.spll.refAuto && decide (m.spll.state = .qualify)))

/-- Frequency comparison, with the LOCK_TOL that the window began with (R72, R75). -/
def compares (w : RefWindow) (m : Part) : Bool := decide (w.fbPpb.natAbs ≤ 1000 * m.spll.tolNow)

/-- Ticks of `n` reference cycles: of REFIN, or of the recovered clock of the time port, 98.304 MHz (R72, R435). -/
def refTicks (n : Nat) (m : Part) : Nat :=
  if effSource m = .chain then n / 4 else if m.spll.ref25 then n * 24576 / 25000 else n * 24576 / 10000

/-- The next window begins, with the LOCK_TOL set by then (R75). -/
def nextWindow (m : Part) : Part := { m with spll := { m.spll with tolNow := m.spll.lockTol } }

/-- SPLL_WINDOW_END (R77, Table CLK-5). Where the table says 'steered by the loop', the word that the loop steers to is the reference as a
complete window in pull range has measured it, in RELOCK and LOCKED at the end of that window; ACQUIRE keeps the word that QUALIFY has set.
(DESIGN CHOICE, log 16) -/
def execSpllWindowEnd (t : Nat) (w : RefWindow) (s : State) : Host.Outcome State Fault Refusal :=
  s.run (onTick t fun m => nextWindow <|
    let good := w.complete && inPull w m
    match m.spll.state with
    | .qualify =>
      if good then
        enterSpll (if m.spll.everLocked then .relock else .acquire) (fun x => { x with
          dco := w.refPpb, ref25 := if x.refAuto ∧ effSource m = .loc then w.is25 else x.ref25,
          autoRef := if x.refAuto ∧ effSource m = .loc then some w.is25 else x.autoRef }) m
      else m
    | .acquire => if good then m else enterSpll .qualify id m
    | .relock =>
      if !w.complete then holdover lossMissing m
      else if !inPull w m then holdover lossRange m
      else if !compares w m then holdover lossCompare m
      else enterSpll .locked (fun x => { x with dco := w.refPpb, held := w.refPpb }) m
    | .locked =>
      if !w.complete then holdover lossMissing m
      else if !inPull w m then holdover lossRange m
      else if compares w m then { m with spll := { m.spll with dco := w.refPpb, held := w.refPpb } }
      else { m with spll := { m.spll with dco := w.refPpb } }
    | .holdover => if w.complete then enterSpll .qualify id m else m
    | .free => m)

/-- REFIN_MISSING_EDGE (R78): a part that follows the chain does not run on REFIN. -/
def execRefinMissingEdge (t : Nat) (s : State) : Host.Outcome State Fault Refusal :=
  s.run (onTick t fun m =>
    if effSource m = .chain then m
    else match m.spll.state with
    | .acquire => enterSpll .qualify id m
    | .relock => holdover lossMissing m
    | .locked => holdover lossMissing m
    | _ => m)

/-- SPLL_PHASE_LOCK (R72): not before n_spll reference cycles have passed in ACQUIRE. -/
def execSpllPhaseLock (t : Nat) (s : State) : Host.Outcome State Fault Refusal :=
  s.run (onTick t fun m =>
    if m.spll.state = .acquire ∧ m.spll.entered + refTicks m.spll.nSpll m ≤ m.clock.elapsed then
      enterSpll .locked (fun x => { x with everLocked := true, held := x.dco }) m else m)

/-- SPLL_ACQUIRE_TIMEOUT (R76): 100 ms in ACQUIRE. -/
def execSpllAcquireTimeout (t : Nat) (s : State) : Host.Outcome State Fault Refusal :=
  s.run (onTick t fun m =>
    if m.spll.state = .acquire ∧ m.spll.entered + 2457600 ≤ m.clock.elapsed then enterSpll .qualify id m else m)

/-! ## The time master (R434-R436) -/

/-- The master elected: the lowest claimant among this part and the parts that working links join to it. (DEDUCED, log 50) -/
def electedMaster (m : Part) : Option Nat :=
  let others := (m.chain.claims.filter fun e => e.2.claims && joined (ownAddr m) e.1 m).map (·.1)
  (others ++ if ownClaim m then [ownAddr m] else []).min?

/-- The port and the hops by which time comes from the master (R435). -/
def timePath (m : Part) : Option (Nat × Nat) := m.chain.master.map fun a => (portFor a m, hopsTo a m)

/-- The SPLL takes another reference: it qualifies it afresh, and HT is UNALIGNED. (DEDUCED, log 50) -/
def newReference (m : Part) : Part :=
  let m := if m.spll.state = .locked ∨ m.spll.state = .relock then refLoss lossSource m else m
  let st : SpllState := if m.clock.source = .free then .free else .qualify
  setHt false { m with spll := { m.spll with state := st, entered := m.clock.elapsed } }

/-- The master is elected again after the claims, the links or the source have changed from what they were in `before`. EV_TIME_MASTER
tells of a new master and of the change of another part's lock; a follower's SPLL meets a change of reference, of path and the return of
lock (R434-R436). (DEDUCED, log 50) -/
def elect (before : Part) (m : Part) : Part :=
  let word (a : Option Nat) : Nat := a.getD 0xFFFF
  let old := before.chain.master
  let new_ := electedMaster m
  let lock := (new_.bind fun a => look a m.chain.claims).any fun c => c.locked
  let was := before.chain.masterLocked
  let m := { m with chain := { m.chain with master := new_, masterLocked := lock } }
  let m :=
    if new_ ≠ old then raise 35 0x23 [⟨0, 2, word new_⟩, ⟨2, 2, word old⟩, ⟨4, 1, if new_.isNone then 1 else 0⟩] m
    else if otherMaster m ∧ lock ≠ was then raise 35 0x23 [⟨0, 2, word new_⟩, ⟨2, 2, word old⟩, ⟨4, 1, if lock then 3 else 2⟩] m
    else m
  if effSource m ≠ effSource before then newReference m
  else if effSource m = .chain ∧ otherMaster before ∧ timePath m ≠ timePath before
      ∧ (m.spll.state = .locked ∨ m.spll.state = .relock) then holdover lossMissing m
  else if effSource m = .chain ∧ lock ∧ !was ∧ m.spll.state = .locked then enterSpll .relock id m
  else refreshHt m

/-- MASTER_CLAIM (R434): a claim of the part at `addr` is made, changed or withdrawn. -/
def execMasterClaim (t addr : Nat) (c : Claim) (s : State) : Host.Outcome State Fault Refusal :=
  s.run (onTick t fun m =>
    if addr = ownAddr m then m
    else
      elect m { m with chain := { m.chain with
        claims := if c.claims then put addr c m.chain.claims else erase addr m.chain.claims } })

/-- MASTER_SECONDS_MARKER (R81, R66): the master's seconds marker at `sub`/1024 of tick `t`, after `delayNs` on the way, takes the place of
PPSIN for the re-phase, and tells on which tick the master's seconds boundaries fall: a chain demand steps on the next that has not passed.
(DESIGN CHOICE / DEDUCED, log 17) -/
def execMasterSecondsMarker (t sub : Nat) (delayNs : Nat) (s : State) : Host.Outcome State Fault Refusal :=
  s.run (onTick t fun m =>
    if effSource m ≠ .chain ∨ !otherMaster m then m
    else
      let x : Int := (1024 * m.clock.ht + sub : Nat) - roundDiv (delayNs * 25165824) 1000000000
      let (m, _, rest) := rePhaseEdge (offsetOf x) m
      let k := ((x + 512) / 1024).toNat
      let boundary := if m.clock.ht ≤ k then k else k + ticksPerSecond
      startPhase rest { m with clock := { m.clock with steps := m.clock.steps.map fun st =>
          if st.tick.isNone ∧ st.epoch.isNone then { st with tick := some boundary } else st } })

/-! ## CLOCK_CONFIG (R75) -/

/-- The source that a code names. -/
def sourceOf (code : Nat) : HtSource := if code = 0 then .loc else if code = 1 then .chain else .free

/-- The default of the source (R476): CLK_BOOT_SRC bits [1:0] as they stood at the boot. -/
def bootSource (m : Part) : HtSource := sourceOf (bitsOf m.spll.boot 0 2)

/-- The default of ref_freq (R476): CLK_BOOT_SRC bits [3:2] as they stood at the boot, and with AUTO the frequency that QUALIFY took, once
it has taken one: whether AUTO is still to choose, and whether it is 25 MHz. -/
def bootRef (m : Part) : Bool × Bool :=
  let r := bitsOf m.spll.boot 2 2
  if r ≠ 0 then (false, decide (r = 2)) else (m.spll.autoRef.isNone, m.spll.autoRef.getD m.spll.ref25)

/-- A field is absent or within a range, once its default is applied. -/
def fieldIn (f : Option Nat) (bytes default lo hi : Nat) : Bool :=
  f.all fun v => decide (lo ≤ orDefault bytes default v ∧ orDefault bytes default v ≤ hi)

/-- Acceptance checks of CLOCK_CONFIG (Table CLK-4). All ones is a valid pps_delay. -/
def clockStatus (p : ClockParams) (_ : Part) : Nat :=
  if fieldIn p.source 1 0 0 2 && fieldIn p.refFreq 1 0 0 1 && fieldIn p.lockTol 1 20 2 100 && fieldIn p.slewLimit 1 20 1 100
      && fieldIn p.nSpll 2 512 64 4096 && fieldIn p.nTsyn 2 512 64 4096 && fieldIn p.nKsyn 2 512 64 4096
      && p.ppsDelay.all (fun v => decide (-98304 ≤ v ∧ v ≤ 98304)) && fieldIn p.stepLimit 4 2000 100 500000
      && p.epoch.all (fun e => decide (e * ticksPerSecond < 2 ^ 64)) then stOk
  else stBadParam

/-- The settings that take effect at once. -/
def applyClock (p : ClockParams) (m : Part) : Part :=
  let num (f : Option Nat) (bytes default old : Nat) : Nat := f.elim old (orDefault bytes default)
  { m with
    spll := { m.spll with
      lockTol := num p.lockTol 1 20 m.spll.lockTol, nSpll := num p.nSpll 2 512 m.spll.nSpll,
      nTsyn := num p.nTsyn 2 512 m.spll.nTsyn, nKsyn := num p.nKsyn 2 512 m.spll.nKsyn },
    clock := { m.clock with
      slewLimit := num p.slewLimit 1 20 m.clock.slewLimit, stepLimit := num p.stepLimit 4 2000 m.clock.stepLimit,
      ppsDelay := p.ppsDelay.getD m.clock.ppsDelay } }

/-- A change of source or reference frequency sends the SPLL to QUALIFY or FREE, its word frozen (Table CLK-5). A change of source
leaves HT UNALIGNED. -/
def changeSource (src : HtSource) (auto ref25 : Bool) (m : Part) : Part :=
  let lost := decide (m.spll.state = .locked ∨ m.spll.state = .relock)
  let moved := decide (src ≠ m.clock.source)
  let m := if lost then refLoss lossSource m else m
  let m := { m with
    clock := { m.clock with source := src },
    spll := { m.spll with
      state := if src = .free then .free else .qualify, refAuto := auto, ref25 := ref25, entered := m.clock.elapsed } }
  let m := setHt (m.clock.aligned && !moved) m
  if moved then flood m else m

/-- CLOCK_CONFIG takes effect. -/
def performClock (p : ClockParams) : Perform := fun _ _ m =>
  let before := m
  let m := applyClock p m
  let src := match p.source with
    | none => m.clock.source
    | some 255 => bootSource m
    | some v => sourceOf v
  let (auto, ref25) := match p.refFreq with
    | none => (m.spll.refAuto, m.spll.ref25)
    | some 255 => bootRef m
    | some v => (false, decide (v = 1))
  let m :=
    if src ≠ m.clock.source ∨ ref25 ≠ m.spll.ref25 then
      let m := changeSource src auto ref25 m
      let claimed := electedMaster m
      if claimed = m.chain.master then m else elect { before with clock := m.clock, spll := m.spll } m
    else { m with spll := { m.spll with refAuto := auto } }
  let m := match p.epoch with
    | none => m
    | some e =>
      let tick := if m.clock.aligned ∧ effSource m = .loc then none else some (nextSecond m)
      putStep { tick := tick, steps := 0, rem := 0, epoch := some e, grid := none } m
  (m, reply stOk)

/-- CLOCK_CONFIG (R75). -/
def execClockConfig (d : Desc) (p : ClockParams) (s : State) : Host.Outcome State Fault Refusal :=
  s.run (accept d (.clockConfig p) (clockStatus p) (performClock p))

end Sys2Proof.Machine
end

