-- ==== Sys2Proof/Machine/Ofdm.lean ====
section
/-! DEFINITION. The DAB and DRM demodulators on the chain's outputs: acquisition, tracking, differential demodulation and channel
estimation, to soft bits (R182, R233, R235-R239, R248-R252, R270). What EN 300 401 and ES 201 980 define is `Config`'s. -/

namespace Sys2Proof.Machine

/-! ## Soft bits (R233) -/

/-- A soft bit from an LLR of `num / den` natural-log units: 8 bits signed with 1/8 unit as LSB, saturated at ±127. -/
def softBit (num den : Int) : Int := clampInt (-127) 127 (Config.round (8 * num) den.toNat)

/-- Soft bits of two copies or members, added with saturation; the longer goes on alone (R27, R233, R280). -/
def addSoft : List Int → List Int → List Int
  | [], b => b
  | a, [] => a
  | x :: a, y :: b => clampInt (-127) 127 (x + y) :: addSoft a b

/-- The hard decision of a soft bit: positive is 0. -/
def hardBit (s : Int) : Bool := decide (s < 0)

/-! ## Windows and loops -/

/-- The FFT window moves so that it begins 16 samples before the first path's useful part: by at most 8 samples a frame, or further when two
frames in a row agree. All in 1/16 sample (R238, R250). (DEDUCED, log 31) -/
def moveWindow (first : Int) (p : OfdmPath) : OfdmPath :=
  let move := first - 256
  let target := p.start + move
  if move.natAbs ≤ 128 then { p with start := target, startWant := none }
  else if p.startWant = some target then { p with start := target, startWant := none }
  else { p with start := p.start + clampInt (-128) 128 move, startWant := some target }

/-- A frequency loop moves by an error at its bandwidth and the symbol rate; the offset stays within ±`limit`. -/
def freqStep (bw rate : Nat) (limit err : Int) (p : OfdmPath) : OfdmPath :=
  let (kp, ki) := Config.loopGain bw rate
  { p with freq := clampInt (-limit) limit (p.freq + Config.round (err * (kp + ki)) (2 ^ 32)) }

/-! ## DAB: tracking (R238) -/

/-- The outputs of a copy's chain after its AGC: the demodulator's input (R184). -/
def CopyState.input (c : CopyState) : List (Nat × Cx) :=
  let g := Config.dbGain c.agc
  c.path.out.map fun e => (e.1, (e.2.scale g).narrow 24 65536)

/-- A phase reference that shows nothing breaks off what one frame alone has asked for: the next two must agree. -/
def missPrs (p : OfdmPath) : OfdmPath := { p with shiftWant := none, startWant := none }

/-- A PRS is measured: carrier shift, window and sample clock (R238). In LOST it takes effect whenever it passes; the clock and the window
go on as they were when it fails. -/
def trackPrs (xs : List Cx) (p : OfdmPath) : OfdmPath :=
  let cells (c : Int) : Cx := cellOf xs (c * carrierStep)
  let (shift, l) := bestShift cells
  let refs := (prsAt cells 0).map (·.2)
  let p := { p with last := (List.range 1536).map fun k => cells (dabCarrier k) }
  if !prsPasses l then missPrs p
  else
    let p :=
      if shift = 0 then { p with shiftWant := none }
      else if p.shiftWant = some shift then
        { p with freq := clampInt (-dabCapture) dabCapture (p.freq + shift * carrierStep), shiftWant := none }
      else { p with shiftWant := some shift }
    let pair (z : Cx) : Int × Int := (z.re, z.im)
    { moveWindow (16 * firstPath l) p with
      prs := refs, rate := clampInt (-50000) 50000 (Config.clockOffset (p.prs.map pair) (refs.map pair)) }

/-! ## DAB: differential demodulation (R239) -/

/-- The constellation point nearest to a product, of amplitude `amp` on each axis. -/
def nearestPoint (amp : Int) (z : Cx) : Cx := ⟨if z.re < 0 then -amp else amp, if z.im < 0 then -amp else amp⟩

/-- The point that two decided bits stand for. -/
def decidedPoint (amp : Int) (a b : Bool) : Cx := ⟨if a then -amp else amp, if b then -amp else amp⟩

/-- v(k) from its three estimates. -/
def OfdmPath.variance (p : OfdmPath) (fic : Bool) (k : Nat) : Int :=
  max 1 (Config.variance (p.vFrame.getD k 0) (if fic then 0 else p.vFic.getD k 0) (p.vMean.getD k 0))

/-- The soft bits of a symbol in the order of its bits: the real parts by place of the frequency interleaver, then the imaginary parts. -/
def symbolSoft (p : OfdmPath) (fic erased : Bool) (z : List Cx) : List Int :=
  let at_ (n : Nat) (f : Cx → Int) : Int :=
    match (List.range 1536).find? fun k => decide (Config.carrierPlace k = n) with
    | none => 0
    | some k => if erased then 0 else softBit (2 * f (z.getD k {})) (p.variance fic k)
  (List.range 1536).map (fun n => at_ n Cx.re) ++ (List.range 1536).map fun n => at_ n Cx.im

/-- Squared errors of a symbol's products against points. -/
def symbolErrors (z points : List Cx) : List Int := z.zipWith (fun a b => ((a.sub b).power : Int)) points

/-- Sums by carrier. -/
def addLists : List Int → List Int → List Int
  | [], b => b
  | a, [] => a
  | x :: a, y :: b => (x + y) :: addLists a b

/-- The points of three FIC symbols by the bits that its decoding gives again: bit n of a symbol's real parts, then of its imaginary
parts. -/
def ficPoints (amp : Int) (bits : List Bool) (s : Nat) : List Cx :=
  (List.range 1536).map fun k =>
    let n := 3072 * s + Config.carrierPlace k
    decidedPoint amp (bits.getD n false) (bits.getD (n + 1536) false)

/-- Channel bits that differ from those a decoder's decisions give again, erased ones left out, and the bits examined (R188). -/
def channelErrors (soft : List Int) (bits : List Bool) : Nat × Nat :=
  let l := (soft.zip bits).filter fun e => decide (e.1 ≠ 0)
  ((l.filter fun e => hardBit e.1 != e.2).length, l.length)

/-- The FIC of a frame has been demodulated: its decisions give the exact error on every carrier, which the MER is measured by too
(R188, R239). Symbols in HOLD or SETTLING give none. -/
def noteFic (p : OfdmPath) : OfdmPath :=
  let bits := Config.ficCode p.ficSoft
  let l := p.fic.zipIdx.filter fun e => !e.1.isEmpty
  let errs := l.map fun e => symbolErrors e.1 (ficPoints p.amp bits e.2)
  let sum := errs.foldl addLists []
  let p := { p with
    ficErr := some (channelErrors p.ficSoft bits),
    ideal := p.ideal + (l.flatMap fun e => (ficPoints p.amp bits e.2).map fun (w : Cx) => (w.power : Int)).foldl (· + ·) 0,
    error := p.error + sum.foldl (· + ·) 0 }
  if l.isEmpty then p else { p with vFic := sum.map fun v => Config.round v l.length }

/-- A data symbol's products: soft bits, and what the estimates take from its nearest points, unless it is erased. -/
def dataSymbol (s : Nat) (erased track : Bool) (stop : Nat) (cells : List Cx) (p : OfdmPath) : OfdmPath :=
  let z := cells.zipWith (fun a b => (a.mul b.conj).narrow 40 1) p.last
  let soft := symbolSoft p (decide (s ≤ 4)) erased z
  let points := z.map (nearestPoint p.amp)
  let errs := symbolErrors z points
  let p := { p with
    last := cells,
    errs := if erased then p.errs else addLists p.errs errs,
    whole := if erased then p.whole else p.whole + 1,
    ampSum := if erased then p.ampSum else p.ampSum + (z.map fun (w : Cx) => ((w.re.natAbs + w.im.natAbs : Nat) : Int)).foldl (· + ·) 0 }
  let z := if erased then [] else z
  if s ≤ 4 then
    let p := { p with fic := p.fic ++ [z], ficSoft := p.ficSoft ++ soft }
    if s = 4 then noteFic p else p
  else
    let sym := p.sym ++ [(z, soft)]
    if sym.length < 18 then { p with sym := sym }
    else
      { p with sym := [],
               cifs := ({ stop := stop, soft := sym.flatMap (·.2), z := sym.map (·.1), amp := p.amp, track := track } :: p.cifs).take 448 }

/-- A frame ends: its estimate over its data symbols, those in HOLD or SETTLING left out, is the next frame's (R235, R239).
(DEDUCED, log 31) -/
def endSymbols (p : OfdmPath) : OfdmPath :=
  let p := if p.whole = 0 then p
    else { p with vFrame := p.errs.map (fun v => Config.round v p.whole), amp := Config.round p.ampSum (2 * p.whole * 1536) }
  { p with errs := [], ampSum := 0, whole := 0, fic := [], ficSoft := [], next := 77 }

/-- Elapsed tick at which symbol `s` of a frame ends. -/
def symbolEnd (frame s : Nat) : Nat := frame + 31872 + 30624 * s

/-- One symbol of a DAB frame (Table DIG-2): the guard correlation moves the loop but in LOST and on HOLD or SETTLING samples (R238). -/
def dabSymbol (x : Ctx) (c : CopyState) (bad : List (Nat × Nat)) (s : Nat) (p : OfdmPath) : OfdmPath :=
  let stop := symbolEnd p.frame s
  let erased := decide (0 < spanIn (stop - 30624) stop bad)
  let i : Int := 2656 + 2552 * ((s : Int) - 1)
  let guard := rotated p 12 c.input i 2552
  let xs := rotated p 12 c.input (i + 504 + p.start / 16) 2048
  let p := if erased ∨ c.under = .lost then p
    else freqStep (if c.under = .track then 10 else 50) 803 dabCapture (guardError 504 2048 guard) p
  let p := if s = 1 then
      (if erased then { missPrs p with last := (List.range 1536).map fun k => cellOf xs (dabCarrier k * carrierStep) } else trackPrs xs p)
    else dataSymbol s erased (decide (c.state = .track)) stop ((List.range 1536).map fun k => cellOf xs (dabCarrier k * carrierStep)) p
  if s = 76 ∧ x.cfg.type = 7 then endSymbols p else { p with next := s + 1 }

/-- Several symbols. -/
def dabSymbols (x : Ctx) (c : CopyState) (bad : List (Nat × Nat)) : Nat → OfdmPath → OfdmPath
  | 0, p => p
  | n + 1, p => dabSymbols x c bad n (dabSymbol x c bad p.next p)

/-- The phase that the rotator reaches when its origin moves on by a frame. -/
def frameFrom (frame : Nat) (samples : Int) (p : OfdmPath) : OfdmPath :=
  if p.frame = frame then p
  else { p with frame := frame, next := 1, sym := [], phase := (((p.phase : Int) + p.freq * samples) % 2 ^ 32).toNat }

/-- The elapsed start of the DAB frame in which elapsed tick `stop` lies, the frames beginning where one began on `anchor`. -/
def frameOf (anchor stop : Nat) : Nat := anchor % 2359296 + (stop - 1 - anchor % 2359296) / 2359296 * 2359296

/-- A copy of a DAB context demodulates the symbols of the frame begun on `frame` that have ended by now. -/
def dabUpTo (x : Ctx) (frame : Nat) (m : Part) (c : CopyState) : CopyState :=
  if !c.path.fed then c
  else
    let p := frameFrom frame 196608 c.ofdm
    let done := min 76 ((m.clock.elapsed - frame - 31872) / 30624)
    { c with ofdm := dabSymbols x c (copyExcluded x c m) (done + 1 - p.next) p }

/-! ## The subchannel's logical frames (R244, R265, R270) -/

/-- Soft bit `j` of the CIF that ended on `stop`; what a copy has not demodulated is erased. -/
def cifBit (cifs : List CifSoft) (stop j : Nat) : Int :=
  ((cifs.find? fun f => decide (f.stop = stop)).map fun f => f.soft.getD j 0).getD 0

/-- The elapsed ends of the last `n` CIFs up to one that ended on `stop` in the frame of four CIFs begun on `frame`, oldest first. -/
def cifEnds (frame stop : Nat) : Nat → List Nat
  | 0 => []
  | n + 1 =>
    let first := symbolEnd frame 22
    if stop ≤ first then cifEnds (frame - 2359296) (symbolEnd (frame - 2359296) 76) n ++ [stop]
    else cifEnds frame (stop - 551232) n ++ [stop]

/-- The soft bits of a subchannel's logical frame that CIF `r` of a list of ends begins: `start` and `size` in CUs of 64 bits. -/
def subFrame (cifs : List CifSoft) (ends : List Nat) (start size r : Nat) : List Int :=
  (List.range (64 * size)).map fun i => cifBit cifs (ends.getD (r + Config.cifDelay (i % 16)) 0) (64 * start + i)

/-- One step of the running average with a time constant of 1 s: a symbol of 30,624 ticks gives a carrier two decided bits (R239).
(DEDUCED, log 31) -/
def runningMean (old new_ : Int) : Int := old + Config.round ((new_ - old) * 15312) 24576000

/-- A decided bit of a logical frame refines the running average of the variance of its carrier, and the MER (R188, R239, R270). -/
def refineBit (p : OfdmPath) (stop j : Nat) (bit : Bool) : OfdmPath :=
  match p.cifs.find? fun f => decide (f.stop = stop) with
  | none => p
  | some f =>
    let n := j % 3072 % 1536
    match (List.range 1536).find? fun k => decide (Config.carrierPlace k = n) with
    | none => p
    | some k =>
      let cells := f.z.getD (j / 3072) []
      if cells.isEmpty then p
      else
        let z := cells.getD k {}
        let v := (if j % 3072 < 1536 then z.re else z.im) - (if bit then -f.amp else f.amp)
        { p with
          vMean := if p.vMean.isEmpty then List.replicate 1536 (2 * v * v) else p.vMean.modify k fun w => runningMean w (2 * v * v),
          ideal := p.ideal + f.amp * f.amp, error := p.error + v * v }

/-- The decisions of a logical frame feed the running average. -/
def refineFrame (ends : List Nat) (start r : Nat) (bits : List Bool) (p : OfdmPath) : OfdmPath :=
  bits.zipIdx.foldl (fun p e => refineBit p (ends.getD (r + Config.cifDelay (e.2 % 16)) 0) (64 * start + e.2) e.1) p

/-! ## DRM (R248-R252) -/

/-- One symbol of a DRM frame: its cells and the frequency loop (Table DIG-9); loops rest in LOST and on erased symbols. -/
def drmSymbol (mode occ opened : Nat) (c : CopyState) (bad : List (Nat × Nat)) (s : Nat) (p : OfdmPath × List (Nat × Int × Cx)) :
    OfdmPath × List (Nat × Int × Cx) :=
  let (useful, guard, _) := drmMode mode
  let len := useful + guard
  let k := 24576000 / drmRate mode
  let begin_ := p.1.frame + k * len * s
  let erased := decide (0 < spanIn begin_ (begin_ + k * len) bad)
  let xs := rotated p.1 k c.input ((len * s + guard : Nat) + p.1.start / 16) useful
  let cells := (Config.drmCarriers mode occ).map fun q => (s, q, if erased then ({} : Cx) else cellOf xs (drmStep mode opened q))
  if erased ∨ c.under = .lost then (p.1, p.2 ++ cells)
  else
    let err := if s = 0 then 0 else referenceError len (refsOn 0 mode occ (s - 1) p.2) (refsOn 0 mode occ s cells)
    let q := freqStep (if mode = 4 then 20 else 5) (drmRate mode / len) (drmCapture mode) err p.1
    (q, p.2 ++ cells)

/-- A weighted sum of channel values. -/
def weighted (w : List Int) (l : List Cx) : Cx := (((w.zipWith (fun k z => Cx.scale k z) l).foldl Cx.add {})).narrow 32 65536

/-- The channel at a cell: two-dimensional Wiener interpolation of the references, first in time on each carrier that has any, then in
frequency (R252). -/
def DrmGrid.channel (g : DrmGrid) (s : Nat) (q : Int) : Cx :=
  let (_, guard, _) := drmMode g.mode
  let carriers := (g.refs.map fun r => r.2.1).dedup
  let inTime (c : Int) : Cx :=
    let l := g.refs.filter fun r => decide (r.2.1 = c)
    weighted (Config.wiener 0 guard (l.map fun r => (r.1 : Int)) s) (l.map fun r => r.2.2)
  weighted (Config.wiener 1 guard carriers q) (carriers.map inTime)

/-- The received value of a cell. -/
def DrmGrid.cell (g : DrmGrid) (s : Nat) (q : Int) : Cx :=
  ((g.cells.find? fun e => decide (e.1 = s ∧ e.2.1 = q)).map fun e => e.2.2).getD {}

/-- A cell in decoding: its received value, its channel and the noise; `none` where it is erased or outside the opened channel. -/
abbrev MscCell := Option (Cx × Cx × Nat)

/-- Carrier `q` of a mode lies inside the opened channel (R251): spacing and edges in mHz. -/
def carrierInside (mode opened : Nat) (q : Int) : Bool :=
  let (useful, _, _) := drmMode mode
  let (w, off) := drmOccupancy opened
  let f := q * 2 * 1000 * drmRate mode / useful
  decide (mode = 4) || decide (1000 * (2 * (off : Int) - w) ≤ f ∧ f ≤ 1000 * (2 * (off : Int) + w))

/-- A cell of a frame as decoding takes it. -/
def DrmGrid.take (g : DrmGrid) (opened s : Nat) (q : Int) : MscCell :=
  let y := g.cell s q
  if y = {} ∨ !carrierInside g.mode opened q then none else some (y, g.channel s q, g.noise)

/-- The cells of a channel of the frame, in its order (R252). -/
def DrmGrid.channelCells (g : DrmGrid) (opened kind : Nat) : List MscCell :=
  (Config.drmCells kind g.mode g.occ).map fun e => g.take opened e.1 e.2

/-- The bits of an axis label at a level, of `n` levels. -/
def labelBit (n level label : Nat) : Bool := decide (label / 2 ^ (n - 1 - level) % 2 = 1)

/-- The smallest squared distance of an equalised axis value to the points of `n` bits that fit what is known of each level, with the bit of
`level` as given; `none` when none fits. -/
def axisDistance (n level : Nat) (bit : Bool) (known : List (Option Bool)) (v : Int) : Option Int :=
  (((List.range (2 ^ n)).filter fun l =>
      (labelBit n level l == bit) && (List.range n).all fun j => decide (j = level) || (known.getD j none).all (· == labelBit n j l)).map
    fun l => (v - Config.axisPoint n l) ^ 2).foldl (fun (b : Option Int) d => some (b.elim d (min d))) none

/-- The soft bit of an axis at a level (R252, R269): by the nearest point for either value of the bit. (DEDUCED, log 31) -/
def axisSoft (n level : Nat) (known : List (Option Bool)) (v : Int) (gain noise : Nat) : Int :=
  match axisDistance n level true known v, axisDistance n level false known v with
  | some a, some b => softBit ((a - b) * gain) (max 1 (noise * 2 ^ 34 : Nat))
  | _, _ => 0

/-- The two soft bits of a cell at a level, real axis first: the equalised value is y/h. -/
def cellSoft (n level : Nat) (knownRe knownIm : List (Option Bool)) : MscCell → List Int
  | none => [0, 0]
  | some (y, h, noise) =>
    let e := y.mul h.conj
    let gain := max 1 h.power
    let v (a : Int) : Int := Config.round (a * 2 ^ 17) gain
    [axisSoft n level knownRe (v e.re) gain noise, axisSoft n level knownIm (v e.im) gain noise]

/-- Two consecutive bits of each level decided for cell `i`. -/
def knownAt (levels : List (Option (List Bool))) (i : Nat) : List (Option Bool) := levels.map fun l => l.bind fun b => b[i]?

/-- The soft bits of several cells at a level, given the coded bits of the other levels where they are decided (R269). -/
def demap (n level : Nat) (levels : List (Option (List Bool))) (cells : List MscCell) : List Int :=
  cells.zipIdx.flatMap fun e => cellSoft n level (knownAt levels (2 * e.2)) (knownAt levels (2 * e.2 + 1)) e.1

/-- The point that the decided bits of each level stand for at cell `i`. -/
def pointOf (n : Nat) (levels : List (List Bool)) (i : Nat) : Cx :=
  let label (k : Nat) : Nat := levels.foldl (fun v b => 2 * v + if b.getD k false then 1 else 0) 0
  ⟨Config.axisPoint n (label (2 * i)), Config.axisPoint n (label (2 * i + 1))⟩

/-- A cell whose value is decided becomes a reference (R252). -/
def DrmGrid.decide_ (s : Nat) (q : Int) (point : Cx) (g : DrmGrid) : DrmGrid :=
  let y := g.cell s q
  let h := ((y.mul point.conj).scale (2 ^ 17)).narrow 32 (max 1 point.power)
  if y = {} then g else { g with refs := (g.refs.filter fun r => decide ¬(r.1 = s ∧ r.2.1 = q)) ++ [(s, q, h)] }

/-- The decisions of the FAC or SDC refine the estimates of their frame's MSC cells. -/
def DrmGrid.feed (g : DrmGrid) (opened kind n : Nat) (coding : List Nat) : DrmGrid :=
  let cells := g.channelCells opened kind
  let levels := (List.range n).foldl (fun (l : List (List Bool)) j =>
    l ++ [Config.levelCode coding kind j (demap n j ((l.map some) ++ List.replicate (n - j) none) cells)]) []
  (Config.drmCells kind g.mode g.occ).zipIdx.foldl (fun g e => g.decide_ e.1.1 e.1.2 (pointOf n levels e.2)) g

/-- The channel bit errors of the FAC or SDC of a frame, by its decisions encoded again, with the bits examined (R188). -/
def DrmGrid.errors (g : DrmGrid) (opened kind n : Nat) (coding : List Nat) : Nat × Nat :=
  let cells := g.channelCells opened kind
  let step (s : List (List Bool) × Nat × Nat) (j : Nat) : List (List Bool) × Nat × Nat :=
    let soft := demap n j ((s.1.map some) ++ List.replicate (n - j) none) cells
    let bits := Config.levelCode coding kind j soft
    let e := channelErrors soft bits
    (s.1 ++ [bits], s.2.1 + e.1, s.2.2 + e.2)
  ((List.range n).foldl step ([], 0, 0)).2

/-- The mean noise power at the gain references against the interpolated channel. -/
def gridNoise (g : DrmGrid) : Nat :=
  let l := g.refs.map fun r => (r.2.2.sub (g.channel r.1 r.2.1)).power
  if l.isEmpty then 0 else l.sum / l.length

/-- The powers of the MER over the MSC cells of a frame after equalisation, against the nearest point of `n` bits an axis (R188). -/
def gridMer (n : Nat) (g : DrmGrid) : Int × Int :=
  (Config.drmCells 2 g.mode g.occ).foldl (fun s e =>
    let h := g.channel e.1 e.2
    let z := (g.cell e.1 e.2).mul h.conj
    let gain := max 1 h.power
    let axis (a : Int) : Int × Int :=
      let v := Config.round (a * 2 ^ 17) gain
      ((List.range (2 ^ n)).map fun l => (Config.axisPoint n l, v - Config.axisPoint n l)).foldl
        (fun (b : Int × Int) w => if w.2.natAbs < b.2.natAbs then w else b) (0, v)
    if g.cell e.1 e.2 = {} then s
    else
      let (a, b) := (axis z.re, axis z.im)
      (s.1 + a.1 * a.1 + b.1 * b.1, s.2 + a.2 * a.2 + b.2 * b.2)) (0, 0)

/-- A copy of a DRM context demodulates the frame that ends now: its cells wait in the de-interleaver, refined by FAC and SDC (R252). The
window moves once a frame, by its last symbol's gain references (R238, R250). (DEDUCED, log 31) -/
def drmUpTo (x : Ctx) (mode occ msc : Nat) (sdc : Option Nat) (coding : List Nat) (frame : Nat) (m : Part) (c : CopyState) : CopyState :=
  if !c.path.fed then c
  else
    let (useful, guard, n) := drmMode mode
    let p := frameFrom frame ((n * (useful + guard) : Nat) : Int) c.ofdm
    let (p, cells) := (List.range n).foldl (fun q s => drmSymbol mode occ x.cfg.occupancy c (copyExcluded x c m) s q) (p, [])
    let gains := (List.range n).flatMap fun s => (refsOn 1 mode occ s cells).map fun r => (s, r.1, r.2)
    let g : DrmGrid := { stop := m.clock.elapsed, mode := mode, occ := occ, cells := cells,
                         refs := gains.filter fun r => decide (r.2.2 ≠ {}), noise := 0 }
    let g := { g with noise := gridNoise g }
    let g := g.feed x.cfg.occupancy 0 1 coding
    let g := sdc.elim g fun k => g.feed x.cfg.occupancy 1 k coding
    let pair (z : Cx) : Int × Int := (z.re, z.im)
    let refs := gains.map fun r => r.2.2
    let bad := copyExcluded x c m
    let clean := decide (spanIn frame m.clock.elapsed bad = 0)
    let rate := if c.under = .lost ∨ !clean then p.rate
      else clampInt (-100000) 100000 (Config.clockOffset (p.prs.map pair) (refs.map pair))
    let last := refsOn 1 mode occ (n - 1) cells
    let p := if last.all fun r => decide (r.2 = {}) then p else moveWindow (firstPath (impulse (16 * useful) 16 useful last)) p
    let (ideal, error) := gridMer msc g
    let p := { p with ideal := p.ideal + ideal, error := p.error + error }
    { c with ofdm := { p with prs := if clean then refs else p.prs, rate := rate, grids := (g :: p.grids).take 128 } }

/-- The cells of the multiplex frame that the cell de-interleaver completes with the newest frame, of an interleaver `depth` frames deep. -/
def muxCells (opened depth : Nat) (grids : List DrmGrid) : List MscCell :=
  match grids with
  | [] => []
  | g :: _ =>
    let at_ (i : Nat) : MscCell :=
      let (back, j) := Config.cellOrder depth i
      match grids[back]?, (Config.drmCells 2 g.mode g.occ)[j]? with
      | some f, some e => f.take opened e.1 e.2
      | _, _ => none
    (List.range (Config.drmCells 2 g.mode g.occ).length).map at_

/-- The decisions of a multiplex frame make its cells references, for the cells that still wait (R252, R270). `newest` is the frame that
completed it. -/
def feedMux (newest depth n : Nat) (levels : List (List Bool)) (p : OfdmPath) : OfdmPath :=
  match p.grids.findIdx? fun g => decide (g.stop = newest) with
  | none => p
  | some at_ =>
    let cells := (p.grids[at_]?).elim [] fun g => Config.drmCells 2 g.mode g.occ
    { p with grids := (List.range cells.length).foldl (fun (grids : List DrmGrid) i =>
        let (back, j) := Config.cellOrder depth i
        match cells[j]? with
        | none => grids
        | some e => grids.modify (at_ + back) (DrmGrid.decide_ e.1 e.2 (pointOf n levels i))) p.grids }

end Sys2Proof.Machine
end

