-- ==== Sys2Proof/Machine/Iterate.lean ====
section
/-! DEFINITION. Iterative decoding and the iteration pools (R191-R193, R262-R270, R280). -/

namespace Sys2Proof.Machine

/-! ## DAB+: the exchange between the inner and outer codes (R265-R267) -/

/-- Where a superframe's decoding stands: iterations done, the bytes of each RS codeword decoded so far, and the LLRs of the information
bits by logical frame. -/
structure PlusIter where
  done : Nat
  words : List (Option (List Nat))
  lo : List (List Int)
deriving DecidableEq, Repr

/-- Information bits of one of the five logical frames of a superframe of `s` codewords of 120 bytes. -/
abbrev frameBits (s : Nat) : Nat := 8 * 24 * s

/-- LLR of bit `j` of byte `i` of a superframe. -/
def llrAt (s : Nat) (lo : List (List Int)) (i j : Nat) : Int := (lo.getD (i / (24 * s)) []).getD (8 * (i % (24 * s)) + j) 0

/-- The hard byte `i` of a superframe, most significant bit first. -/
def hardByte (s : Nat) (lo : List (List Int)) (i : Nat) : Nat :=
  (List.range 8).foldl (fun v j => 2 * v + if hardBit (llrAt s lo i j) then 1 else 0) 0

/-- Codeword `c`: every s-th byte from c on (TS 102 563). -/
def hardWord (s c : Nat) (lo : List (List Int)) : List Nat := (List.range 120).map fun k => hardByte s lo (c + s * k)

/-- A byte's reliability is the smallest |lo| of its 8 bits (R266). -/
def reliability (s c : Nat) (lo : List (List Int)) (k : Nat) : Nat :=
  ((List.range 8).map fun j => (llrAt s lo (c + s * k) j).natAbs).foldl min 1000

/-- Insert a byte's place in rising order of reliability. -/
def insertBy (key : Nat → Nat) (k : Nat) : List Nat → List Nat
  | [] => [k]
  | a :: rest => if key k ≤ key a then k :: a :: rest else a :: insertBy key k rest

/-- The places of a codeword in rising order of reliability. -/
def ranked (s c : Nat) (lo : List (List Int)) : List Nat := (List.range 120).foldr (insertBy (reliability s c lo)) []

/-- Errors-and-erasures attempts with the f least reliable bytes erased, f = 2, 4, 6, 8, 10: the first that succeeds (R266). -/
def erasureDecode (s c : Nat) (lo : List (List Int)) : Option (List Nat) :=
  [2, 4, 6, 8, 10].findSome? fun f => Config.rsDecode (hardWord s c lo) ((ranked s c lo).take f)

/-- The a priori LLR of bit `j` of byte `i`: ±96 where its codeword is decoded, else 0. -/
def aPriori (s : Nat) (words : List (Option (List Nat))) (i j : Nat) : Int :=
  match words.getD (i % s) none with
  | none => 0
  | some bytes => if bytes.getD (i / s) 0 / 2 ^ (7 - j) % 2 = 1 then -96 else 96

/-- The a priori LLRs of logical frame `f`. -/
def aPrioriFrame (s f : Nat) (words : List (Option (List Nat))) : List Int :=
  (List.range (frameBits s)).map fun b => aPriori s words (24 * s * f + b / 8) (b % 8)

/-- One iteration over a superframe: every logical frame through siso_decode, every codeword not yet decoded through rs_decode, from the
second iteration on with erasures (R265). -/
def plusStep (s : Nat) (ch : List (List Int)) (it : PlusIter) : PlusIter :=
  let lo := ch.zipIdx.map fun e => Config.sisoDecode e.1 (aPrioriFrame s e.2 it.words)
  { done := it.done + 1, lo := lo,
    words := it.words.zipIdx.map fun e =>
      match e.1 with
      | some w => some w
      | none => if it.done = 0 then Config.rsDecode (hardWord s e.2 lo) [] else erasureDecode s e.2 lo }

/-- Where a superframe stands before its first iteration. -/
def plusStart (s : Nat) : PlusIter := { done := 0, words := List.replicate s none, lo := [] }

/-- A superframe after some iterations. -/
def plusRun (s : Nat) (ch : List (List Int)) : Nat → PlusIter
  | 0 => plusStart s
  | n + 1 => plusStep s ch (plusRun s ch n)

/-- Codewords decoded. -/
def PlusIter.count (it : PlusIter) : Nat := (it.words.filter Option.isSome).length

/-- A superframe stops by itself after iteration `n`: complete, or from the second on without progress (Table DEC-3). -/
def plusStops (s : Nat) (ch : List (List Int)) (n : Nat) : Bool :=
  let it := plusRun s ch n
  decide (it.count = s) || (decide (2 ≤ n) && decide (it.count = (plusRun s ch (n - 1)).count))

/-- The iterations after which a superframe stops by itself or at its limit. -/
def plusAsks (s limit : Nat) (ch : List (List Int)) : Nat :=
  ((List.range limit).find? fun i => plusStops s ch (i + 1)).elim limit (· + 1)

/-- The information bits of logical frame `f`: those of decoded codewords, the hard decisions of the rest. -/
def plusBits (s f : Nat) (it : PlusIter) : List Bool :=
  (List.range (frameBits s)).map fun b =>
    match aPriori s it.words (24 * s * f + b / 8) (b % 8) with
    | 0 => hardBit ((it.lo.getD f []).getD b 0)
    | v => hardBit v

/-! ## DRM: multilevel decoding (R267, R269) -/

/-- The level soft bits of a multiplex frame: those of every source of its cells, added (R27, R280). -/
def levelSoft (n level : Nat) (levels : List (Option (List Bool))) (cells : List (List (Option (Cx × Cx × Nat)))) : List Int :=
  (cells.map (demap n level levels)).foldl addSoft []

/-- The first iteration: each level demapped given those before it, then decoded (R269). -/
def muxFirst (n : Nat) (coding : List Nat) (cells : List (List (Option (Cx × Cx × Nat)))) : List (List Bool) :=
  (List.range n).foldl (fun l j =>
    l ++ [Config.levelCode coding 2 j (levelSoft n j ((l.map some) ++ List.replicate (n - j) none) cells)]) []

/-- A further iteration: each level in turn, given the current decisions of all the others. -/
def muxNext (n : Nat) (coding : List Nat) (cells : List (List (Option (Cx × Cx × Nat)))) (l : List (List Bool)) : List (List Bool) :=
  (List.range n).foldl (fun l j =>
    l.set j (Config.levelCode coding 2 j (levelSoft n j ((l.map some).set j none) cells))) l

/-- A multiplex frame's re-encoded decisions after some iterations. -/
def muxRun (n : Nat) (coding : List Nat) (cells : List (List (Option (Cx × Cx × Nat)))) : Nat → List (List Bool)
  | 0 => []
  | 1 => muxFirst n coding cells
  | k + 2 => muxNext n coding cells (muxRun n coding cells (k + 1))

/-- The iterations after which a multiplex frame stops by itself, when the re-encoded bits of every level repeat, or at its limit. -/
def muxAsks (n limit : Nat) (coding : List Nat) (cells : List (List (Option (Cx × Cx × Nat)))) : Nat :=
  ((List.range limit).find? fun i => decide (1 ≤ i) && (muxRun n coding cells (i + 1) == muxRun n coding cells i)).elim limit (· + 1)

/-! ## Blocks -/

/-- A block's own demand of iterations, where its soft bits are at hand. -/
def IterBlock.demand (b : IterBlock) : Nat :=
  if !b.cells.isEmpty then muxAsks b.levels b.limit b.coding b.cells
  else if !b.soft.isEmpty then plusAsks b.words b.limit b.soft
  else b.asks

/-- One of a context's copies runs in DETECTED, TRACK or LOST, or holds one of them. -/
def CopyState.decodes (c : CopyState) : Bool :=
  !c.isFenced && match c.under with
    | .detected => true
    | .track => true
    | .lost => true
    | _ => false

/-- A combined block is decoded: both copies are in TRACK and combine (R27). -/
def combines (x : Ctx) : Bool := x.pair.combined && decide (x.a.state = .track) && x.b.any fun b => decide (b.state = .track)

/-- The CIF or frame end of a copy that lies nearest to elapsed tick `e`, within half a unit of `unit` ticks. -/
def nearestEnd (unit e : Nat) (ends : List Nat) : Option Nat :=
  ends.find? fun s => decide (2 * ((s : Int) - e).natAbs ≤ unit)

/-- The LLRs of logical frame `f` of the superframe that ends with the CIF ended on `base`, from a copy's soft bits. -/
def frameSoft (s : Selection) (ends : List Nat) (cifs : List CifSoft) (f : Nat) : List Int :=
  if cifs.isEmpty then [] else Config.depuncture s.coding (subFrame cifs ends s.start s.size f)

/-- A copy was in TRACK at the CIF that ended on `stop`. -/
def trackedAt (c : CopyState) (stop : Nat) : Bool := c.ofdm.cifs.any fun f => decide (f.stop = stop) && f.track

/-- The two copies of a pair are summed in the logical frame that the CIF ended on `stop` completes: R28's boundary is the logical frame
(R27). -/
def combinesAt (x : Ctx) (stop : Nat) : Bool :=
  x.pair.combined && trackedAt x.a stop && x.b.any fun b => trackedAt b stop

/-- The LLRs of the five logical frames of a superframe, of one copy or, where the pair combines, of both; and whether any frame is of
both (R27, R28). -/
def copySoft (x : Ctx) (k : Copy) (s : Selection) (base : Nat) : List (List Int) × Bool :=
  let ends := cifEnds (frameOf x.dig.frameStart base) base 20
  let of_ (c : CopyState) (f : Nat) : List Int := frameSoft s ends c.ofdm.cifs f
  let both (f : Nat) : Bool := decide (k = .a) && combinesAt x (ends.getD (f + 15) 0)
  let frame (f : Nat) : List Int :=
    match k, x.b with
    | .a, some b => if both f then addSoft (of_ x.a f) (of_ b f) else of_ x.a f
    | .b, some b => of_ b f
    | _, none => of_ x.a f
  let l := (List.range 5).map frame
  (if l.all List.isEmpty then [] else l, (List.range 5).any both)

/-- The cells of the multiplex frame that the frame ended on `base` completes, by copy. -/
def copyCells (x : Ctx) (k : Copy) (depth base : Nat) : List (List (Option (Cx × Cx × Nat))) :=
  let of_ (c : CopyState) : List (List (Option (Cx × Cx × Nat))) :=
    let g := c.ofdm.grids.dropWhile fun g => decide (g.stop ≠ base)
    if g.isEmpty then [] else [muxCells x.cfg.occupancy depth g]
  match k, x.b with
  | .a, some b => if combines x then of_ x.a ++ of_ b else of_ x.a
  | .b, some b => of_ b
  | _, none => of_ x.a

/-- The JOINED members of the lead's branch of the set that a source leads, beside the lead (R280). -/
def joinedBeside (c sel : Nat) (m : Part) : List (Member × Member) :=
  match leadSet c sel m with
  | none => []
  | some (_, s) =>
    match s.members.head? with
    | none => []
    | some lead => ((s.members.drop 1).filter fun y => decide (y.state = .joined ∧ y.branch = lead.branch)).map fun y => (lead, y)

/-- A block takes the soft bits of its own context's copies and, for the lead of a set, those of the JOINED members of its branch, each at
its offset; it then knows how many iterations it asks for (R27, R280). -/
def settleBlock (m : Part) (b : IterBlock) : IterBlock :=
  match ctx b.ctx m with
  | none => { b with settled := true }
  | some x =>
    let others : List (Member × Member) := if b.alone then [] else joinedBeside b.ctx b.sel m
    let b :=
      if x.cfg.type = 7 then
        let (own, both) : List (List Int) × Bool := (x.sel b.sel).elim ([], false) fun s => copySoft x b.copy s b.base
        let sum := others.foldl (fun (l : List (List Int)) (e : Member × Member) =>
          match ctx e.2.ctx m with
          | none => l
          | some y =>
            let at_ := ((b.base : Int) + 32 * (e.2.offset - e.1.offset)).toNat
            match y.sel e.2.sel, nearestEnd 589824 at_ (y.delivered.ofdm.cifs.map CifSoft.stop) with
            | some s, some stop => l.zipWith addSoft (copySoft y .a s stop).1
            | _, _ => l) own
        { b with soft := sum, both := both }
      else
        let own := copyCells x b.copy b.depth b.base
        let more := others.flatMap fun (e : Member × Member) =>
          match ctx e.2.ctx m with
          | none => []
          | some y =>
            let at_ := ((b.base : Int) + 32 * (e.2.offset - e.1.offset)).toNat
            (nearestEnd (if y.cfg.type = 5 then 9830400 else 2457600) at_ (y.delivered.ofdm.grids.map DrmGrid.stop)).elim []
              fun stop => copyCells y .a b.depth stop
        { b with cells := if own.isEmpty then [] else own ++ more, both := decide (b.copy = .a) && combines x }
    { b with settled := true, asks := max 1 (min b.limit b.demand) }

/-! ## The iteration pools (R191-R194) -/

/-- Ticks that a pool takes for one iteration of a block: its coded length at 24.0 Mbit/s (R191). -/
def iterTicks (coded : Nat) : Nat := ceilDiv (128 * coded) 125

/-- The pool of a half may give a block an iteration that begins on elapsed tick `e`: it asks for one, and the iteration ends by the
deadline. (DESIGN CHOICE, log 34) -/
def IterBlock.wants (b : IterBlock) (h e : Nat) : Bool :=
  decide (b.half = h) && b.settled && decide (b.done < b.asks ∧ b.ready ≤ e ∧ e + iterTicks b.coded ≤ b.deadline)

/-- A block is served before another: pool_prio HIGH first, then the lower round, then the earlier deadline (R192). -/
def servedFirst (a b : IterBlock) : Bool :=
  if a.high != b.high then a.high
  else if a.done ≠ b.done then decide (a.done < b.done)
  else decide (a.deadline < b.deadline)

/-- The place of the block that a pool serves next. -/
def nextServed (h e : Nat) (l : List IterBlock) : Option Nat :=
  (l.zipIdx.filter fun b => b.1.wants h e).foldl (fun (best : Option (IterBlock × Nat)) b =>
    match best with
    | none => some b
    | some k => if servedFirst b.1 k.1 then some b else some k) none |>.map (·.2)

/-- The pool of half `h` serves iterations from where it stands up to elapsed tick `until_`, at most `fuel` of them or of waits. -/
def servePool (h until_ : Nat) : Nat → Nat → List IterBlock → Nat × List IterBlock
  | 0, e, l => (e, l)
  | fuel + 1, e, l =>
    match nextServed h e l with
    | some i =>
      let stop := e + (l[i]?).elim 0 fun b => iterTicks b.coded
      if until_ < stop then (e, l)
      else servePool h until_ fuel stop (l.modify i fun b => { b with done := b.done + 1 })
    | none =>
      let later := (l.filter fun b => decide (b.half = h ∧ b.done < b.asks ∧ e < b.ready ∧ b.ready ≤ until_)).map IterBlock.ready
      match later with
      | [] => (max e until_, l)
      | r :: rest => servePool h until_ fuel (rest.foldl min r) l

/-- The pools work up to the present, over the blocks that wait. -/
def runPools (m : Part) : Part :=
  let now := m.clock.elapsed
  let m := { m with blocks := m.blocks.map fun (b : IterBlock) => if !b.settled ∧ b.ready ≤ now then settleBlock m b else b }
  ((m.blocks.map IterBlock.half).dedup).foldl (fun m h =>
    let (e, l) := servePool h now (8 * m.blocks.length + 8) (half h m).pool.cursor m.blocks
    { onHalf h (fun x => { x with pool := { x.pool with cursor := e } }) m with blocks := l }) m

/-- A block arrives: the pools have worked up to now, and an idle one turns to it now. -/
def addBlock (b : IterBlock) (m : Part) : Part :=
  let m := runPools m
  let now := m.clock.elapsed
  let b := if b.ready ≤ now then settleBlock m b else { b with settled := false }
  let idle := !m.blocks.any fun y => decide (y.half = b.half ∧ y.done < y.asks)
  let m := if idle then onHalf b.half (fun x => { x with pool := { x.pool with cursor := max x.pool.cursor now } }) m else m
  { m with blocks := m.blocks ++ [b] }

/-! ## What the final decisions refine (R270) -/

/-- The final decisions of a block feed the decision-directed estimators of the copies that it was decoded from. -/
def feedBack (b : IterBlock) (m : Part) : Part :=
  onCtx b.ctx (fun x =>
    let each (f : CopyState → CopyState) : Ctx := if b.both then x.onCopies f else x.onCopy b.copy f
    if !b.cells.isEmpty then
      let levels := muxRun b.levels b.coding b.cells b.done
      each fun c => { c with ofdm := feedMux b.base b.depth b.levels levels c.ofdm }
    else if !b.soft.isEmpty then
      let it := plusRun b.words b.soft b.done
      let ends := cifEnds (frameOf x.dig.frameStart b.base) b.base 20
      let start := (x.sel b.sel).elim 0 Selection.start
      each fun c => { c with ofdm := (List.range 5).foldl (fun p f =>
        refineFrame ends start f (Config.encode b.coding (plusBits b.words f it)) p) c.ofdm }
    else x) m

/-! ## What the final decisions give (R188, R245, R259) -/

/-- The bytes of some bits, most significant first. -/
def packBits (bits : List Bool) : List Nat :=
  (List.range (bits.length / 8)).map fun i => (List.range 8).foldl (fun v j => 2 * v + if bits.getD (8 * i + j) false then 1 else 0) 0

/-- The bytes of a superframe after some iterations. -/
def superBytes (b : IterBlock) : List Nat :=
  let it := plusRun b.words b.soft b.done
  packBits ((List.range 5).flatMap fun f => plusBits b.words f it)

/-- The channel bit errors of a superframe, by its decisions encoded again, with the bits examined; none where its copy's sample path is not
followed (R188). -/
def superErrors (x : Ctx) (s : Selection) (b : IterBlock) : Option (Nat × Nat) :=
  match x.copy b.copy with
  | none => none
  | some c =>
    if b.soft.isEmpty ∨ c.ofdm.cifs.isEmpty then none
    else
      let it := plusRun b.words b.soft b.done
      let ends := cifEnds (frameOf x.dig.frameStart b.base) b.base 20
      some ((List.range 5).foldl (fun (t : Nat × Nat) f =>
        let e := channelErrors (subFrame c.ofdm.cifs ends s.start s.size f) (Config.encode b.coding (plusBits b.words f it))
        (t.1 + e.1, t.2 + e.2)) (0, 0))

/-- RS codewords of a superframe that differ from what the inner decoder gave, and those that are not decoded (R260). -/
def superWords (b : IterBlock) : Nat × Nat :=
  let it := plusRun b.words b.soft b.done
  let l := it.words.zipIdx
  ((l.filter fun e => e.1.any fun w => w != (hardWord b.words e.2 it.lo).take w.length).length,
    (l.filter fun e => e.1.isNone).length)

/-- The channel bit errors of a multiplex frame, by the decisions of its levels encoded again, with the bits examined; none where the model
does not follow the sample path (R188). -/
def muxErrors (b : IterBlock) : Option (Nat × Nat) :=
  if b.cells.isEmpty then none
  else
    let l := muxRun b.levels b.coding b.cells b.done
    some ((List.range b.levels).foldl (fun (t : Nat × Nat) j =>
      let e := channelErrors (levelSoft b.levels j ((l.map some).set j none) b.cells) (l.getD j [])
      (t.1 + e.1, t.2 + e.2)) (0, 0))

/-- What the single pass decides of a logical frame that is not iterated: its bits, encoded again (R239, R262). -/
def plainBits (coding : List Nat) (soft : List Int) : List Bool :=
  Config.encode coding ((Config.sisoDecode (Config.depuncture coding soft) []).map hardBit)

/-- A selection that is decoded in a single pass feeds its decisions back, for the logical frame that the CIF ended on `stop` completes. -/
def feedPlain (x : Ctx) (s : Selection) (stop : Nat) (p : OfdmPath) : OfdmPath :=
  let ends := cifEnds (frameOf x.dig.frameStart stop) stop 16
  let soft := subFrame p.cifs ends s.start s.size 0
  if p.cifs.isEmpty then p else refineFrame ends s.start 0 (plainBits s.coding soft) p

/-- The channel bit errors of such a logical frame in a copy, with the bits examined; none where its sample path is not followed. -/
def plainErrors (x : Ctx) (s : Selection) (stop : Nat) (p : OfdmPath) : Option (Nat × Nat) :=
  if p.cifs.isEmpty then none
  else
    let soft := subFrame p.cifs (cifEnds (frameOf x.dig.frameStart stop) stop 16) s.start s.size 0
    some (channelErrors soft (plainBits s.coding soft))

end Sys2Proof.Machine
end

