-- ==== Sys2Proof/Machine/Digital.lean ====
section
/-! DEFINITION. DAB and DRM reception: selections, frames, audio units, reconfigurations and MOT objects (chapter 09 of the spec,
R264-R268, R282, R292, R308, R312). -/

namespace Sys2Proof.Machine

/-! ## SVC_SELECT (R170, R174, R242, R253, R292, R501) -/

/-- Kinds of a context type: 0 DAB_AUDIO_L2, 1 DAB_AUDIO_PLUS, 2 DAB_STREAM, 3 DAB_PACKET, 4 DRM_AUDIO, 5 DRM_DATA. -/
def kindFits (kind type : Nat) : Bool := if type = 7 then decide (kind ≤ 3) else decide ((type = 5 ∨ type = 6) ∧ (kind = 4 ∨ kind = 5))

/-- SubChId 0 to 63, stream 0 to 3; a selection by service names neither. -/
def subValid (p : SelParams) : Bool := p.byService || decide (p.sub < (if p.kind ≤ 3 then 64 else 4))

/-- Acceptance checks of SVC_SELECT SELECT; a fifth DRM_AUDIO selection is beyond what a context carries (R253), for which the spec names no
status. (DESIGN CHOICE, log 30) -/
def selectStatus (p : SelParams) (m : Part) : Nat :=
  let sels := selsAfter p.ctx m
  let same := sels.find? fun s => decide (s.1 = selName (typeAfter p.ctx m) p)
  let cfg := cfgAfter p.ctx m
  firstStatus [
    (slotOutside p.ctx m, stBadParam), (slotFenced p.ctx m, stFenced),
    (decide (5 < p.kind) || !subValid p, stBadParam), (!slotHeld p.ctx m, stNoContext),
    (!cfg.any (fun g => kindFits p.kind g.type), stBadParam),
    (same.any (fun s => decide (s.2 ≠ p.kind)), stBusy),
    (same.isNone && cfg.any (fun g => decide (g.type = 7 ∧ g.reserve ≤ sels.length)), stNoCapacity),
    (same.isNone && decide (p.kind = 4 ∧ 4 ≤ (sels.filter fun s => decide (s.2 = 4)).length), stNoCapacity),
    (same.isNone && audioKind p.kind && decide (unitPrograms m < programsHeld (ctxHalf p.ctx) m + 1), stNoCapacity),
    (policyOwned p.ctx m, stBusy)]

/-- A selection as it is made. (DESIGN CHOICE / DEDUCED, log 30) -/
def newSelection (p : SelParams) (now : Nat) : Selection :=
  { sel := if p.byService then 255 else p.sub, kind := p.kind, byService := p.byService,
    sid := if p.byService then p.sid else 0, scids := if p.byService then p.scids else 0, audio := audioKind p.kind, since := now }

/-- What the multiplex describes for a selection. -/
def described (type : Nat) (org : List SubDesc) (s : Selection) : Option SubDesc :=
  org.find? fun d =>
    if s.byService then decide (d.sid = s.sid) && (decide (type ≠ 7) || decide (d.scids = s.scids)) else decide (d.sub = s.sel)

/-- SELECT takes effect: the result is the SubChId or stream, 255 while a service is not resolved. A selection beyond the reserve, which a
DESELECT still to come was to free, selects nothing (R170). (DESIGN CHOICE / DEDUCED, log 30) -/
def performSelect (p : SelParams) : Perform := fun _ _ m =>
  match ctx p.ctx m with
  | none => (m, reply (noCtx p.ctx m))
  | some x =>
    if !kindFits p.kind x.cfg.type then (m, reply stBadParam)
    else
      match x.sels.find? fun s => decide (s.name = selName x.cfg.type p) with
      | some s => if s.kind = p.kind then (m, some { status := stOk, result := s.sel }) else (m, reply stBusy)
      | none =>
        if x.cfg.type = 7 ∧ x.cfg.reserve ≤ x.sels.length then (m, reply stNoCapacity) else
        let s := newSelection p m.clock.elapsed
        let s := { s with sel := (described x.cfg.type x.dig.organisation s).elim s.sel SubDesc.sub }
        (refreshCtx p.ctx (onSels p.ctx (fun l => l ++ [s]) m), some { status := stOk, result := s.sel })

/-- SVC_SELECT SELECT (R242). -/
def execSvcSelect (d : Desc) (p : SelParams) (s : State) : Host.Outcome State Fault Refusal :=
  s.run (accept d (.svcSelect p) (selectStatus p) (performSelect p))

/-- Acceptance checks of SVC_SELECT DESELECT. -/
def deselectStatus (p : SelParams) (m : Part) : Nat :=
  firstStatus [
    (slotOutside p.ctx m, stBadParam), (slotFenced p.ctx m, stFenced), (!subValid p, stBadParam),
    (!slotHeld p.ctx m, stNoContext),
    (!(cfgAfter p.ctx m).any (fun g => digitalType g.type), stBadParam), (policyOwned p.ctx m, stBusy)]

/-- DESELECT takes effect. (DESIGN CHOICE / DEDUCED, log 30) -/
def performDeselect (p : SelParams) : Perform := fun _ _ m =>
  match ctx p.ctx m with
  | none => (m, reply (noCtx p.ctx m))
  | some x =>
    match x.sels.find? fun s => decide (s.name = selName x.cfg.type p) with
    | none => (m, reply stOk)
    | some s => (endSelection p.ctx s none m, some { status := stOk, result := s.sel })

/-- SVC_SELECT DESELECT (R501). -/
def execSvcDeselect (d : Desc) (p : SelParams) (s : State) : Host.Outcome State Fault Refusal :=
  s.run (accept d (.svcDeselect p) (deselectStatus p) (performDeselect p))

/-! ## Frames: what a frame describes (R240, R242, R244, R253) -/

/-- DAB and DRM frames are demodulated in DETECTED, TRACK and LOST, and through a HOLD from them. -/
def framesRun (x : Ctx) : Bool := digitalType x.cfg.type && frameWindows x

/-- Ticks of a transmission frame (Tables DIG-2, DIG-7). -/
def frameTicks (type : Nat) : Nat := if type = 7 then 2359296 else if type = 5 then 9830400 else 2457600

/-- Ticks from the start of a DAB frame to its first CIF: the null symbol, the PRS and the FIC (Table DIG-2). -/
abbrev mscStart : Nat := 31872 + 4 * 30624

/-- Ticks of a CIF of 18 symbols. -/
abbrev cifTicks : Nat := 18 * 30624

/-- Ticks from the start of the first CIF fed to the end of the first logical frame: 16 CIFs (R244). -/
abbrev fillTicks : Nat := 4 * 2359296 - mscStart

/-- The first CIF at or after elapsed tick `e` of the frame that began on `start` or of the next. -/
def firstCif (start e : Nat) : Nat :=
  let j := ceilDiv (e - (start + mscStart)) cifTicks
  if j ≤ 3 then start + mscStart + j * cifTicks else start + 2359296 + mscStart

/-- The first CIF or frame fed for a selection that the frame begun on `start` describes (R244). -/
def feedFrom (type start : Nat) (s : Selection) : Nat :=
  if type = 7 then firstCif start (max s.since (start + mscStart))
  else if s.since ≤ start then start else start + frameTicks type

/-- Change the selection of a name. -/
def onNamed (c : Nat) (n : SelName) (f : Selection → Selection) (m : Part) : Part :=
  onSels c (fun l => l.map fun s => if s.name = n then f s else s) m

/-- A service is resolved to another number: its flows, its place in a set and its policy follow it (R292, R299).
(DESIGN CHOICE / DEDUCED, log 30) -/
def renumber (c old new : Nat) (m : Part) : Part :=
  if old = 255 ∨ old = new then m
  else
    let m := dropSelWork c old m
    { m with
      flows := m.flows.map fun f => if f.2.ofCtx c && f.2.ofSelection && decide (f.2.sel = old) then (f.1, { f.2 with sel := new }) else f,
      sets := m.sets.map fun s => (s.1, { s.2 with members := s.2.members.map fun y =>
        if y.ctx = c ∧ y.sel = old then { y with sel := new } else y }),
      service := { m.service with policies := m.service.policies.map fun p =>
        if p.2.params.ctx = c ∧ p.2.params.sel = old then (p.1, { p.2 with params := { p.2.params with sel := new } }) else p } }

/-- A member's coding changes: it goes to the branch that now fits it, in SEEK; the reference stays JOINED (R275, R277). -/
def moveBranch (c sel : Nat) (m : Part) : Part :=
  (setsOf c m).foldl (fun m n =>
    match sourceSet n m with
    | none => m
    | some s =>
      (List.range s.members.length).foldl (fun m i =>
        match (sourceSet n m).bind fun s => s.members[i]? with
        | none => m
        | some mem =>
          if mem.ctx ≠ c ∨ mem.sel ≠ sel ∨ mem.branch = branchOf c sel m then m
          else
            let m := rebranch n i m
            if (mem.state = .joined ∨ mem.state = .verify) ∧ i ≠ s.reference then moveMember n i .seek .reconfigured m else m) m) m

/-- Size, place, protection or interleaving of a selection change: it is decoded anew from elapsed tick `now` on (Table DIG-11). -/
def reorganise (c : Nat) (s : Selection) (coding : List Nat) (start size rate now : Nat) (m : Part) : Part :=
  moveBranch c s.sel (onNamed c s.name (fun y => { y with
    coding := coding, start := start, size := size, rate := rate, fill := now, missing := 0 }) m)

/-- What the description of a selection asks for beyond a change of place: an audio selection under conditional access or of a coding that is
not decoded ends (Tables DIG-6, DIG-10). -/
def endsBy (s : Selection) (d : SubDesc) : Option Nat :=
  if s.audio && d.ca then some endCa else if s.audio && d.unsupported then some endUnsupported else none

/-- One selection meets the multiplex as the frame leaves it described. A description that has changed without its announcement applies from
here on (Table DIG-11). -/
def frameSel (c type start : Nat) (track : Bool) (org : List SubDesc) (s : Selection) (m : Part) : Part :=
  match described type org s with
  | some d =>
    match endsBy s d with
    | some cause => endSelection c s (some cause) m
    | none =>
      if s.state = .waiting then
        moveBranch c d.sub (onNamed c s.name (fun y => { y with
          sel := d.sub, coding := d.coding, start := d.start, size := d.size, rate := d.rate, state := .filling, fill := feedFrom type start s, missing := 0 })
          (renumber c s.sel d.sub m))
      else if s.coding ≠ d.coding ∨ s.start ≠ d.start ∨ s.size ≠ d.size ∨ s.rate ≠ d.rate then
        reorganise c s d.coding d.start d.size d.rate (if type = 7 then firstCif start (start + mscStart) else start) m
      else onNamed c s.name (fun y => { y with missing := 0 }) m
  | none =>
    if track && (decide (s.state = .waiting) || s.byService) then
      onNamed c s.name (fun y => { y with missing := y.missing + 1 }) m
    else m

/-- Every selection of a context meets the multiplex. -/
def frameSels (c type start : Nat) (track : Bool) (org : List SubDesc) (m : Part) : Part :=
  ((ctx c m).elim [] Ctx.sels).foldl (fun m s => frameSel c type start track org s m) m

/-- The AGC and the delivery of a pair at the end of a frame, which is the start of the next (R28, R30, Table CTX-6). -/
def frameBoundary (c : Nat) (merA merB agcErrA agcErrB delayNs : Int) (m : Part) : Part :=
  deliver c merA merB delayNs (agcStep c 300 agcErrA agcErrB m)

/-- Change a context's DAB and DRM state. -/
def onDig (c : Nat) (f : Digital → Digital) (m : Part) : Part := onCtx c (fun x => { x with dig := f x.dig }) m

/-- An alarm starts or ends on a DAB or DRM context (R312). -/
def setAlarm (c standard : Nat) (start test : Bool) (key : ServiceKey) (m : Part) : Part :=
  match ctx c m with
  | none => m
  | some x =>
    if x.dig.alarm.isSome = start then m
    else
      let (test, key) := if start then (test, key) else x.dig.alarm.getD (test, key)
      alarmEvent c standard start test key (x.cfg.freq / 1000)
        (onDig c (fun g => { g with alarm := if start then some (test, key) else none }) m)

/-- The alarm that runs ends. -/
def endAlarm (c standard : Nat) (m : Part) : Part := setAlarm c standard false false { kind := 0, id := 0 } m

/-! ## DAB_FRAME (R240, R241, R312) -/

/-- The FIBs of a frame, each with its CRC status (R240). (DEDUCED, log 31) -/
def deliverFibs (c : Nat) (x : Ctx) (start cif : Nat) : Nat → List CheckedBlock → Part → Part
  | _, [], m => m
  | i, b :: rest, m =>
    let body : SideBody :=
      { type := 0x20, status := itemStatus x start b.ok, ctx := c, sel := 255, bytes := 3, raw := b.bytes,
        fields := [⟨32, 2, (cif + i / 3) % 5000⟩, ⟨34, 1, i⟩] }
    deliverFibs c x start cif (i + 1) rest (appendSides (htOf start m) (heldFlags x start) body (sideFlows 4 c 255 m) m)

/-- DAB alarms: FIG 0/19 of cluster 0xFF with the alarm bit set or clear, or no such FIG for 2 s (Table SVC-9). -/
def dabAlarm (c : Nat) (items : List DbItem) (m : Part) : Part :=
  let now := m.clock.elapsed
  let l := alarmsOf (fun k => decide (k = 255)) items
  match l.find? (·.1) with
  | some (_, test, key) => setAlarm c 2 true test key (onDig c (fun g => { g with alarmAt := now }) m)
  | none =>
    let late := (ctx c m).any fun x => decide (x.dig.alarmAt + 2 * ticksPerSecond ≤ now)
    if !l.isEmpty ∨ late then endAlarm c 2 m else m

/-- What a frame says of a copy's criteria (R180): its good FIBs, and whether its null symbol was found. A copy in HOLD decides nothing. -/
def CopyState.countFibs (ok : Nat) (null : Bool) (c : CopyState) : CopyState :=
  if c.inHold then c
  else
    { c with seen := { c.seen with
      fibs := ok, noFib := if ok = 0 then c.seen.noFib + 1 else 0, noNull := if null then 0 else c.seen.noNull + 1 } }

/-- Both copies count a frame: the FIBs of a context that is not paired are those that the frame delivers. -/
def countFrame (f : DabFrame) (x : Ctx) : Ctx :=
  let ok := if x.b.isNone then (f.fibs.filter CheckedBlock.ok).length else f.okA
  { x with a := x.a.countFibs ok f.nullA, b := x.b.map (CopyState.countFibs f.okB f.nullB) }

/-- A copy's MER over the frame: of its demodulator, where the model follows the sample path (R239). -/
def frameMer (c : CopyState) (row : Int) : Int := if c.path.fed then min 450 (Config.decibels c.ofdm.ideal c.ofdm.error) else row

/-- What a copy's meter takes from a frame: the power in the channel, for DAB against the null symbol's, for DRM the channel at the gain
references against the noise there, and the MER (Table CTX-7). The sums of the MER begin again. -/
def CopyState.frameMeter (x : Ctx) (start : Nat) (m : Part) (c : CopyState) : CopyState :=
  if !c.path.fed then c
  else
    let now := m.clock.elapsed
    let power (l : List Cx) : Nat := (l.map Cx.power).sum
    let l := measured x c (if x.cfg.type = 7 then some start else none) start now m
    let (signal, noise) : Int × Int :=
      if x.cfg.type = 7 then
        let quiet := measured x c none start (start + 31872) m
        if quiet.isEmpty then (0, 0)
        else
          let n := Config.round ((power quiet : Int) * l.length) quiet.length
          ((power l : Int) - n, n)
      else
        match c.ofdm.grids with
        | g :: _ => ((((g.refs.map fun r => r.2.2.power).sum : Nat) : Int), ((g.noise * g.refs.length : Nat) : Int))
        | [] => (0, 0)
    let mer := if c.ofdm.ideal = 0 then c.meter.mer else some (frameMer c 0)
    { c with meter := { (c.meter.add (power l) signal noise l.length) with mer := mer }, ofdm := { c.ofdm with ideal := 0, error := 0 } }

/-- A TII combination that is reported: its identifiers in range and its pairs 10 dB above the noise (R241). -/
def tiiFits (e : Nat × Nat × Int) : Bool := decide (e.1 ≤ 69 ∧ 1 ≤ e.2.1 ∧ e.2.1 ≤ 23 ∧ 100 ≤ e.2.2)

/-- Insert an entry in falling order of level. -/
def byLevel (e : Nat × Nat × Int) : List (Nat × Nat × Int) → List (Nat × Nat × Int)
  | [] => [e]
  | a :: rest => if a.2.2 < e.2.2 then e :: a :: rest else a :: byLevel e rest

/-- The TII of a null symbol: up to 8 combinations, each level against the strongest, averaged over the last 16 null symbols with TII
(R241). -/
def Digital.noteTii (l : List (Nat × Nat × Int)) (g : Digital) : Digital :=
  let l := l.filter tiiFits
  if l.isEmpty then g
  else
    let top := (l.map fun e => e.2.2).foldl max 0
    let past := ((l.map fun e => (e.1, e.2.1, e.2.2 - top)) :: g.tiiPast).take 16
    let mean (e : Nat × Nat × Int) : Nat × Nat × Int :=
      let all := (past.flatMap id).filter fun y => decide (y.1 = e.1 ∧ y.2.1 = e.2.1)
      (e.1, e.2.1, Config.round ((all.map fun y => y.2.2).foldl (· + ·) 0) all.length)
    { g with tiiPast := past, tii := ((l.map mean).foldr byLevel []).take 8 }

/-- What a DAB frame leaves of the multiplex: nothing new when no FIB is good (R240). -/
def Digital.noteFrame (f : DabFrame) (start : Nat) (g : Digital) : Digital :=
  let g := { g.noteTii f.tii with frameStart := start }
  if !f.fibs.any CheckedBlock.ok then g
  else
    { g with
      organisation := if f.organisation.isEmpty then g.organisation else f.organisation,
      cif := (f.cifCount + 3) % 5000, cifKnown := true, change := f.change, occurrence := f.occurrence, next := f.next }

/-- Whether a selection's de-interleaver is full at elapsed tick `e`: what depends on a mixed span is failed or erased (R244, R255). -/
def Selection.full (s : Selection) (span e : Nat) : Bool := decide (s.state ≠ .waiting ∧ s.fill + span ≤ e)

/-- A selection decoded in a single pass over a frame: its logical frames that end in it feed their decisions back, and its channel bit
errors are counted (R188, R239). -/
def plainSel (c start : Nat) (m : Part) (s : Selection) : Part :=
  match ctx c m with
  | none => m
  | some x =>
    if s.kind = 1 ∨ !s.full fillTicks m.clock.elapsed then m
    else
      let stops := ((List.range 4).map fun j => symbolEnd start (22 + 18 * j)).filter fun e => s.full fillTicks e
      let errs := stops.filterMap fun e => plainErrors x s e x.delivered.ofdm
      let m := onCtx c (fun x => x.onCopies fun k => { k with ofdm := stops.foldl (fun p e => feedPlain x s e p) k.ofdm }) m
      let (e, n) := errs.foldl (fun (t : Nat × Nat) v => (t.1 + v.1, t.2 + v.2)) (0, 0)
      onNamed c s.name (fun y => { y with seen := (y.seen.1 + e, y.seen.2.1 + n, y.seen.2.2) }) (countErrors c e n 0 0 m)

/-- Raw data of a selection reaches it: every item with its stamp, as received or, when the de-interleaver is not full or the stamp lies in
HOLD, ERASED, which `ok` tells (R235, R242, R247, R253, R255). No type of Table FLW-1 carries raw data, so it stands in the selection.
(DESIGN CHOICE, log 30) -/
def rawSel (c start : Nat) (full : Bool) (l : List RawItem) (m : Part) (s : Selection) : Part :=
  match ctx c m with
  | none => m
  | some x =>
    if l.isEmpty ∨ s.state = .waiting ∨ (!full ∧ s.state ≠ .decoding) then m
    else
      let good := full && !inHoldSpan x 0 start
      onNamed c s.name (fun y => { y with
        state := .decoding, raw := l.map fun i => (htOf start m, { i with ok := i.ok && good }) }) m

/-- The raw data of a DAB frame, by its selections (Table DIG-4). -/
def rawSels (c start : Nat) (data : List (Nat × RawItem)) (m : Part) : Part :=
  ((ctx c m).elim [] Ctx.sels).foldl (fun m s =>
    if s.kind = 2 ∨ s.kind = 3 then
      rawSel c start (s.full fillTicks m.clock.elapsed) ((data.filter fun e => decide (e.1 = s.sel)).map (·.2)) m s
    else m) m

/-- One DAB frame: its symbols, AGC and delivery, the FIC and what it describes, and the data of its subchannels. (DEDUCED, log 31) -/
def dabFrame (c : Nat) (f : DabFrame) (m : Part) : Part :=
  match ctx c m with
  | none => m
  | some x =>
    if x.cfg.type ≠ 7 ∨ !framesRun x then m
    else
      let start := m.clock.elapsed - 2359296
      let x := countFrame f (x.onCopies (dabUpTo x start m))
      let (merA, merB) := (frameMer x.a f.merA, x.b.elim f.merB fun b => frameMer b f.merB)
      let m := onCtx c (fun _ => x.onCopies (CopyState.frameMeter x start m)) m
      let m := frameBoundary c merA merB f.agcErrA f.agcErrB f.delayNs m
      let d := x.delivered
      let (preErr, preCnt) := if d.path.fed then d.ofdm.ficErr.getD (0, 0) else (f.preErr, f.preCnt)
      let m := countErrors c preErr preCnt (f.fibs.filter fun b => !b.ok).length f.fibs.length m
      let m := onDig c (Digital.noteFrame f start) (deliverFibs c x start f.cifCount 0 f.fibs m)
      let m := frameSels c 7 start (decide (x.under = .track)) (((ctx c m).elim [] fun y => y.dig.organisation)) m
      let m := ((ctx c m).elim [] Ctx.sels).foldl (plainSel c start) m
      let m := rawSels c start f.data m
      dabAlarm c (goodItems f.fibs f.items) (learnAll c (goodItems f.fibs f.items) m)

/-- DAB_FRAME (R240): the transmission frame ends on `t`. -/
def execDabFrame (t ctx : Nat) (f : DabFrame) (s : State) : Host.Outcome State Fault Refusal :=
  s.run (onTick t (dabFrame ctx f))

/-! ## DRM_FRAME (R248-R254) -/

/-- Twice the edges of an occupancy about the nominal frequency, in Hz (R169). -/
def occEdges (o : Nat) : Int × Int :=
  let (w, off) := drmOccupancy o
  (2 * (off : Int) - (w : Int), 2 * (off : Int) + (w : Int))

/-- The signalled band lies wholly inside the opened channel (R251). -/
def occInside (signalled opened : Nat) : Bool :=
  decide ((occEdges opened).1 ≤ (occEdges signalled).1 ∧ (occEdges signalled).2 ≤ (occEdges opened).2)

/-- EV_DRM_OCC, when a signalled occupancy outside the opened channel is new (R251). -/
def drmOccupancyEvent (c : Nat) (x : Ctx) (signalled : Nat) (m : Part) : Part :=
  let changed := decide (x.dig.occSignalled ≠ signalled)
  let m := onDig c (fun g => { g with occSignalled := signalled }) m
  if x.cfg.type = 5 ∧ changed ∧ !occInside signalled x.cfg.occupancy then
    raise (halfSource (ctxHalf c) 9) 0x8D [⟨0, 2, c⟩, ⟨2, 1, signalled⟩, ⟨3, 1, x.cfg.occupancy⟩] m
  else m

/-- DRM alarms: the type set in one SDC block, clear in two consecutive ones (Table SVC-9); a block without the announcement entity leaves
it clear. (DEDUCED, log 33) -/
def drmAlarm (c : Nat) (items : List DbItem) (m : Part) : Part :=
  match (alarmsOf (fun _ => true) items).find? (·.1) with
  | some (_, test, key) => setAlarm c 3 true test key (onDig c (fun g => { g with alarmClear := 0 }) m)
  | none =>
    let m := onDig c (fun g => { g with alarmClear := g.alarmClear + 1 }) m
    if (ctx c m).any fun x => decide (2 ≤ x.dig.alarmClear) then endAlarm c 3 m else m

/-- Ticks from the end of a frame to the deadline of the multiplex frame that it completes (Table DEC-2). -/
def drmDeadline (type : Nat) : Nat := if type = 5 then 491520 else 122880

/-- The iteration limit of a context's blocks (R263, R268, R280): the first alone while synchronisation is not held, and for a JOINED member
that is not the lead while no flow is bound to its own program. -/
def iterLimit (c sel : Nat) (held : Bool) (m : Part) : Nat :=
  let member := m.sets.any fun s => (s.2.members.drop 1).any fun y => decide (y.ctx = c ∧ y.sel = sel ∧ y.state = .joined)
  let bound := !(flowsWhere (fun f => f.ofCtx c && decide (f.sel = sel) && decide (f.type = 1 ∨ f.type = 2)) m).isEmpty
  if !held ∨ (member ∧ !bound) then 1 else (ctx c m).elim 1 fun x => x.cfg.iterMax

/-- The source leads a set in which another member of its branch is JOINED: its sum is decoded beside its own copy (R280). -/
def leadsSum (c sel : Nat) (m : Part) : Bool := !(joinedBeside c sel m).isEmpty

/-- The copies of a context that decode blocks, with the half whose pool each draws on (R27, R192). -/
def blockCopies (c : Nat) (m : Part) : List (Copy × Nat) :=
  match ctx c m with
  | none => []
  | some x =>
    (if x.a.decodes then [(Copy.a, ctxHalf c)] else [])
      ++ (if x.b.any CopyState.decodes then [(Copy.b, partner (ctxHalf c))] else [])

/-- hold_back that the set which a source leads puts on its blocks (R283). -/
def leadHold (c sel : Nat) (m : Part) : Nat := (leadSet c sel m).elim 0 fun s => s.2.cfg.holdTicks

/-- A block that ends now, as each of a context's copies takes it: it waits for its deadline, `after` ticks from now, and for a set's
hold_back; the pool may serve it once its set's members are at hand. `b.limit` is the limit of its content (Table DEC-1). A set's lead
decodes its own copy beside the sum, in a single pass (R280). -/
def queueBlock (after asksA asksB : Nat) (b : IterBlock) (m : Part) : Part :=
  let now := m.clock.elapsed
  let wait := leadHold b.ctx b.sel m
  let limit := min b.limit (iterLimit b.ctx b.sel b.held m)
  let m := (blockCopies b.ctx m).foldl (fun m k =>
    addBlock { b with
      copy := k.1, half := k.2, ready := now + wait, deadline := now + wait + after, wait := wait, limit := limit,
      asks := max 1 (min limit (if k.1 = .a then asksA else asksB)),
      high := (ctx b.ctx m).any fun x => x.cfg.prioHigh, base := now } m) m
  if leadsSum b.ctx b.sel m then
    addBlock { b with
      half := ctxHalf b.ctx, ready := now + wait, deadline := now + wait + after, wait := wait, limit := 1, asks := 1,
      alone := true, base := now } m
  else m

/-- The combinations that are decoded (Table DIG-8): mode, occupancy, the mappings of MSC and SDC (bits of an axis: 1 4-QAM to 3 64-QAM)
and the depth of the interleaver. -/
def drmFits (f : DrmFrame) : Bool :=
  decide (f.sdcMap = 1 ∨ f.sdcMap = 2)
    && (if f.mode = 4 then decide (f.msc = 1 ∨ f.msc = 2)
        else decide (f.msc = 2 ∨ f.msc = 3) && decide (f.interleave = 1 ∨ f.interleave = 5)
          && decide (if f.mode ≤ 1 then f.occupancy ≤ 5 else f.occupancy = 3 ∨ f.occupancy = 5))

/-- The multiplex frame that the cell de-interleaver completes waits for its deadline, one block for each selected stream that is fed; the
first stands for the frame in the pool. 4-QAM is decoded in one iteration (Table DEC-1). -/
def queueMux (c type : Nat) (f : DrmFrame) (m : Part) : Part :=
  let now := m.clock.elapsed
  let span := f.interleave * frameTicks type
  let fed := ((ctx c m).elim [] Ctx.sels).filter fun s => s.full span now || decide (s.state = .decoding)
  let coding := ((ctx c m).elim [] fun x => x.dig.organisation).flatMap SubDesc.coding
  let entry (counts : Bool) (s : Selection) : IterBlock :=
    { ctx := c, sel := s.sel, deadline := now, held := true, counts := counts, coded := f.coded, levels := f.msc, coding := coding,
      limit := if f.msc = 1 then 1 else 3, depth := f.interleave }
  match fed with
  | [] => m
  | s :: rest =>
    rest.foldl (fun m s => queueBlock (drmDeadline type) 1 1 { entry false s with coded := 0 } m)
      (queueBlock (drmDeadline type) f.asks f.asksB (entry true s) m)

/-- A FAC or SDC block reaches the SD_DRM_RAW flows with its CRC status (R253). -/
def deliverBlock (c type : Nat) (x : Ctx) (start : Nat) (b : CheckedBlock) (m : Part) : Part :=
  appendSides (htOf start m) (heldFlags x start)
    { type := type, status := itemStatus x start b.ok, ctx := c, sel := 255, bytes := if type = 0x31 then 2 else 0, raw := b.bytes,
      fields := if type = 0x31 then [⟨0, 2, b.bytes.length⟩] else [] } (sideFlows 8 c 255 m) m

/-- What a frame says of a copy's criteria (R180): FACs in a row that passed and that failed. -/
def CopyState.countFac (ok : Bool) (c : CopyState) : CopyState :=
  if c.inHold then c
  else
    { c with seen := { c.seen with facOk := if ok then c.seen.facOk + 1 else 0, facBad := if ok then 0 else c.seen.facBad + 1 } }

/-- Modes A to D are received by type 5 alone, mode E by type 6 (R248). -/
def modeFits (type mode : Nat) : Bool := if type = 6 then decide (mode = 4) else decide (mode ≤ 3)

/-- A DRM frame with the mode that the delivered copy has acquired, where the model follows its sample path (R250). -/
def DrmFrame.acquired (x : Ctx) (f : DrmFrame) : DrmFrame :=
  if x.delivered.path.fed then { f with mode := x.delivered.ofdm.mode.getD f.mode } else f

/-- The channel bit errors of the FAC and SDC of the newest frame of a copy, with the bits examined (R188). -/
def controlErrors (x : Ctx) (c : CopyState) (f : DrmFrame) (coding : List Nat) : Nat × Nat :=
  match c.ofdm.grids with
  | [] => (0, 0)
  | g :: _ =>
    let fac := g.errors x.cfg.occupancy 0 1 coding
    let sdc := if f.sdc.isSome then g.errors x.cfg.occupancy 1 f.sdcMap coding else (0, 0)
    (fac.1 + sdc.1, fac.2 + sdc.2)

/-- One DRM frame. (DEDUCED, log 31) -/
def drmFrame (c : Nat) (f : DrmFrame) (m : Part) : Part :=
  match ctx c m with
  | none => m
  | some x =>
    let f := DrmFrame.acquired x f
    if (x.cfg.type ≠ 5 ∧ x.cfg.type ≠ 6) ∨ !framesRun x ∨ !modeFits x.cfg.type f.mode then m
    else
      let type := x.cfg.type
      let start := m.clock.elapsed - frameTicks type
      let coding := x.dig.organisation.flatMap SubDesc.coding
      let x := x.onCopies (drmUpTo x f.mode f.occupancy f.msc (f.sdc.map fun _ => f.sdcMap) coding start m)
      let x := { x with a := x.a.countFac (if x.b.isNone then f.fac.ok else f.facA), b := x.b.map (CopyState.countFac f.facB) }
      let (merA, merB) := (frameMer x.a f.merA, x.b.elim f.merB fun b => frameMer b f.merB)
      let m := onCtx c (fun _ => x.onCopies (CopyState.frameMeter x start m)) m
      let m := frameBoundary c merA merB f.agcErrA f.agcErrB f.delayNs m
      let checked := f.fac :: f.sdc.toList
      let (preErr, preCnt) := if x.delivered.path.fed then controlErrors x x.delivered f coding else (f.preErr, f.preCnt)
      let m := countErrors c preErr preCnt (checked.filter fun b => !b.ok).length checked.length m
      let m := deliverBlock c 0x30 x start f.fac m
      let m := f.sdc.elim m fun b => deliverBlock c 0x31 x start b m
      let m := onDig c (fun g => { g with frameStart := start, mode := some f.mode }) m
      let m := if f.fac.ok then drmOccupancyEvent c x f.occupancy m else m
      let m := if f.fac.ok && f.hierarchical then endSelections c endUnsupported ((ctx c m).elim [] Ctx.sels) m else m
      let checked := f.fac.ok || f.sdc.any CheckedBlock.ok
      let org := if checked && !f.streams.isEmpty then f.streams else x.dig.organisation
      let m := onDig c (fun g => { g with organisation := org }) m
      let m := frameSels c type start (decide (x.under = .track)) org m
      let items := goodItems (f.fac :: f.sdc.toList) f.items
      let m := learnAll c items m
      let m := if f.sdc.any CheckedBlock.ok then drmAlarm c items m else m
      if drmFits f then queueMux c type f m else m

/-- DRM_FRAME (R250): the transmission frame ends on `t`. -/
def execDrmFrame (t ctx : Nat) (f : DrmFrame) (s : State) : Host.Outcome State Fault Refusal :=
  s.run (onTick t (drmFrame ctx f))

/-! ## SELECTION_ABSENT (R242, R253, R292) -/

/-- Frames in TRACK after which a selection that is not described ends: 10, or 3 superframes. -/
def absentLimit (type : Nat) : Nat := if type = 7 then 10 else if type = 5 then 9 else 12

/-- SELECTION_ABSENT (R242). -/
def execSelectionAbsent (t ctx sel : Nat) (s : State) : Host.Outcome State Fault Refusal :=
  s.run (onTick t fun m =>
    match look ctx m.ctxs with
    | none => m
    | some x =>
      match x.sels.find? fun y => decide (y.sel = sel ∧ absentLimit x.cfg.type ≤ y.missing) with
      | none => m
      | some y => endSelection ctx y (some endAbsent) m)

/-! ## Audio units (R257-R259, R282) -/

/-- The elapsed tick of an HT that lies behind the present. -/
def pastElapsed (ht : Nat) (m : Part) : Nat := m.clock.elapsed + ht - m.clock.ht

/-- The start of the transmission frame in which elapsed tick `e` lies, by a context's frame timing (Table HTM-5). -/
def frameBegin (x : Ctx) (e : Nat) : Nat :=
  let t := frameTicks x.cfg.type
  let a := x.dig.frameStart % t
  if e < a then e else a + (e - a) / t * t

/-- Units stamped with the frame in which the time de-interleaver completed them (R59, Table HTM-5). -/
def stampUnits (c : Nat) (units : List UnitResult) (m : Part) : List UnitResult :=
  match ctx c m with
  | none => units
  | some x => units.map fun u => { u with stamp := htOf (frameBegin x (pastElapsed u.stamp m)) m }

/-- The unit that another JOINED member of the lead's own branch decoded for the one that fails, stamped elapsed tick `at_`, which the set
delivers in its place (R280). -/
def substituted (c sel at_ : Nat) (m : Part) : Option UnitResult :=
  (joinedBeside c sel m).findSome? fun e =>
    ((ctx e.2.ctx m).bind fun x => x.sel e.2.sel).bind fun s =>
      let want := (at_ : Int) + 32 * (e.2.offset - e.1.offset)
      (s.units.find? fun p => p.2.ok && decide (2 * ((p.1 : Int) - want).natAbs ≤ pcmTicks * p.2.pcmFrames)).map (·.2)

/-- The flags of an access unit (R259, Table DEC-8): a lead's are those of the lead's branch. -/
def unitFlags (c sel : Nat) (x : Ctx) (e : Nat) (ok : Bool) (m : Part) : Nat :=
  match leadSet c sel m with
  | none => orFlags (heldFlags x e) (flagIf (!ok || inHoldSpan x 0 e) flagErased)
  | some (_, s) =>
    let mine := s.members.filter fun y => decide (y.state = .joined) && (s.members.head?).any fun l => decide (l.branch = y.branch)
    let on_ := mine.filter fun y => (ctx y.ctx m).any fun z => !z.inHold
    orFlags (flagIf (decide (2 ≤ on_.length)) flagCombined)
      (orFlags (flagIf (!mine.isEmpty && on_.isEmpty) flagHold) (flagIf (!ok) flagErased))

/-- An access unit on an ACCESS_UNITS flow (R259, R353). -/
def appendUnit (c sel : Nat) (x : Ctx) (u : UnitResult) (ok : Bool) (n : Nat) (m : Part) : Part :=
  match flow n m with
  | none => m
  | some f =>
    let len := 8 + 4 * ceilDiv u.bytes 4
    let base := match f.opened with
      | some o => if f.length < o.bytes + len then u.stamp else o.ht
      | none => u.stamp
    appendItem n u.stamp ((u.stamp : Int) - m.clock.grid) (unitFlags c sel x (pastElapsed u.stamp m) ok m)
      { bytes := len, body := u.body, bodyAt := 8,
        fields := [⟨0, 2, len⟩, ⟨2, 1, u.codec⟩, ⟨3, 1, if ok then 0 else 1⟩, ⟨4, 4, (u.stamp : Int) - (base : Int)⟩] } m

/-- The ACCESS_UNITS flows of a selection. -/
def unitFlows (c sel : Nat) (m : Part) : List Nat :=
  flowsWhere (fun f => f.ofCtx c && decide (f.type = 2 ∧ f.sel = sel)) m

/-- A digital branch's unit fails, or passes: it is bad from each failed unit until 1 s has passed without one (R282). -/
def judgeUnit (br : Branch) (failed : Bool) (now : Nat) : List BranchJudge → List BranchJudge
  | [] => [{ branch := br, bad := failed, since := now, failedAt := if failed then some now else none }]
  | j :: rest =>
    if j.branch = br then
      let over_ := j.failedAt.all fun f => decide (f + ticksPerSecond ≤ now)
      let j := if failed then { j with bad := true, since := if j.bad && !over_ then j.since else now, failedAt := some now }
        else if j.bad && over_ then { j with bad := false, since := j.failedAt.elim now fun f => f + ticksPerSecond } else j
      j :: rest
    else j :: judgeUnit br failed now rest

/-- Judge the branch of a digital member when one of its units is released: the unit fails when every JOINED member's does. -/
def judgeDigital (c sel : Nat) (m : Part) : Part :=
  (setsOf c m).foldl (fun m n =>
    match sourceSet n m with
    | none => m
    | some s =>
      match s.members.find? fun y => decide (y.ctx = c ∧ y.sel = sel) with
      | none => m
      | some mem =>
        let joined := s.members.filter fun y => decide (y.branch = mem.branch ∧ y.state = .joined)
        let failed := !joined.isEmpty && joined.all fun y => memberFails y m
        onSet n (fun s => { s with judge := judgeUnit mem.branch failed m.clock.elapsed s.judge }) m) m

/-- A unit of a kind fits the codecs of Table DIG-12: Layer II frames of 1,152 samples at 48 or 24 kHz, 960-sample core frames of HE-AAC v2
at 16 to 48 kHz and of DRM AAC at 12 to 48 kHz, or xHE-AAC, in PCM frames at 48 kHz (R246, R256). -/
def unitFits (kind : Nat) (u : UnitResult) : Bool :=
  match kind with
  | 0 => decide (u.codec = 0) && decide (u.pcmFrames = 1152 ∨ u.pcmFrames = 2304)
  | 1 => decide (u.codec = 1) && [960, 1440, 1920, 2880].contains u.pcmFrames
  | 4 => decide (u.codec = 3) || (decide (u.codec = 2) && [960, 1920, 3840].contains u.pcmFrames)
  | _ => false

/-- What a unit that leaves makes of its selection: `ok` whether it decoded, `bad` whether its audio is concealed, `keep` whether a set may
want it. -/
def Selection.release (at_ now : Nat) (u : UnitResult) (ok bad keep : Bool) (y : Selection) : Selection :=
  { y with
    failRun := if ok then 0 else y.failRun + 1, failed := if ok then y.failed else y.failed + 1,
    failLen := if bad then y.failLen + u.pcmFrames else 0, failAt := if ok then y.failAt else some now,
    fade := if bad then 480 else y.fade - u.pcmFrames,
    conceal := y.conceal - 1, state := if ok then .decoding else y.state,
    units := if keep then ((at_, { u with ok := ok }) :: y.units).take 420 else [] }

/-- One unit leaves: its PCM, the unit itself, and what its success or failure leaves behind. A set delivers another member's unit for one
that fails, and its flows carry CONCEALED only when none passed (R258, R280, R283). -/
def releaseUnit (c sel : Nat) (u : UnitResult) (whole : Bool) (m : Part) : Part :=
  match ctx c m with
  | none => m
  | some x =>
    match x.sel sel with
    | none => m
    | some s =>
      let at_ := pastElapsed u.stamp m
      let ok := whole && u.ok && unitFits s.kind u
      let other := if ok then none else substituted c sel at_ m
      let v := { other.getD u with stamp := u.stamp }
      let good := ok || other.isSome
      let bad := !good || decide (0 < s.conceal)
      let w : UnitFade := { failed := s.failLen, fails := bad, fade := if bad then 0 else s.fade }
      let m := onSel c sel (Selection.release at_ m.clock.elapsed u ok bad (!(setsOf c m).isEmpty)) m
      let m := selUnitAll c sel x (frameTicks x.cfg.type) (flagIf bad flagConcealed) (decide (s.state ≠ .decoding)) w v.pcm v.pcmFrames at_ m
      let m := (unitFlows c sel m).foldl (fun m n => appendUnit c sel x v good n m) m
      judgeDigital c sel (refreshCtx c m)

/-- Units of a superframe or frame leave. -/
def releaseUnits (c sel : Nat) (whole : Bool) (units : List UnitResult) (m : Part) : Part :=
  units.foldl (fun m u => releaseUnit c sel u whole m) m

/-- A changed configuration: up to 2 units after it are concealed; how many is a free value (R257). (DEDUCED, log 31) -/
def configChange (c sel : Nat) (changed : Bool) (m : Part) : Part :=
  if changed then
    let n := m.free
    onSel c sel (fun s => { s with conceal := (Config.measured n).natAbs % 3 }) { m with free := n + 1 }
  else m

/-! ## PAD, text and MOT (R304, R307-R309) -/

/-- Whether all segments from 0 to the last are there. -/
def allSegments (last : Option Nat) (segs : List (Nat × List Byte)) : Bool :=
  last.any fun n => (List.range (n + 1)).all fun i => has i segs

/-- A decoded item of a selection, stamped `ht` (R304, R310). -/
def selItem (c sel ht subtype type bytes : Nat) (fields : List Field) (raw : List Byte) (status : Nat) (m : Part) : Part :=
  let flags := (ctx c m).elim 0 fun x => heldFlags x (pastElapsed ht m)
  appendSides ht flags { type := type, status := status, ctx := c, sel := sel, bytes := bytes, fields := fields, raw := raw }
    (sideFlows subtype c sel m) m

/-- Change the text message of a selection. -/
def onMessage (c sel : Nat) (f : Message → Message) (m : Part) : Part := onSel c sel (fun s => { s with text := f s.text }) m

/-- The text message of a selection. -/
def message (c sel : Nat) (m : Part) : Message := ((ctx c m).bind fun x => x.sel sel).elim {} Selection.text

/-- A segment of a message under its toggle: another toggle begins another message. -/
def Message.add (toggle : Bool) (i : Nat) (last : Bool) (set : Charset) (bytes : List Byte) (t : Message) : Message :=
  let t := if t.toggle = some toggle then t else { t with toggle := some toggle, segments := [], last := none }
  { t with segments := put i bytes t.segments, last := if last then some i else t.last, set := set }

/-- Every segment of the message is there. -/
def Message.whole (t : Message) : Bool := allSegments t.last t.segments

/-- The whole message in UTF-8. -/
def Message.rendered (t : Message) : List Byte :=
  renderSet t.set ((t.segments.filter fun s => t.last.any fun n => decide (s.1 ≤ n)).flatMap (·.2))

/-- DL Plus tags follow the DAB_DLS item to which they refer, by its dls_seq (R307). -/
def releaseTags (c sel ht : Nat) (m : Part) : Part :=
  let t := message c sel m
  if !t.whole ∨ t.sent.isNone then m
  else
    t.held.foldl (fun m b => selItem c sel ht 6 0x22 2 [⟨0, 2, t.seq⟩] b 0 m) (onMessage c sel (fun t => { t with held := [] }) m)

/-- A segment of a dynamic label (R307): the message is delivered when it is whole and differs from the last one. Each delivery counts
dls_seq on. (DESIGN CHOICE, log 64) -/
def labelSegment (c sel ht : Nat) (toggle : Bool) (i : Nat) (last : Bool) (set : Charset) (bytes : List Byte) (m : Part) : Part :=
  let m := onMessage c sel (Message.add toggle i last set bytes) m
  let t := message c sel m
  if !t.whole then m
  else if t.sent = some t.rendered then releaseTags c sel ht m
  else
    let seq := (t.seq + 1) % 65536
    let m := onMessage c sel (fun t => { t with seq := seq, sent := some t.rendered }) m
    releaseTags c sel ht
      (selItem c sel ht 6 0x21 4 [⟨0, 1, 0⟩, ⟨1, 2, seq⟩, ⟨3, 1, t.rendered.length⟩] t.rendered 0 m)

/-- A segment of a DRM text (R309): delivered when the message is whole and differs from the last one. -/
def textSegment (c sel ht : Nat) (toggle : Bool) (i : Nat) (last : Bool) (bytes : List Byte) (m : Part) : Part :=
  let m := onMessage c sel (Message.add toggle i last .utf8 bytes) m
  let t := message c sel m
  if !t.whole ∨ t.sent = some t.rendered then m
  else
    selItem c sel ht 9 0x32 2 [⟨0, 1, if toggle then 1 else 0⟩, ⟨1, 1, t.rendered.length⟩] t.rendered 0
      (onMessage c sel (fun t => { t with sent := some t.rendered }) m)

/-- One item of the PAD or text of a unit stamped `ht` that passed its check or not (R304, R307, R309): a data group counts when its CRC
passes. -/
def padItem (c sel ht : Nat) (ok : Bool) (p : PadItem) (m : Part) : Part :=
  match p with
  | .pad fpad xpad =>
    let status := (ctx c m).elim 0 fun x => itemStatus x (pastElapsed ht m) ok
    selItem c sel ht 5 0x25 3 [⟨0, 2, fpad⟩, ⟨2, 1, xpad.length⟩] xpad status m
  | .label crc toggle i last set bytes => if crc then labelSegment c sel ht toggle i last set bytes m else m
  | .clear crc => if crc then selItem c sel ht 6 0x21 4 [⟨0, 1, 1⟩, ⟨1, 2, (message c sel m).seq⟩, ⟨3, 1, 0⟩] [] 0 m else m
  | .tags crc toggle running tags =>
    if !crc then m
    else
      let body := [if toggle then 1 else 0, if running then 1 else 0] ++ (tags.take 4).flatMap fun t => [t.1, t.2.1, t.2.2]
      releaseTags c sel ht (onMessage c sel (fun t => { t with held := t.held ++ [body] }) m)
  | .text crc toggle i last bytes => if crc then textSegment c sel ht toggle i last bytes m else m

/-- The stamp of unit `i` of a block, and whether it passed its check. -/
def unitAt (units : List UnitResult) (i : Nat) (m : Part) : Nat × Bool := (units[i]?).elim (m.clock.ht, false) fun u => (u.stamp, u.ok)

/-- What the PAD and the text of the units of a block carry. -/
def deliverPads (c sel : Nat) (units : List UnitResult) (pads : List (Nat × PadItem)) (m : Part) : Part :=
  pads.foldl (fun m p => let (ht, ok) := unitAt units p.1 m; padItem c sel ht ok p.2 m) m

/-- Bytes held of an object. -/
def MotObject.bytes (o : MotObject) : Nat := ((o.head ++ o.body).map fun s => s.2.length).sum

/-- The object is complete. -/
def MotObject.complete (o : MotObject) : Bool := allSegments o.headLast o.head && allSegments o.bodyLast o.body

/-- An object is larger than 1 MiB. -/
def MotObject.tooLarge (o : MotObject) : Bool := decide (2 ^ 20 < o.bodySize ∨ 2 ^ 20 < o.bytes)

/-- The object takes a segment. -/
def MotObject.add (o : MotObject) (g : MotSegment) (now : Nat) : MotObject :=
  let last (old : Option Nat) : Option Nat := if g.last then some g.segment else old
  if g.header then
    { o with head := put g.segment g.data o.head, headLast := last o.headLast, bodySize := g.bodySize, lastAt := now }
  else { o with body := put g.segment g.data o.body, bodyLast := last o.bodyLast, lastAt := now }

/-- Change service following's objects. -/
def onMots (f : List MotObject → List MotObject) (m : Part) : Part := { m with service := { m.service with mots := f m.service.mots } }

/-- The object of a selection and a TransportId. -/
def sameMot (c sel tid : Nat) (o : MotObject) : Bool := decide (o.ctx = c ∧ o.sel = sel ∧ o.transportId = tid)

/-- Note an object as delivered or dropped; what is older than 10 minutes is forgotten. (DESIGN CHOICE / DEDUCED, log 32) -/
def noteMot (c sel tid size : Nat) (delivered : Bool) (m : Part) : Part :=
  let now := m.clock.elapsed
  let e : MotDone := { ctx := c, sel := sel, transportId := tid, size := size, delivered := delivered, doneAt := now }
  { m with service := { m.service with
      motsDone := (m.service.motsDone.filter fun d => decide (now < d.doneAt + 10 * minute)) ++ [e] } }

/-- An object is dropped, and counted (R308). (DESIGN CHOICE / DEDUCED, log 32) -/
def dropMot (c sel tid : Nat) (m : Part) : Part :=
  noteMot c sel tid 0 false (onSel c sel (fun s => { s with motDropped := s.motDropped + 1 })
    (onMots (fun l => l.filter fun o => !sameMot c sel tid o) m))

/-- MOT_BODY items, in segment order. -/
def motBodies (c sel ht tid last : Nat) : List (Nat × List Byte) → Part → Part
  | [], m => m
  | (i, bs) :: rest, m =>
    motBodies c sel ht tid last rest
      (selItem c sel ht 7 0x24 5 [⟨0, 2, tid⟩, ⟨2, 2, i⟩, ⟨4, 1, if i = last then 1 else 0⟩] bs 0 m)

/-- A complete object: delivered, unless it repeats one of the last 10 minutes (R308). (DESIGN CHOICE / DEDUCED, log 32) -/
def deliverMot (c sel ht : Nat) (o : MotObject) (m : Part) : Part :=
  let m := onMots (fun l => l.filter fun y => !sameMot c sel o.transportId y) m
  let again := m.service.motsDone.any fun d =>
    d.delivered && decide (d.ctx = c ∧ d.sel = sel ∧ d.transportId = o.transportId ∧ d.size = o.bodySize
      ∧ m.clock.elapsed < d.doneAt + 10 * minute)
  if again then m
  else
    let m := selItem c sel ht 7 0x23 6 [⟨0, 2, o.transportId⟩, ⟨2, 4, o.bodySize⟩] (o.head.flatMap (·.2)) 0 m
    noteMot c sel o.transportId o.bodySize true (motBodies c sel ht o.transportId (o.bodyLast.getD 0) o.body m)

/-- A fifth object replaces the one whose last segment arrived longest ago. (DESIGN CHOICE / DEDUCED, log 32) -/
def roomForMot (c sel : Nat) (m : Part) : Part :=
  let mine := m.service.mots.filter fun o => decide (o.ctx = c ∧ o.sel = sel)
  if mine.length < 4 then m
  else
    match oldest (fun _ => true) MotObject.lastAt mine with
    | none => m
    | some o => onMots (fun l => l.filter fun y => !sameMot c sel o.transportId y) m

/-- A MOT segment arrives (R308). Segments of an object dropped in the last 60 s are passed over.
(DESIGN CHOICE / DEDUCED, log 32) -/
def motSegment (c sel ht : Nat) (m : Part) (g : MotSegment) : Part :=
  let now := m.clock.elapsed
  let gone := m.service.motsDone.any fun d =>
    !d.delivered && decide (d.ctx = c ∧ d.sel = sel ∧ d.transportId = g.transportId ∧ now < d.doneAt + minute)
  if gone ∨ !g.crc then m
  else if g.directory then dropMot c sel g.transportId m
  else
    let m := if m.service.mots.any (sameMot c sel g.transportId) then m
      else onMots (fun l => l ++ [{ ctx := c, sel := sel, transportId := g.transportId, lastAt := now }]) (roomForMot c sel m)
    match m.service.mots.find? (sameMot c sel g.transportId) with
    | none => m
    | some o =>
      let o := o.add g now
      if o.tooLarge then dropMot c sel g.transportId m
      else if o.complete then deliverMot c sel ht o m
      else onMots (fun l => l.map fun y => if sameMot c sel g.transportId y then o else y) m

/-- Side data of the units of a block or frame. -/
def deliverSide (c sel : Nat) (units : List UnitResult) (pads : List (Nat × PadItem)) (mots : List (Nat × MotSegment)) (m : Part) : Part :=
  mots.foldl (fun m g => motSegment c sel (unitAt units g.1 m).1 m g.2) (deliverPads c sel units pads m)

/-- MOT_OBJECT_TIMEOUT (R308): 60 s after the last segment of an incomplete object. (DESIGN CHOICE / DEDUCED, log 32) -/
def execMotObjectTimeout (t ctx sel transportId : Nat) (s : State) : Host.Outcome State Fault Refusal :=
  s.run (onTick t fun m =>
    if m.service.mots.any fun o => sameMot ctx sel transportId o && decide (o.lastAt + minute ≤ m.clock.elapsed) then
      dropMot ctx sel transportId m
    else m)

/-! ## DABPLUS_SUPERFRAME, L2_FRAME, BLOCK_DEADLINE (R245, R246, R264-R268) -/

/-- The selection of a kind is fed: its first logical frame is complete, or it has decoded and is being filled again (R244, R255). -/
def fedSelection (c sel kind : Nat) (m : Part) : Option Selection :=
  match ctx c m with
  | none => none
  | some x =>
    if x.cfg.type = 7 ∧ framesRun x then
      (x.sel sel).filter fun s => decide (s.kind = kind) && (s.full fillTicks m.clock.elapsed || decide (s.state = .decoding))
    else none

/-- The CIF that ends on elapsed tick `e`, if one does, by the count of the last frame decoded (R240). -/
def cifEndsAt (x : Ctx) (e : Nat) : Option Nat :=
  let frame := frameOf x.dig.frameStart e
  ((List.range 4).find? fun j => decide (symbolEnd frame (22 + 18 * j) = e)).map fun j =>
    (((x.dig.cif : Int) - 3 + 4 * (((frame : Int) - x.dig.frameStart) / 2359296) + j) % 5000).toNat

/-- A superframe may end on elapsed tick `e`: it begins at a logical frame whose CIF count is a multiple of 5, once the count is known
(R245). -/
def superEnds (x : Ctx) (e : Nat) : Bool := !x.dig.cifKnown || (cifEndsAt x e).any fun n => decide (n % 5 = 4)

/-- A Layer II frame may end on elapsed tick `e`: one a logical frame at 48 kHz, one in two at 24 kHz, a logical frame being at most 705,600
ticks after the last (R246). -/
def l2Due (s : Selection) (low : Bool) (e : Nat) : Bool :=
  s.l2At.all fun t => decide (if low then t + 705600 < e else t + 551232 ≤ e)

/-- EV_DABPLUS_SYNC. -/
def plusSync (c sel state : Nat) (m : Part) : Part :=
  raise (halfSource (ctxHalf c) 8) 0x8B [⟨0, 2, c⟩, ⟨2, 1, sel⟩, ⟨3, 1, state⟩] m

/-- The block of a context and a selection of a copy that arrived on elapsed tick `e`. -/
def blockOf (c sel e : Nat) (k : Copy) (m : Part) : Option IterBlock :=
  m.blocks.find? fun b => decide (b.ctx = c ∧ b.sel = sel ∧ b.base = e ∧ b.copy = k) && !b.alone

/-- The fire code of a superframe that has arrived: of its bytes, where the model follows the sample path, else as the row says (R245). -/
def firePasses (b : Option IterBlock) (row : Bool) : Bool :=
  match b with
  | some b => if b.soft.isEmpty then row else Config.fireCode (superBytes b)
  | none => row

/-- DABPLUS_SUPERFRAME (R245): the fire code may give synchronisation; the block, of 5 × 64 coded bits a CU, waits for its deadline
(R262). -/
def execDabplusSuperframe (t ctx sel : Nat) (f : PlusFrame) (s : State) : Host.Outcome State Fault Refusal :=
  s.run (onTick t fun m =>
    let m := settlePair ctx m
    match fedSelection ctx sel 1 m with
    | none => m
    | some y =>
      let now := m.clock.elapsed
      if !((look ctx m.ctxs).any fun x => superEnds x now) then m
      else
        let m := onCtx ctx (fun x => x.onCopies (dabUpTo x (frameOf x.dig.frameStart now) m)) m
        let m := queueBlock 196608 f.asks f.asksB
          { ctx := ctx, sel := sel, deadline := now, held := y.synced, counts := true, coded := 320 * y.size, coding := y.coding,
            words := y.rate, limit := 4 } m
        let copy := (look ctx m.ctxs).elim Copy.a fun x => if x.b.isNone then .a else x.pair.copy
        if !y.synced && firePasses (blockOf ctx sel now copy m) f.fire then
          plusSync ctx sel 0 (onSel ctx sel (fun y => { y with synced := true, syncFails := 0 }) m)
        else m)

/-- The frame synchronisation of a Layer II selection after a frame (R246). -/
def Selection.l2Sync (f : L2Frame) (s : Selection) : Selection :=
  if f.sync then { s with synced := s.synced || f.headerOk, syncFails := 0 }
  else { s with syncFails := s.syncFails + 1, synced := s.synced && decide (s.syncFails + 1 < 3) }

/-- The unit of a Layer II frame: 1,152 samples, at 48 or 24 kHz (R246, R257). -/
def L2Frame.result (f : L2Frame) : UnitResult := { f.unit with codec := 0, pcmFrames := if f.low then 2304 else 1152 }

/-- L2_FRAME (R246). A set's lead waits for hold_back, and BLOCK_DEADLINE releases its frame (R283). -/
def execL2Frame (t ctx sel : Nat) (f : L2Frame) (s : State) : Host.Outcome State Fault Refusal :=
  s.run (onTick t fun m =>
    let m := settlePair ctx m
    match fedSelection ctx sel 0 m with
    | none => m
    | some y =>
      let now := m.clock.elapsed
      if !l2Due y f.low now then m
      else
        let m := onSel ctx sel (fun s => { (s.l2Sync f) with l2At := some now }) m
        let ok := (y.l2Sync f).synced && f.sync && f.headerOk && f.scfOk && y.full fillTicks now
        let m := countErrors ctx f.preErr f.preCnt (if ok then 0 else 1) 1 m
        if leadHold ctx sel m ≠ 0 then
          queueBlock 0 1 1 { ctx := ctx, sel := sel, deadline := now, held := false, counts := false } m
        else
          let units := stampUnits ctx [L2Frame.result f] m
          let m := configChange ctx sel f.configChanged m
          deliverSide ctx sel units (f.pads.map fun p => (0, p)) (f.mots.map fun g => (0, g)) (releaseUnits ctx sel ok units m))

/-- What the figures take from a block (R194): its pool counts it, and its context counts the block of the copy that it delivers; it is cut
short when it still asked for an iteration (R193, R267). (DEDUCED, log 34) -/
def countIterations (b : IterBlock) (m : Part) : Part :=
  if !b.counts then m
  else
    let short := decide (b.done < b.asks)
    let m := countBlock b.half short m
    onCtx b.ctx (fun x =>
      if !b.alone ∧ (b.copy = x.pair.copy ∨ x.b.isNone) then
        { x with quality := { x.quality with
          iterSum := x.quality.iterSum + b.done, iterBlocks := x.quality.iterBlocks + 1,
          iterShort := x.quality.iterShort + (if short then 1 else 0) } }
      else x) m

/-- The fire code after outer decoding, while synchronisation was held: three failures in a row lose it (R245). -/
def plusLoss (c : Nat) (s : Selection) (b : IterBlock) (fire : Bool) (m : Part) : Part :=
  if s.kind ≠ 1 ∨ !s.synced ∨ !b.held then m
  else if fire then onSel c s.sel (fun y => { y with syncFails := 0 }) m
  else if s.syncFails + 1 < 3 then onSel c s.sel (fun y => { y with syncFails := y.syncFails + 1 }) m
  else plusSync c s.sel 1 (onSel c s.sel (fun y => { y with synced := false, syncFails := 0 }) m)

/-- The units of a superframe: as its bytes give them, where the model follows the sample path, each with its CRC (R245, R259). -/
def followedUnits (b : IterBlock) (units : List UnitResult) : List UnitResult :=
  if b.soft.isEmpty then units
  else
    let l := Config.accessUnits (superBytes b)
    units.zipIdx.map fun e =>
      match l[e.2]? with
      | none => { e.1 with ok := false }
      | some a => { e.1 with ok := a.1, bytes := a.2.length, body := a.2 }

/-- The audio parameters that a unit's header names come into use; where they change the decoder begins again (R245, R257). -/
def configure (c : Nat) (s : Selection) (config : List Nat) (changed : Bool) (m : Part) : Part :=
  let new := !config.isEmpty && !s.config.isEmpty && decide (config ≠ s.config)
  configChange c s.sel (changed || new) (if config.isEmpty then m else onSel c s.sel (fun y => { y with config := config }) m)

/-- What Table DIG-13 and the quality window count of a block: channel bit errors, RS codewords, units that failed. -/
def countBlockErrors (c : Nat) (x : Ctx) (s : Selection) (b : IterBlock) (r : BlockResult) (failed units : Nat) (m : Part) : Part :=
  let (e, n) := (if s.kind = 1 then superErrors x s b else muxErrors b).getD (r.preErr, r.preCnt)
  let (fixed, lost) := if b.soft.isEmpty then (r.fixed, r.lost) else superWords b
  let m := onNamed c s.name (fun y => { y with
    seen := (y.seen.1 + e, y.seen.2.1 + n, y.seen.2.2.1 + fixed, y.seen.2.2.2 + lost) }) m
  if s.kind = 0 then m
  else if s.kind = 1 then countErrors c e n (min 1 failed) 1 m
  else countErrors c e n failed units m

/-- How long a selection's de-interleaver must have been fed before the end of a block that it completes (R244, R252, R255). -/
def blockSpan (type : Nat) (s : Selection) (b : IterBlock) : Nat :=
  if s.kind = 1 then fillTicks + 2359296 else if type = 7 then fillTicks else b.depth * frameTicks type

/-- A block reaches its deadline, with that of the other copy: all are counted, their decisions fed back, and the units of the delivered
one released, or the raw data of a DRM stream. A logical frame and a DRM audio frame are boundaries of R28. -/
def blockDeadline (c sel : Nat) (r : BlockResult) (m : Part) : Part :=
  let m := settlePair c (runPools m)
  let isIt (b : IterBlock) : Bool := decide (b.ctx = c ∧ b.sel = sel ∧ b.deadline ≤ m.clock.elapsed)
  match m.blocks.find? isIt, ctx c m, (ctx c m).bind fun x => x.sel sel with
  | some b, some x, some s =>
    let same (y : IterBlock) : Bool := decide (y.ctx = c ∧ y.sel = sel ∧ y.deadline = b.deadline)
    let done := m.blocks.filter same
    let copy := if x.b.isNone then Copy.a else x.pair.copy
    let b := ((done.find? fun y => decide (y.copy = copy) && !y.alone).or done.head?).getD b
    let m := { m with blocks := m.blocks.filter fun y => !same y }
    let m := done.foldl (fun m b => if b.alone then countIterations b m else feedBack b (countIterations b m)) m
    let fire := firePasses (some b) r.fire
    let m := configure c s r.config r.configChanged (plusLoss c s b fire m)
    let full := s.full (blockSpan x.cfg.type s b) b.base
    let whole := full && (decide (s.kind ≠ 1) || (s.synced && fire))
    let units := stampUnits c (followedUnits b r.units) m
    let failed := (units.filter fun u => !(whole && u.ok)).length
    let m := countBlockErrors c x s b r failed units.length m
    let m := if s.kind = 5 then rawSel c (frameBegin x (b.base - 1)) full r.data m s else m
    deliverSide c sel units r.pads r.mots (releaseUnits c sel whole units m)
  | _, _, _ => m

/-- BLOCK_DEADLINE (R264). (DEDUCED, log 34) -/
def execBlockDeadline (t ctx sel : Nat) (r : BlockResult) (s : State) : Host.Outcome State Fault Refusal :=
  s.run (onTick t (blockDeadline ctx sel r))

/-! ## MUX_RECONF (R255) -/

/-- One selection at the CIF or frame of a reconfiguration (Table DIG-11). (DEDUCED, log 31) -/
def reconfSel (c : Nat) (m : Part) (e : Nat × SelChange) : Part :=
  match (ctx c m).bind fun x => x.sel e.1 with
  | none => m
  | some s =>
    match e.2 with
    | .none => m
    | .reorganised coding start size rate => reorganise c s coding start size rate m.clock.elapsed m
    | .coding => configChange c s.sel true m
    | .removed => endSelection c s (some endRemoved) m
    | .conditionalAccess => if s.audio then endSelection c s (some endCa) m else m
    | .unsupported => endSelection c s (some endUnsupported) m
    | .movedTo sub =>
      if !s.byService then m
      else
        let m := renumber c s.sel sub (breakFlows (selFlows c s.sel m) m)
        refreshCtx c (onNamed c s.name (fun y => { y with
          sel := sub, state := .filling, fill := m.clock.elapsed, synced := false, syncFails := 0, failRun := 0 }) m)

/-- MUX_RECONF (R255). -/
def execMuxReconf (t ctx : Nat) (r : Reconf) (s : State) : Host.Outcome State Fault Refusal :=
  s.run (onTick t fun m =>
    match look ctx m.ctxs with
    | none => m
    | some x =>
      if !framesRun x then m
      else
        let m := raise (halfSource (ctxHalf ctx) 9) 0x8C [⟨0, 2, ctx⟩, ⟨4, 2, r.count⟩] m
        let m := onDig ctx (fun g => { g with reconfigs := satBits 32 (g.reconfigs + 1) }) m
        r.changes.foldl (reconfSel ctx) m)

end Sys2Proof.Machine
end

