-- ==== Sys2Proof/Machine/Combining.lean ====
section
/-! DEFINITION. Source sets: SVC_LINK, alignment of members, and blending between branches (R272-R284). -/

namespace Sys2Proof.Machine

/-! ## Checks (R273, R274) -/

/-- The set parameters with their defaults (Table DEC-6). -/
def decodeSet (p : SetParams) : SetCfg :=
  { alignWindow := orDefault 1 30 p.alignWindow, holdBack := orDefault 1 20 p.holdBack, xfade := orDefault 4 4800 p.xfade,
    badHold := orDefault 2 100 p.badHold, goodHold := orDefault 1 5 p.goodHold, blendGood := orDefault 1 20 p.blendGood }

/-- Every set parameter is in range. -/
def setValid (p : SetParams) : Bool :=
  let c := decodeSet p
  decide (1 ≤ c.alignWindow ∧ c.alignWindow ≤ 100 ∧ c.holdBack ≤ c.alignWindow ∧ 480 ≤ c.xfade ∧ c.xfade ≤ 96000
    ∧ c.badHold ≤ 2000 ∧ 1 ≤ c.goodHold ∧ c.goodHold ≤ 60 ∧ 10 ≤ c.blendGood ∧ c.blendGood ≤ 40)

/-- A source is already in a set (R272). -/
def inSet (c sel : Nat) (m : Part) : Bool :=
  m.sets.any fun s => s.2.members.any fun y => decide (y.ctx = c ∧ y.sel = sel)

/-- The kind of the selection that a source names, made or accepted. -/
def sourceKind (c sel : Nat) (m : Part) : Option Nat :=
  (((ctx c m).bind fun x => x.sel sel).map Selection.kind).or
    (((selsAfter c m).find? fun s => decide (s.1 = { byService := false, sid := 0, sub := sel })).map (·.2))

/-- The source fits a set: an AM or FM context with 0xFF, or an audio selection of a DAB or DRM context (R272, R274). -/
def sourceFits (c sel : Nat) (m : Part) : Bool :=
  match cfgAfter c m with
  | none => decide (sel ≤ 63 ∨ sel = 255)
  | some g =>
    !g.probe && (if digitalType g.type then
        decide (sel < if g.type = 7 then 64 else 4) && (sourceKind c sel m).all audioKind
      else decide (g.type ≠ 2 ∧ sel = 255))

/-- The status of a source of CREATE or ADD: range, fit and use first, then fenced, then held (R37, R274): a fence closes what its
half held, so the row of R274 for a fenced half applies ahead of that for a context not held. (DEDUCED, log 20) -/
def sourceStatus (src : LinkSource) (m : Part) : Nat :=
  firstStatus [
    (slotOutside src.ctx m || decide (3 < src.rank) || !sourceFits src.ctx src.sel m || inSet src.ctx src.sel m, stBadParam),
    (slotFenced src.ctx m, stFenced), (!slotHeld src.ctx m, stNoContext)]

/-- Two sources of one list name one thing. -/
def repeated : List LinkSource → Bool
  | [] => false
  | s :: rest => (rest.any fun y => decide (y.ctx = s.ctx ∧ y.sel = s.sel)) || repeated rest

/-- A set number is reserved by a follow policy (R295). -/
def reserved (n : Nat) (m : Part) : Bool := has n m.service.policies

/-- The first status of several sources, by the order of R274. -/
def sourcesStatus (l : List LinkSource) (m : Part) : Nat :=
  let all := l.map fun s => sourceStatus s m
  firstStatus [(all.contains stBadParam, stBadParam), (all.contains stNoContext, stNoContext), (all.contains stFenced, stFenced)]

/-- Checks of CREATE. -/
def linkCreateStatus (set : Nat) (l : List LinkSource) (p : SetParams) (m : Part) : Nat :=
  firstStatus [
    (decide (511 < set ∨ l.length < 2 ∨ 4 < l.length) || repeated l || !setValid p, stBadParam),
    (decide (sourcesStatus l m ≠ stOk), sourcesStatus l m),
    (has set m.sets || reserved set m, stBusy)]

/-- Checks of ADD. (DESIGN CHOICE / DEDUCED, log 33) -/
def linkAddStatus (set : Nat) (src : LinkSource) (m : Part) : Nat :=
  firstStatus [
    (decide (511 < set) || !has set m.sets, stBadParam),
    (decide (sourceStatus src m ≠ stOk), sourceStatus src m),
    ((sourceSet set m).any fun s => decide (4 ≤ s.members.length), stNoCapacity)]

/-- Checks of REMOVE: the set and the context first, as a source's (R37, R274); the lead and a source that is no member are refused; a
policy's set is its own (R300). (DESIGN CHOICE / DEDUCED, log 33) -/
def linkRemoveStatus (set c sel : Nat) (m : Part) : Nat :=
  firstStatus [
    (decide (511 < set) || !has set m.sets || slotOutside c m, stBadParam),
    (slotFenced c m, stFenced), (!slotHeld c m, stNoContext),
    (!((sourceSet set m).any fun s => (s.members.drop 1).any fun y => decide (y.ctx = c ∧ y.sel = sel)), stBadParam),
    (reserved set m, stBusy)]

/-- Checks of DELETE. (DESIGN CHOICE / DEDUCED, log 33) -/
def linkDeleteStatus (set : Nat) (m : Part) : Nat :=
  firstStatus [(!has set m.sets, stBadParam), (reserved set m, stBusy)]

/-! ## SVC_LINK (R272-R276, R283) -/

/-- The branch of a source as it will stand once what has been accepted has executed (R275). -/
def branchAhead (c sel : Nat) (m : Part) : Branch :=
  match ctx c m, cfgAfter c m with
  | none, some g =>
    if g.type = 1 then .am else if digitalType g.type then .digital (8 * g.type + (sourceKind c sel m).getD 0) [] else .fm
  | _, _ => branchOf c sel m

/-- A member as it is added: it waits for its source. -/
def newMember (src : LinkSource) (m : Part) : Member :=
  { ctx := src.ctx, sel := src.sel, rank := src.rank, branch := branchAhead src.ctx src.sel m, seekSince := m.clock.elapsed }

/-- A set is created: the first source is the lead and the reference. -/
def createSet (set : Nat) (l : List LinkSource) (cfg : SetCfg) (m : Part) : Part :=
  match l with
  | [] => m
  | lead :: _ =>
    let m := catchUp lead.ctx m
    let s : SourceSet := {
      cfg := cfg, members := l.map fun s => newMember s m, active := branchAhead lead.ctx lead.sel m, mark := m.clock.elapsed }
    refreshSet set { m with sets := put set s m.sets }

/-- A member is added (Table DEC-5). -/
def addMember (set : Nat) (src : LinkSource) (m : Part) : Part :=
  refreshSet set (onSet set (fun s => { s with members := s.members ++ [newMember src m] }) m)

/-- SVC_LINK CREATE (R273). -/
def performLinkCreate (set : Nat) (l : List LinkSource) (p : SetParams) : Perform := fun _ _ m =>
  (createSet set l (decodeSet p) m, reply stOk)

/-- SVC_LINK CREATE (R273). -/
def execSvcLinkCreate (d : Desc) (set : Nat) (sources : List LinkSource) (p : SetParams) (s : State) :
    Host.Outcome State Fault Refusal :=
  s.run (accept d (.svcLinkCreate set sources p) (linkCreateStatus set sources p) (performLinkCreate set sources p))

/-- SVC_LINK ADD takes effect. -/
def performLinkAdd (set : Nat) (src : LinkSource) : Perform := fun _ _ m => (addMember set src m, reply stOk)

/-- SVC_LINK ADD (R273). -/
def execSvcLinkAdd (d : Desc) (set : Nat) (source : LinkSource) (s : State) : Host.Outcome State Fault Refusal :=
  s.run (accept d (.svcLinkAdd set source) (linkAddStatus set source) (performLinkAdd set source))

/-- SVC_LINK REMOVE takes effect: the member's own outputs continue. -/
def performLinkRemove (set c sel : Nat) : Perform := fun _ _ m =>
  match (sourceSet set m).bind fun s => s.members.findIdx? fun y => decide (y.ctx = c ∧ y.sel = sel) with
  | none => (m, reply stBadParam)
  | some i => (removeMember set i m, reply stOk)

/-- SVC_LINK REMOVE (R273). -/
def execSvcLinkRemove (d : Desc) (set ctx sel : Nat) (s : State) : Host.Outcome State Fault Refusal :=
  s.run (accept d (.svcLinkRemove set ctx sel) (linkRemoveStatus set ctx sel) (performLinkRemove set ctx sel))

/-- The context that leads a set. -/
def leadCtx (set : Nat) (m : Part) : Option Nat := (sourceSet set m).bind fun s => (s.members.head?).map Member.ctx

/-- A set is deleted (R283). -/
def deleteSet (set : Nat) (m : Part) : Part := endSet set ((leadCtx set m).elim m fun c => flushUp c m)

/-- SVC_LINK DELETE takes effect. -/
def performLinkDelete (set : Nat) : Perform := fun _ _ m => (deleteSet set m, reply stOk)

/-- SVC_LINK DELETE (R283). -/
def execSvcLinkDelete (d : Desc) (set : Nat) (s : State) : Host.Outcome State Fault Refusal :=
  s.run (accept d (.svcLinkDelete set) (linkDeleteStatus set) (performLinkDelete set))

/-- The number of a branch: AM, FM, then the digital branches in the order in which members name them (R275).
(DESIGN CHOICE / DEDUCED, log 33) -/
def branchCode (s : SourceSet) (b : Branch) : Nat :=
  match b with
  | .am => 0
  | .fm => 1
  | .digital _ _ =>
    2 + ((s.members.map Member.branch).filter fun x => decide (x ≠ .am ∧ x ≠ .fm)).dedup.findIdx fun x => decide (x = b)

/-- 16 bytes of a member in SVC_LINK QUERY. -/
def memberChunk (s : SourceSet) (y : Member) : Chunk :=
  { bytes := 16,
    fields := [⟨0, 2, y.ctx⟩, ⟨2, 1, y.sel⟩, ⟨3, 1, y.state.code⟩, ⟨4, 1, branchCode s y.branch⟩, ⟨5, 1, y.rank⟩,
      ⟨6, 4, y.offset⟩, ⟨10, 2, y.gain⟩, ⟨12, 2, min y.units 65535⟩] }

/-- SVC_LINK QUERY takes effect. -/
def performLinkQuery (set : Nat) : Perform := fun _ _ m =>
  match sourceSet set m with
  | none => (m, reply stBadParam)
  | some s =>
    (m, some { status := stOk,
               chunks := { bytes := 2, fields := [⟨0, 1, s.reference⟩, ⟨1, 1, branchCode s s.active⟩] } :: s.members.map (memberChunk s) })

/-- Checks of SVC_LINK QUERY. (DESIGN CHOICE / DEDUCED, log 33) -/
def linkQueryStatus (set : Nat) (m : Part) : Nat := if has set m.sets then stOk else stBadParam

/-- SVC_LINK QUERY (R273, R336). -/
def execSvcLinkQuery (d : Desc) (set : Nat) (s : State) : Host.Outcome State Fault Refusal :=
  s.run (accept d (.svcLinkQuery set) (linkQueryStatus set) (performLinkQuery set))

/-! ## Matching by audio (R278) -/

/-- A branch of audio that is not coded. -/
def Branch.analogue : Branch → Bool
  | .am => true
  | .fm => true
  | .digital _ _ => false

/-- The anchor of a digital branch: the reference when it lies there, else the member that joined first, else the first
named (R279). -/
def anchorOf (s : SourceSet) (b : Branch) : Option Nat :=
  let mine := (List.range s.members.length).filter fun i => (s.members[i]?).any fun y => decide (y.branch = b)
  let joined := mine.filter fun i => (s.members[i]?).any fun y => decide (y.state = .joined)
  if (s.members[s.reference]?).any fun y => decide (y.branch = b) then some s.reference
  else
    (joined.foldl (fun best i =>
      match best with
      | none => some i
      | some k => if (s.members[i]?).elim 0 Member.seekSince < (s.members[k]?).elim 0 Member.seekSince then some i else some k)
      none).or mine.head?

/-- Member `i` is matched by its audio. -/
def byAudio (s : SourceSet) (i : Nat) : Bool :=
  decide (i ≠ s.reference) && (s.members[i]?).any fun y => y.branch.analogue || decide (anchorOf s y.branch = some i)

/-- Member `i` is matched by its units. -/
def byUnits (s : SourceSet) (i : Nat) : Bool :=
  decide (i ≠ s.reference) && (s.members[i]?).any fun y => !y.branch.analogue && decide (anchorOf s y.branch ≠ some i)

/-- 1/16 sample per 0.1 s. -/
abbrev offsetTenth : Nat := 76800

/-- An offset lies within the range of R276. -/
def offsetFits (s : SourceSet) (d : Int) : Bool :=
  decide (-((s.cfg.alignWindow * offsetTenth : Nat) : Int) ≤ d ∧ d ≤ ((s.cfg.holdBack * offsetTenth : Nat) : Int))

/-- Two offsets lie within ±2 samples. -/
def near (a b : Int) : Bool := decide ((a - b).natAbs ≤ 32)

/-- A valid window of a member in SEEK. -/
def seekWindow (n i : Nat) (s : SourceSet) (y : Member) (w : MatchWindow) (m : Part) : Part :=
  if w.rho < 900 ∨ !offsetFits s w.offset then onMember n i (fun y => { y with candidate := none, good := 0 }) m
  else if y.candidate.any (near w.offset) then
    moveMember n i .verify .candidate (onMember n i (fun y => { y with candidate := some w.offset, offset := w.offset }) m)
  else onMember n i (fun y => { y with candidate := some w.offset, good := 1 }) m

/-- A valid window of a member in VERIFY: four in a row prove the match. -/
def verifyWindow (n i : Nat) (y : Member) (w : MatchWindow) (m : Part) : Part :=
  if w.rho < 900 ∨ !y.candidate.any (near w.offset) then moveMember n i .seek .contradiction m
  else
    let m := onMember n i (fun y => { y with good := y.good + 1, offset := w.offset, gain := w.gain }) m
    if y.good + 1 < 4 then m else moveMember n i .joined .proven m

/-- A valid window of a JOINED member: its offset is tracked; two poor ones in a row, or a move of more than 2 samples, lose it. -/
def joinedWindow (n i : Nat) (y : Member) (w : MatchWindow) (m : Part) : Part :=
  let bad := if w.rho < 700 then y.bad + 1 else 0
  let m := onMember n i (fun y => { y with bad := bad, offset := w.offset }) m
  if bad < 2 ∧ near w.offset y.joinedAt then m else moveMember n i .seek .mismatch m

/-- A member's signal has been fit for matching over the last second: in TRACK throughout, and for AM and FM no block CNR below 20 dB, for a
selection no failed unit (R278). -/
def windowFit (y : Member) (m : Part) : Bool :=
  let since := m.clock.elapsed - ticksPerSecond
  (ctx y.ctx m).any fun x =>
    decide (x.state = .track) && ((x.ana.past.head?).all fun p => decide (p.1 ≤ since))
      && (if digitalType x.cfg.type then (x.sel y.sel).all fun s => s.failAt.all fun e => decide (e ≤ since)
          else x.ana.lowAt.all fun e => decide (e ≤ since))

/-- The index of a member of a set. -/
def memberIdx (s : SourceSet) (c sel : Nat) : Option Nat := s.members.findIdx? fun y => decide (y.ctx = c ∧ y.sel = sel)

/-- Do something with member `(c, sel)` of a set, if it is one. -/
def withMember (n c sel : Nat) (f : Nat → SourceSet → Member → Part → Part) (m : Part) : Part :=
  match sourceSet n m with
  | none => m
  | some s =>
    match memberIdx s c sel with
    | none => m
    | some i =>
      match s.members[i]? with
      | none => m
      | some y => f i s y m

/-- A 1 s window of a member, valid when the audio of both signals was above −50 dBFS, as the row says, and both were fit (R278). -/
def matchWindow (n c sel : Nat) (w : MatchWindow) (m : Part) : Part :=
  withMember n c sel (fun i s y m =>
    if !w.valid ∨ !byAudio s i ∨ !windowFit y m ∨ !((s.members[s.reference]?).any fun r => windowFit r m) then m
    else
      match y.state with
      | .idle => m
      | .seek => seekWindow n i s y w m
      | .verify => verifyWindow n i y w m
      | .joined => joinedWindow n i y w m) m

/-- LINK_MATCH_WINDOW (R278): windows end where τ is a multiple of 24,576,000. -/
def execLinkMatchWindow (t set ctx sel : Nat) (w : MatchWindow) (s : State) : Host.Outcome State Fault Refusal :=
  s.run (onTick t fun m => if tau m % 24576000 = 0 then matchWindow set ctx sel w m else m)

/-! ## Matching by units (R279) -/

/-- Two aligned units match: both pass in their own first pass with equal check values. -/
def unitsMatch (u : UnitMatch) : Bool := u.memberOk && u.anchorOk && u.equal

/-- Both pass with different check values. -/
def unitsDiffer (u : UnitMatch) : Bool := u.memberOk && u.anchorOk && !u.equal

/-- A unit of a digital member that is not the anchor (R279, R280). -/
def unitMatch (n c sel : Nat) (u : UnitMatch) (m : Part) : Part :=
  withMember n c sel (fun i s y m =>
    if !byUnits s i then m
    else
      let m := if unitsMatch u then onMember n i (fun y => { y with units := y.units + 1 }) m else m
      match y.state with
      | .idle => m
      | .seek =>
        if !unitsMatch u ∨ !offsetFits s u.offset then onMember n i (fun y => { y with candidate := none }) m
        else if y.candidate = some u.offset then
          onMember n i (fun y => { y with good := 2 })
            (moveMember n i .verify .candidate (onMember n i (fun y => { y with offset := u.offset }) m))
        else onMember n i (fun y => { y with candidate := some u.offset }) m
      | .verify =>
        if y.candidate ≠ some u.offset then m
        else if unitsDiffer u then moveMember n i .seek .contradiction m
        else if !unitsMatch u then onMember n i (fun y => { y with good := 0 }) m
        else if y.good + 1 < 8 then onMember n i (fun y => { y with good := y.good + 1 }) m
        else moveMember n i .joined .proven m
      | .joined => if unitsDiffer u then moveMember n i .seek .mismatch m else m) m

/-- LINK_UNIT_MATCH (R279). -/
def execLinkUnitMatch (t set ctx sel : Nat) (u : UnitMatch) (s : State) : Host.Outcome State Fault Refusal :=
  s.run (onTick t (unitMatch set ctx sel u))

/-- LINK_NO_MATCH (R277): 30 s in SEEK with no candidate, once. -/
def execLinkNoMatch (t set ctx sel : Nat) (s : State) : Host.Outcome State Fault Refusal :=
  s.run (onTick t (withMember set ctx sel fun i _ y m =>
    if y.state = .seek ∧ !y.noMatch ∧ y.seekSince + 30 * ticksPerSecond ≤ m.clock.elapsed then
      onMember set i (fun y => { y with noMatch := true }) (memberEvent set y .seek .noMatch m)
    else m))

/-! ## Blending between branches (R282) -/

/-- The judgement of a branch, as it stands now: a digital branch recovers 1 s after its last failed unit. -/
def judged (s : SourceSet) (b : Branch) (now : Nat) : BranchJudge :=
  match s.judge.find? fun j => decide (j.branch = b) with
  | none => { branch := b, bad := false, since := 0, failedAt := none }
  | some j =>
    match j.failedAt with
    | some f => if j.bad ∧ f + ticksPerSecond ≤ now then { j with bad := false, since := f + ticksPerSecond } else j
    | none => j

/-- JOINED members of a branch. -/
def joinedOf (s : SourceSet) (b : Branch) : List Member := s.members.filter fun y => decide (y.branch = b ∧ y.state = .joined)

/-- The branch is good now (R282). -/
def goodBranch (s : SourceSet) (b : Branch) (now : Nat) : Bool := !(judged s b now).bad && !(joinedOf s b).isEmpty

/-- Since when a good branch has been good: not bad, and with a JOINED member. -/
def goodSince (s : SourceSet) (b : Branch) (now : Nat) : Nat :=
  max (judged s b now).since (((joinedOf s b).map Member.seekSince).foldl min now)

/-- The rank of a branch: the lowest among its members (R275). -/
def branchRank (s : SourceSet) (b : Branch) : Nat :=
  ((s.members.filter fun y => decide (y.branch = b)).map Member.rank).foldl min 4

/-- The branch of lowest rank among some, the first named among equals. -/
def lowestBranch (s : SourceSet) (l : List Branch) : Option Branch :=
  l.foldl (fun best b =>
    match best with
    | none => some b
    | some k => if branchRank s b < branchRank s k then some b else some k) none

/-- The branch that the set blends to now, if any (R282). -/
def blendTo (s : SourceSet) (now : Nat) : Option Branch :=
  let others := ((s.members.map Member.branch).dedup.filter fun b => decide (b ≠ s.active)).filter fun b => goodBranch s b now
  let j := judged s s.active now
  let back := others.filter fun b =>
    decide (branchRank s b < branchRank s s.active ∧ goodSince s b now + ticksPerSecond * s.cfg.goodHold ≤ now)
  if s.fadeEnd.any fun e => decide (now < e) then none
  else if j.bad ∧ j.since + 61440 * s.cfg.badHold ≤ now then lowestBranch s others
  else lowestBranch s back

/-- LINK_BLEND (R282). -/
def execLinkBlend (t set : Nat) (s : State) : Host.Outcome State Fault Refusal :=
  s.run (onTick t fun m =>
    match sourceSet set m with
    | none => m
    | some g =>
      match blendTo g m.clock.elapsed with
      | none => m
      | some b =>
        let m := (leadCtx set m).elim m fun c => catchUp c m
        raise 100 0x45 [⟨0, 2, set⟩, ⟨2, 1, branchCode g g.active⟩, ⟨3, 1, branchCode g b⟩, ⟨8, 8, m.clock.ht⟩]
          (onSet set (fun g =>
            let start := gridAt pcmTicks m.clock.elapsed m
            let stop := start + pcmTicks * g.cfg.xfade
            { g with active := b, fadeEnd := some stop, blends := { start := start, stop := stop, old := g.active, new := b } :: g.blends }) m))

end Sys2Proof.Machine
end

