-- ==== Sys2Proof/Machine/Following.lean ====
section
/-! DEFINITION. Service following: policies, their evaluation every 100 ms, the actions they decide, and SCAN (R290-R302). -/

namespace Sys2Proof.Machine

/-! ## SET and CLEAR (R293, R295, R302) -/

/-- The parameters of SET with their defaults (Table SVC-4). -/
def followDefaults (p : FollowParams) : FollowParams :=
  { p with
    maxWatch := orDefault 1 3 p.maxWatch, maxMembers := orDefault 1 2 p.maxMembers, scope := orDefault 1 1 p.scope,
    halves := orDefault 2 (2 ^ ctxHalf p.ctx) p.halves, regional := orDefault 1 0 p.regional,
    promoteCnr := orDefault 1 20 p.promoteCnr, promoteTime := orDefault 2 30 p.promoteTime,
    releaseCnr := orDefault 1 12 p.releaseCnr, releaseTime := orDefault 1 10 p.releaseTime,
    rehomeTime := orDefault 1 5 p.rehomeTime }

/-- The parameters of SET are in range. -/
def followValid (q : FollowParams) : Bool :=
  let p := followDefaults q
  decide (p.set ≤ 511 ∧ p.maxWatch ≤ 8 ∧ 1 ≤ p.maxMembers ∧ p.maxMembers ≤ 4 ∧ p.scope ≤ 7 ∧ p.regional ≤ 1
    ∧ 10 ≤ p.promoteCnr ∧ p.promoteCnr ≤ 40 ∧ 5 ≤ p.promoteTime ∧ p.promoteTime ≤ 300 ∧ p.releaseCnr + 4 ≤ p.promoteCnr
    ∧ 1 ≤ p.releaseTime ∧ p.releaseTime ≤ 60 ∧ 1 ≤ p.rehomeTime ∧ p.rehomeTime ≤ 100) && setValid q.setParams

/-- The home fits a policy: FM of type 3 or 4, or an audio selection made by service. -/
def homeFits (c sel : Nat) (m : Part) : Bool :=
  match cfgAfter c m with
  | none => decide (sel ≤ 63 ∨ sel = 255)
  | some g =>
    if digitalType g.type then
      ((ctx c m).bind fun x => x.sel sel).any fun s => s.byService && s.audio
    else decide ((g.type = 3 ∨ g.type = 4) ∧ sel = 255)

/-- Checks of SET (R295). -/
def followSetStatus (p : FollowParams) (m : Part) : Nat :=
  firstStatus [
    (slotOutside p.ctx m || !followValid p || decide (2 ^ halvesFitted m ≤ (followDefaults p).halves)
      || !homeFits p.ctx p.sel m, stBadParam),
    (slotFenced p.ctx m, stFenced), (!slotHeld p.ctx m, stNoContext),
    (has p.set m.sets || reserved p.set m || inSet p.ctx p.sel m
      || (m.service.policies.any fun e => decide (e.2.params.ctx = p.ctx ∧ e.2.params.sel = p.sel))
      || decide (512 ≤ m.service.policies.length), stBusy)]

/-- The service that a home carries (R293). -/
def homeKey (c sel : Nat) (m : Part) : Option ServiceKey :=
  match ctx c m with
  | none => none
  | some x =>
    if digitalType x.cfg.type then
      (x.sel sel).map fun s => keyOf x.cfg.type s.sid
    else x.rds.pi.map fun pi => { kind := 0, id := pi }

/-- SET takes effect: the set number is reserved from now on. -/
def performFollowSet (p : FollowParams) : Perform := fun _ _ m =>
  let f : Follow := { params := followDefaults p, setCfg := decodeSet p.setParams, key := homeKey p.ctx p.sel m }
  ({ m with service := { m.service with policies := put p.set f m.service.policies } }, reply stOk)

/-- SVC_FOLLOW_POLICY SET (R293). -/
def execSvcFollowSet (d : Desc) (p : FollowParams) (s : State) : Host.Outcome State Fault Refusal :=
  s.run (accept d (.svcFollowSet p) (followSetStatus p) (performFollowSet p))

/-- CLEAR takes effect (R302). -/
def performFollowClear (set : Nat) : Perform := fun _ _ m => (endPolicy set m, reply stOk)

/-- Checks of SVC_FOLLOW_POLICY CLEAR. -/
def followClearStatus (set : Nat) (m : Part) : Nat := if reserved set m then stOk else stBadParam

/-- SVC_FOLLOW_POLICY CLEAR (R302). -/
def execSvcFollowClear (d : Desc) (set : Nat) (s : State) : Host.Outcome State Fault Refusal :=
  s.run (accept d (.svcFollowClear set) (followClearStatus set) (performFollowClear set))

/-! ## Candidates (R293, R294) -/

/-- PIs that differ in bits 11 to 8 alone, both there in 0x4 to 0xF (R293). -/
def piAlike (a b : Nat) : Bool :=
  decide (a % 256 = b % 256 ∧ a / 4096 = b / 4096 ∧ 4 ≤ a / 256 % 16 ∧ 4 ≤ b / 256 % 16)

/-- A service matches the policy's key. -/
def keyMatches (p : Follow) (k : ServiceKey) : Bool :=
  p.key.any fun q => decide (q = k) || (decide (p.params.regional = 1 ∧ q.kind = 0 ∧ k.kind = 0) && piAlike q.id k.id)

/-- A service is hard-linked to the key by an active linkage set (R289). -/
def hardLinked (p : Follow) (k : ServiceKey) (m : Part) : Bool :=
  m.service.db.links.any fun l => l.active && l.hard && l.members.contains k && l.members.any (keyMatches p)

/-- The place in the order of R294 that an entry gives a candidate, if its service stands for the key. -/
def entrySource (p : Follow) (e : DbFreq) (m : Part) : Option Nat :=
  if e.regional ∧ p.params.regional = 0 then none
  else if keyMatches p e.key then some e.source
  else if hardLinked p e.key m then some 3 else none

/-- The policy's scope takes the standard of an entry. -/
def scopeTakes (p : Follow) (home standard : Nat) : Bool :=
  decide (standard ≠ 0) && (if standard = home then decide (p.params.scope % 2 = 1) else decide (p.params.scope / 2 % 2 = 1))

/-- The number of a candidate that is the home's old frequency and in no list (R299). -/
abbrev ownSource : Nat := 8

/-- Two candidates stand for one channel. -/
def sameChannel (std kHz : Nat) (c : Candidate) : Bool := decide (c.standard = std ∧ c.kHz = kHz)

/-- The candidates that the database gives a policy now, in list order. -/
def wantedCandidates (p : Follow) (x : Ctx) (m : Part) : List Candidate :=
  let home := standardOf x.cfg.type
  m.service.db.freqs.filterMap fun e =>
    if !scopeTakes p home e.standard ∨ (e.standard = home ∧ e.kHz = x.cfg.freq / 1000) then none
    else (entrySource p e m).map fun s => { key := e.key, standard := e.standard, kHz := e.kHz, source := s }

/-- Change a candidate of a policy. -/
def onCand (set std kHz : Nat) (f : Candidate → Candidate) (m : Part) : Part :=
  onPolicy set (fun p => { p with candidates := p.candidates.map fun c => if sameChannel std kHz c then f c else c }) m

/-- Decide an action: it executes 2,048 ticks later (R296). -/
def decideAct (set : Nat) (act : FollowAct) (m : Part) : Part :=
  { m with service := { m.service with
      actions := m.service.actions ++ [{ due := m.clock.elapsed + 2048, set := set, act := act }] } }

/-- Candidates as R294 derives them: new ones enter, and those that no entry gives any more are released and forgotten.
(DESIGN CHOICE / DEDUCED, log 35) -/
def deriveCandidates (set : Nat) (x : Ctx) (m : Part) : Part :=
  match policy set m with
  | none => m
  | some p =>
    let want := wantedCandidates p x m
    let kept := p.candidates.filter fun c =>
      c.pending || (decide (c.source = ownSource) && !sameChannel (standardOf x.cfg.type) (x.cfg.freq / 1000) c)
        || want.any fun w => sameChannel w.standard w.kHz c
    let gone := p.candidates.filter fun c => !(kept.any fun k => sameChannel k.standard k.kHz c)
    let list := want.foldl (fun l w => if l.any fun c => sameChannel w.standard w.kHz c then l else l ++ [w]) kept
    let m := onPolicy set (fun p => { p with candidates := list }) m
    gone.foldl (fun m c => c.ctx.elim m fun k => decideAct set (.close k) m) m

/-! ## Contexts that following opens (R296) -/

/-- Parameters of a context that following opens: every default of its type. (DESIGN CHOICE / DEDUCED, log 35) -/
def followCtxCfg (type freq : Nat) : CtxCfg :=
  { decodeCtx false { ctx := 0, type := type, probe := false, prioHigh := false, freq := freq, lostTimeout := 65535,
                      iterMax := 255, reserve := 1, occupancy := 3, block := List.replicate 16 255 } with reserve := if type = 7 then 1 else 0 }

/-- Contexts that following and SCAN hold, decided opens included. -/
def followCount (m : Part) : Nat :=
  (m.ctxs.filter fun e => e.2.watchPolicy.isSome).length + ((m.service.scans.map fun r => r.ctxs.length).sum)
    + (m.service.actions.flatMap fun a => followSlot a.act).length

/-- A slot may be opened with `cfg` on half `h`, leaving lu_keep free (R296). -/
def halfTakes (h keep : Nat) (cfg : CtxCfg) (m : Part) : Bool :=
  decide (h < halvesFitted m) && !pairedB h m && decide ((half h m).mode ≠ .fenced ∧ (half h m).mode ≠ .parked)
    && !modePending h m && decide (loadOf cfg + keep ≤ freeLu h m)

/-- The lowest free slot of a half that admits `cfg`. (DESIGN CHOICE / DEDUCED, log 35) -/
def freeSlot (h : Nat) (cfg : CtxCfg) (m : Part) : Option Nat :=
  ((List.range 64).map fun i => 64 * h + i).find? fun s => !slotHeld s m && decide (capacityStatus s cfg m = stOk)

/-- The slot that an open takes: the lowest free one of the half with the most free LU among those of a mask.
(DESIGN CHOICE / DEDUCED, log 35) -/
def bestSlot (mask keep : Nat) (cfg : CtxCfg) (m : Part) : Option Nat :=
  if 256 ≤ followCount m ∨ m.power.brace.isSome then none
  else
    let hs := (List.range 16).filter fun h => decide (mask / 2 ^ h % 2 = 1) && halfTakes h keep cfg m
    let best := hs.foldl (fun best h =>
      match best with
      | none => some h
      | some k => if freeLu k m < freeLu h m then some h else some k) none
    best.bind fun h => freeSlot h cfg m

/-- Watches of a policy: the contexts it holds that are no members. -/
def watchCount (p : Follow) : Nat := (p.candidates.filter fun c => c.ctx.isSome && decide (c.state ≠ .member)).length

/-- The members that a policy's set has or is about to have, home included. -/
def memberCount (p : Follow) : Nat := 1 + (p.candidates.filter fun c => decide (c.state = .member)).length

/-- A candidate that no context works for. -/
def Candidate.idle (c : Candidate) : Bool := decide (c.state = .candidate) && c.ctx.isNone && !c.pending

/-- The highest-ranked of some candidates, by source and then list order. -/
def bestIdle (l : List Candidate) : Option Candidate :=
  l.foldl (fun best c =>
    match best with
    | none => some c
    | some b => if c.source < b.source then some c else some b) none

/-- The next candidate that a watch may be opened on: an FM one of an FM home (R296). -/
def nextWatch (p : Follow) (home : Nat) : Option Candidate :=
  if home = 1 then bestIdle (p.candidates.filter fun c => c.idle && decide (c.standard = 1)) else none

/-! ## Judging candidates (R294, R298) -/

/-- What a candidate's context has heard: a matching service, another, or nothing yet. -/
def heardMatch (p : Follow) (c : Candidate) (x : Ctx) : Option Bool :=
  if digitalType x.cfg.type then (if x.sels.any fun s => decide (s.state ≠ .waiting) then some true else none)
  else x.rds.pi.map fun pi => keyMatches p { kind := 0, id := pi } || decide (c.key = { kind := 0, id := pi })

/-- What one evaluation counts of a candidate. -/
def countCandidate (p : Follow) (x : Ctx) (c : Candidate) : Candidate :=
  let cnr := (x.quality.last.bind Report.cnr).getD (-1000)
  { c with
    cnr := cnr, watched := c.watched + 1,
    good := if 10 * (p.params.promoteCnr : Int) ≤ cnr then c.good + 1 else 0,
    bad := if cnr < 10 * (p.params.releaseCnr : Int) then c.bad + 1 else 0,
    away := if x.under = .track then 0 else c.away + 1 }

/-- A candidate without a context, its counts restarted. -/
def Candidate.drop (state : CandState) (pending : Bool) (c : Candidate) : Candidate :=
  { c with state := state, ctx := none, watched := 0, good := 0, bad := 0, away := 0, pending := pending }

/-- Release a watch: retuned to the next candidate that waits for one, else closed. -/
def passWatch (set home k : Nat) (c : Candidate) (state : CandState) (m : Part) : Part :=
  match policy set m with
  | none => m
  | some p =>
    let next := if c.standard = 1 ∧ state ≠ .rejected then nextWatch p home else none
    let m := onCand set c.standard c.kHz (Candidate.drop state true) m
    match next with
    | some n =>
      decideAct set (.retune k (followCtxCfg 2 (n.kHz * 1000)))
        (onCand set n.standard n.kHz (fun y => { y with ctx := some k, pending := true }) m)
    | none => decideAct set (.close k) m

/-- A context that works for a candidate has confirmed a PI twice that does not match (Table SVC-3). -/
def heardWrong (p : Follow) (c : Candidate) (x : Ctx) : Bool := decide (heardMatch p c x = some false ∧ 2 ≤ x.rds.piTimes)

/-- A non-matching service has been confirmed twice: the candidate is barred for 10 minutes, and a member of it leaves the set. -/
def barCandidate (set home k : Nat) (c : Candidate) (m : Part) : Part :=
  let m := if c.state = .member then
      decideAct set (.release k none) (onCand set c.standard c.kHz (Candidate.drop .rejected true) m)
    else passWatch set home k c .rejected m
  onCand set c.standard c.kHz (fun y => { y with barred := m.clock.elapsed + 10 * minute }) m

/-- A member's audio does not match (R277). -/
def noMatchOf (set k : Nat) (m : Part) : Bool :=
  (sourceSet set m).any fun s => s.members.any fun y => decide (y.ctx = k) && y.noMatch

/-- A member is released (R298): to a watch when the policy has room for one, else closed. -/
def releaseCandidate (set k : Nat) (c : Candidate) (m : Part) : Part :=
  match policy set m with
  | none => m
  | some p =>
    if watchCount p < p.params.maxWatch ∧ c.standard = 1 then
      decideAct set (.release k (some (followCtxCfg 2 (c.kHz * 1000))))
        (onCand set c.standard c.kHz (fun y => { y with state := .verified, pending := true, good := 0, bad := 0, away := 0 }) m)
    else decideAct set (.release k none) (onCand set c.standard c.kHz (Candidate.drop .candidate true) m)

/-- A watch of 10 s and more that reads below promote_cnr makes way while unwatched candidates remain (R296). -/
def Candidate.rotates (p : Follow) (home : Nat) (c : Candidate) : Bool :=
  decide (100 ≤ c.watched ∧ c.standard = 1 ∧ c.good = 0) && (nextWatch p home).isSome

/-- One candidate at an evaluation (Table SVC-3, R298). (DESIGN CHOICE / DEDUCED, log 35) -/
def judgeCandidate (set home : Nat) (m : Part) (c : Candidate) : Part :=
  match policy set m, c.ctx.bind fun k => (ctx k m).map fun x => (k, x) with
  | some p, some (k, x) =>
    if c.pending ∨ x.inHold then m
    else
      let n := countCandidate p x c
      let m := onCand set c.standard c.kHz (fun _ => n) m
      if heardWrong p n x then barCandidate set home k n m
      else
        match n.state with
        | .watching =>
          if heardMatch p c x = some true then
            onCand set c.standard c.kHz (fun y => { y with state := .verified, good := 0 }) m
          else if c.standard = 1 then
            if (10 < n.watched ∧ (x.under = .search ∨ x.under = .acquire)) ∨ n.rotates p home then
              passWatch set home k n .candidate m
            else m
          else if 50 < n.watched then passWatch set home k n .candidate m else m
        | .verified =>
          if n.rotates p home then passWatch set home k n .candidate m else m
        | .member =>
          if 10 * p.params.releaseTime ≤ n.bad ∨ p.params.rehomeTime < n.away ∨ noMatchOf set k m then
            releaseCandidate set k n m
          else m
        | _ => m
  | _, _ =>
    if c.state = .rejected ∧ c.barred ≤ m.clock.elapsed then
      onCand set c.standard c.kHz (fun y => { y with state := .candidate, pending := false }) m
    else m

/-! ## The home (R299) -/

/-- The home is failing now. -/
def homeFails (p : Follow) (x : Ctx) : Bool :=
  decide (x.under = .lost ∨ x.under = .search)
    || (if digitalType x.cfg.type then !(x.sels.any fun s => decide (s.sel = p.params.sel))
        else x.rds.pi.any fun pi => !keyMatches p { kind := 0, id := pi })

/-- The candidate that a failing home goes to: VERIFIED, at or above promote_cnr, no member, of the home's standard, the
highest CNR. -/
def rehomeTarget (p : Follow) (home : Nat) : Option Candidate :=
  (p.candidates.filter fun c =>
    decide (c.state = .verified ∧ c.standard = home ∧ 10 * (p.params.promoteCnr : Int) ≤ c.cnr) && !c.pending).foldl
    (fun best c =>
      match best with
      | none => some c
      | some b => if b.cnr < c.cnr then some c else some b) none

/-- A prepared plan locks a context (R339). -/
def ctxLocked (c : Nat) (m : Part) : Bool := m.plans.any fun p => p.2.entries.any fun e => (entryCtxs e).contains c

/-- Count the home's failing, and decide to re-home it, once no plan locks it (R339). (DESIGN CHOICE / DEDUCED, log 35) -/
def judgeHome (set : Nat) (x : Ctx) (m : Part) : Part :=
  match policy set m with
  | none => m
  | some p =>
    if x.inHold then m
    else
      let n := if homeFails p x then p.failing + 1 else 0
      let m := onPolicy set (fun p => { p with failing := n }) m
      if n < p.params.rehomeTime ∨ ctxLocked p.params.ctx m then m
      else
        let std := standardOf x.cfg.type
        match rehomeTarget p std with
        | none => m
        | some c =>
          let old : Candidate :=
            { key := p.key.getD { kind := 0, id := 0 }, standard := std, kHz := x.cfg.freq / 1000, source := ownSource }
          let m := onPolicy set (fun p => { p with
            failing := 0, candidates := (p.candidates.filter fun y => !sameChannel std c.kHz y) ++ [old] }) m
          let m := c.ctx.elim m fun k => decideAct set (.close k) m
          decideAct set (.rehome c.kHz) m

/-! ## Promotion and watches (R296, R297) -/

/-- The type that a promoted FM candidate takes. -/
def promotedType (homeType : Nat) : Nat := if fmType homeType then homeType else 4

/-- Candidates by CNR, the best first, as watched ones are ranked (R294). -/
def byCnr (l : List Candidate) : List Candidate := l.mergeSort fun a b => decide (b.cnr ≤ a.cnr)

/-- Decide the promotions that R297 allows. -/
def promote (set homeType : Nat) (m : Part) (c : Candidate) : Part :=
  match policy set m, c.ctx with
  | some p, some k =>
    if c.state ≠ .verified ∨ c.pending ∨ c.good < p.params.promoteTime ∨ p.params.maxMembers ≤ memberCount p then m
    else
      let cfg := if c.standard = 1 then followCtxCfg (promotedType homeType) (c.kHz * 1000)
        else (ctx k m).elim (followCtxCfg 7 0) Ctx.cfg
      let more := loadOf cfg - (cfgAfter k m).elim 0 loadOf
      if freeLu (ctxHalf k) m < more + m.service.db.luKeep ∨ capacityStatus k cfg m ≠ stOk then m
      else decideAct set (.promote k cfg) (onCand set c.standard c.kHz (fun y => { y with state := .member, pending := true }) m)
  | _, _ => m

/-- No slot or LU is free for a candidate: EV_FOLLOW once a minute (R296). -/
def noSlot (set kHz : Nat) (m : Part) : Part :=
  if ((policy set m).bind Follow.noSlotAt).all fun e => decide (e + minute ≤ m.clock.elapsed) then
    followEvent set 65535 kHz .candidate followNoSlot 0 (onPolicy set (fun p => { p with noSlotAt := some m.clock.elapsed }) m)
  else m

/-- Decide an open for a candidate. -/
def openFor (set mask : Nat) (cfg : CtxCfg) (c : Candidate) (m : Part) : Part × Bool :=
  match bestSlot mask m.service.db.luKeep cfg m with
  | none => if m.power.brace.isSome then (m, false) else (noSlot set c.kHz m, false)
  | some s =>
    (decideAct set (.open_ s cfg) (onCand set c.standard c.kHz (fun y => { y with ctx := some s, pending := true }) m), true)

/-- Open watches while the policy has fewer than max_watch and a candidate waits. (DESIGN CHOICE / DEDUCED, log 35) -/
def openWatches (set home : Nat) : Nat → Part → Part
  | 0, m => m
  | fuel + 1, m =>
    match policy set m with
    | none => m
    | some p =>
      if p.params.maxWatch ≤ watchCount p then m
      else
        match nextWatch p home with
        | none => m
        | some c =>
          let (m, ok) := openFor set p.params.halves (followCtxCfg 2 (c.kHz * 1000)) c m
          if ok then openWatches set home fuel m else m

/-- Parameters of a context for a DAB or DRM candidate (R296). (DESIGN CHOICE / DEDUCED, log 35) -/
def digitalCfg (c : Candidate) : CtxCfg :=
  followCtxCfg (if c.standard = 2 then 7 else if c.kHz < 30000 then 5 else 6) (c.kHz * 1000)

/-- Under scope bit 2, open a context for the best DAB or DRM candidate while the set has room.
(DESIGN CHOICE / DEDUCED, log 35) -/
def openDigital (set : Nat) (m : Part) : Part :=
  match policy set m with
  | none => m
  | some p =>
    let busy := p.candidates.any fun c => c.ctx.isSome && decide (c.standard ≠ 1 ∧ c.state ≠ .member)
    if p.params.scope / 4 % 2 = 0 ∨ busy ∨ p.params.maxMembers ≤ memberCount p then m
    else
      match bestIdle (p.candidates.filter fun c => c.idle && decide (2 ≤ c.standard)) with
      | none => m
      | some c => (openFor set p.params.halves (digitalCfg c) c m).1

/-! ## FOLLOW_EVALUATION (R296) -/

/-- The key of a PENDING policy becomes known (R293). -/
def learnKey (set : Nat) (m : Part) : Part :=
  onPolicy set (fun p => { p with key := p.key.or (homeKey p.params.ctx p.params.sel m) }) m

/-- One evaluation of one policy. -/
def evaluate (m : Part) (set : Nat) : Part :=
  let m := learnKey set m
  match policy set m with
  | none => m
  | some p =>
    match ctx p.params.ctx m with
    | none => m
    | some x =>
      if p.key.isNone then m
      else
        let home := standardOf x.cfg.type
        let m := deriveCandidates set x m
        let m := ((policy set m).elim [] Follow.candidates).foldl (judgeCandidate set home) m
        let m := judgeHome set x m
        let m := (byCnr ((policy set m).elim [] Follow.candidates)).foldl (promote set x.cfg.type) m
        openDigital set (openWatches set home 8 m)

/-- FOLLOW_EVALUATION (R296): where τ is a multiple of 2,457,600. A DB_CONFIG that waits applies from here on (R290). -/
def execFollowEvaluation (t : Nat) (s : State) : Host.Outcome State Fault Refusal :=
  s.run (onTick t fun m =>
    if tau m % 2457600 = 0 then (m.service.policies.map (·.1)).foldl evaluate (onDb Database.configured m) else m)

/-! ## FOLLOW_ACTION_EXECUTE (R296-R300) -/

/-- The candidate that a context works for. -/
def candOf (set k : Nat) (m : Part) : Option Candidate :=
  (policy set m).bind fun p => p.candidates.find? fun c => decide (c.ctx = some k)

/-- Change the candidate that a context works for. -/
def onCandCtx (set k : Nat) (f : Candidate → Candidate) (m : Part) : Part :=
  onPolicy set (fun p => { p with candidates := p.candidates.map fun c => if c.ctx = some k then f c else c }) m

/-- The by-service selection of a DAB or DRM context that following opens: the home's kind where the standard is the home's. -/
def followSelect (set k : Nat) (c : Candidate) (cfg : CtxCfg) (m : Part) : Part :=
  if !digitalType cfg.type then m
  else
    let home := (policy set m).bind fun p => (ctx p.params.ctx m).bind fun x => (x.sel p.params.sel).map fun s => (x, s)
    let same := home.filter fun h => decide (standardOf h.1.cfg.type = c.standard)
    let kind := same.elim (if cfg.type = 7 then 1 else 4) fun h => h.2.kind
    onSels k (fun l => l ++ [newSelection
      { ctx := k, kind := kind, sub := 0, byService := true, scids := same.elim 0 fun h => h.2.scids, sid := c.key.id } m.clock.elapsed]) m

/-- Channel of a context in kHz. -/
def ctxKHz (k : Nat) (m : Part) : Nat := (ctx k m).elim 0 fun x => x.cfg.freq / 1000

/-- A decided open executes. -/
def doOpen (set slot : Nat) (cfg : CtxCfg) (m : Part) : Part :=
  match candOf set slot m with
  | none => m
  | some c =>
    if slotFenced slot m ∨ (ctx slot m).isSome ∨ m.power.brace.isSome then onCandCtx set slot (Candidate.drop .candidate false) m
    else
      let m := onCtx slot (fun x => { x with watchPolicy := some set }) (openCtx slot cfg m)
      let m := followSelect set slot c cfg (onCandCtx set slot (fun y => { y with state := .watching, pending := false }) m)
      followEvent set slot c.kHz .watching followState 0 m

/-- A watch is retuned to another candidate. -/
def doRetune (set k : Nat) (cfg : CtxCfg) (m : Part) : Part :=
  if (ctx k m).isNone then onCandCtx set k (Candidate.drop .candidate false) m
  else
    let old := ctxKHz k m
    let m := onCand set 1 old (fun y => { y with pending := false }) (retuneCtx k causeCommand cfg m)
    let m := onCandCtx set k (fun y => { y with
      state := .watching, pending := false, watched := 0, good := 0, bad := 0, away := 0 }) m
    followEvent set k (cfg.freq / 1000) .watching followState 0 m

/-- A context that belongs to a policy closes. -/
def doClose (set k : Nat) (m : Part) : Part :=
  match ctx k m with
  | none => m
  | some x =>
    let kHz := x.cfg.freq / 1000
    let m := onCand set (standardOf x.cfg.type) kHz (fun y => { y with pending := false }) m
    let st := ((policy set m).bind fun p => p.candidates.find? (sameChannel (standardOf x.cfg.type) kHz)).elim CandState.candidate
      Candidate.state
    followEvent set k kHz st followState 0 (dropCtx k .closed causeCommand m)

/-- A verified candidate becomes a member: the first promotion creates the set (R297). -/
def doPromote (set k : Nat) (cfg : CtxCfg) (m : Part) : Part :=
  match policy set m, ctx k m with
  | some p, some x =>
    let m := if x.cfg.type = cfg.type then m else retuneCtx k causeCommand cfg m
    let homeStd := (ctx p.params.ctx m).elim 1 fun y => standardOf y.cfg.type
    let sel := if digitalType cfg.type then ((ctx k m).bind fun y => y.sels.head?).elim 255 Selection.sel else 255
    let src : LinkSource := { ctx := k, sel := sel, rank := if standardOf cfg.type = homeStd then 0 else 1 }
    let m := if has set m.sets then addMember set src m
      else
        onSet set (fun s => { s with policy := true })
          (createSet set [{ ctx := p.params.ctx, sel := p.params.sel, rank := 0 }, src] p.setCfg m)
    followEvent set k (ctxKHz k m) .member followState 0 (onCandCtx set k (fun y => { y with pending := false }) m)
  | _, _ => onCandCtx set k (Candidate.drop .candidate false) m

/-- A member leaves the set, to a watch or to its close (R298). -/
def doRelease (set k : Nat) (cfg : Option CtxCfg) (m : Part) : Part :=
  let m := match (sourceSet set m).bind fun s => s.members.findIdx? fun y => decide (y.ctx = k) with
    | some i => removeMember set i m
    | none => m
  match cfg with
  | some g =>
    if (ctx k m).isNone then m
    else
      let m := onCandCtx set k (fun y => { y with pending := false }) (retuneCtx k causeCommand g m)
      followEvent set k (g.freq / 1000) .verified followState 0 m
  | none => doClose set k m

/-- The home is retuned (R299). (DESIGN CHOICE / DEDUCED, log 35) -/
def doRehome (set kHz : Nat) (m : Part) : Part :=
  match policy set m with
  | none => m
  | some p =>
    match ctx p.params.ctx m with
    | none => m
    | some x =>
      followEvent set p.params.ctx kHz .verified followRehome (x.cfg.freq / 1000)
        (retuneCtx p.params.ctx causeCommand { x.cfg with freq := kHz * 1000 } m)

/-- One decided action executes. -/
def doAct (m : Part) (a : FollowDue) : Part :=
  match a.act with
  | .open_ slot cfg => doOpen a.set slot cfg m
  | .retune k cfg => doRetune a.set k cfg m
  | .close k => doClose a.set k m
  | .promote k cfg => doPromote a.set k cfg m
  | .release k cfg => doRelease a.set k cfg m
  | .rehome kHz => doRehome a.set kHz m

/-- Whether a decided action is of the Close class of Table HTM-4; the others are of the Context class (R54, R296). -/
def FollowAct.closes : FollowAct → Bool
  | .close _ => true
  | .release _ cfg => cfg.isNone
  | _ => false

/-- A re-home of a home that a plan has locked since waits until the lock ends (R339). -/
def FollowDue.waits (a : FollowDue) (m : Part) : Bool :=
  match a.act with
  | .rehome _ => (policy a.set m).any fun p => ctxLocked p.params.ctx m
  | _ => false

/-- The decided actions that are due and that `p` names execute. -/
def followActions (p : FollowAct → Bool) (m : Part) : Part :=
  let due (a : FollowDue) : Bool := p a.act && decide (a.due ≤ m.clock.elapsed) && !a.waits m
  (m.service.actions.filter due).foldl doAct
    { m with service := { m.service with actions := m.service.actions.filter fun a => !due a } }

/-! ## SCAN (R290, R291) -/

/-- First and last carrier and step of a raster, in Hz: OIRT, Japan, CCIR (Table ANA-1). (DEDUCED, log 36) -/
def rasterOf (r : Nat) : Nat × Nat × Nat :=
  if r = 0 then (65900000, 74000000, 10000) else if r = 1 then (76000000, 95000000, 100000) else (87500000, 107900000, 100000)

/-- Channels of a scan, in kHz. (DEDUCED, log 36) -/
def scanChannels (p : ScanParams) : List Nat :=
  let step := (rasterOf p.raster).2.2
  (List.range ((p.last - p.first) / step + 1)).map fun i => (p.first + i * step) / 1000

/-- Slots of a half that a SCAN can open now. -/
def scanSlots (h n : Nat) (m : Part) : List Nat :=
  let room := min n (min (freeLu h m) (256 - followCount m))
  (((List.range 64).map fun i => 64 * h + i).filter fun s => !slotHeld s m && decide (capacityStatus s (followCtxCfg 2 0) m = stOk)).take room

/-- Checks of SCAN. -/
def scanStatus (p : ScanParams) (m : Part) : Nat :=
  let (lo, hi, _) := rasterOf p.raster
  let dwell := orDefault 1 5 p.dwell
  firstStatus [
    (decide (halvesFitted m ≤ p.half ∨ 2 < p.raster ∨ p.first < lo ∨ hi < p.last ∨ p.last < p.first ∨ dwell < 2 ∨ 50 < dwell
      ∨ p.watches < 1 ∨ 8 < p.watches) || pairedB p.half m, stBadParam),
    (slotFenced (64 * p.half) m, stFenced),
    (slotParked (64 * p.half) m || modePending p.half m || m.power.brace.isSome || (scanSlots p.half p.watches m).isEmpty, stNoCapacity)]

/-- Open the watches of a scan on its first channels. -/
def scanOpen : List Nat → List Nat → List (Nat × Nat) → Part → List (Nat × Nat) × List Nat × Part
  | s :: slots, k :: chans, acc, m => scanOpen slots chans (acc ++ [(s, k)]) (openCtx s (followCtxCfg 2 (k * 1000)) m)
  | _, chans, acc, m => (acc, chans, m)

/-- SCAN takes effect. -/
def performScan (p : ScanParams) : Perform := fun d origin m =>
  let (ctxs, left, m) := scanOpen (scanSlots p.half p.watches m) (scanChannels p) [] m
  if ctxs.isEmpty then (m, reply stNoCapacity)
  else
    let dwell := tenth * orDefault 1 5 p.dwell
    let r : ScanRun :=
      { desc := d, origin := origin, execHt := m.clock.ht, ctxs := ctxs, left := left, found := 0, dwell := dwell,
        dwellEnd := m.clock.elapsed + dwell }
    ({ m with service := { m.service with scans := m.service.scans ++ [r] } }, none)

/-- SVC_FOLLOW_POLICY SCAN (R291). -/
def execScan (d : Desc) (p : ScanParams) (s : State) : Host.Outcome State Fault Refusal :=
  s.run (accept d (.scan p) (scanStatus p) (performScan p))

/-- Step the contexts of a scan to the next channels; those left without one close. (DEDUCED, log 36) -/
def scanStep : List (Nat × Nat) → List Nat → List (Nat × Nat) → Part → List (Nat × Nat) × List Nat × Part
  | [], chans, acc, m => (acc, chans, m)
  | (s, _) :: rest, chans, acc, m =>
    if (ctx s m).isNone then scanStep rest chans acc m
    else
      match chans with
      | k :: more => scanStep rest more (acc ++ [(s, k)]) (retuneCtx s causeCommand (followCtxCfg 2 (k * 1000)) m)
      | [] => scanStep rest [] acc (dropCtx s .closed causeCommand m)

/-- A scan's dwell ends: it steps on, or completes with the channels on which a PI was heard. -/
def scanDwell (m : Part) (r : ScanRun) : Part :=
  let alive := r.ctxs.any fun e => (ctx e.1 m).isSome
  let (ctxs, left, m) := scanStep r.ctxs r.left [] m
  if ctxs.isEmpty then
    finish r.desc r.origin 0x32
      { status := if alive then stOk else stFenced, result := r.found, execHt := some r.execHt } m
  else
    { m with service := { m.service with
        scans := m.service.scans ++ [{ r with ctxs := ctxs, left := left, dwellEnd := m.clock.elapsed + r.dwell }] } }

/-- SCAN_DWELL_END (R291). (DEDUCED, log 36) -/
def execScanDwellEnd (t : Nat) (s : State) : Host.Outcome State Fault Refusal :=
  s.run (onTick t fun m =>
    let due := m.service.scans.filter fun r => decide (r.dwellEnd ≤ m.clock.elapsed)
    let rest := m.service.scans.filter fun r => !decide (r.dwellEnd ≤ m.clock.elapsed)
    due.foldl scanDwell { m with service := { m.service with scans := rest } })

end Sys2Proof.Machine
end

