-- ==== Sys2Proof/Machine/Airframe.lean ====
section
/-! DEFINITION. What a Kite frame is on air: chirps, symbols, header, codes, sealing and their way back from soft bits (R377-R380, R391,
R398). -/

namespace Sys2Proof.Machine

/-! ## Bits and checks -/

/-- The low `n` bits of a number, bit 0 first. -/
def bitList (n v : Nat) : List Bool := (List.range n).map fun i => decide (bitsOf v i 1 = 1)

/-- The number of a list of bits, bit 0 first. -/
def bitNat (l : List Bool) : Nat := l.foldr (fun b v => 2 * v + b.toNat) 0

/-- The bits of bytes, each byte bit 0 first (R380). -/
def byteBits (l : List Nat) : List Bool := l.flatMap (bitList 8)

/-- The bytes of a list of bits. -/
def bitBytes (n : Nat) (l : List Bool) : List Nat := (List.range n).map fun i => bitNat ((l.drop (8 * i)).take 8)

/-- The exclusive or of two rows of bits. -/
def xorRow (a b : List Bool) : List Bool := a.zipWith xor b

/-- The CRC-16 of bits in the order sent: polynomial 0x1021, initial value 0xFFFF (Table KTE-3). (DEDUCED, log 63) -/
def crc16 (l : List Bool) : Nat :=
  l.foldl (fun r b =>
    let v := r % 2 ^ 15 * 2
    if (decide (2 ^ 15 ≤ r)) != b then v ^^^ 0x1021 else v) 0xFFFF

/-- The CRC-32 of IEEE 802.3 over bits in the order sent (R380). -/
def crc32 (l : List Bool) : Nat :=
  (l.foldl (fun r b => if decide (r % 2 = 1) != b then r / 2 ^^^ 0xEDB88320 else r / 2) 0xFFFFFFFF) ^^^ 0xFFFFFFFF

/-! ## KQC codes (Table KTE-3) -/

/-- A KQC code: the circulant size, its block rows and its block columns of information. -/
structure Kqc where
  z : Nat
  rows : Nat
  info : Nat
deriving DecidableEq, Repr

abbrev kqc192 : Kqc := ⟨16, 6, 6⟩

/-- KQC-576 of a payload code rate. -/
def kqc576 (rate : Nat) : Kqc := if rate = 0 then ⟨32, 9, 9⟩ else ⟨32, 6, 12⟩

/-- Information bits of a codeword. -/
def Kqc.infoBits (c : Kqc) : Nat := c.z * c.info

/-- Parity bits of a codeword. -/
def Kqc.parityBits (c : Kqc) : Nat := c.z * c.rows

/-- The shift of a block of H, where it is present. -/
def Kqc.shift (c : Kqc) (i j : Nat) : Option Nat :=
  if j < c.info then if (i + j) % 3 ≠ 2 then some ((7 * (i + 1) * (j + 1) + 3) % c.z) else none
  else if j = c.info then
    if i = 0 ∨ i + 1 = c.rows then some 1 else if i = c.rows / 2 then some 0 else none
  else if i + 1 = j - c.info ∨ i = j - c.info then some 0 else none

/-- The columns in which a row of H has its ones: row `r` of block row `i`. -/
def Kqc.ones (c : Kqc) (i r : Nat) : List Nat :=
  (List.range (c.info + c.rows)).filterMap fun j => (c.shift i j).map fun s => j * c.z + (r + s) % c.z

/-- Every row of H, layer by layer. -/
def Kqc.checks (c : Kqc) : List (List Nat) := (List.range c.rows).flatMap fun i => (List.range c.z).map fun r => c.ones i r

/-- A circulant of shift `s` times a block of bits. -/
def rotateBlock (s : Nat) (b : List Bool) : List Bool := b.drop s ++ b.take s

/-- The sum of a block row's information blocks. -/
def Kqc.partialSum (c : Kqc) (info : List Bool) (i : Nat) : List Bool :=
  (List.range c.info).foldl (fun a j =>
    (c.shift i j).elim a fun s => xorRow a (rotateBlock s ((info.drop (j * c.z)).take c.z))) (List.replicate c.z false)

/-- The parity blocks after the first: each from the one before, its row's sum and, in the middle row, the first parity block. -/
def parityChain (mid : Nat) (first : List Bool) : Nat → List Bool → List (List Bool) → List Bool
  | _, _, [] => []
  | i, p, s :: rest =>
    let q := xorRow s p
    let q := if i = mid then xorRow q first else q
    q ++ parityChain mid first (i + 1) q rest

/-- The parity bits of a codeword's information bits: H·c = 0. -/
def Kqc.parity (c : Kqc) (info : List Bool) : List Bool :=
  let sums := (List.range c.rows).map (c.partialSum info)
  let first := sums.foldl xorRow (List.replicate c.z false)
  let p := xorRow (sums.headD []) (rotateBlock 1 first)
  first ++ p ++ parityChain (c.rows / 2) first 1 p ((sums.drop 1).take (c.rows - 2))

/-- A word satisfies every row of H. -/
def Kqc.holds (c : Kqc) (w : List Bool) : Bool := c.checks.all fun r => !(r.foldl (fun a i => xor a (w.getD i false)) false)

/-! ## Layered min-sum (R391) -/

/-- The sign and the smallest magnitude of the others, for every entry of a row. -/
def minOthers (l : List Int) : List Int :=
  (List.range l.length).map fun i =>
    let others := l.eraseIdx i
    let least := (others.map Int.natAbs).foldl min (2 ^ 30)
    if (others.filter fun v => decide (v < 0)).length % 2 = 1 then -(least : Int) else least

/-- One row: its old messages leave the LLRs and its new ones enter. -/
def checkRow (row : List Nat) (old : List Int) (llr : List Int) : List Int × List Int :=
  let q := row.zipWith (fun i v => llr.getD i 0 - v) old
  let new := minOthers q
  (new, (row.zip (q.zipWith (· + ·) new)).foldl (fun l e => l.set e.1 e.2) llr)

/-- One iteration over all rows. -/
def minSumPass : List (List Nat) → List (List Int) → List Int → List (List Int) × List Int
  | row :: rows, old :: olds, llr =>
    let (new, llr) := checkRow row old llr
    let (l, llr) := minSumPass rows olds llr
    (new :: l, llr)
  | _, _, llr => ([], llr)

/-- The decision on an LLR: negative stands for a 1. (DESIGN CHOICE, log 63) -/
def hardBits (l : List Int) : List Bool := l.map fun v => decide (v < 0)

/-- At most `n` iterations, until the syndrome is zero: the LLRs, the iterations made, and whether it is. -/
def minSum (c : Kqc) : Nat → List (List Int) → List Int → Nat → List Int × Nat × Bool
  | 0, _, llr, done => (llr, done, c.holds (hardBits llr))
  | n + 1, msgs, llr, done =>
    let (msgs, llr) := minSumPass c.checks msgs llr
    if c.holds (hardBits llr) then (llr, done + 1, true) else minSum c n msgs llr (done + 1)

/-- Decode a codeword in up to 20 iterations: its information bits, the iterations, and whether it converged. -/
def Kqc.decode (c : Kqc) (llr : List Int) : List Bool × Nat × Bool :=
  let (l, n, ok) := minSum c 20 (c.checks.map fun r => r.map fun _ => 0) llr 0
  (hardBits (l.take c.infoBits), n, ok)

/-- The LLR of a bit that is known to be 0. (DESIGN CHOICE, log 63) -/
abbrev knownZero : Int := 2 ^ 20

/-! ## Symbols (R377, R378) -/

/-- The Gray code of a number (R378). -/
def grayCode (v : Nat) : Nat := v ^^^ v / 2

/-- A data symbol of SF + 1 bits, b0 first: the slope and the shift (R378). -/
def symbolChirp (l : List Bool) : Chirp := { down := l.headD false, shift := grayCode (bitNat l.tail.reverse) }

/-- The chirps of a section of `n` symbols: coded bit c_j is bit j / n of symbol j mod n (R378). -/
def sectionChirps (sf n : Nat) (coded : List Bool) : List Chirp :=
  (List.range n).map fun i => symbolChirp ((List.range (sf + 1)).map fun b => coded.getD (b * n + i) false)

/-- The soft bits of a section in the order of its coded bits. -/
def sectionSoft (count : Nat) (soft : List (List Int)) : List Int :=
  (List.range count).map fun j => (soft.getD (j % max 1 soft.length) []).getD (j / max 1 soft.length) 0

/-- A pilot chirp follows every 16th symbol, unless it would be the last of the frame (R379). -/
def insertPilots : Nat → List Chirp → List Chirp
  | _, [] => []
  | n, c :: rest => if n % 16 = 15 ∧ !rest.isEmpty then c :: {} :: insertPilots (n + 1) rest else c :: insertPilots (n + 1) rest

/-- The shift of the mode chirp (R379). -/
def modeShift (sf rate : Nat) : Nat := (16 * (sf - 7) + 8 * rate + 4) * 2 ^ (sf - 7)

/-- The mode chirps that a receiver at spreading factor `sf` tells apart: SF, rate and shift at its own resolution. -/
def modeShifts (sf : Nat) : List (Nat × Nat × Nat) :=
  (List.range 12).map fun i => (7 + i / 2, i % 2, (16 * (i / 2) + 8 * (i % 2) + 4) * 2 ^ (sf - 7))

/-- The SF and rate of the nearest valid mode chirp (R379); of two equally near, the lower. (DESIGN CHOICE, log 63) -/
def modeOf (sf shift : Nat) : Nat × Nat :=
  let near := fun (e : Nat × Nat × Nat) =>
    let d := ((e.2.2 : Int) - shift).natAbs
    min d (2 ^ sf - d)
  let best := (modeShifts sf).foldl (fun b e => if near e < near b then e else b) (7, 0, 4 * 2 ^ (sf - 7))
  (best.1, best.2.1)

/-- Where a chirp stands `u` chips after its start, in steps of BW / 2^SF above the lower edge of the channel (R377). -/
def Chirp.step (sf u : Nat) (c : Chirp) : Nat :=
  if c.down then (2 ^ (sf + 1) - c.shift - u % 2 ^ sf) % 2 ^ sf else (c.shift + u) % 2 ^ sf

/-! ## The header (Table KTE-3) -/

/-- Header bits [47:0]. -/
def headerWord (h : KiteHeader) : Nat :=
  h.length % 256 + 2 ^ 8 * (h.session % 2048) + 2 ^ 19 * (h.cls % 4) + 2 ^ 21 * (h.dir % 2) + 2 ^ 22 * h.ackreq.toNat
    + 2 ^ 23 * (h.seq % 2048) + 2 ^ 34 * (h.slot % 2 ^ 14)

/-- The 64 information bits. -/
def headerBits (h : KiteHeader) : List Bool :=
  let l := bitList 48 (headerWord h)
  l ++ bitList 16 (crc16 l)

/-- The 128 coded bits: positions 64 to 95 are zero and not sent, nor are the last 32 parity bits. -/
def headerCode (h : KiteHeader) : List Bool :=
  let l := headerBits h
  l ++ (kqc192.parity (l ++ List.replicate 32 false)).take 64

/-- The header that 64 bits spell, `ok` when its CRC-16 passes. -/
def headerOf (converged : Bool) (l : List Bool) : KiteHeader :=
  let v := bitNat l
  { ok := converged && decide (crc16 (l.take 48) = bitsOf v 48 16), length := bitsOf v 0 8, session := bitsOf v 8 11,
    cls := bitsOf v 19 2, dir := bitsOf v 21 1, ackreq := decide (bitsOf v 22 1 = 1), seq := bitsOf v 23 11, slot := bitsOf v 34 14 }

/-- The header that a header section's soft bits give (R389, R391). -/
def decodeHeader (soft : List (List Int)) : KiteHeader :=
  let l := sectionSoft 128 soft
  let (info, _, ok) := kqc192.decode (l.take 64 ++ List.replicate 32 knownZero ++ l.drop 64 ++ List.replicate 32 0)
  headerOf ok (info.take 64)

/-! ## AES-128-CCM (R398) -/

/-- The bytes of a 16-byte block. -/
def block16 (l : List Nat) : List Nat := (List.range 16).map fun i => l.getD i 0 % 256

/-- AES-128 of a block. -/
def aes (key block : List Nat) : List Nat := block16 (Config.aes128 key block)

/-- A number in `n` bytes, the most significant first. -/
def bigBytes (n v : Nat) : List Nat := (leBytes n v).reverse

/-- Bytes filled to whole blocks with zeros, cut into blocks. -/
def blocksOf (l : List Nat) : List (List Nat) :=
  (List.range (ceilDiv l.length 16)).map fun i => block16 (l.drop (16 * i))

/-- The CBC-MAC of some blocks. -/
def cbcMac (key : List Nat) (l : List (List Nat)) : List Nat :=
  l.foldl (fun a b => aes key (a.zipWith (· ^^^ ·) b)) (List.replicate 16 0)

/-- Byte `i` of the CCM key stream, its first block the one that seals the MIC. -/
def ccmStream (key nonce : List Nat) (n : Nat) : List Nat :=
  (List.range n).flatMap fun i => aes key (1 :: nonce ++ bigBytes 2 i)

/-- The 8-byte MIC of AES-128-CCM with a 13-byte nonce, sealed. -/
def ccmMic (key nonce head plain : List Nat) : List Nat :=
  let first := 89 :: nonce ++ bigBytes 2 plain.length
  let mac := cbcMac key (first :: blocksOf (bigBytes 2 head.length ++ head) ++ blocksOf plain)
  (mac.zipWith (· ^^^ ·) (ccmStream key nonce 1)).take 8

/-- Bytes under the key stream. -/
def ccmMask (key nonce l : List Nat) : List Nat :=
  l.zipWith (· ^^^ ·) ((ccmStream key nonce (1 + ceilDiv l.length 16)).drop 16)

/-- The nonce of R398. -/
def kiteNonce (peer session dir cls counter : Nat) : List Nat :=
  leBytes 4 peer ++ leBytes 2 session ++ [dir % 2 + 2 * (cls % 4)] ++ leBytes 4 counter ++ [0, 0]

/-- Header bits [47:0] as bytes: the associated data. -/
def headerData (h : KiteHeader) : List Nat := leBytes 6 (headerWord h)

/-- The L + 8 bytes of ciphertext and MIC. -/
def kiteSeal (key : List Nat) (peer counter : Nat) (h : KiteHeader) (plain : List Nat) : List Nat :=
  let nonce := kiteNonce peer h.session h.dir h.cls counter
  ccmMask key nonce plain ++ ccmMic key nonce (headerData h) plain

/-- The plaintext of L + 8 bytes, and whether the MIC holds. -/
def kiteOpen (key : List Nat) (peer counter : Nat) (h : KiteHeader) (l : List Nat) : List Nat × Bool :=
  let nonce := kiteNonce peer h.session h.dir h.cls counter
  let plain := ccmMask key nonce (l.take h.length)
  (plain, decide (ccmMic key nonce (headerData h) plain = l.drop h.length))

/-! ## The payload (R380) -/

/-- The coded bits of a payload section: each codeword's information bits, then its parity; the last is shortened. -/
def payloadCode (c : Kqc) (bits : List Bool) : List Bool :=
  (List.range (ceilDiv bits.length c.infoBits)).flatMap fun i =>
    let info := (bits.drop (i * c.infoBits)).take c.infoBits
    info ++ c.parity (info ++ List.replicate (c.infoBits - info.length) false)

/-- The bits of the L + 8 sealed bytes with their CRC-32. -/
def payloadBits (sealed : List Nat) : List Bool :=
  let l := byteBits sealed
  l ++ bitList 32 (crc32 l)

/-- The codewords of `left` payload bits, decoded from soft bits: the bits, and the most iterations of any codeword. -/
def decodeCodewords (c : Kqc) : Nat → Nat → List Int → List Bool × Nat
  | 0, _, _ => ([], 0)
  | n + 1, left, soft =>
    let k := min left c.infoBits
    let llr := soft.take k ++ List.replicate (c.infoBits - k) knownZero ++ (soft.drop k).take c.parityBits
    let (info, it, _) := c.decode llr
    let (bits, most) := decodeCodewords c n (left - k) (soft.drop (k + c.parityBits))
    (info.take k ++ bits, max it most)

/-- A payload section of `len` plaintext bytes from its soft bits: the sealed bytes, the CRC-32, the iterations (R380, R391). -/
def decodePayload (rate len : Nat) (soft : List (List Int)) : List Nat × Bool × Nat :=
  let c := kqc576 rate
  let b := 8 * (len + 12)
  let n := ceilDiv b c.infoBits
  let (bits, it) := decodeCodewords c n b (sectionSoft (b + n * c.parityBits) soft)
  let l := bits.take (8 * (len + 8))
  (bitBytes (len + 8) l, decide (crc32 l = bitNat (bits.drop (8 * (len + 8)))), it)

/-! ## The frame (R379) -/

/-- The chirps of a frame: preamble, mode chirp, header, payload, pilots. -/
def airChirps (sf rate : Nat) (h : KiteHeader) (sealed : List Nat) : List Chirp :=
  let coded := payloadCode (kqc576 rate) (payloadBits sealed)
  List.replicate 8 ({} : Chirp) ++ List.replicate 2 { down := true } ++ [{ shift := modeShift sf rate }]
    ++ insertPilots 0 (sectionChirps sf (ceilDiv 128 (sf + 1)) (headerCode h)
      ++ sectionChirps sf (ceilDiv coded.length (sf + 1)) coded)

end Sys2Proof.Machine
end

