-- ==== Sys2Proof/Machine/Kite.lean ====
section
/-! DEFINITION. The Kite link: configuration, sessions, frames, airtime, the schedule, reception and its calibration (R91-R93, R144,
R374-R401). -/

namespace Sys2Proof.Machine

/-! ## Airtime (R377-R381) -/

/-- The configured channel of an index. -/
def kiteChannel (b : KiteBlock) (i : Nat) : Option KiteChannel := b.channels[i]?

/-- A symbol lasts 2^SF / BW (R377), in 1/1000 tick. -/
def symbolMilli (sf bw : Nat) : Nat := 196608 * 2 ^ (sf - bw)

/-- Ticks of `n` symbols, rounded up. -/
def symbolTicks (n sf bw : Nat) : Nat := ceilDiv (n * symbolMilli sf bw) 1000

/-- Symbols of a frame with an L-byte payload: preamble and mode chirp, header, payload and pilots (R379, R380). -/
def frameSymbols (sf rate len : Nat) : Nat :=
  let nh := ceilDiv 128 (sf + 1)
  let bits := 8 * (len + 12)
  let k := if rate = 0 then 288 else 384
  let np := ceilDiv (bits + ceilDiv bits k * (576 - k)) (sf + 1)
  11 + nh + np + (nh + np - 1) / 16

/-- A frame's airtime in ticks, ramps included (R381). (DESIGN CHOICE, log 63) -/
def airtime (ramp sf bw rate len : Nat) : Nat :=
  ceilDiv (49152 * ramp + frameSymbols sf rate len * symbolMilli sf bw) 1000

/-- The airtime of a frame on a channel of a configuration. -/
def frameAirtime (b : KiteBlock) (ch : KiteChannel) (len : Nat) : Nat := airtime b.ramp ch.sf ch.bw ch.rate len

/-! ## Configuration (R374, R375) -/

/-- A configuration with its defaults (Table KTE-1). -/
def decodeKite (b : KiteBlock) : KiteBlock :=
  { b with captureDb := orDefault 1 6 b.captureDb, ramp := orDefault 1 16 b.ramp, lead := orDefault 2 256 b.lead,
           trail := orDefault 2 256 b.trail }

/-- A channel's band lies wholly inside one of the licence-free bands (R375), in Hz. -/
def bandAllowed (c : KiteChannel) : Bool :=
  let half_ := 62500 * 2 ^ c.bw
  [(433050000, 434790000), (863000000, 870000000), (902000000, 928000000)].any fun e =>
    decide (e.1 + half_ ≤ c.freq ∧ c.freq + half_ ≤ e.2)

/-- A channel entry is in range (Table KTE-2). -/
def channelValid (ext : Bool) (c : KiteChannel) : Bool :=
  decide (c.bw ≤ 2 ∧ 7 ≤ c.sf ∧ c.sf ≤ 12 ∧ c.rate ≤ 1 ∧ c.subBand ≤ 7 ∧ -10 ≤ c.power) && bandAllowed c
    && decide (c.power ≤ (if ext then 6 else 20))

/-- KITE_CONFIG's checks (R375). -/
def kiteConfigStatus (count : Nat) (b : KiteBlock) (_ : Part) : Nat :=
  let b := decodeKite b
  if b.clean && decide (1 ≤ count ∧ count ≤ 64 ∧ b.channels.length = count) && b.channels.all (channelValid b.extPa)
      && decide (3 ≤ b.captureDb ∧ b.captureDb ≤ 15 ∧ 2 ≤ b.ramp ∧ b.ramp ≤ 64 ∧ b.lead ≤ 1536 ∧ b.trail ≤ 1536)
      && decide (b.kinds.length = 16 ∧ b.rxChannel.length = 16) && b.kinds.all (fun k => decide (k ≤ 2))
      && b.rxChannel.all (fun i => decide (i < count)) then stOk
  else stBadParam

/-! ## Windows and spans (R392) -/

abbrev windowTicks : Nat := 1536000
abbrev slotTicks : Nat := 1536

/-- A window kind admits a class of transmission. -/
def admits (kind cls : Nat) : Bool := decide (kind = 0) || (decide (kind = 2) && decide (cls = 0))

/-- Window `w` of a configuration admits a class; windows go round. -/
def windowAdmits (b : KiteBlock) (cls w : Nat) : Bool := admits (b.kinds.getD (w % 16) 1) cls

/-- Every window admits the class: its span is unbounded. -/
def unbounded (b : KiteBlock) (cls : Nat) : Bool := (List.range 16).all fun w => windowAdmits b cls w

/-- Consecutive windows from `w` on that admit the class, up to `n`. -/
def runFrom (b : KiteBlock) (cls w : Nat) : Nat → Nat
  | 0 => 0
  | n + 1 => if windowAdmits b cls w then 1 + runFrom b cls (w + 1) n else 0

/-- A frame that starts with the run of windows from `w` fits it, with the guard of 1 ms. (DEDUCED, log 45) -/
def fitsRun (b : KiteBlock) (cls w air : Nat) : Bool := decide (air + msTicks ≤ runFrom b cls w 16 * windowTicks)

/-- Some span of the class can hold a frame of `air` ticks from its start (R396, R399). -/
def spanHolds (b : KiteBlock) (cls air : Nat) : Bool :=
  unbounded b cls || (List.range 16).any fun w => fitsRun b cls w air

/-- The window that holds an HT. -/
def windowOf (ht : Nat) : Nat := ht % ticksPerSecond / windowTicks

/-- HT `t` lies in a span of the class. -/
def inSpan (b : KiteBlock) (cls t : Nat) : Bool := windowAdmits b cls (windowOf t)

/-- A frame that starts at HT `t` ends inside its span, with the guard (R392). (DEDUCED, log 45) -/
def fitsAt (b : KiteBlock) (cls t air : Nat) : Bool :=
  unbounded b cls
    || decide (t + air + msTicks ≤ t - t % windowTicks + runFrom b cls (windowOf t) 16 * windowTicks)

/-- The start of the next span after HT `t` that can hold the frame from its start (R396). (DEDUCED, log 45) -/
def nextSpan (b : KiteBlock) (cls t air : Nat) : Nat :=
  let w := windowOf t
  let i := (List.range 33).find? fun i =>
    decide (0 < i) && windowAdmits b cls (w + i) && !windowAdmits b cls (w + i + 15) && fitsRun b cls (w + i) air
  t - t % windowTicks + i.getD 0 * windowTicks

/-! ## State changes -/

/-- Change the Kite link. -/
def onKite (f : Kite → Kite) (m : Part) : Part := { m with kite := f m.kite }

/-- The session `n`. -/
def kiteSession (n : Nat) (m : Part) : Option KiteSession := look n m.kite.sessions

/-- Change a session. -/
def onSession (n : Nat) (f : KiteSession → KiteSession) (m : Part) : Part :=
  onKite (fun k => { k with sessions := change n f k.sessions }) m

/-- Table KTE-11. -/
abbrev cntRxOk : Nat := 0
abbrev cntFalseDetect : Nat := 1
abbrev cntSyncFail : Nat := 2
abbrev cntCrcFail : Nat := 3
abbrev cntAuthFail : Nat := 4
abbrev cntReplay : Nat := 5
abbrev cntUnknown : Nat := 6
abbrev cntForeign : Nat := 7
abbrev cntCollided : Nat := 8
abbrev cntStronger : Nat := 9
abbrev cntBusy : Nat := 10
abbrev cntPreempted : Nat := 11
abbrev cntHop : Nat := 12
abbrev cntSent : Nat := 13
abbrev cntAborted : Nat := 14
abbrev cntDeferred : Nat := 15

/-- Raise a counter by `n` (32 bits). -/
def countKite (i n : Nat) (m : Part) : Part :=
  onKite (fun k => { k with counters := k.counters.modify i fun c => (c + n) % 2 ^ 32 }) m

/-- The counters that EV_KITE_RX_DROP reports, in order (Table KTE-12). (DEDUCED, log 47) -/
def dropCounters : List Nat := [1, 2, 3, 4, 5, 8, 9, 10]

/-- How far a counter has advanced since the last EV_KITE_RX_DROP. -/
def advanceOf (k : Kite) (i : Nat) : Nat := (k.counters.getD i 0 + 2 ^ 32 - k.dropSeen.getD i 0) % 2 ^ 32

/-- EV_KITE_RX_DROP, at most once per second, when any of its counters has advanced. -/
def dropEvent (m : Part) : Part :=
  let k := m.kite
  if (dropCounters.any fun i => decide (0 < advanceOf k i)) && k.dropAt.all fun t => decide (t + ticksPerSecond ≤ m.clock.elapsed)
  then
    let fields := (dropCounters.zipIdx).map fun e => ({ off := 2 * e.2, size := 2, val := satBits 16 (advanceOf k e.1) } : Field)
    raise 132 0x54 fields (onKite (fun k => { k with dropAt := some m.clock.elapsed, dropSeen := k.counters }) m)
  else m

/-! ## Items of KITE flows (R400) -/

/-- Give an item stamped `ht` to the KITE flows of a subtype for a session (0xFFFF for STATS). -/
def appendKite (subtype session status channel cls ht : Nat) (fields : List Field) (bytes : Nat) (body : List Byte) (m : Part) :
    Part :=
  let len := 4 * ceilDiv (bytes + body.length) 4
  (flowsWhere (fun f => decide (f.type = 7 ∧ f.subtype = subtype ∧ (f.source = session ∨ f.source = 65535))) m).foldl (fun m n =>
    match flow n m with
    | none => m
    | some f =>
      let base := match f.opened with
        | some o => if f.length < o.bytes + len then ht else o.ht
        | none => ht
      let head : List Field := [⟨0, 2, len⟩, ⟨2, 1, subtype⟩, ⟨3, 1, status⟩, ⟨4, 2, session⟩, ⟨6, 1, channel⟩, ⟨7, 1, cls⟩,
        ⟨8, 4, (ht : Int) - base⟩]
      appendItem n ht ((ht : Int) - m.clock.grid) 0 { bytes := len, fields := head ++ fields, body := body, bodyAt := bytes } m) m

abbrev txSent : Nat := 0
abbrev txBrace : Nat := 1
abbrev txUnlock : Nat := 2
abbrev txClose : Nat := 3
abbrev txFlush : Nat := 4
abbrev txConfig : Nat := 5

/-- The end of a frame: its TX_STATUS item and EV_KITE_TX_DONE, stamped `ht` (R383, R400, R401). (DEDUCED, log 46) -/
def reportTx (session channel sf : Nat) (fr : KiteFrame) (status used ht : Nat) (m : Part) : Part :=
  let m := appendKite 1 session status channel fr.cls ht
    [⟨12, 4, fr.seq⟩, ⟨16, 4, used⟩, ⟨20, 2, fr.tag⟩, ⟨22, 1, sf⟩] 24 [] m
  raiseAt ht 128 0x50
    [⟨0, 2, session⟩, ⟨2, 2, fr.tag⟩, ⟨4, 1, status⟩, ⟨5, 1, fr.cls⟩, ⟨6, 1, channel⟩, ⟨8, 4, used⟩, ⟨12, 4, fr.seq⟩] m

/-- Discard queued frames of a session, each reported. (DEDUCED, log 46) -/
def discardFrames (session channel sf status : Nat) : List KiteFrame → Part → Part
  | [], m => m
  | fr :: rest, m => discardFrames session channel sf status rest (reportTx session channel sf fr status 0 m.clock.ht m)

/-- The SF of a channel index of the running configuration. -/
def sfOf (channel : Nat) (m : Part) : Nat := ((m.kite.cfg.bind fun b => kiteChannel b channel).elim 0 KiteChannel.sf)

/-- Discard the frames of a session that `p` names. -/
def discardWhere (n status : Nat) (p : KiteFrame → Bool) (m : Part) : Part :=
  match kiteSession n m with
  | none => m
  | some x =>
    let m := onSession n (fun s => { s with
      queue := s.queue.filter fun fr => !p fr, tagged := s.tagged && !(s.queue.head?).any p }) m
    discardFrames n x.channel (sfOf x.channel m) status (x.queue.filter p) m

abbrev sessOpened : Nat := 0
abbrev sessClosed : Nat := 1
abbrev sessUpdated : Nat := 2
abbrev sessFlushed : Nat := 3
abbrev sessChannelGone : Nat := 4
abbrev sessAuthAlarm : Nat := 5
abbrev sessCounterEnd : Nat := 6

/-- EV_KITE_SESSION (Table KTE-12). (DEDUCED, log 46) -/
def sessionEvent (n cause : Nat) (x : KiteSession) (m : Part) : Part :=
  raise 131 0x53 [⟨0, 2, n⟩, ⟨2, 1, cause⟩, ⟨4, 4, x.peer⟩, ⟨8, 4, x.rxLast.getD 0⟩, ⟨12, 4, x.txCount⟩] m

/-- Close a session: its queued frames are discarded. -/
def closeSession (n cause status : Nat) (m : Part) : Part :=
  match kiteSession n m with
  | none => m
  | some x =>
    let m := discardWhere n status (fun _ => true) m
    sessionEvent n cause x (onKite (fun k => { k with sessions := erase n k.sessions }) m)

/-! ## Buckets (R394) -/

/-- The bucket of a sub-band and class. -/
def bucketOf (subBand cls : Nat) (m : Part) : Bucket := (look (3 * subBand + cls) m.kite.buckets).getD {}

/-- Change a bucket. -/
def setBucket (subBand cls : Nat) (b : Bucket) (m : Part) : Part :=
  onKite (fun k => { k with buckets := put (3 * subBand + cls) b k.buckets }) m

/-- A bucket's balance at an elapsed tick, in 10^−6 tick. -/
def balanceAt (b : Bucket) (e : Nat) : Int :=
  if b.rate = 0 then b.balance
  else max b.balance (min (1000000 * b.burst) (b.balance + b.rate * (e - b.accrued : Nat)))

/-- The bucket accrued up to an elapsed tick. -/
def Bucket.accrue (e : Nat) (b : Bucket) : Bucket := { b with balance := balanceAt b e, accrued := max b.accrued e }

/-- The bucket admits a frame at an elapsed tick (R394): ALERT may overdraw by its burst. -/
def bucketAdmits (b : Bucket) (cls air e : Nat) : Bool :=
  decide (b.rate ≠ 0)
    && (if cls = 0 then decide (-(1000000 * (b.burst : Int)) ≤ balanceAt b e - 1000000 * air)
        else decide (1000000 * (air : Int) ≤ balanceAt b e))

/-- Charge or refund a bucket at an elapsed tick. (DEDUCED, log 45) -/
def chargeBucket (subBand cls : Nat) (air : Int) (e : Nat) (m : Part) : Part :=
  let b := (bucketOf subBand cls m).accrue e
  setBucket subBand cls { b with balance := b.balance - 1000000 * air } m

/-- EV_KITE_BUDGET: a head frame waits for its bucket; at most once per second per bucket. (DEDUCED, log 45) -/
def budgetEvent (subBand cls air : Nat) (m : Part) : Part :=
  let b := bucketOf subBand cls m
  if b.eventAt.all fun t => decide (t + ticksPerSecond ≤ m.clock.elapsed) then
    let low := if cls = 0 then decide (2 * b.burst < air) else decide (b.burst < air)
    let cause := if b.rate = 0 then 0 else if low then 2 else 1
    raise 130 0x52
      [⟨0, 1, subBand⟩, ⟨1, 1, cls⟩, ⟨2, 1, cause⟩, ⟨4, 4, balanceAt b m.clock.elapsed / 1000000⟩, ⟨8, 4, air⟩, ⟨12, 4, b.rate⟩]
      (setBucket subBand cls { b with eventAt := some m.clock.elapsed } m)
  else m

/-! ## The receiver (R387) -/

/-- Free every demodulator in use, each counted once. -/
def freeDemods (cnt : Nat) (m : Part) : Part :=
  let n := (m.kite.demods.filter fun d => decide (d.state ≠ .free)).length
  countKite cnt n (onKite (fun k => { k with demods := k.demods.map fun _ => {} }) m)

/-- The receiver cannot hear: the link is off or searching, a Kite run or a transmission is in progress (R374, R387). -/
def kiteBlind (m : Part) : Bool :=
  m.kite.cfg.isNone || m.kite.pending.isSome || m.kiteCal.running.isSome || decide (m.clock.elapsed < m.kite.blindUntil)
    || m.kite.txs.any fun x => decide (x.blind ≤ m.clock.elapsed)

/-- How far a raised-cosine ramp of `n` ticks has come after `i` of them, in 2^−16. -/
def raisedCosine (i n : Nat) : Nat := ((2 ^ 17 - sineWord (2 ^ 30 + 2 ^ 31 * i / max 1 n)).toNat) / 4

/-- The level of KPA_RAMP at an elapsed tick (R384): in step with the ramps of the frame on air, or falling after an abort. -/
def kpaRampAt (e : Nat) (m : Part) : Nat :=
  let n := m.kite.cfg.elim 0 fun b => ceilDiv (24576 * b.ramp) 1000
  match m.kite.txs.filter KiteTx.begun, m.kite.rampDown with
  | x :: _, _ =>
    if e < x.start + n then x.rampLevel * raisedCosine (e - x.start) n
    else if e + n < x.finish then x.rampLevel * 2 ^ 16
    else if e < x.finish then x.rampLevel * raisedCosine (x.finish - e) n
    else 0
  | [], some (at_, level) => if e < at_ + n then level * raisedCosine (n - (e - at_)) n / 2 ^ 16 else 0
  | [], none => 0

/-- The Gondola's temperature. -/
def gondolaTemp (m : Part) : Int := (m.power.sensors.getD 16 {}).reading

/-- The KSYN's band-memory entry of a channel is fresh (R92). (DEDUCED, log 45) -/
def hopFresh (ch : Nat) (m : Part) : Bool :=
  (look ch m.ksyn.memory).any fun e => decide ((gondolaTemp m - e.temp).natAbs ≤ 120)

/-- Ticks of a hop to a channel: the most that R92 allows. (DEDUCED, log 45) -/
def hopTicks (ch : Nat) (m : Part) : Nat :=
  if m.ksyn.channel = some ch then 0 else if hopFresh ch m then 480 + m.spll.nKsyn / 4 else 29492

/-- The output divider of a frequency in Hz (R91): where two ranges overlap, the smaller. (DESIGN CHOICE, log 45) -/
def ksynOutDiv (freq : Nat) : Nat :=
  if 600000000 ≤ freq then 4 else if 400000000 ≤ freq then 6 else if 300000000 ≤ freq then 8
  else if 200000000 ≤ freq then 12 else 16

/-- The dividers for a carrier of `freq` Hz when the HT clock runs `ppb` off: output divider, integer part and 24-bit fraction of the VCO
over 98.304 MHz, to the nearest step (R65, R91). -/
def ksynWord (freq : Nat) (ppb : Int) : Nat × Nat × Nat :=
  let d := ksynOutDiv freq
  let n := (roundDiv ((freq * d * 2 ^ 24 * 1000000000 : Nat) : Int) (98304000 * (1000000000 + ppb).toNat)).toNat
  (d, n / 2 ^ 24, n % 2 ^ 24)

/-- The frequency of a configured channel, in Hz. -/
def channelHz (ch : Nat) (m : Part) : Nat := (m.kite.cfg.bind fun b => b.channels[ch]?).elim 0 KiteChannel.freq

/-- The KSYN's dividers now: those it is frozen on, or those of its channel with the correction for the offset that HT runs with
(R65, R74). -/
def ksynNow (m : Part) : Nat × Nat × Nat :=
  match m.ksyn.channel, m.ksyn.frozen with
  | some ch, false => ksynWord (channelHz ch m) (freqOffset m.clock.elapsed m)
  | _, _ => (m.ksyn.outDiv, m.ksyn.intDiv, m.ksyn.fracDiv)

/-- The control word stands as it is now. -/
def holdWord (m : Part) : Part :=
  let (d, i, f) := ksynNow m
  { m with ksyn := { m.ksyn with outDiv := d, intDiv := i, fracDiv := f } }

/-- The KSYN is locked: it has not lost lock, and n_ksyn cycles of the HT clock have passed since it last retuned (R72, R92). -/
def ksynUp (m : Part) : Bool :=
  m.ksyn.locked && decide (m.ksyn.since + ceilDiv m.spll.nKsyn 4 ≤ m.clock.elapsed)

/-- The KSYN tunes to a channel from its band memory; a stale entry is searched and rewritten (R92). A KSYN that is re-locking after a
loss goes on doing so (R93). -/
def tuneKsyn (ch : Nat) (m : Part) : Part :=
  let fresh_ := hopFresh ch m
  let n := m.free
  let band := if fresh_ then (look ch m.ksyn.memory).elim 0 KsynEntry.band else n
  holdWord { m with
    free := if fresh_ then n else n + 1
    ksyn := { m.ksyn with
      channel := some ch, locked := !m.ksyn.relocking, frozen := m.ksyn.relocking && m.ksyn.frozen, since := m.clock.elapsed,
      band := band,
      memory := if fresh_ then m.ksyn.memory else put ch { band := band, temp := gondolaTemp m } m.ksyn.memory } }

/-- The KSYN hops at `h`, the end of the ramp-down of a frame cut short: to the channel of a frame decided since, or else to the receiver's
(R93). (DEDUCED, log 45) -/
def hopBack (h : Nat) (m : Part) : Part :=
  let m := onKite (fun k => { k with hopAt := none }) m
  let ch := match m.kite.txs with
    | x :: _ => some x.channel
    | [] => m.kite.rxChannel
  ch.elim m fun c =>
    if m.ksyn.channel = some c then m
    else
      let n := tuneKsyn c m
      { n with ksyn := { n.ksyn with since := h } }

/-- Bring a decided frame up to the present: from its blind tick receptions are abandoned, from its lead on KPA_EN is asserted, at its start
its bucket is charged and the transmitter takes the corrections of the last Kite run; a Kite run holds KPA_EN de-asserted (R144, R384,
R386, R387, R394). A lead that would lie in the run begins at its end. (DEDUCED, log 46) -/
def settleTx (m : Part) : Part :=
  let e := m.clock.elapsed
  let m := match m.kite.hopAt with
    | some h => if h ≤ e then hopBack h m else m
    | none => m
  let m := if m.kite.txs.any fun x => decide (x.blind ≤ e ∧ !x.begun) then freeDemods cntPreempted m else m
  let begin_ := m.kite.txs.filter fun x => decide (x.start ≤ e ∧ !x.begun)
  let m := begin_.foldl (fun m x => chargeBucket x.subBand x.frame.cls (x.finish - x.start : Nat) x.start m) m
  let m := onKite (fun k => { k with txs := k.txs.map fun x => if x.start ≤ e then { x with begun := true } else x }) m
  let lead := m.kite.cfg.elim 0 KiteBlock.lead
  let air := m.kiteCal.running.isNone && m.kite.txs.any fun x => decide (x.start ≤ e + lead)
  let trail := m.kiteCal.running.isNone && decide (e < m.kite.blindUntil)
  let m := if begin_.isEmpty then m else { m with kiteCal := { m.kiteCal with corr := m.kiteCal.corrNew } }
  dropEvent { m with pins := { m.pins with
    kpaEn := air || (trail && m.pins.kpaEn), kpaRamp := kpaRampAt e m,
    klnaEn := !air && !(trail && m.pins.kpaEn) && m.kite.cfg.isSome && m.kiteCal.running.isNone } }

/-- A row of the Kite link: what has come about up to its tick comes first. -/
def kiteTick (t : Nat) (f : Part → Part) : Part → Part := onTick t fun m => f (settleTx m)

/-- The receiver turns to a window's channel; receptions in progress are abandoned when it changes (R387). (DEDUCED, log 47) -/
def hopRx (w : Nat) (m : Part) : Part :=
  match m.kite.cfg with
  | none => m
  | some b =>
    let ch := b.rxChannel.getD w 0
    if m.kite.rxChannel = some ch then m
    else
      let m := freeDemods cntHop m
      let m := onKite (fun k => { k with rxChannel := some ch, blindUntil := max k.blindUntil (m.clock.elapsed + hopTicks ch m) }) m
      if m.kite.txs.isEmpty ∧ m.kite.hopAt.isNone then tuneKsyn ch m else m

/-! ## KITE_CONFIG (R376) -/

/-- Decided frames that `p` names and that have not begun wait after all: they return to the heads of their queues, and where the session
has closed since, the frame is discarded as its queue was. (DEDUCED, log 46) -/
def returnTxs (p : KiteTx → Bool) (m : Part) : Part :=
  let back := m.kite.txs.filter fun x => !x.begun && p x
  let held := back.filter fun x => (kiteSession x.session m).isSome
  let gone := back.filter fun x => (kiteSession x.session m).isNone
  let m := held.reverse.foldl (fun m x => onSession x.session (fun s => { s with
    queue := x.frame :: s.queue, finish := s.finish - (x.finish - x.start), tagged := false }) m) m
  if back.isEmpty then m
  else
    gone.foldl (fun m x => reportTx x.session x.channel x.sf x.frame txClose 0 m.clock.ht m)
      (onKite (fun k => { k with txs := k.txs.filter fun x => !back.contains x, committed := m.clock.elapsed }) m)

/-- KITE_CONFIG takes effect: the frame on air completes and no further one starts, so that one decided waits in its queue, receptions are
abandoned, the KSYN searches. It
completes when the configuration applies; one that still searched ends with ST_ABORTED. (DEDUCED, log 46) -/
def performKiteConfig (count : Nat) (b : KiteBlock) : Perform := fun d origin m =>
  let m := returnTxs (fun _ => true) (freeDemods cntHop (settleTx m))
  let m := match m.kite.pending with
    | none => m
    | some p => finish p.desc p.origin 0x50 { status := stAborted } m
  (onKite (fun k => { k with pending := some { block := decodeKite b, count := count, desc := d, origin := origin } }) m, none)

/-- KITE_CONFIG (R376). -/
def execKiteConfig (d : Desc) (count : Nat) (block : KiteBlock) (s : State) : Host.Outcome State Fault Refusal :=
  s.run (accept d (.kiteConfig count block) (kiteConfigStatus count block) (performKiteConfig count block))

/-- A session after a new configuration: it closes when its channel is gone, and frames that have become too long are
discarded. -/
def refitSession (b : KiteBlock) (n : Nat) (m : Part) : Part :=
  match kiteSession n m with
  | none => m
  | some x =>
    match kiteChannel b x.channel with
    | none => closeSession n sessChannelGone txConfig m
    | some ch => discardWhere n txConfig (fun fr => !spanHolds b fr.cls (frameAirtime b ch fr.length)) m

/-- The configuration that was searched for applies (R376), with a Kite run wanted (R144). (DEDUCED, log 46) -/
def applyKite (p : KitePending) (m : Part) : Part :=
  let old := m.kite.sessions.map (·.1)
  let temp := gondolaTemp m
  let n := m.free
  let found := { m.ksyn with
    memory := (List.range p.count).map (fun i => (i, { band := n + i, temp := temp })), relocking := false, locked := true,
    channel := none, frozen := false, since := m.clock.elapsed }
  let m := { m with
    free := n + p.count
    ksyn := found
    kiteCal := { m.kiteCal with dueSince := some (m.kiteCal.dueSince.getD m.clock.elapsed), dueCause := .command } }
  let m := onKite (fun k => { k with
    cfg := some p.block, pending := none, rxChannel := none, committed := m.clock.elapsed, frameHt := m.clock.ht,
    sessions := k.sessions.map fun e => (e.1, { e.2 with eligible := false, tagged := false }) }) m
  let m := hopRx (windowOf m.clock.ht) m
  let m := old.foldl (fun m n => refitSession p.block n m) m
  finish p.desc p.origin 0x50 { status := stOk } { m with pins := { m.pins with klnaEn := true } }

/-- KITE_CONFIG_APPLY (R376): on an HT seconds boundary after the search. (DEDUCED, log 46) -/
def execKiteConfigApply (t : Nat) (s : State) : Host.Outcome State Fault Refusal :=
  s.run (kiteTick t fun m =>
    match m.kite.pending with
    | none => m
    | some p => if onSecond m ∧ m.kite.txs.isEmpty then applyKite p m else m)

/-! ## KITE_SESSION (R397) -/

/-- A session as the accepted operations that have not executed will leave it (R399): its channel, while it is open. -/
def sessionAfter (n : Nat) (m : Part) : Option Nat :=
  (m.sched.queue.map Action.cmd).foldl (fun x c =>
    match c with
    | .kiteSessionOpen k _ _ ch => if k = n then some ch else x
    | .kiteSessionClose k => if k = n then none else x
    | .kiteSessionUpdate k _ ch => if k = n then x.map fun _ => ch else x
    | _ => x) ((kiteSession n m).map KiteSession.channel)

/-- The session `n` is open now. -/
def sessionNow (n : Nat) (m : Part) : Option Nat := (kiteSession n m).map KiteSession.channel

/-- The key slot holds a key. -/
def keyHeld (slot : Nat) (m : Part) : Bool := has slot m.sec.held

/-- The channel index is configured. -/
def channelKnown (ch : Nat) (m : Part) : Bool := m.kite.cfg.any fun b => (kiteChannel b ch).isSome

/-- Checks of OPEN against the sessions as `find` gives them. -/
def openSessionStatus (find : Nat → Part → Option Nat) (n key ch : Nat) (m : Part) : Nat :=
  firstStatus [
    (m.kite.cfg.isNone || decide (2047 < n) || !keyHeld key m || !channelKnown ch m, stBadParam),
    ((find n m).isSome, stBusy)]

/-- Checks of an operation on an open session. -/
def sessionStatus (find : Nat → Part → Option Nat) (n : Nat) (m : Part) : Nat :=
  if m.kite.cfg.isNone || (find n m).isNone then stBadParam else stOk

/-- Checks of UPDATE. -/
def updateStatus (find : Nat → Part → Option Nat) (n key ch : Nat) (m : Part) : Nat :=
  firstStatus [
    (decide (sessionStatus find n m ≠ stOk), sessionStatus find n m), (!keyHeld key m || !channelKnown ch m, stBadParam)]

/-- OPEN takes effect. -/
def performSessionOpen (n key peer ch : Nat) : Perform := fun _ _ m =>
  let st := openSessionStatus sessionNow n key ch m
  if st ≠ stOk then (m, reply st)
  else
    let x : KiteSession := { key := key, peer := peer, channel := ch }
    (sessionEvent n sessOpened x (onKite (fun k => { k with sessions := put n x k.sessions }) m), reply stOk)

/-- KITE_SESSION OPEN (R397). -/
def execKiteSessionOpen (d : Desc) (session key peer channel : Nat) (s : State) : Host.Outcome State Fault Refusal :=
  s.run (accept d (.kiteSessionOpen session key peer channel) (openSessionStatus sessionAfter session key channel)
    (performSessionOpen session key peer channel))

/-- CLOSE takes effect. -/
def performSessionClose (n : Nat) : Perform := fun _ _ m =>
  let st := sessionStatus sessionNow n m
  if st ≠ stOk then (m, reply st) else (closeSession n sessClosed txClose m, reply stOk)

/-- KITE_SESSION CLOSE (R397). -/
def execKiteSessionClose (d : Desc) (session : Nat) (s : State) : Host.Outcome State Fault Refusal :=
  s.run (accept d (.kiteSessionClose session) (sessionStatus sessionAfter session) (performSessionClose session))

/-- UPDATE takes effect: a changed key slot restarts both counters. -/
def performSessionUpdate (n key ch : Nat) : Perform := fun _ _ m =>
  let st := updateStatus sessionNow n key ch m
  if st ≠ stOk then (m, reply st)
  else
    let m := onSession n (fun x =>
      if x.key = key then { x with channel := ch, tagged := false }
      else { x with channel := ch, key := key, txCount := 0, rxLast := none, tagged := false }) m
    ((kiteSession n m).elim m fun x => sessionEvent n sessUpdated x m, reply stOk)

/-- KITE_SESSION UPDATE (R397). -/
def execKiteSessionUpdate (d : Desc) (session key channel : Nat) (s : State) : Host.Outcome State Fault Refusal :=
  s.run (accept d (.kiteSessionUpdate session key channel) (updateStatus sessionAfter session key channel)
    (performSessionUpdate session key channel))

/-- FLUSH takes effect. -/
def performSessionFlush (n : Nat) : Perform := fun _ _ m =>
  let st := sessionStatus sessionNow n m
  if st ≠ stOk then (m, reply st)
  else
    let m := discardWhere n txFlush (fun _ => true) m
    ((kiteSession n m).elim m fun x => sessionEvent n sessFlushed x m, reply stOk)

/-- KITE_SESSION FLUSH (R397). -/
def execKiteSessionFlush (d : Desc) (session : Nat) (s : State) : Host.Outcome State Fault Refusal :=
  s.run (accept d (.kiteSessionFlush session) (sessionStatus sessionAfter session) (performSessionFlush session))

/-! ## KITE_SEND and KITE_BUDGET (R394, R399) -/

/-- The checks of KITE_SEND at acceptance. -/
def kiteSendStatus (n cls len : Nat) (m : Part) : Nat :=
  match m.kite.cfg with
  | none => stBadParam
  | some b =>
    if len < 1 ∨ 255 < len ∨ 2 < cls then stBadParam
    else
      match (sessionAfter n m).bind (kiteChannel b) with
      | none => stBadParam
      | some ch => if spanHolds b cls (frameAirtime b ch len) then stOk else stFrameTooLong

/-- KITE_SEND takes effect: the frame enters its queue with its frame counter (R398, R399). -/
def performKiteSend (n cls len : Nat) (payload : List Nat) : Perform := fun d _ m =>
  match kiteSession n m with
  | none => (m, reply stBadParam)
  | some x =>
    if x.txCount = 2 ^ 32 - 1 then (sessionEvent n sessCounterEnd x m, reply stBusy)
    else if 64 ≤ x.queue.length ∨ 16384 ≤ (m.kite.sessions.map fun e => e.2.queue.length).sum then (m, reply stBusy)
    else
      let fr : KiteFrame := { cls := cls, length := len, payload := payload, seq := x.txCount, tag := d.tag }
      (onSession n (fun x => { x with queue := x.queue ++ [fr], txCount := x.txCount + 1 }) m,
        some { status := stOk, result := x.txCount })

/-- KITE_SEND (R399). -/
def execKiteSend (d : Desc) (session cls length : Nat) (payload : List Nat) (s : State) : Host.Outcome State Fault Refusal :=
  s.run (accept d (.kiteSend session cls length payload) (kiteSendStatus session cls length)
    (performKiteSend session cls length payload))

/-- The checks of KITE_BUDGET (R394). -/
def kiteBudgetStatus (subBand cls rate burst : Nat) (_ : Part) : Nat :=
  if subBand ≤ 7 ∧ cls ≤ 2 ∧ rate ≤ 1000000 ∧ burst ≤ 1474560000 then stOk else stBadParam

/-- KITE_BUDGET takes effect: a debt is kept, a positive balance is clipped. -/
def performKiteBudget (subBand cls rate burst : Nat) : Perform := fun _ _ m =>
  let m := settleTx m
  let b := (bucketOf subBand cls m).accrue m.clock.elapsed
  (setBucket subBand cls { b with rate := rate, burst := burst, balance := min b.balance (1000000 * burst) } m, reply stOk)

/-- KITE_BUDGET (R394). -/
def execKiteBudget (d : Desc) (subBand cls rate burst : Nat) (s : State) : Host.Outcome State Fault Refusal :=
  s.run (accept d (.kiteBudget subBand cls rate burst) (kiteBudgetStatus subBand cls rate burst)
    (performKiteBudget subBand cls rate burst))

/-! ## Decisions (R392, R393, R396) -/

/-- How a head frame stands at a decision: it does not come into question; it satisfies every condition of R392 but the fit in the rest of
its span, and is deferred (R396); its bucket does not admit it (R394); or it may start. -/
inductive HeadState where
  | idle | deferred | waits | ready
deriving DecidableEq, Repr

/-- The present tick begins a DOWNLINK window. -/
def downlinkStart (m : Part) : Bool :=
  m.kite.cfg.any fun b => decide (m.clock.ht % ticksPerSecond % windowTicks = 0)
    && decide (b.kinds.getD (windowOf m.clock.ht) 1 = 0)

/-- The elapsed tick of the first DOWNLINK window that begins `wait` ticks from now or later. -/
def nextDownlink (wait : Nat) (m : Part) : Option Nat :=
  let w0 := ceilDiv (m.clock.ht + wait) windowTicks
  ((List.range 16).find? fun k => m.kite.cfg.any fun b => decide (b.kinds.getD ((w0 + k) % 16) 1 = 0)).map fun k =>
    m.clock.elapsed + ((w0 + k) * windowTicks - m.clock.ht)

/-- The starts of the Kite runs that a frame has to wait behind: the one in progress, one that a CAL_RUN has made due, and after 10 s
without a free window that of the next DOWNLINK window (R144, R392). -/
def runsAhead (m : Part) : List Nat :=
  m.kiteCal.running.toList ++ (if m.kiteCal.command.isSome then [m.clock.elapsed] else [])
    ++ (m.kiteCal.dueSince.bind fun e => nextDownlink (e + 10 * ticksPerSecond - m.clock.elapsed) m).toList

/-- The elapsed tick on which a frame decided now would start on a channel: the first slot boundary that R392 allows. -/
def startTick (ch : Nat) (m : Part) : Nat :=
  let u := m.clock.elapsed
  let e := m.kite.txs.foldl (fun e x => max e x.finish) (max u (m.kite.hopAt.getD u))
  let last := (m.kite.txs.getLast?).map KiteTx.channel
  let hop := if last = some ch then 0 else hopTicks ch m
  u + slotTicks * ceilDiv (max slotTicks (e + hop - u)) slotTicks

/-- The state of a session's head frame at a decision. -/
def headState (b : KiteBlock) (x : KiteSession) (m : Part) : HeadState :=
  match x.queue, kiteChannel b x.channel with
  | fr :: _, some ch =>
    let e := startTick x.channel m
    let t := htOf e m
    let air := frameAirtime b ch fr.length
    let busy := (runsAhead m).any fun r => decide (e < r + 9830 ∧ r < e + air)
    if !inSpan b fr.cls t || busy then .idle
    else if !bucketAdmits (bucketOf ch.subBand fr.cls m) fr.cls air e then .waits
    else if fitsAt b fr.cls t air then .ready
    else .deferred
  | _, _ => .idle

/-- A session at a decision: its tag when its head frame is eligible, the events of one that is deferred or waits.
(DEDUCED, log 45) -/
def considerSession (b : KiteBlock) (n : Nat) (m : Part) : Part :=
  match kiteSession n m with
  | none => m
  | some x =>
    match x.queue, kiteChannel b x.channel with
    | fr :: rest, some ch =>
      let air := frameAirtime b ch fr.length
      match headState b x m with
      | .ready =>
        if x.tagged then m
        else
          let from_ := if x.eligible then x.finish else m.kite.vtime.getD fr.cls 0
          onSession n (fun x => { x with eligible := true, tagged := true, finish := from_ + air }) m
      | st =>
        let m := onSession n (fun x => { x with eligible := false, tagged := false }) m
        if st = .waits then budgetEvent ch.subBand fr.cls air m
        else if st = .deferred ∧ !fr.deferred then
          let m := onSession n (fun x => { x with queue := { fr with deferred := true } :: rest }) (countKite cntDeferred 1 m)
          raise 129 0x51
            [⟨0, 2, n⟩, ⟨2, 2, fr.tag⟩, ⟨4, 4, air⟩, ⟨8, 8, nextSpan b fr.cls (htOf (startTick x.channel m) m) air⟩] m
        else m
    | _, _ => onSession n (fun x => { x with eligible := false, tagged := false }) m

/-- The class of a session's head frame. -/
def headClass (x : KiteSession) : Nat := (x.queue.head?).elim 3 KiteFrame.cls

/-- The eligible session to send: the highest class first, then the smallest tag, then the lower number. -/
def pickSession (m : Part) : Option (Nat × KiteSession) :=
  (m.kite.sessions.filter fun e => e.2.eligible && e.2.tagged).foldl (fun best e =>
    match best with
    | none => some e
    | some b =>
      if headClass e.2 < headClass b.2 ∨ headClass e.2 = headClass b.2 ∧ e.2.finish < b.2.finish then some e else some b) none

/-- The power of a frame: the on-chip PA is limited to 14 dBm while the Gondola throttles (R385, Table PWR-4). -/
def framePower (b : KiteBlock) (ch : KiteChannel) (m : Part) : Int :=
  match (m.power.sensors.getD 16 {}).level with
  | .normal => ch.power
  | .warm => ch.power
  | _ => if b.extPa then ch.power else min 14 ch.power

/-- The key in a slot: its bytes, word 0 first, each word little-endian (R6). -/
def keyBytes (slot : Nat) (m : Part) : List Nat := ((look slot m.sec.held).getD []).flatMap (leBytes 4)

/-- The header of a frame from the part that starts at HT `t` (Table KTE-3, R383). -/
def sendHeader (n : Nat) (fr : KiteFrame) (t : Nat) : KiteHeader :=
  { ok := true, length := fr.length, session := n, cls := fr.cls, dir := 0, ackreq := false, seq := fr.seq % 2048,
    slot := t % ticksPerSecond / slotTicks }

/-- The chirps of a frame, sealed as it is transmitted (R379, R380, R398). -/
def frameChirps (ch : KiteChannel) (n : Nat) (x : KiteSession) (fr : KiteFrame) (t : Nat) (m : Part) : List Chirp :=
  let h := sendHeader n fr t
  airChirps ch.sf ch.rate h (kiteSeal (keyBytes x.key m) x.peer fr.seq h (fr.payload.take fr.length))

/-- Decide the start of a session's head frame (R392, R393). The KSYN hops at once when nothing is on air, and else at the end of the frame
on air. -/
def decideStart (b : KiteBlock) (n : Nat) (x : KiteSession) (m : Part) : Part :=
  match x.queue, kiteChannel b x.channel with
  | fr :: rest, some ch =>
    let start := startTick x.channel m
    let finish_ := start + frameAirtime b ch fr.length
    let hop := if m.ksyn.channel = some x.channel then 0 else hopTicks x.channel m
    let blind := min (start - b.lead) (start - hop)
    let tx : KiteTx := {
      session := n, frame := fr, channel := x.channel, sf := ch.sf, subBand := ch.subBand, power := framePower b ch m,
      start := start, startHt := htOf start m, finish := finish_, blind := max m.clock.elapsed blind,
      chirps := frameChirps ch n x fr (htOf start m) m, rampLevel := if b.extPa then ch.rampLevel else 0 }
    let idle := m.kite.txs.isEmpty && m.kite.hopAt.isNone
    let m := onSession n (fun x => { x with queue := rest, tagged := false }) m
    let u := m.clock.elapsed
    let m := onKite (fun k => { k with
      txs := k.txs ++ [tx], vtime := k.vtime.set fr.cls x.finish,
      committed := u + slotTicks * ceilDiv (finish_ - slotTicks - u) slotTicks }) m
    if idle then tuneKsyn x.channel m else m
  | _, _ => m

/-- The present tick is a slot boundary of HT (R383). -/
def onSlot (m : Part) : Bool := decide (m.clock.ht % ticksPerSecond % slotTicks = 0)

/-- A decision: the head frame of every session is considered, and at most one start is decided. -/
def decideKite (b : KiteBlock) (m : Part) : Part :=
  let m := (m.kite.sessions.map (·.1)).foldl (fun m n => considerSession b n m) m
  match pickSession m with
  | none => m
  | some (n, x) => decideStart b n x m

/-- A decision at the present tick, when it is a slot boundary that is committed to no frame (R392). -/
def decideSlot (m : Part) : Part :=
  match m.kite.cfg with
  | none => m
  | some b =>
    if onSlot m && decide (m.kite.committed ≤ m.clock.elapsed) && m.kite.pending.isNone && m.power.brace.isNone && ksynUp m
        && decide (m.kite.txs.length < 2) then
      decideKite b m
    else m

/-! ## The end of a frame (R383, R386) -/

/-- What follows the end of a frame at elapsed tick `e`: the KSYN hops to the channel of a frame already decided; with none the receiver
returns: KPA_EN falls after its trail, and the KSYN returns to the rx channel. -/
def returnRx (e : Nat) (m : Part) : Part :=
  match m.kite.txs with
  | x :: _ => if m.ksyn.channel = some x.channel then m else tuneKsyn x.channel m
  | [] =>
    let trail := m.kite.cfg.elim 0 KiteBlock.trail
    let ch := m.kite.rxChannel
    let hop := ch.elim 0 fun c => hopTicks c m
    let m := ch.elim m fun c => tuneKsyn c m
    onKite (fun k => { k with blindUntil := max k.blindUntil (e + max trail hop) }) m

/-- KITE_TX_END (R383): the ramp-down of the frame on air has ended. -/
def execKiteTxEnd (t : Nat) (s : State) : Host.Outcome State Fault Refusal :=
  s.run (kiteTick t fun m =>
    match m.kite.txs with
    | [] => m
    | x :: rest =>
      if m.clock.elapsed < x.finish then m
      else
        let m := returnRx x.finish (countKite cntSent 1 (onKite (fun k => { k with txs := rest }) m))
        reportTx x.session x.channel x.sf x.frame txSent (x.finish - x.start) x.startHt m)

/-- Abort one decided frame now: the airtime it used, its ramp-down included, is charged (R386). (DEDUCED, log 45) -/
def abortOne (status ramp : Nat) (x : KiteTx) (m : Part) : Part :=
  let used := if x.begun then min (x.finish - x.start) (m.clock.elapsed - x.start + ceilDiv (24576 * ramp) 1000) else 0
  let m := if x.begun then
      chargeBucket x.subBand x.frame.cls ((used : Int) - (x.finish - x.start : Nat)) m.clock.elapsed m
    else m
  reportTx x.session x.channel x.sf x.frame status used x.startHt (countKite cntAborted 1 m)

/-- Abort what is on air or decided (R386): BRACE or a loss of lock. The PA ramps down at once, and the KSYN hops when it has (R93). -/
def abortKite (status : Nat) (m : Part) : Part :=
  let m := settleTx m
  let ramp := m.kite.cfg.elim 0 KiteBlock.ramp
  let l := m.kite.txs
  if l.isEmpty then m
  else
    let down := if l.any KiteTx.begun then some (m.clock.elapsed, m.pins.kpaRamp) else none
    let m := l.foldl (fun m x => abortOne status ramp x m)
      (onKite (fun k => { k with txs := [], committed := m.clock.elapsed, rampDown := down }) m)
    let e := m.clock.elapsed + ceilDiv (24576 * ramp) 1000
    if down.isNone then returnRx e m
    else
      let b := m.kite.cfg.elim 0 KiteBlock.trail
      let hop := m.kite.rxChannel.elim 0 fun c => hopTicks c m
      onKite (fun k => { k with hopAt := some e, blindUntil := max k.blindUntil (e + max b hop) }) m

/-! ## Windows (R387, R395, R400) -/

/-- The STATS item of the superframe that began at `frameHt`; the next begins now. (DEDUCED, log 47) -/
def endSuperframe (m : Part) : Part :=
  let fields := (m.kite.counters.zipIdx).map fun e => ({ off := 12 + 4 * e.2, size := 4, val := e.1 } : Field)
  let m := appendKite 2 65535 0 255 255 m.kite.frameHt fields 76 [] m
  onKite (fun k => { k with frameHt := m.clock.ht }) m

/-- The boundary of a window, when the present tick is one: the superframe's item, and the receiver's hop (R387, R400). -/
def crossWindow (m : Part) : Part :=
  if m.kite.cfg.isSome ∧ m.clock.ht % ticksPerSecond % windowTicks = 0 then
    let m := if onSecond m ∧ m.kite.frameHt < m.clock.ht then endSuperframe m else m
    if m.kite.pending.isSome then m else hopRx (windowOf m.clock.ht) m
  else m

/-- HT has stepped: the interrupted superframe's item is emitted, and the window in force is the one of the new HT (R395). -/
def kiteStep (m : Part) : Part :=
  if m.kite.cfg.isSome then
    let m := endSuperframe (settleTx m)
    let m := onKite (fun k => { k with frameHt := m.clock.ht - m.clock.ht % ticksPerSecond }) m
    if m.kite.pending.isSome then m else hopRx (windowOf m.clock.ht) m
  else m

/-! ## Reception (R388-R391) -/

/-- Change a demodulator. -/
def setDemod (i : Nat) (d : Demod) (m : Part) : Part := onKite (fun k => { k with demods := k.demods.set i d }) m

/-- The bandwidth code of the rx channel. -/
def rxBw (m : Part) : Nat :=
  ((m.kite.cfg.bind fun b => m.kite.rxChannel.bind (kiteChannel b)).elim 0 KiteChannel.bw)

/-- The detection repeats a reception already assigned: within one symbol and one bin at its SF (R388). (DEDUCED, log 47) -/
def duplicate (p : KiteDetect) (d : Demod) (m : Part) : Bool :=
  decide (d.state ≠ .free) && decide (d.sf = p.sf) && decide ((d.bin - p.bin).natAbs ≤ 1)
    && decide (m.clock.elapsed ≤ d.since + symbolTicks 1 p.sf (rxBw m))

/-- The weakest of the demodulators in some states, by index; among equals the one detected later. -/
def weakest (states : List DemodState) (m : Part) : Option (Nat × Demod) :=
  ((m.kite.demods.zipIdx).filter fun e => states.contains e.1.state).foldl (fun best e =>
    match best with
    | none => some (e.2, e.1)
    | some b => if e.1.level < b.2.level ∨ e.1.level = b.2.level ∧ b.2.since < e.1.since then some (e.2, e.1) else some b) none

/-- A new reception. -/
def assign (i : Nat) (p : KiteDetect) (m : Part) : Part :=
  setDemod i {
    state := .sync, sf := p.sf, bin := p.bin, level := p.level, freq := p.freq, timing := p.timing, since := m.clock.elapsed } m

/-- Pilot chirps re-measure the receptions they belong to (R388, R391). -/
def applyPilots (l : List KitePilot) (m : Part) : Part :=
  onKite (fun k => { k with demods := l.foldl (fun ds p => ds.modify p.demod fun d =>
    if d.state = .header ∨ d.state = .payload then { d with level := p.level, freq := p.freq, timing := p.timing } else d) k.demods }) m

/-- Rows 3 and 4 of Table KTE-8. -/
def arbitrateBusy (p : KiteDetect) (m : Part) : Part :=
  let db := m.kite.cfg.elim 6 KiteBlock.captureDb
  let capture := m.kite.cfg.any KiteBlock.capture
  match weakest [.payload] m with
  | some (i, d) =>
    if d.level + 10 * db ≤ p.level then
      if capture then assign i p (countKite cntCollided 1 m) else countKite cntStronger 1 m
    else countKite cntBusy 1 m
  | none => countKite cntBusy 1 m

/-- Arbitration of a new detection (Table KTE-8). (DEDUCED, log 47) -/
def arbitrate (p : KiteDetect) (m : Part) : Part :=
  match (weakest [.sync, .header] m).filter fun e => decide (e.2.level + 30 ≤ p.level) with
  | some (i, _) => assign i p (countKite cntFalseDetect 1 m)
  | none =>
    match m.kite.demods.findIdx? fun d => decide (d.state = .free) with
    | some i => assign i p m
    | none => arbitrateBusy p m

/-- KITE_DETECTION (R390): SF 7 to 12. -/
def execKiteDetection (t : Nat) (p : KiteDetect) (s : State) : Host.Outcome State Fault Refusal :=
  s.runIf (decide (7 ≤ p.sf ∧ p.sf ≤ 12)) (kiteTick t fun m =>
    let m := applyPilots p.pilots m
    if kiteBlind m || m.kite.demods.any (fun d => duplicate p d m) then m else dropEvent (arbitrate p m))

/-- A demodulator in some state. -/
def demodIn (i : Nat) (st : DemodState) (m : Part) : Option Demod := (m.kite.demods[i]?).filter fun d => decide (d.state = st)

/-- A reception fails: its demodulator is free and the failure counted. -/
def failDemod (i cnt : Nat) (m : Part) : Part := dropEvent (countKite cnt 1 (setDemod i {} m))

/-- KITE_SYNC_DONE (R389): the mode chirp names the preamble's SF, or the synchronisation fails. The first preamble chirp began 11
symbols before. (DEDUCED, log 47) -/
def execKiteSyncDone (t demod shift : Nat) (pilots : List KitePilot) (s : State) : Host.Outcome State Fault Refusal :=
  s.runIf (decide (demod < 8)) (kiteTick t fun m =>
    let m := applyPilots pilots m
    match demodIn demod .sync m with
    | none => m
    | some d =>
      let mode := modeOf d.sf shift
      if mode.1 = d.sf then
        setDemod demod { d with
          state := .header, rate := mode.2, stamp := m.clock.ht - symbolTicks 11 d.sf (rxBw m) } m
      else failDemod demod cntSyncFail m)

/-- KITE_SYNC_TIMEOUT (R389): no down-chirps within 10 symbol times of the detection. -/
def execKiteSyncTimeout (t demod : Nat) (s : State) : Host.Outcome State Fault Refusal :=
  s.runIf (decide (demod < 8)) (kiteTick t fun m =>
    match demodIn demod .sync m with
    | none => m
    | some d => if d.since + symbolTicks 10 d.sf (rxBw m) ≤ m.clock.elapsed then failDemod demod cntSyncFail m else m)

/-- The header that a row gives: decoded from its soft bits, where it has some. -/
def rowHeader (h : KiteHeader) : KiteHeader := if h.soft.isEmpty then { h with pilots := [] } else decodeHeader h.soft

/-- KITE_HEADER_DONE (R389). -/
def execKiteHeaderDone (t demod : Nat) (h : KiteHeader) (s : State) : Host.Outcome State Fault Refusal :=
  s.runIf (decide (demod < 8)) (kiteTick t fun m =>
    let m := applyPilots h.pilots m
    let h := rowHeader h
    match demodIn demod .header m with
    | none => m
    | some d =>
      if h.ok then setDemod demod { d with state := .payload, head := some h } m else failDemod demod cntFalseDetect m)

/-- The frame counter that a header's low 11 bits stand for: the smallest above the last accepted (R398). -/
def rebuildCounter (last : Option Nat) (seq : Nat) : Nat :=
  let lo := last.elim 0 (· + 1)
  lo + (seq + 2048 - lo % 2048) % 2048

/-- The frequency offset of a reception in 10 Hz: a bin is BW / 2^SF (R391, Table KTE-10). -/
def rxOffset (d : Demod) (m : Part) : Int := roundDiv (d.freq * (12500 * 2 ^ rxBw m : Nat)) (16 * 2 ^ d.sf)

/-- An RX item (Table KTE-10). (DESIGN CHOICE / DEDUCED, log 63) -/
def deliverRx (h : KiteHeader) (d : Demod) (r : KitePayload) (counter : Nat) (m : Part) : Part :=
  appendKite 0 h.session 0 (m.kite.rxChannel.getD 0) h.cls d.stamp
    [⟨12, 2, d.level⟩, ⟨14, 2, r.snr⟩, ⟨16, 4, counter⟩, ⟨20, 2, h.slot⟩, ⟨22, 1, d.sf⟩,
     ⟨23, 1, (if h.ackreq then 1 else 0) + 2 * d.rate⟩, ⟨24, 1, r.iterations⟩, ⟨25, 1, h.length⟩, ⟨26, 2, rxOffset d m⟩]
    28 (r.plain.take h.length) m

/-- The payload that a row gives: decoded from its soft bits, where it has some. -/
def rowPayload (rate len : Nat) (r : KitePayload) : KitePayload :=
  if r.soft.isEmpty then r
  else
    let (sealed, ok, it) := decodePayload rate len r.soft
    { r with sealed := sealed, crcOk := ok, iterations := it }

/-- The plaintext of a payload and whether its MIC holds, under a session's key (R398). -/
def openPayload (h : KiteHeader) (x : KiteSession) (counter : Nat) (r : KitePayload) (m : Part) : KitePayload :=
  if r.sealed.isEmpty then r
  else
    let (plain, ok) := kiteOpen (keyBytes x.key m) x.peer counter h r.sealed
    { r with plain := plain, micOk := ok }

/-- The checks of a completed frame, in order (R391). (DEDUCED, log 46) (DESIGN CHOICE / DEDUCED, log 63) -/
def checkFrame (h : KiteHeader) (d : Demod) (r : KitePayload) (m : Part) : Part :=
  if !r.crcOk then countKite cntCrcFail 1 m
  else if h.dir ≠ 1 then countKite cntForeign 1 m
  else
    match (kiteSession h.session m).filter fun x => decide (x.peer ≠ 2 ^ 32 - 1) with
    | none => countKite cntUnknown 1 m
    | some x =>
      let counter := rebuildCounter x.rxLast h.seq
      let r := openPayload h x counter r m
      if 2 ^ 32 ≤ counter then countKite cntReplay 1 m
      else if r.micOk then
        deliverRx h d r counter (countKite cntRxOk 1
          (onSession h.session (fun x => { x with rxLast := some counter, authFails := 0 }) m))
      else
        let m := countKite cntAuthFail 1 m
        if x.authFails + 1 = 8 then
          sessionEvent h.session sessAuthAlarm x (onSession h.session (fun x => { x with authFails := 0 }) m)
        else onSession h.session (fun x => { x with authFails := x.authFails + 1 }) m

/-- KITE_PAYLOAD_DONE (R391). -/
def execKitePayloadDone (t demod : Nat) (r : KitePayload) (s : State) : Host.Outcome State Fault Refusal :=
  s.runIf (decide (demod < 8)) (kiteTick t fun m =>
    let m := applyPilots r.pilots m
    match demodIn demod .payload m with
    | none => m
    | some d =>
      let m := setDemod demod {} m
      dropEvent (d.head.elim m fun h => checkFrame h d (rowPayload d.rate h.length r) m))

/-! ## The KSYN (R93) -/

/-- KSYN_UNLOCK (R93): the tuning word freezes, the PA ramps down at once, and the frame aborts. (DEDUCED, log 47) -/
def execKsynUnlock (t : Nat) (s : State) : Host.Outcome State Fault Refusal :=
  s.run (kiteTick t fun m =>
    if m.ksyn.locked then
      let ch := m.ksyn.channel.getD 0
      let m := holdWord m
      let m := abortKite txUnlock
        { m with ksyn := { m.ksyn with locked := false, relocking := true, frozen := true, since := m.clock.elapsed } }
      raise 6 0x0B [⟨0, 1, ch⟩] m
    else m)

/-- KSYN_RELOCK (R93): from band memory under the phase-window rule, so not before n_ksyn cycles have passed (R72). -/
def execKsynRelock (t : Nat) (s : State) : Host.Outcome State Fault Refusal :=
  s.run (kiteTick t fun m =>
    if m.ksyn.relocking && decide (m.ksyn.since + ceilDiv m.spll.nKsyn 4 ≤ m.clock.elapsed) then
      { m with ksyn := { m.ksyn with locked := true, relocking := false, frozen := false } }
    else m)

/-! ## The Kite run (R144) -/

/-- Frames decided whose start falls into a Kite run that starts now wait. (DEDUCED, log 46) -/
def returnFrames (m : Part) : Part := returnTxs (fun x => decide (x.start < m.clock.elapsed + 9830)) m

/-- A run starts now: the transmitter is off, the receiver blind (R144, R387). It is the run that was due, and a CAL_RUN stands for one
that the temperature wanted, never for that of a KITE_CONFIG. (DESIGN CHOICE / DEDUCED, log 46) -/
def startKiteRun (cause : CalCause) (m : Part) : Part :=
  let m := freeDemods cntPreempted m
  { m with
    kiteCal := { m.kiteCal with
      running := some m.clock.elapsed, runCause := cause, startHt := m.clock.ht,
      dueSince := if m.kiteCal.command.isSome ∧ m.kiteCal.dueCause = .command then m.kiteCal.dueSince else none },
    pins := { m.pins with kpaEn := false, klnaEn := false },
    calCommands := m.calCommands.map fun c =>
      if cause = .command ∧ m.kiteCal.command = some c.id then { c with startHt := some (c.startHt.getD m.clock.ht) } else c }

/-- No frame is queued for transmission. -/
def queuesEmpty (m : Part) : Bool := m.kite.txs.isEmpty && m.kite.sessions.all fun e => e.2.queue.isEmpty

/-- A wanted run may start now: at the start of a DOWNLINK window, with no frame queued until 10 s have passed. -/
def kiteRunDue (m : Part) : Bool :=
  m.kiteCal.dueSince.any fun e =>
    downlinkStart m && m.power.brace.isNone && (queuesEmpty m || decide (e + 10 * ticksPerSecond ≤ m.clock.elapsed))

/-- A Kite run that is wanted starts: not while a frame is on air, whose ramp-down it waits for (R144, R386). -/
def runKite (m : Part) : Part :=
  if m.kiteCal.running.isSome then m
  else
    match (if m.kiteCal.command.isSome then some CalCause.command else if kiteRunDue m then some m.kiteCal.dueCause else none) with
    | none => m
    | some cause =>
      let n := returnFrames m
      if n.kite.hopAt.isSome || n.kite.txs.any fun x => x.begun || decide (x.start < m.clock.elapsed + 9830) then m
      else startKiteRun cause n

/-- KITE_CAL_DONE (R144): after 9,830 ticks; the new corrections apply from the next frame. -/
def execKiteCalDone (t : Nat) (image leakage : Int) (s : State) : Host.Outcome State Fault Refusal :=
  s.run (kiteTick t fun m =>
    match m.kiteCal.running with
    | none => m
    | some e =>
      if m.clock.elapsed < e + 9830 then m
      else
        let k := m.kiteCal
        let id := if k.runCause = .command then k.command else none
        let m := { m with
          free := m.free + 1
          kiteCal := { k with
            running := none, count := satBits 32 (k.count + 1), lastHt := k.startHt, lastT := gondolaTemp m,
            image := image, leakage := leakage, cause := k.runCause, corrNew := m.free,
            command := if id.isSome then none else k.command } }
        let m := raise 208 0x63 [⟨0, 2, image⟩, ⟨2, 2, leakage⟩, ⟨4, 4, m.kiteCal.count⟩] m
        settleTx (endTarget id 255 stOk m))

/-- The Gondola's temperature has moved more than h0's CAL_DELTA_T since the last Kite run (R144). (DEDUCED, log 46) -/
def judgeKite (m : Part) : Part :=
  if m.kite.cfg.isSome ∧ m.kiteCal.dueSince.isNone ∧ m.kiteCal.running.isNone
      ∧ 4 * (half 0 m).cal.deltaT < (gondolaTemp m - m.kiteCal.lastT).natAbs then
    { m with kiteCal := { m.kiteCal with dueSince := some m.clock.elapsed, dueCause := .temperature } }
  else m

/-- The Kite link turns off (R374, R454, R439): every session closes with the frames it queues, nothing more is sent or received; a
frame on air completes. -/
def kiteOff (m : Part) : Part :=
  let m := (m.kite.sessions.map (·.1)).foldl (fun m n => closeSession n sessClosed txClose m) m
  let air := m.kite.txs.filter KiteTx.begun
  let off := { ({} : Kite) with
    buckets := m.kite.buckets, counters := m.kite.counters, dropSeen := m.kite.dropSeen, dropAt := m.kite.dropAt, txs := air }
  { m with
    kite := off
    ksyn := {}
    pins := { m.pins with kpaEn := !air.isEmpty, klnaEn := false } }

end Sys2Proof.Machine
end

