-- ==== Sys2Proof/Machine/Chain.lean ====
section
/-! DEFINITION. The Tether chain: links and routes, enumeration, roll calls, quarantine, messages, and what arrives from other
parts (R422-R444). -/

namespace Sys2Proof.Machine

/-- Change what the part holds of the chain. -/
def onChain (f : Chain → Chain) (m : Part) : Part := { m with chain := f m.chain }

/-! ## Events (Table TET-5) -/

abbrev topoEnumerated : Nat := 0
abbrev topoRingOpen : Nat := 1
abbrev topoBreak : Nat := 2
abbrev topoRerouted : Nat := 3
abbrev topoHealed : Nat := 4
abbrev topoRejoined : Nat := 5
abbrev topoMismatch : Nat := 6
abbrev topoTooMany : Nat := 7
abbrev topoWiring : Nat := 8
abbrev topoDcFault : Nat := 9

/-- The code of a Tether port. -/
def portCode : TetherPort → Nat
  | .up => 0
  | .down => 1

/-- Parts that working links join to this one, itself included. -/
def partsReachable (m : Part) : Nat := ((List.range m.chain.parts).filter fun a => joined (ownAddr m) a m).length

/-- EV_CHAIN_TOPOLOGY. -/
def topology (cause near far port us : Nat) (m : Part) : Part :=
  raise 32 0x20
    [⟨0, 1, cause⟩, ⟨1, 1, ringCode m⟩, ⟨2, 2, near⟩, ⟨4, 2, far⟩, ⟨6, 2, partsReachable m⟩, ⟨8, 1, port⟩, ⟨12, 4, us⟩] m

abbrev rollQuarantine : Nat := 0
abbrev rollStale : Nat := 1
abbrev rollCurrent : Nat := 2
abbrev rollSilent : Nat := 3
abbrev rollAnswering : Nat := 4

/-- EV_ROLLCALL of the part at `addr` (Table TET-5). -/
def rollEvent (stamp addr cause : Nat) (p : Peer) (m : Part) : Part :=
  let word (f : RollAnswer → Nat) : Nat := p.answer.elim 0 f
  raiseAt stamp 33 0x21
    [⟨0, 2, addr⟩, ⟨2, 1, cause⟩, ⟨4, 1, word RollAnswer.fwMajor⟩, ⟨5, 1, word RollAnswer.fwMinor⟩,
     ⟨6, 2, word RollAnswer.fwPatch⟩, ⟨8, 4, word RollAnswer.epoch⟩, ⟨12, 4, m.chain.epoch⟩] m

/-! ## Acknowledgement (R432) -/

/-- A transfer from `src` is received for the first time: run `f`, which gives its status; a duplicate is acknowledged again and
discarded. (DEDUCED, log 51) -/
def receive (src seq : Nat) (f : Part → Part × Nat) (m : Part) : Part :=
  if m.chain.seen.contains (src, seq) then onChain (fun c => { c with acks := (src, seq, stOk) :: c.acks }) m
  else
    let (m, st) := f (onChain (fun c => { c with seen := (src, seq) :: c.seen }) m)
    onChain (fun c => { c with acks := (src, seq, st) :: c.acks }) m

/-- Every unacknowledged transfer is sent again (R432). -/
def resend (m : Part) : Part :=
  onChain (fun c => { c with transfers := c.transfers.map fun x => { x with sends := x.sends + 1 } }) m

/-! ## The configuration and CHAIN_ENUMERATE (R426, R427, R438) -/

/-- The configuration that the head distributes. -/
def configOf (m : Part) : ChainConfig :=
  { chainId := m.chain.chainId, epoch := m.chain.epoch, parts := m.chain.parts, ring := m.chain.ring,
    timeDisagree := m.chain.timeDisagree }

/-- Send the configuration to every other part. -/
def sendConfigs : List Nat → Part → Part
  | [], m => m
  | a :: rest, m => sendConfigs rest (send a (.config (configOf m)) m)

/-- The addresses above the head. -/
def otherAddrs (m : Part) : List Nat := (List.range (m.chain.parts - 1)).map (· + 1)

/-- The parts whose address an enumeration would change while they hold something (R427). -/
def busyParts (parts : List WalkPart) : List Target :=
  (parts.zipIdx.filter fun e => e.1.busy && decide (e.1.old ≠ some (e.2 + 1))).map fun e =>
    { kind := 4, status := stBusy, id := e.1.old.getD 0, detail := e.2 + 1 }

/-- CHAIN_ENUMERATE takes effect. -/
def performEnumerate (options : Nat) (w : WalkResult) : Perform := fun _ _ m =>
  let found := w.parts.take 1023
  let busy := busyParts found
  if !busy.isEmpty then (m, some { status := stBusy, targets := busy })
  else
    let asked := decide (options % 2 = 1)
    let closed := asked && w.returned && !w.broken
    let n := found.length + 1
    let m := onChain (fun c => { c with
      addr := some 0, chainId := m.regs.chainId, parts := n, ring := closed, breaks := [], epoch := (c.epoch + 1) % 2 ^ 32,
      applied := (c.epoch + 1) % 2 ^ 32, timeDisagree := m.regs.timeDisagree,
      peers := (List.range found.length).map fun i => (i + 1, (look (i + 1) c.peers).getD {}),
      claims := c.claims.filter fun e => decide (e.1 < n) }) m
    let m := { m with oasis := { m.oasis with addr := some 0, chainId := m.regs.chainId } }
    let m := topology topoEnumerated 0xFFFF 0xFFFF 0 0 (sendConfigs (otherAddrs m) m)
    let m := if 1023 < w.parts.length then topology topoTooMany 1023 0xFFFF 1 0 m else m
    let m := if asked ∧ !closed then topology topoRingOpen 0xFFFF 0xFFFF 0 0 m else m
    (elect m m, some {
      status := if w.broken ∨ (asked ∧ !closed) then stPartial else stOk
      result := n + if closed then 65536 else 0 })

/-- Checks of CHAIN_ENUMERATE: it needs a chain identity (R477). -/
def enumerateStatus (m : Part) : Nat := if m.regs.chainId = 0 then stBadParam else stOk

/-- CHAIN_ENUMERATE (R426): it needs a chain identity (R477). -/
def execChainEnumerate (d : Desc) (options : Nat) (walk : WalkResult) (s : State) : Host.Outcome State Fault Refusal :=
  s.run (accept d (.chainEnumerate options walk) enumerateStatus
    (performEnumerate options walk))

/-- The part holds an open context, a bound flow or a pending scheduled action (R427). -/
def holdsWork (m : Part) : Bool := !m.ctxs.isEmpty || m.flows.any (fun f => f.2.bound) || !m.sched.queue.isEmpty

/-- CHAIN_ENUMERATION_WALK (R426): the walk gives this part its address and the chain identity, which go into its Oasis. A walk never
changes the address of a part that holds work. -/
def execChainEnumerationWalk (t addr chainId epoch : Nat) (s : State) : Host.Outcome State Fault Refusal :=
  s.run (onTick t fun m =>
    if addr = 0 ∨ 1023 < addr ∨ (m.chain.addr ≠ some addr ∧ holdsWork m) then m
    else
      let before := m
      let m := onChain (fun c => { c with addr := some addr, chainId := chainId, epoch := epoch }) m
      elect before { m with oasis := { m.oasis with addr := some addr, chainId := chainId } })

/-- CHAIN_CONFIG_ARRIVAL (R438): a part applies a configuration on one tick, all together. -/
def execChainConfigArrival (t : Nat) (c : ChainConfig) (s : State) : Host.Outcome State Fault Refusal :=
  s.run (onTick t fun m =>
    if isHead m then m
    else
      elect m (onChain (fun x => { x with
        chainId := c.chainId, epoch := c.epoch, applied := c.epoch, parts := c.parts, ring := c.ring,
        timeDisagree := c.timeDisagree }) m))

/-! ## Links and routes (R424, R425, R428, R431) -/

/-- The link that leaves the part at `near` by `port`: link k joins part k to the next. -/
def linkIndex (near : Nat) (port : TetherPort) (m : Part) : Nat :=
  match port with
  | .down => near
  | .up => (near + m.chain.parts - 1) % max 1 m.chain.parts

/-- Change this part's own link at a port. -/
def onLink (p : TetherPort) (f : TetherLink → TetherLink) (m : Part) : Part :=
  match p with
  | .up => onChain (fun c => { c with up := f c.up }) m
  | .down => onChain (fun c => { c with down := f c.down }) m

/-- TETHER_LINK_DOWN (R431, R433, R443): a link at the part at `near` has gone down. Its own port's link is down; the head reroutes, with
BREAK and REROUTED. -/
def execTetherLinkDown (t : Nat) (port : TetherPort) (topology : TopologyChange) (s : State) :
    Host.Outcome State Fault Refusal :=
  s.run (onTick t fun m =>
    let before := m
    let m := if topology.near = ownAddr m then onLink port (fun l => { l with up := false }) m else m
    let k := linkIndex topology.near port m
    if m.chain.breaks.contains k then m
    else
      let m := onChain (fun c => { c with breaks := c.breaks ++ [k] }) m
      let tell := Sys2Proof.Machine.topology
      let m := if isHead m then
          tell topoRerouted topology.near topology.far (portCode port) topology.rerouteUs
            (tell topoBreak topology.near topology.far (portCode port) 0 m)
        else m
      elect before (resend m))

/-- Complete the commands forwarded to a part that has reset, in tag order (R428). -/
def abortForwarded (addr : Nat) (m : Part) : Part :=
  let gone := (m.chain.forwarded.filter fun f => decide (f.1 = addr)).mergeSort fun a b => decide (a.2.1.tag ≤ b.2.1.tag)
  let m := onChain (fun c => { c with forwarded := c.forwarded.filter fun f => decide (f.1 ≠ addr) }) m
  gone.foldl (fun m f => finish f.2.1 .ring f.2.2 { status := stAborted } m) m

/-- What the part behind a link announces to the head (R428). -/
def linkAnnounce (up : LinkAnnounce) (port : TetherPort) (m : Part) : Part :=
  match up.announced with
  | none => m
  | some (addr, id) =>
    if id = m.chain.chainId ∧ addr = up.far ∧ addr < m.chain.parts then
      let p := (look addr m.chain.peers).getD {}
      let m := topology topoRejoined up.near up.far (portCode port) 0 m
      let m := if p.stale then m else rollEvent m.clock.ht addr rollStale p m
      let m := onChain (fun c => { c with peers := put addr { p with stale := true } c.peers }) m
      if up.wasReset then abortForwarded addr m else m
    else topology topoMismatch up.near up.far (portCode port) 0 m

/-- TETHER_LINK_UP (R424, R428, R431): a link at the part at `near` trains. Between ports of one name it stays down, with WIRING; a break
that ends is HEALED. -/
def execTetherLinkUp (t : Nat) (port : TetherPort) (up : LinkAnnounce) (s : State) : Host.Outcome State Fault Refusal :=
  s.run (onTick t fun m =>
    let own := decide (up.near = ownAddr m)
    if up.sameName then
      if own then
        topology topoWiring up.near up.far (portCode port) 0 (onLink port (fun l => { l with up := false, wiring := true }) m)
      else m
    else
      let before := m
      let m := if own then onLink port (fun l => { l with up := true, wiring := false }) m else m
      let k := linkIndex up.near port m
      let m := if m.chain.breaks.contains k then
          let m := onChain (fun c => { c with breaks := c.breaks.filter fun b => decide (b ≠ k) }) m
          resend (if isHead m then topology topoHealed up.near up.far (portCode port) 0 m else m)
        else m
      elect before (if isHead m ∧ m.chain.addr.isSome then linkAnnounce up port m else m))

/-- CHAIN_ROUTE_UPDATE (R431, R432, R435): new routes reach the part, which sends what is unacknowledged again. -/
def execChainRouteUpdate (t : Nat) (r : RouteUpdate) (s : State) : Host.Outcome State Fault Refusal :=
  s.run (onTick t fun m =>
    if isHead m then m else elect m (resend (onChain (fun c => { c with breaks := r.breaks }) m)))

/-- TETHER_DC_FAULT (R425). -/
def execTetherDcFault (t : Nat) (port : TetherPort) (s : State) : Host.Outcome State Fault Refusal :=
  s.run (onTick t fun m =>
    topology topoDcFault (ownAddr m) 0xFFFF (portCode port) 0 (onLink port (fun l => { l with dcOn := false, dcFault := true }) m))

/-- TETHER_DC_RETRY (R425): once a second a switched-off source is tried; one still in limit for 10 ms goes off again. -/
def execTetherDcRetry (t : Nat) (port : TetherPort) (limited : Bool) (s : State) : Host.Outcome State Fault Refusal :=
  s.run (onTick t fun m =>
    let l := match port with
      | .up => m.chain.up
      | .down => m.chain.down
    if !l.dcFault then m
    else if limited then topology topoDcFault (ownAddr m) 0xFFFF (portCode port) 0 m
    else onLink port (fun l => { l with dcOn := true, dcFault := false }) m)

/-! ## Quarantine (R439) -/

/-- Unbind every flow of a list. -/
def unbindAll : List Nat → Part → Part
  | [], m => m
  | n :: rest, m => unbindAll rest (retarget n .none m)

/-- The part enters QUARANTINE (R439, R458): scheduled actions, plans, contexts, bindings and the Kite link go; its claim ends; it asks
for a chain boot, and resets 1 s later, at most once per hour. (DEDUCED, log 50 and 55) -/
def enterQuarantine (m : Part) : Part :=
  let before := m
  let m := tidyPins (dropOrphans (withdraw (fun _ => true) stQuarantined m))
  let m := { m with plans := [], planHolds := [] }
  let m := m.service.scans.foldl (fun m r => finish r.desc r.origin 0x32 { status := stQuarantined } m) m
  let m := { m with service := { m.service with scans := [] } }
  let m := closeCtxs .closed causeCommand (m.ctxs.map (·.1)) m
  let m := unbindAll (m.flows.map (·.1)) m
  let m := m.kite.pending.elim m fun p => finish p.desc p.origin 0x50 { status := stQuarantined } m
  let m := kiteOff m
  let m := flood (onChain (fun c => { c with quarantined := true }) m)
  let m := { m with oasis := { m.oasis with chainBoot := true } }
  let wait := m.oasis.rebootHt.elim ticksPerSecond fun h => max ticksPerSecond (h + 3600 * ticksPerSecond - m.clock.ht)
  elect before (onChain (fun c => { c with rebootAt := some (m.clock.elapsed + wait) }) m)

/-! ## Roll calls (R438, R440) -/

/-- This part's own answer to a roll call (Table TET-3). -/
def ownAnswer (m : Part) : RollAnswer :=
  let units := liveUnits m
  { fwMajor := m.ident.fw.major, fwMinor := m.ident.fw.minor, fwPatch := m.ident.fw.patch, epoch := m.chain.applied,
    htState := m.clock.state.code, aligned := m.clock.aligned, offsetNs := m.chain.offsetNs, claims := ownClaim m,
    hopsTime := m.chain.master.elim 0xFFFF fun a => hopsTo a m, live := units, full := m.ident.full,
    ctx := units * unitContexts m, lu := units * unitLu m, prog := units * unitPrograms m }

/-- The parts of a roll call: this one, then the others in address order. -/
def rollEntries (m : Part) : List (Nat × Peer) := (0, { answered := true, answer := some (ownAnswer m) }) :: m.chain.peers

/-- What the head advertises of one measure (R438). -/
def advertised (f : RollAnswer → Nat) (l : List (Nat × Peer)) : Nat :=
  ((l.filter fun e => e.2.answered && !e.2.quarantined && !e.2.silent).map fun e => e.2.answer.elim 0 f).sum

/-- A part that did not answer has missed a roll call; after 10 in a row with its links up it is SILENT. -/
def missRoll (addr : Nat) (p : Peer) (m : Part) : Peer :=
  if p.answered then p
  else
    let n := min 65535 (p.missed + 1)
    { p with missed := n, silent := p.silent || (decide (10 ≤ n) && joined 0 addr m) }

/-- The roll call still open ends, 50 ms after it began: the parts that have not answered have missed it. (DEDUCED, log 50) -/
def closeRoll (m : Part) : Part :=
  match m.chain.rollAt with
  | none => m
  | some a =>
    if m.clock.elapsed < a + 1228800 then m
    else
      let old := m.chain.peers
      let m := onChain (fun c => { c with rollAt := none, peers := c.peers.map fun e => (e.1, missRoll e.1 e.2 m) }) m
      let fell := m.chain.peers.filter fun e => e.2.silent && !((look e.1 old).any Peer.silent)
      let stamp := htOf (a + 1228800) m
      let m := fell.foldl (fun m e => rollEvent stamp e.1 rollSilent e.2 m) m
      let l := rollEntries m
      onChain (fun c => { c with rollcall := some {
        ht := c.rollHt, epoch := c.epoch, parts := c.parts, master := c.master.getD 0xFFFF, ring := ringCode m,
        advCtx := advertised RollAnswer.ctx l, advLu := advertised RollAnswer.lu l, advProg := advertised RollAnswer.prog l,
        entries := l } }) m

/-- A roll call that has run its 50 ms ends before what happens now. (DEDUCED, log 50) -/
def settleRoll (m : Part) : Part := if m.chain.rollAt.any fun a => decide (a + 1228800 < m.clock.elapsed) then closeRoll m else m

/-- TIME_DISAGREE is exceeded. -/
def disagrees (ns : Int) (m : Part) : Bool := decide (m.chain.timeDisagree < ns.natAbs)

/-- A follower judges its HT against the master's (Table TET-2): three roll calls in disagreement make a demand, a step when G differs.
(DEDUCED, log 50) -/
def judgeTime (p : RollPoll) (m : Part) : Part :=
  let m := onChain (fun c => { c with offsetNs := p.offsetNs }) m
  if m.clock.state ≠ .follow then onChain (fun c => { c with offsetRun := 0 }) m
  else if !disagrees p.offsetNs m then setHt true (onChain (fun c => { c with offsetRun := 0 }) m)
  else
    let m := setHt false m
    if m.chain.offsetRun < 2 then onChain (fun c => { c with offsetRun := c.offsetRun + 1 }) m
    else
      let m := onChain (fun c => { c with offsetRun := 0 }) m
      let e := -p.offsetTicks1024
      if p.masterGrid = m.clock.grid then resolveDemand e none false none m
      else stepBy e none false (some p.masterGrid) m

/-- ROLL_CALL (R438, R439): the head polls every part every 100 ms; a part whose firmware major version differs from the head's enters
QUARANTINE; a follower judges its time. (DEDUCED, log 50) -/
def execRollCall (t : Nat) (p : RollPoll) (s : State) : Host.Outcome State Fault Refusal :=
  s.run (onTick t fun m =>
    let m := settleRoll m
    if isHead m then
      if tau m % 2457600 ≠ 0 then m
      else
        let m := closeRoll m
        judgeTime p (onChain (fun c => { c with
          rollAt := some m.clock.elapsed, rollHt := m.clock.ht, timeDisagree := m.regs.timeDisagree,
          peers := c.peers.map fun e => (e.1, { e.2 with answered := false }) }) m)
    else if m.chain.quarantined then m
    else if p.fwMajor ≠ m.ident.fw.major then enterQuarantine m
    else judgeTime p m)

/-- The head takes a part's answer: it ends SILENT, and the firmware and epoch decide QUARANTINE and STALE (Table TET-2); a STALE part is
sent the configuration again. -/
def takeAnswer (addr : Nat) (a : RollAnswer) (m : Part) : Part :=
  let p := (look addr m.chain.peers).getD {}
  let q : Peer := {
    answered := true, quarantined := decide (a.fwMajor ≠ m.ident.fw.major), stale := decide (a.epoch ≠ m.chain.epoch),
    silent := false, missed := 0, answer := some a }
  let m := onChain (fun c => { c with peers := put addr q c.peers }) m
  let m := if p.silent then rollEvent m.clock.ht addr rollAnswering q m else m
  let m := if q.quarantined ∧ !p.quarantined then rollEvent m.clock.ht addr rollQuarantine q m else m
  let m := if q.stale ∧ !p.stale then rollEvent m.clock.ht addr rollStale q m else m
  let m := if !q.stale ∧ !q.quarantined ∧ (p.stale ∨ p.quarantined) then rollEvent m.clock.ht addr rollCurrent q m else m
  if q.stale then send addr (.config (configOf m)) m else m

/-- ROLL_CALL_ANSWER (R438): an answer more than 50 ms after its roll call is not counted. -/
def execRollCallAnswer (t addr : Nat) (a : RollAnswer) (s : State) : Host.Outcome State Fault Refusal :=
  s.run (onTick t fun m =>
    let m := settleRoll m
    if isHead m ∧ 0 < addr ∧ addr < m.chain.parts ∧ m.chain.rollAt.isSome then takeAnswer addr a m else m)

/-- The part's traffic to the head leaves it by DOWN (Table TET-3). -/
def routedDown (addr : Nat) (m : Part) : Bool :=
  aroundClear 0 addr m && (!directClear 0 addr m || decide (m.chain.parts - addr < addr))

/-- Hops from a part to the head. -/
def hopsHead (addr : Nat) (m : Part) : Nat := if routedDown addr m then m.chain.parts - addr else addr

/-- An entry of the CHAIN_ROLLCALL body (Table TET-3). -/
def rollEntry (r : RollCall) (m : Part) (e : Nat × Peer) : Chunk :=
  let p := e.2
  let a := p.answer.getD {
    fwMajor := 0, fwMinor := 0, fwPatch := 0, epoch := 0, htState := 0, aligned := false, offsetNs := 0, claims := false,
    hopsTime := 0xFFFF, live := 0, full := false, ctx := 0, lu := 0, prog := 0 }
  let bit (c : Bool) (k : Nat) : Nat := if c then 2 ^ k else 0
  let flags := bit p.answered 0 + bit p.quarantined 1 + bit p.stale 2 + bit (decide (r.master = e.1)) 3 + bit a.aligned 4
    + bit (routedDown e.1 m) 5 + bit p.silent 6 + bit a.claims 7
  let offset := if r.master = e.1 ∨ r.master = 0xFFFF ∨ a.htState = 3 then 0x80000000 else a.offsetNs
  { bytes := 32,
    fields := [
      ⟨0, 2, e.1⟩, ⟨2, 1, flags⟩, ⟨3, 1, a.htState⟩, ⟨4, 1, a.fwMajor⟩, ⟨5, 1, a.fwMinor⟩, ⟨6, 2, a.fwPatch⟩, ⟨8, 4, a.epoch⟩,
      ⟨12, 4, offset⟩, ⟨16, 2, hopsHead e.1 m⟩, ⟨18, 2, a.hopsTime⟩, ⟨20, 1, a.live⟩, ⟨21, 1, if a.full then 1 else 0⟩,
      ⟨22, 2, a.ctx⟩, ⟨24, 2, a.lu⟩, ⟨26, 2, a.prog⟩, ⟨28, 2, p.missed⟩] }

/-- The body of CHAIN_ROLLCALL (Table TET-3). -/
def rollBody (m : Part) : List Chunk :=
  let r : RollCall := m.chain.rollcall.getD {
    ht := 0, epoch := m.chain.epoch, parts := m.chain.parts, master := m.chain.master.getD 0xFFFF, ring := ringCode m,
    advCtx := 0, advLu := 0, advProg := 0, entries := [] }
  { bytes := 32,
    fields := [
      ⟨0, 8, r.ht⟩, ⟨8, 4, r.epoch⟩, ⟨12, 2, r.parts⟩, ⟨14, 2, r.entries.length⟩, ⟨16, 2, r.master⟩, ⟨18, 1, r.ring⟩,
      ⟨20, 4, r.advCtx⟩, ⟨24, 4, r.advLu⟩, ⟨28, 4, r.advProg⟩] } :: r.entries.map (rollEntry r m)

/-- CHAIN_ROLLCALL takes effect. -/
def performRollcall : Perform := fun _ _ m =>
  let m := settleRoll m
  (m, some { status := stOk, chunks := rollBody m })

/-- CHAIN_ROLLCALL (R440). -/
def execChainRollcall (d : Desc) (s : State) : Host.Outcome State Fault Refusal :=
  s.run (accept d .chainRollcall (fun _ => stOk) performRollcall)

/-! ## Messages (R442) -/

/-- Write a message into the next slot of the message area, with EV_CHAIN_MSG; the status that its sender receives.
(DEDUCED, log 51) -/
def deliverMessage (src : Nat) (message : List Nat) (m : Part) : Part × Nat :=
  if m.chain.quarantined then (m, stQuarantined)
  else if m.regs.msgBase = 0 ∨ !m.hif.enable then (m, stAborted)
  else
    let n := m.chain.msgSeq
    let slot : MessageSlot := { slot := n % 64, src := src, seq := n, body := message }
    let m := writeHost (m.regs.msgBase + 1056 * (n % 64))
      (packFields 32 [⟨0, 2, src⟩, ⟨2, 2, message.length⟩, ⟨4, 4, n⟩] ++ message) m
    let m := { m with host := { m.host with slots := slot :: m.host.slots } }
    (raise 34 0x22 [⟨0, 2, src⟩, ⟨2, 2, message.length⟩, ⟨4, 1, n % 64⟩, ⟨8, 4, n⟩]
      (onChain (fun c => { c with msgSeq := (n + 1) % 2 ^ 32 }) m), stOk)

/-- A failed target of a CHAIN_SEND. (DEDUCED, log 51) -/
def failedPart (addr status : Nat) : Target := { kind := 4, status := status, id := addr, detail := 0 }

/-- What a CHAIN_SEND answers once every destination has acknowledged or failed. (DEDUCED, log 51) -/
def sendReply (single : Bool) (failed : List Target) : Reply :=
  match failed with
  | [] => { status := stOk }
  | f :: _ => if single then { status := f.status } else { status := stPartial, targets := failed }

/-- Send a message to each part of a list: the transfers that are out, and the targets that failed at once. (DEDUCED, log 51) -/
def sendTo (message : List Nat) : List Nat → List Nat → List Target → Part → List Nat × List Target × Part
  | [], waiting, failed, m => (waiting, failed, m)
  | a :: rest, waiting, failed, m =>
    let next (st : Nat) (m : Part) := sendTo message rest waiting (if st = stOk then failed else failed ++ [failedPart a st]) m
    if a = ownAddr m then
      let (m, st) := deliverMessage a message m
      next st m
    else if a < m.chain.parts ∧ joined (ownAddr m) a m then
      if (look a m.chain.peers).any Peer.quarantined then next stQuarantined m
      else sendTo message rest (waiting ++ [m.chain.nextSeq]) failed (send a (.message message) m)
    else next stAborted m

/-- CHAIN_SEND takes effect. (DEDUCED, log 51) -/
def performChainSend (dest : Nat) (message : List Nat) : Perform := fun d o m =>
  let targets := if dest = 0xFFFF then
      (List.range m.chain.parts).filter fun a => decide (a ≠ ownAddr m) && joined (ownAddr m) a m
    else [dest]
  let single := decide (dest ≠ 0xFFFF)
  let (waiting, failed, m) := sendTo message targets [] [] m
  if waiting.isEmpty then (m, some (sendReply single failed))
  else
    (onChain (fun c => { c with
      sends := c.sends ++ [{ desc := d, origin := o, waiting := waiting, failed := failed, single := single }] }) m, none)

/-- Checks of CHAIN_SEND. -/
def chainSendStatus (dest : Nat) (message : List Nat) (_ : Part) : Nat :=
  if message.isEmpty ∨ 1024 < message.length ∨ (1023 < dest ∧ dest ≠ 0xFFFF) then stBadParam else stOk

/-- CHAIN_SEND (R442). -/
def execChainSend (d : Desc) (dest : Nat) (message : List Nat) (s : State) : Host.Outcome State Fault Refusal :=
  s.run (accept d (.chainSend dest message)
    (chainSendStatus dest message)
    (performChainSend dest message))

/-- CHAIN_TRANSFER_ACK (R432): the destination acknowledges a transfer, which is released; a CHAIN_SEND completes with its last. -/
def execChainTransferAck (t seq : Nat) (status : Nat) (s : State) : Host.Outcome State Fault Refusal :=
  s.run (onTick t fun m =>
    match m.chain.transfers.find? fun x => decide (x.seq = seq) with
    | none => m
    | some x =>
      let note (c : ChainSend) : ChainSend :=
        if c.waiting.contains seq then
          { c with waiting := c.waiting.filter fun n => decide (n ≠ seq),
                   failed := if status = stOk then c.failed else c.failed ++ [failedPart x.dest status] }
        else c
      let noted := m.chain.sends.map note
      let m := onChain (fun c => { c with
        transfers := c.transfers.filter fun y => decide (y.seq ≠ seq), sends := noted.filter fun c => !c.waiting.isEmpty }) m
      (noted.filter fun c => c.waiting.isEmpty).foldl (fun m c =>
        finish c.desc c.origin 0x72 (sendReply c.single c.failed) m) m)

/-- CHAIN_MSG_DELIVERY (R442). -/
def execChainMsgDelivery (t src seq : Nat) (message : List Nat) (s : State) : Host.Outcome State Fault Refusal :=
  s.run (onTick t (receive src seq (deliverMessage src message)))

/-! ## What returns to the head, and records (R327, R346, R358, R432) -/

/-- The result block that a part has sent back. -/
def RemoteBlock.toBlock (opcode addr : Nat) (b : RemoteBlock) : ResultBlock :=
  { opcode := opcode, bytes := b.bytes, body := b.body, addr := addr,
    targets := b.targets.map fun (k, st, i, d) => { kind := k, status := st, id := i, detail := d } }

/-- Take the command that a returning completion belongs to out of those forwarded. -/
def takeForwarded (src tag opcode : Nat) : List (Nat × Desc × Nat) → Option Desc × List (Nat × Desc × Nat)
  | [] => (none, [])
  | f :: rest =>
    if f.1 = src ∧ f.2.1.tag = tag ∧ f.2.2 = opcode then (some f.2.1, rest)
    else
      let (d, l) := takeForwarded src tag opcode rest
      (d, f :: l)

/-- CHAIN_COMPLETION_ARRIVAL (R327): the completion goes to the ring that issued its command. -/
def execChainCompletionArrival (t src seq : Nat) (c : RemoteCompletion) (s : State) : Host.Outcome State Fault Refusal :=
  s.run (onTick t (receive src seq fun m =>
    match takeForwarded src c.tag c.opcode m.chain.forwarded with
    | (none, _) => (m, stOk)
    | (some d, rest) =>
      (postCompletion {
        ring := d.ring, tag := c.tag, opcode := c.opcode, status := c.status, execHt := c.execHt, result := c.result, src := src,
        trunc := c.truncated, block := c.block.map (RemoteBlock.toBlock c.opcode d.resAddr) }
        (onChain (fun x => { x with forwarded := rest }) m), stOk)))

/-- CHAIN_EVENT_ARRIVAL (R346): the event goes to the head's event ring. -/
def execChainEventArrival (t src seq : Nat) (e : RemoteEvent) (s : State) : Host.Outcome State Fault Refusal :=
  s.run (onTick t (receive src seq fun m =>
    if !isHead m then (m, stOk)
    else
      (postEvent {
        source := e.source, origin := e.origin, code := e.code, seq := e.seq, stamp := e.stamp, payload := e.payload } e.vector m,
       stOk)))

/-- A record for a remote flow's receiving end: staged under its own binding, or dropped at its limits (R358, R369). -/
def stageRemote (n : Nat) (r : RemoteRecord) (m : Part) : Part :=
  match flow n m with
  | none => m
  | some f =>
    if !f.bound ∨ f.source ≠ 65535 ∨ f.type ≠ r.type ∨ f.subtype ≠ r.subtype then m
    else if 2 ^ 26 < poolBytes f + charge r.length then dropRecord n 0 r.length m
    else if poolSize m < poolUsed m + charge r.length then dropRecord n 1 r.length m
    else
      let stamp : Int := (r.ht : Int) - m.clock.grid
      let x : Record := {
        flow := n, flags := orFlags r.flags (flagIf f.disc flagDiscontinuity), length := r.length, ht := r.ht, tau := stamp,
        seq := r.seq, type := r.type, subtype := r.subtype, origin := r.origin, count := r.count, chans := r.chans, plan := 0,
        items := [] }
      refreshTags (fixDelay n stamp (onFlow n (fun f => { f with staged := f.staged ++ [x], disc := false }) m))

/-- CHAIN_RECORD_ARRIVAL (R358, R432): duplicates are known by the record's seq. -/
def execChainRecordArrival (t src : Nat) (r : RemoteRecord) (s : State) : Host.Outcome State Fault Refusal :=
  s.run (onTick t fun m =>
    if m.chain.records.contains (src, r.flow, r.seq) ∨ m.chain.quarantined then m
    else stageRemote r.flow r (onChain (fun c => { c with records := (src, r.flow, r.seq) :: c.records }) m))

end Sys2Proof.Machine
end

