-- ==== Sys2Proof/Machine/Dram.lean ====
section
/-! DEFINITION. DRAM errors: lines corrected, lines lost by the region that owns them, pages retired (R371-R373). -/

namespace Sys2Proof.Machine

/-- Change the DRAM's record of errors. -/
def onDram (f : Dram → Dram) (m : Part) : Part := { m with dram := f m.dram }

/-- A read has corrected a line, which is rewritten; EV_DRAM_CORRECTED at most once per second (R371, Table FLW-6). -/
def correctLine (channel : Nat) (m : Part) : Part :=
  let m := onDram (fun d => { d with corrected := d.corrected + 1, correctedTotal := d.correctedTotal + 1 }) m
  if m.dram.correctedAt.all fun e => decide (e + ticksPerSecond ≤ m.clock.elapsed) then
    raise 69 0x35 [⟨0, 4, m.dram.corrected⟩, ⟨4, 4, m.dram.correctedTotal⟩, ⟨8, 1, channel⟩]
      (onDram (fun d => { d with corrected := 0, correctedAt := some m.clock.elapsed }) m)
  else m

/-- DRAM_CORRECTED (R371). -/
def execDramCorrected (t _line channel : Nat) (s : State) : Host.Outcome State Fault Refusal :=
  s.run (onTick t (correctLine channel))

/-- The flag of a record of which bytes are zeros: CONCEALED for PCM, otherwise ERASED. -/
def zeroFlag (type : Nat) : Nat := if type = 1 then flagConcealed else flagErased

/-- Bytes of the flow's oldest staged record are delivered as zeros (R372). -/
def zeroPayload (n first count : Nat) (m : Part) : Part :=
  onFlow n (fun f =>
    match f.staged with
    | [] => f
    | r :: rest =>
      { f with staged := { r with flags := orFlags r.flags (zeroFlag f.type), zeros := r.zeros ++ [(first, count)] } :: rest }) m

/-- The flow's oldest staged record is lost as under R369. A record lost from DRAM hits none of the limits that EV_FLOW_OVERFLOW names;
its event is EV_DRAM_UNCORRECTABLE. (DESIGN CHOICE / DEDUCED, log 44) -/
def loseHeader (n : Nat) (m : Part) : Part :=
  match (flow n m).bind fun f => f.staged.head? with
  | none => m
  | some r =>
    onFlow n (fun f => { f with dropped := f.dropped + 1, droppedBytes := f.droppedBytes + charge r.length, backlogged := false })
      (markLost n (unstage n m))

/-- A line of staging or time-shift is lost. (DESIGN CHOICE / DEDUCED, log 44) -/
def loseStaged (n : Nat) (l : LinePart) (m : Part) : Part :=
  match l with
  | .header => refreshTags (loseHeader n m)
  | .payload first count => zeroPayload n first count m

/-- The oldest group that a capture holds carries ERASED. -/
def eraseSpan : List CapSpan → List CapSpan
  | [] => []
  | s :: tl =>
    let first := { s with n := 1, flags := orFlags s.flags flagErased }
    if s.n ≤ 1 then { s with flags := orFlags s.flags flagErased } :: tl else first :: s.rest 1 :: tl

/-- A line of the capture region is lost: the record that carries it is staged, being filled, or still to be cut.
(DESIGN CHOICE / DEDUCED, log 44) -/
def loseCapture (n first count : Nat) (m : Part) : Part :=
  if (flow n m).any fun f => !f.staged.isEmpty then zeroPayload n first count m
  else
    let erase_ (c : Capture) : Capture :=
      if c.flow ≠ n then c
      else
        match c.opened with
        | some o => { c with opened := some { o with flags := orFlags o.flags flagErased } }
        | none => { c with spans := eraseSpan c.spans }
    { m with captures := m.captures.map erase_ }

/-- The members of a set return to SEEK; the reference keeps its place, for the others are aligned to it (R276).
(DESIGN CHOICE / DEDUCED, log 33) -/
def reseekSet (n : Nat) (m : Part) : Part :=
  match sourceSet n m with
  | none => m
  | some s =>
    (List.range s.members.length).foldl (fun m i =>
      if i ≠ s.reference ∧ (s.members[i]?).any (fun x => decide (x.state ≠ .idle)) then moveMember n i .seek .buffer m else m) m

/-- The head frame of a Kite session's queue is gone. (DESIGN CHOICE / DEDUCED, log 44) -/
def loseKiteFrame (n : Nat) (m : Part) : Part :=
  onSession n (fun x => { x with queue := x.queue.tail, tagged := false, eligible := x.eligible && decide (2 ≤ x.queue.length) }) m

/-- Entry `i` of the service database is gone, with REMOVE to its flows (R287). (DESIGN CHOICE / DEDUCED, log 44) -/
def loseDbEntry (i : Nat) (m : Part) : Part :=
  let db := m.service.db
  let ns := db.services.length
  let nf := db.freqs.length
  match db.services[i]?, db.freqs[i - ns]?, db.links[i - ns - nf]? with
  | some e, _, _ => dbItem (serviceBody opRemove e) (onDb (fun b => { b with services := b.services.eraseIdx i }) m)
  | none, some e, _ => dbItem (freqBody opRemove e) (onDb (fun b => { b with freqs := b.freqs.eraseIdx (i - ns) }) m)
  | none, none, some e => dbItem (linkBody opRemove e) (onDb (fun b => { b with links := b.links.eraseIdx (i - ns - nf) }) m)
  | none, none, none => m

/-- What a lost line does to the region that owns it (R372). A firmware line whose copies both fail asks for a reset.
(DESIGN CHOICE / DEDUCED, log 44) -/
def loseLine (o : DramOwner) (m : Part) : Part :=
  match o with
  | .firmware good =>
    if good then m
    else { m with dram := { m.dram with firmwareBad := true }, power := { m.power with resetAt := some m.clock.elapsed } }
  | .control session set entry =>
    let m := session.elim m fun n => loseKiteFrame n m
    let m := set.elim m fun n => reseekSet n m
    entry.elim m fun i => loseDbEntry i m
  | .staging n l => loseStaged n l m
  | .timeShift n l => loseStaged n l m
  | .capture n first count => loseCapture n first count m

/-- Code of an owner (Table FLW-6). -/
def DramOwner.code : DramOwner → Nat
  | .firmware _ => 0
  | .control _ _ _ => 1
  | .staging _ _ => 2
  | .timeShift _ _ => 3
  | .capture _ _ _ => 4

/-- The flow that a line belongs to, or 0xFFFF. -/
def DramOwner.flow : DramOwner → Nat
  | .firmware _ => 65535
  | .control _ _ _ => 65535
  | .staging n _ => n
  | .timeShift n _ => n
  | .capture n _ _ => n

/-- A page that yields an uncorrectable line twice is retired (R372). (DESIGN CHOICE / DEDUCED, log 44) -/
def hitPage (page : Nat) (m : Part) : Part :=
  onDram (fun d =>
    if d.retired.contains page then d
    else if d.pageHits.contains page then { d with retired := page :: d.retired, pageHits := d.pageHits.filter fun p => p != page }
    else { d with pageHits := page :: d.pageHits }) m

/-- DRAM_UNCORRECTABLE (R372, Table FLW-6): `line` is the byte address of the line. -/
def execDramUncorrectable (t line channel : Nat) (owner : Sys2Proof.DramOwner) (s : State) : Host.Outcome State Fault Refusal :=
  s.run (onTick t fun m =>
    let m := hitPage (line / 4096) (loseLine owner m)
    raise 69 0x36
      [⟨0, 8, line⟩, ⟨8, 1, channel⟩, ⟨9, 1, DramOwner.code owner⟩, ⟨10, 2, DramOwner.flow owner⟩, ⟨12, 2, m.dram.retired.length⟩] m)

end Sys2Proof.Machine
end

