-- ==== Sys2Proof/Machine/Plans.lean ====
section
/-! DEFINITION. Plans: PLAN_PREPARE, PLAN_COMMIT, PLAN_ABORT and the return of a switched tile (R85, R86, R337-R341). -/

namespace Sys2Proof.Machine

/-! ## Entries in the order in which a commit executes them (R338, R340) -/

/-- A plan entry is a CTX_CLOSE. -/
def isClose : PlanEntry → Bool
  | .ctxClose _ => true
  | _ => false

/-- Position of an entry: closes first, then the class order of Table HTM-4. -/
def entryOrder (e : PlanEntry) : Nat := if isClose e then 0 else (entryCmd e).elim 2 cmdOrder

/-- Put a numbered entry behind those of its own order. -/
def insertEntry (e : Nat × PlanEntry) : List (Nat × PlanEntry) → List (Nat × PlanEntry)
  | [] => [e]
  | f :: rest => if entryOrder f.2 ≤ entryOrder e.2 then f :: insertEntry e rest else e :: f :: rest

/-- A plan's entries, each with its place in the list, in the order of execution. -/
def commitOrder (l : List PlanEntry) : List (Nat × PlanEntry) :=
  (l.zipIdx.map fun e => (e.2, e.1)).foldl (fun acc e => insertEntry e acc) []

/-- What becomes of an entry: its place, its status, and for a TILE_PLAN whether the switch is a SEARCH. -/
structure EntryResult where
  index : Nat
  status : Nat
  search : Bool
deriving DecidableEq, Repr

/-- The target list, in list order. -/
def entryTargets (n : Nat) (l : List EntryResult) : List Target :=
  (List.range n).flatMap fun i => (l.filter fun r => decide (r.index = i)).map fun r =>
    { kind := 0, status := r.status, id := i, detail := if r.search then 1 else 0 }

/-! ## PLAN_PREPARE (R85, R337, R338) -/

/-- Two entries have a target in common that a lock covers (R339). -/
def sharesTarget (a b : PlanEntry) : Bool :=
  (entryCtxs a).any (fun c => (entryCtxs b).contains c) || (entryHalves a).any (fun h => (entryHalves b).contains h)
    || (entryTiles a).any fun t => (entryTiles b).contains t

/-- A target of the entry is locked by another prepared plan. -/
def entryLocked (e : PlanEntry) (m : Part) : Bool := m.plans.any fun p => p.2.entries.any fun f => sharesTarget e f

/-- Both halves of the tile are fenced. -/
def tileFenced (t : Nat) (m : Part) : Bool := isFenced (2 * t) m && isFenced (2 * t + 1) m

/-- The checks of an entry's own command, and of R85 for TILE_PLAN. (DEDUCED, log 27) -/
def entryStatus (e : PlanEntry) (m : Part) : Nat :=
  match e with
  | .tilePlan t p => firstStatus [(decide (tilesFitted m ≤ t ∨ 2 < p), stBadParam), (tileFenced t m, stFenced)]
  | .halfMode h mode input => modeStatus h mode input m
  | .leveller h p => setupStatus h (!levValid p) m
  | .antpwr h setting => antpwrStatus h setting m
  | .extGain h g => extGainStatus h g m
  | .ctxOpen p => openStatus false p m
  | .ctxWatch p => openStatus true p m
  | .ctxRetune p => retuneStatus p m
  | .ctxClose c => slotStatusOwned c m
  | .select p => selectStatus p m
  | .deselect p => deselectStatus p m
  | .coefSwap c x => coefSwapStatus c x m
  | .syncReset g s _ => resetStatus g 0 s m
  | .other _ => stUnsupported

/-- A descriptor for what executes within a plan. -/
def entryDesc : Desc :=
  { ring := 0, tag := 0, dest := 0, strict := false, res := false, resSize := 0, due := 0, clean := true, readable := true }

/-- An entry takes effect: the part it leaves and its status. The condition of R23 is not checked again (R340). -/
def performEntry (plan : Nat) (e : PlanEntry) (m : Part) : Part × Nat :=
  let run (p : Perform) : Part × Nat :=
    match p entryDesc .ring m with
    | (m, some r) => (m, r.status)
    | (m, none) => (m, stOk)
  match e with
  | .tilePlan t p =>
    if tileFenced t m then (m, stFenced)
    else (beginSwitch t (if entryStale t p m then .planSearch else .planFast) p (some plan) m, stOk)
  | .halfMode h mode input => if modeFenced h mode m then (m, stFenced) else run fun _ _ m => applyMode h mode input m
  | .leveller h p => if isFenced h m then (m, stFenced) else run (performLeveller h p)
  | .antpwr h setting => if isFenced h m then (m, stFenced) else run (performAntpwr h setting)
  | .extGain h g => if isFenced h m then (m, stFenced) else run (performExtGain h g)
  | .ctxOpen p => run (performOpen false p)
  | .ctxWatch p => run (performOpen true p)
  | .ctxRetune p => run (performRetune p)
  | .ctxClose c => run (performClose c)
  | .select p => run (performSelect p)
  | .deselect p => run (performDeselect p)
  | .coefSwap c x => run (performCoefSwap c x)
  | .syncReset g s phase => run (performReset none g s (ncoPhase phase))
  | .other _ => (m, stUnsupported)

/-- The part as validation sees it once an entry has executed. -/
def afterEntry (e : PlanEntry) (m : Part) : Part :=
  match e with
  | .tilePlan t p => onTile t (fun x => { x with plan := p }) m
  | _ => (performEntry 0 e m).1

/-- The load that the CTX_RETUNE entries of `l` free is available to an entry that names other contexts (R338): they count with the
parameters of the retune where those are the lighter. -/
def withFreed (e : PlanEntry) (l : List (Nat × PlanEntry)) (m : Part) : Part :=
  l.foldl (fun m f =>
    match f.2 with
    | .ctxRetune p =>
      let new := decodeCtx false p
      if (entryCtxs e).contains p.ctx ∨ !ctxValid false p then m
      else onCtx p.ctx (fun x => if loadOf new < loadOf x.cfg then { x with cfg := new } else x) m
    | _ => m) m

/-- The contexts that a plan closes. -/
def closedBy (l : List PlanEntry) : List Nat := l.flatMap fun e => if isClose e then entryCtxs e else []

/-- The status of an entry in validation: `before` is the part as the entries before it have left it, `later` those still to come.
(DEDUCED, log 27) -/
def validEntry (closes : List Nat) (e : PlanEntry) (later : List (Nat × PlanEntry)) (before : Part) : Nat :=
  let own := entryStatus e before
  let own := if own = stNoCapacity then entryStatus e (withFreed e later before) else own
  firstStatus [
    (!isClose e && (entryCtxs e).any (fun c => closes.contains c), stBadParam),
    (decide (own ≠ stOk), own),
    (entryLocked e before, stBusy)]

/-- Validate entries in order, each as if those before it had executed (R338). -/
def validate (closes : List Nat) : List (Nat × PlanEntry) → Part → List EntryResult
  | [], _ => []
  | (i, e) :: rest, m =>
    let st := validEntry closes e rest m
    let search := match e with
      | .tilePlan t p => decide (st = stOk) && entryStale t p m
      | _ => false
    { index := i, status := st, search := search } :: validate closes rest (if st = stOk then afterEntry e m else m)

/-- The tiles whose switch is a SEARCH, as a mask. -/
def searchMask (entries : List PlanEntry) (l : List EntryResult) : Nat :=
  let search (t : Nat) : Bool := l.any fun r => r.search && (entries[r.index]?).any fun e => (entryTiles e).contains t
  ((List.range 8).map fun t => if search t then 2 ^ t else 0).sum

/-- The shadow registers of a tile take what a TILE_PLAN entry names (R85). -/
def loadShadow (plan : Nat) (e : PlanEntry) (m : Part) : Part :=
  match e with
  | .tilePlan t p => onTile t (fun x =>
      let e := x.memory.getD p {}
      { x with shadow := some { plan := p, band := e.band, preset := e.preset, by_ := plan } }) m
  | _ => m

/-- Checks of PLAN_PREPARE. -/
def planPrepareStatus (plan : Nat) (entries : List PlanEntry) (m : Part) : Nat :=
  firstStatus [
    (decide (15 < plan) || entries.isEmpty || decide (256 < entries.length), stBadParam), (has plan m.plans, stBusy)]

/-- PLAN_PREPARE takes effect: every entry passes and the plan is PREPARED, or nothing is booked (R338). -/
def performPrepare (plan : Nat) (entries : List PlanEntry) : Perform := fun _ _ m =>
  let l := validate (closedBy entries) (commitOrder entries) m
  let targets := entryTargets entries.length l
  if l.all fun r => decide (r.status = stOk) then
    (entries.foldl (fun m e => loadShadow plan e m) { m with plans := put plan { entries := entries } m.plans },
      some { status := stOk, result := searchMask entries l, targets := targets })
  else (m, some { status := stPrepareFail, targets := targets })

/-- PLAN_PREPARE (R338). -/
def execPlanPrepare (d : Desc) (plan : Nat) (entries : List PlanEntry) (s : State) : Host.Outcome State Fault Refusal :=
  s.run (accept d (.planPrepare plan entries) (planPrepareStatus plan entries) (performPrepare plan entries))

/-! ## PLAN_COMMIT (R340, R341) -/

/-- A commit of the plan is pending. -/
def commitPending (plan : Nat) (m : Part) : Bool := m.sched.queue.any fun a => decide (a.cmd = .planCommit plan)

/-- Checks of PLAN_COMMIT. -/
def planCommitStatus (plan : Nat) (m : Part) : Nat :=
  firstStatus [(!has plan m.plans, stBadParam), (commitPending plan m, stBusy)]

/-- The entries execute in order. -/
def runEntries (plan : Nat) : List (Nat × PlanEntry) → Part → List EntryResult × Part
  | [], m => ([], m)
  | (i, e) :: rest, m =>
    let search := match e with
      | .tilePlan t p => !tileFenced t m && entryStale t p m
      | _ => false
    let (m, st) := performEntry plan e m
    let (l, m) := runEntries plan rest m
    ({ index := i, status := st, search := search } :: l, m)

/-- The status of a list of results: ST_OK when all succeed, the shared status when all fail alike, else ST_PARTIAL. -/
def listStatus (l : List Nat) : Nat :=
  match l with
  | [] => stOk
  | st :: rest => if rest.all fun s => decide (s = st) then st else stPartial

/-- The plan's number, bookings and locks are free. -/
def releasePlan (plan : Nat) (m : Part) : Part := { m with plans := erase plan m.plans }

/-- A plan is gone: its tiles' shadow registers are no longer in use either. -/
def dropPlan (plan : Nat) (m : Part) : Part :=
  { releasePlan plan m with
    tiles := m.tiles.map fun x => if x.shadow.any fun s => decide (s.by_ = plan) then { x with shadow := none } else x }

/-- The affected contexts are in HOLD until the last of the tiles returns; with no tile switched their records break at once.
(DESIGN CHOICE / DEDUCED, log 18) -/
def holdPlan (plan : Nat) (tiles ctxs : List Nat) (m : Part) : Part :=
  if tiles.isEmpty then ctxs.foldl (fun m c => breakCtx c (flushUp c m)) m
  else
    let m := { m with planHolds := m.planHolds ++ [{ plan := plan, tiles := tiles, ctxs := ctxs }] }
    ctxs.foldl (fun m c => holdCtx .plan causeTile c (fadeOut c m)) m

/-- The tiles that the entries of a plan have put into a switch. -/
def switchedTiles (plan : Nat) (entries : List PlanEntry) (m : Part) : List Nat :=
  ((entries.flatMap entryTiles).filter fun t => (tile t m).switch.any fun w => decide (w.byPlan = some plan ∧ w.start = m.clock.elapsed)).dedup

/-- PLAN_COMMIT takes effect on tick T (R340). (DEDUCED, log 27) -/
def performCommit (plan : Nat) : Perform := fun _ _ m =>
  match look plan m.plans with
  | none => (m, reply stBadParam)
  | some p =>
    let (l, m) := runEntries plan (commitOrder p.entries) (releasePlan plan m)
    let m := dropPlan plan m
    let tiles := switchedTiles plan p.entries m
    let ctxs := ((p.entries.flatMap entryCtxs) ++ tiles.flatMap fun t => ctxsOfTile t m).dedup.filter fun c => has c m.ctxs
    let m := holdPlan plan tiles ctxs m
    (m, some { status := listStatus (l.map EntryResult.status), targets := entryTargets p.entries.length l })

/-- PLAN_COMMIT (R340). -/
def execPlanCommit (d : Desc) (plan : Nat) (s : State) : Host.Outcome State Fault Refusal :=
  s.run (accept d (.planCommit plan) (planCommitStatus plan) (performCommit plan))

/-! ## PLAN_ABORT (R341) -/

/-- PLAN_ABORT takes effect: a pending commit is withdrawn (R57). -/
def performAbort (plan : Nat) : Perform := fun _ _ m =>
  (tidyPins (dropPlan plan (withdraw (fun a => decide (a.cmd = .planCommit plan)) stAborted m)), reply stOk)

/-- Checks of PLAN_ABORT. -/
def planAbortStatus (plan : Nat) (m : Part) : Nat := if has plan m.plans then stOk else stBadParam

/-- PLAN_ABORT (R341). -/
def execPlanAbort (d : Desc) (plan : Nat) (s : State) : Host.Outcome State Fault Refusal :=
  s.run (accept d (.planAbort plan) (planAbortStatus plan) (performAbort plan))

/-! ## The return of a tile (R86) -/

/-- TILE_SWITCH_RETURN (R86, R90, R81): the TSYN has declared lock, which takes n_tsyn cycles of the HT clock, four to a tick (R72); the
tile returns on the tick after it at the earliest. (DESIGN CHOICE / DEDUCED, log 18) -/
def execTileSwitchReturn (t tile : Nat) (s : State) : Host.Outcome State Fault Refusal :=
  s.runIf (decide (tile < tilesFitted s.part)) (onTick t fun m =>
    match (m.tiles.getD tile {}).switch with
    | none => m
    | some sw => if sw.start + ceilDiv m.spll.nTsyn 4 < m.clock.elapsed then returnTile tile sw m else m)

end Sys2Proof.Machine
end

