-- ==== Sys2Proof/Machine/Power.lean ====
section
/-! DEFINITION. Power, resets, boot and bring-up: VIN, BRACE, temperatures, the reset scopes, the Oasis, firmware, REDUCED and
FULL, tile resets (R445-R468). -/

namespace Sys2Proof.Machine

/-- Change the power state. -/
def onPower (f : Power → Power) (m : Part) : Part := { m with power := f m.power }

/-- Change the boot progress. -/
def onBoot (f : Boot → Boot) (m : Part) : Part := { m with boot := f m.boot }

/-- The boot reaches a stage of GEN_BOOT. -/
def enterStage (n : Nat) (m : Part) : Part := onBoot (fun b => { b with stage := n, since := m.clock.elapsed }) m

/-- A VIN sample, in mV. (DESIGN CHOICE, log 62) -/
def sampleVin (v : Nat) (m : Part) : Part :=
  onPower (fun p => { p with vin := v, vinMin := min p.vinMin v, bootMin := min p.bootMin v }) m

/-- ALERT_N is asserted (R467). -/
def alertAsserted (m : Part) : Bool :=
  m.power.sensors.any (fun s => decide (s.level = .critical)) || m.power.resetAt.isSome || m.boot.noImage
    || decide (m.boot.stage = 15) || m.power.brace.isSome

/-- The scrubber reads lines (R371, Table PWR-4): not in BRACE, nor while the Gondola throttles. -/
def scrubbing (m : Part) : Bool :=
  m.power.brace.isNone && (match (m.power.sensors.getD 16 {}).level with
    | .normal => true
    | .warm => true
    | _ => false)

/-- A half's iteration pool, in bit/s: halved while the half throttles (R191, Table PWR-4). -/
def poolRate (h : Nat) (m : Part) : Nat :=
  match (m.power.sensors.getD h {}).level with
  | .normal => 24000000
  | .warm => 24000000
  | _ => 12000000

abbrev pmuVinOv : Nat := 0
abbrev pmuVinLow : Nat := 1
abbrev pmuRailUv : Nat := 2
abbrev pmuRailOc : Nat := 3
abbrev pmuWatchdog : Nat := 4
abbrev pmuFwCorrupt : Nat := 5

/-- EV_PMU_FAULT (R448, Table PWR-10). (DEDUCED, log 53) -/
def pmuFault (f : PmuFault) (m : Part) : Part :=
  raise 18 0x12 [⟨0, 1, f.cause⟩, ⟨1, 1, f.group⟩, ⟨2, 2, f.value⟩, ⟨4, 8, f.ht⟩] m

/-- EV_PART_STATUS (Table PWR-10). -/
def partStatus (mask tile : Nat) (m : Part) : Part :=
  raise 19 0x13
    [⟨0, 1, if m.ident.full then 1 else 0⟩, ⟨1, 1, m.boot.source⟩, ⟨2, 1, m.oasis.resetCause⟩, ⟨3, 1, if m.boot.fallback then 1 else 0⟩,
     ⟨4, 1, m.ident.fw.major⟩, ⟨5, 1, m.ident.fw.minor⟩, ⟨6, 2, m.ident.fw.patch⟩, ⟨8, 2, mask⟩, ⟨10, 1, tile⟩,
     ⟨12, 4, (m.clock.elapsed - m.boot.released) / 24576⟩] m

/-! ## Resets (R446-R448, R452-R456) -/

/-- The part after a reset of scope SYSTEM: everything but the Oasis, the fuses, flash, host memory and the supply starts afresh, with the
address and identity that the Oasis holds; the SPLL starts in QUALIFY or FREE from CLK_BOOT_SRC, and HT waits for the boot (R44, R76, R452,
R456, R476). -/
def freshPart (o : Oasis) (m : Part) : Part :=
  let source := sourceOf (bitsOf o.bootSrc 0 2)
  let ref := bitsOf o.bootSrc 2 2
  { ({} : Part) with
    ident := { m.ident with fw := {}, full := false }
    clock := { ({} : Clock) with ht := m.clock.ht, source := source, state := if source = .free then .free else .coast }
    spll := { ({} : Spll) with
      state := if source = .free then .free else .qualify, refAuto := decide (ref = 0), ref25 := decide (ref = 2), boot := o.bootSrc }
    chain := { ({} : Chain) with
      addr := o.addr, chainId := o.chainId, master := if source = .loc then some (o.addr.getD 0) else none }
    dram := { ({} : Dram) with installed := m.dram.installed, pageHits := m.dram.pageHits, retired := m.dram.retired }
    power := { ({} : Power) with vin := m.power.vin, vinMin := m.power.vinMin, bootMin := m.power.vin }
    oasis := o
    flash := { m.flash with staging := none }
    sec := { ({} : Sec) with rollback := m.sec.rollback }
    host := m.host
    free := m.free }

/-- Reset sources in the order of Table PWR-6. -/
abbrev srcVin : Nat := 0
abbrev srcPorst : Nat := 2
abbrev srcFault : Nat := 3
abbrev srcWatchdog : Nat := 4
abbrev srcFirmware : Nat := 5

/-- A reset of scope SYSTEM: the Oasis stores the HT and the reset record before it takes effect (R45, R453). -/
def systemReset (cause item : Nat) (fault : Option PmuFault) (m : Part) : Part :=
  let o := { m.oasis with
    lastHt := some m.clock.ht, lastAt := 0, resetCause := cause, resetItem := item, resetHt := m.clock.ht,
    resetVin := m.power.bootMin, resetFault := fault }
  freshPart o m

/-- The main rails are off: the DRAM forgets its retired pages, the Tether ports source nothing (R425, R446, R447).
(DEDUCED, log 55) -/
def railsOff (m : Part) : Part :=
  let off (l : TetherLink) : TetherLink := { l with up := false, dcOn := false }
  { m with
    power := { m.power with railsUp := false, groups := true :: List.replicate 11 false }
    chain := { m.chain with up := off m.chain.up, down := off m.chain.down }
    dram := { m.dram with pageHits := [], retired := [] } }

/-- Power-on sequencing has run: the rails are up and the boot ROM runs (R447). -/
def railsOn (v : Nat) (m : Part) : Part :=
  let on (l : TetherLink) : TetherLink := { l with dcOn := !l.dcFault }
  { m with
    power := { m.power with railsUp := true, groups := groupsUp 0, vin := v, vinMin := v, bootMin := v }
    chain := { m.chain with up := on m.chain.up, down := on m.chain.down }
    boot := { m.boot with released := m.clock.elapsed, since := m.clock.elapsed } }

/-- A reset of scope POWER: the Oasis loses its contents too (R453, R456). -/
def powerOff (m : Part) : Part :=
  let m := railsOff (freshPart {} m)
  { m with clock := {}, power := { m.power with vin := 0, vinMin := 0, bootMin := 0, groups := List.replicate 12 false } }

/-- VIN_START (R446, R447): VIN above 10.8 V for 5 ms begins power-on sequencing. -/
def execVinStart (t vin : Nat) (s : State) : Host.Outcome State Fault Refusal :=
  s.run (onTick t fun m =>
    if m.power.railsUp ∨ m.power.overVoltage ∨ m.power.hot ∨ vin < 10800 then m else railsOn vin m)

/-- VIN_RESET (R446, R453): VIN below 9.6 V for 2 µs. With a DC pair the Oasis lives on. (DEDUCED, log 53) -/
def execVinReset (t vin : Nat) (dcPresent : Bool) (s : State) : Host.Outcome State Fault Refusal :=
  s.run (onTick t fun m =>
    if 9600 ≤ vin ∨ !m.power.railsUp then m
    else
      let m := sampleVin vin m
      if dcPresent then railsOff (systemReset srcVin 255 none m) else powerOff m)

/-- VIN_OVER_VOLTAGE (R446): above 14.5 V for 10 µs. -/
def execVinOverVoltage (t vin : Nat) (s : State) : Host.Outcome State Fault Refusal :=
  s.run (onTick t fun m =>
    if vin ≤ 14500 ∨ !m.power.railsUp then m
    else
      let fault : PmuFault := { cause := pmuVinOv, group := 255, value := vin, ht := m.clock.ht }
      onPower (fun p => { p with overVoltage := true }) (railsOff (systemReset srcFault 255 (some fault) (sampleVin vin m))))

/-- VIN_OVER_VOLTAGE_RELEASE (R446): below 13.8 V for 5 ms, then power-on sequencing. -/
def execVinOverVoltageRelease (t vin : Nat) (s : State) : Host.Outcome State Fault Refusal :=
  s.run (onTick t fun m =>
    if !m.power.overVoltage ∨ 13800 ≤ vin then m else railsOn vin (onPower (fun p => { p with overVoltage := false }) m))

/-- POWER_RESET (R453, R456): VIN and every DC pair absent. -/
def execPowerReset (t : Nat) (s : State) : Host.Outcome State Fault Refusal := s.run (onTick t powerOff)

/-- PORST_N (R453): held low, then released; the rails stay up. -/
def execPorstN (t : Nat) (s : State) : Host.Outcome State Fault Refusal :=
  s.run (onTick t fun m => if m.power.railsUp then systemReset srcPorst 255 none m else m)

/-- RAIL_TRIP (R448): the Oasis rail calls for nothing; a trip of the Gondola (with the Kite rails) or the DRAM resets the part, its event
following the next boot; a tile group goes, and its tile is fenced. (DEDUCED, log 53) -/
def execRailTrip (t group value : Nat) (overCurrent : Bool) (s : State) : Host.Outcome State Fault Refusal :=
  s.runIf (decide (group < 3 + tilesFitted s.part ∨ group = 11)) (onTick t fun m =>
    let fault : PmuFault :=
      { cause := if overCurrent then pmuRailOc else pmuRailUv, group := group, value := value, ht := m.clock.ht }
    if group = 0 then pmuFault fault m
    else if group = 1 ∨ group = 2 ∨ group = 11 then systemReset srcFault group (some fault) m
    else
      let m := onPower (fun p => { p with groups := p.groups.set group false }) m
      let m := onTile (group - 3) (fun x => { x with railOff := true, switch := none }) (pmuFault fault m)
      leavePlans (group - 3) (fenceTile (group - 3) fenceRail group m))

/-- A boot from flash fails when the watchdog expires before first light (R457). (DEDUCED, log 55) -/
def noteFailedBoot (m : Part) : Part :=
  if 5 ≤ m.boot.stage ∧ m.boot.stage < 8 ∧ m.boot.source ≤ 1 then
    { m with oasis := { m.oasis with failedBoots := m.oasis.failedBoots.modify m.boot.source fun n => min 2 (n + 1) } }
  else m

/-- WATCHDOG_EXPIRY (R453): control processor `cpu` has not served its watchdog for 500 ms. -/
def execWatchdogExpiry (t cpu : Nat) (s : State) : Host.Outcome State Fault Refusal :=
  s.run (onTick t fun m =>
    let fault : PmuFault := { cause := pmuWatchdog, group := 255, value := cpu, ht := m.clock.ht }
    systemReset srcWatchdog 255 (some fault) (noteFailedBoot m))

/-- FW_ACTIVATE_RESET (R459, R372): the requested reset is due. -/
def execFwActivateReset (t : Nat) (s : State) : Host.Outcome State Fault Refusal :=
  s.run (onTick t fun m =>
    if m.power.resetAt.any fun e => decide (e ≤ m.clock.elapsed) then
      let fault : PmuFault := { cause := pmuFwCorrupt, group := 255, value := 0, ht := m.clock.ht }
      systemReset srcFirmware 255 (if m.dram.firmwareBad then some fault else none) m
    else m)

/-- QUARANTINE_REBOOT (R458). (DEDUCED, log 55) -/
def execQuarantineReboot (t : Nat) (s : State) : Host.Outcome State Fault Refusal :=
  s.run (onTick t fun m =>
    if m.chain.quarantined && m.chain.rebootAt.any fun e => decide (e ≤ m.clock.elapsed) then
      systemReset srcFirmware 255 none { m with oasis := { m.oasis with rebootHt := some m.clock.ht } }
    else m)

/-- Accepted commands, plans and armed work go, without completions (R454). (DESIGN CHOICE / DEDUCED, log 54) -/
def forgetActions (m : Part) : Part :=
  { m with
    sched := {}, plans := [], planHolds := [], i2c := {}, calCommands := []
    service := { m.service with scans := [], actions := [] }
    syncin := { m.syncin with armed := [], pending := [], lost := [] }
    chain := { m.chain with sends := [], forwarded := [] }
    flash := { m.flash with staging := none }
    kiteCal := { m.kiteCal with command := none }
    kite := { m.kite with pending := none } }

/-- Flows, captures, sets, coefficient blocks and policies go (R454). (DESIGN CHOICE / DEDUCED, log 54) -/
def forgetFlows (m : Part) : Part :=
  { m with flows := [], captures := [], sets := [], blocks := [], service := { m.service with policies := [] } }

/-- Calibration policies return to their defaults (R454). (DESIGN CHOICE / DEDUCED, log 54) -/
def defaultPolicies (m : Part) : Part :=
  let fresh_ : HalfCal := {}
  { m with halves := m.halves.map fun x =>
      { x with cal := { x.cal with auto := fresh_.auto, deltaT := fresh_.deltaT, windows := fresh_.windows } } }

/-- What the host created goes, without completions (R454). (DESIGN CHOICE / DEDUCED, log 54) -/
def dropHostState (m : Part) : Part :=
  let m := forgetActions m
  let m := closeCtxs .closed causeCommand (m.ctxs.map (·.1)) m
  let m := forgetFlows (unbindAll (m.flows.map (·.1)) m)
  let m := (List.range 8).foldl (fun m p => onPort p (fun x => { x with start := none }) (stopPort p m)) m
  tidyPins (dropOrphans (defaultPolicies (kiteOff m)))

/-- HOST_RESET (R454): FLR, hot reset, link disable or PERST_N. On a part whose host interface is secondary only that interface is
reset. (DESIGN CHOICE / DEDUCED, log 54) -/
def execHostReset (t : Nat) (s : State) : Host.Outcome State Fault Refusal :=
  s.run (onTick t fun m =>
    let bare (m : Part) : Part := { m with hif := {}, regs := { m.regs with msgBase := 0 } }
    if isHead m then bare (dropHostState { m with hif := {} }) else bare m)

/-! ## BRACE (R449, R450) -/

/-- Every fitted half. -/
def allHalves (m : Part) : List Nat := List.range (halvesFitted m)

/-- BRACE_ENTRY (R449): VIN has been below the warning for 10 µs (246 ticks). -/
def execBraceEntry (t vin : Nat) (s : State) : Host.Outcome State Fault Refusal :=
  s.run (onTick t fun m =>
    if m.power.brace.isSome ∨ 100 * m.power.warn ≤ vin ∨ !m.power.railsUp then m
    else
      let m := sampleVin vin m
      let m := onPower (fun p => { p with brace := some {
        entered := m.clock.elapsed, qualify := m.clock.elapsed, since := (m.clock.elapsed : Int) - 246, vinMin := vin } }) m
      let m := raise 16 0x10 [⟨0, 1, 0⟩, ⟨4, 4, 0⟩, ⟨8, 2, vin⟩] m
      let m := abortKite txBrace m
      let m := (allHalves m).foldl (fun m h => freezeBands h (pauseRamp h (abandonRun h m))) m
      storeHt m)

/-- BRACE_EXIT (R450): VIN has stayed above the warning plus 200 mV for 1 ms. -/
def execBraceExit (t vin vinMin : Nat) (s : State) : Host.Outcome State Fault Refusal :=
  s.run (onTick t fun m =>
    match m.power.brace with
    | none => m
    | some b =>
      if vin ≤ 100 * m.power.warn + 200 ∨ m.clock.elapsed < b.qualify + 24576 then m
      else
        let low := min b.vinMin vinMin
        let m := sampleVin vin (sampleVin low m)
        let dip := (m.clock.elapsed : Int) - 24576 - b.since
        let m := onPower (fun p => { p with brace := none }) m
        let m := raise 16 0x10 [⟨0, 1, 1⟩, ⟨4, 4, roundDiv (1000 * dip) 24576⟩, ⟨8, 2, low⟩] m
        (allHalves m).foldl (fun m h => resumeHalf h m) m)

/-- BRACE_VIN_LOW (R450): 1 s in BRACE, once. -/
def execBraceVinLow (t : Nat) (s : State) : Host.Outcome State Fault Refusal :=
  s.run (onTick t fun m =>
    match m.power.brace with
    | none => m
    | some b =>
      if b.lowRaised ∨ m.clock.elapsed < b.entered + ticksPerSecond then m
      else
        pmuFault { cause := pmuVinLow, group := 255, value := m.power.vin, ht := m.clock.ht }
          (onPower (fun p => { p with brace := some { b with lowRaised := true } }) m))

/-! ## Temperatures (R131, R451) -/

/-- Tmax of the grade, in 0.25 °C (Table SCO-2). -/
def tmax (m : Part) : Int := if m.ident.gradeI then 420 else 400

/-- The threshold of a level, in 0.25 °C (Table PWR-4). (DESIGN CHOICE, log 62) -/
def threshold (l : ThermalLevel) (m : Part) : Int :=
  match l with
  | .normal => -400
  | .warm => tmax m - 40
  | .throttle => tmax m
  | .critical => tmax m + 40

/-- The code of a level. -/
def ThermalLevel.code : ThermalLevel → Nat
  | .normal => 0
  | .warm => 1
  | .throttle => 2
  | .critical => 3

/-- The level that a reading gives: one is entered at its threshold, and left 5 °C below it. -/
def levelAt (x : Sensor) (reading : Int) (m : Part) : ThermalLevel :=
  let stays (l : ThermalLevel) : Bool :=
    decide (threshold l m ≤ reading) || (decide (l.code ≤ x.level.code) && decide (threshold l m - 20 < reading))
  if stays .critical then .critical else if stays .throttle then .throttle else if stays .warm then .warm else .normal

/-- A sensor takes a reading; a change of level raises EV_THERMAL. (DESIGN CHOICE, log 62) -/
def readSensor (sensor : Nat) (reading : Int) (m : Part) : Part :=
  let x := m.power.sensors.getD sensor {}
  let level := levelAt x reading m
  let highest := max x.highest reading
  let m := onPower (fun p => { p with sensors := p.sensors.set sensor { reading := reading, highest := highest, level := level } }) m
  let m := if sensor < 16 then onHalf sensor (fun h => { h with temp := reading }) m else m
  if level = x.level then m
  else
    raise 17 0x11 [⟨0, 1, if sensor = 16 then 0xFE else sensor⟩, ⟨1, 1, level.code⟩, ⟨2, 2, reading⟩, ⟨4, 2, highest⟩] m

/-- TEMP_SENSOR_READ (R131, R144, R451): sensors 0 to 15 are halves, 16 the Gondola. A CRITICAL half is fenced, a CRITICAL Gondola resets
the part and keeps its rails off until it has cooled. -/
def execTempSensorRead (t sensor : Nat) (reading : Int) (s : State) : Host.Outcome State Fault Refusal :=
  s.runIf (decide (sensor < halvesFitted s.part ∨ sensor = 16)) (onTick t fun m =>
    if !m.power.railsUp then
      if sensor = 16 ∧ m.power.hot ∧ reading < threshold .warm m then
        railsOn m.power.vin (onPower (fun p => { p with hot := false }) m)
      else m
    else
      let m := readSensor sensor reading m
      let critical := decide ((m.power.sensors.getD sensor {}).level = .critical)
      if sensor = 16 then
        if critical then onPower (fun p => { p with hot := true }) (railsOff (systemReset srcFault 16 none m)) else judgeKite m
      else if critical then fenceHalf sensor fenceThermal 0 (wrapBits 32 reading) m
      else judgeDue sensor m)

/-! ## Boot (R44, R457-R463) -/

/-- A revision as one number in rising order. -/
def revRank (major minor patch : Nat) : Nat := major * 2 ^ 24 + minor * 2 ^ 16 + patch

/-- The rank of a revision word in the layout of GEN_FWREV. -/
def wordRank (w : Nat) : Nat := revRank (bitsOf w 0 8) (bitsOf w 8 8) (bitsOf w 16 16)

/-- An image's length is one that a slot or the boot ROM takes. -/
def lengthOk (bytes : Nat) : Bool := decide (1 ≤ bytes ∧ bytes ≤ 2 ^ 23)

/-- The boot ROM accepts the image (R457): its length, its signature, and no version below the rollback floor.
(DESIGN CHOICE, log 63) -/
def imageValid (i : ImageOffer) (m : Part) : Bool :=
  lengthOk i.bytes && i.signatureOk && decide (wordRank m.sec.rollback ≤ revRank i.major i.minor i.patch)

/-- A flash slot is skipped after two consecutive failed boots. (DESIGN CHOICE, log 7) -/
def slotUsable (k : Nat) (m : Part) : Bool := decide (m.oasis.failedBoots.getD k 0 < 2)

/-- The boot ROM comes to flash slot `k`: it is the preferred one, or that one is skipped or known to hold no valid image (R457). -/
def slotReached (k : Nat) (m : Part) : Bool :=
  let p := m.oasis.preferred
  !m.oasis.chainBoot && slotUsable k m
    && (decide (k = p) || !slotUsable p m || !((m.flash.images.getD p none).any fun i => imageValid i m))

/-- The source is one that the boot ROM can have come to (R457). -/
def sourceAllowed (src : Nat) (m : Part) : Bool :=
  match src with
  | 0 => slotReached 0 m
  | 1 => slotReached 1 m
  | 2 => decide (m.boot.stage = 3 ∧ m.sec.hbootState = 6)
  | 3 => m.oasis.chainBoot || decide (m.boot.stage = 3)
  | _ => false

/-- HT at boot: the last-known HT plus the time that the Oasis has counted, rounded up to a whole second; 0 without one (R44). -/
def bootHt (elapsedMs : Nat) (m : Part) : Nat :=
  match m.oasis.lastHt with
  | none => 0
  | some h =>
    let ms := if 2 ^ 32 - 1 ≤ elapsedMs then 2 ^ 32 else elapsedMs
    ceilDiv (h + 24576 * ms) ticksPerSecond * ticksPerSecond

/-- The TSYN of a tile fills its band memory (R84, R460). -/
def fillMemory (t : Nat) (m : Part) : Part :=
  let n := m.free
  let temp := tileTemp t m
  onTile t (fun x => { x with memory := (List.range 3).map fun i => { band := n + i, preset := n + i, temp := temp }, band := n + x.plan, preset := n + x.plan }) { m with free := n + 3 }

/-- Self-test fences what fails (R461). (DESIGN CHOICE, log 7) -/
def selfTest (b : BootOutcome) (m : Part) : Part :=
  let m := (b.failedHalves.filter fun h => decide (h < halvesFitted m)).foldl (fun m h => fenceHalf h fenceSelftest 0 0 m) m
  (b.failedTiles.filter fun t => decide (t < tilesFitted m)).foldl (fun m t => fenceTile t fenceSelftest 0 m) m

/-- The bring-up runs of a tile's halves, one after the other; each half owes its run until one has completed (R138, R143). -/
def placeBringUp (t : Nat) (m : Part) : Part :=
  let now := m.clock.elapsed
  let m := onCal (2 * t) (fun c => { c with bringUpOwed := true }) (onCal (2 * t + 1) (fun c => { c with bringUpOwed := true }) m)
  let m := if isLive (2 * t) m then placeRun (2 * t) now .bringUp none m else m
  let second := if isLive (2 * t) m then now + 157288 else now
  if isLive (2 * t + 1) m then placeRun (2 * t + 1) second .bringUp none m else m

/-- The image starts (R44, R457, R460, R476): the revision, the rollback floor and the boot record are noted, HT starts, the SPLL starts
from the boot clock source, the tiles are tested and their synthesizers filled, and bring-up runs follow. A Gondola that fails stops the
boot. (DESIGN CHOICE, log 7) -/
def startImage (src : Nat) (b : BootOutcome) (m : Part) : Part :=
  let i := b.image
  let fallback := decide (src ≤ 1 ∧ src ≠ m.oasis.preferred)
  let m := { m with
    ident := { m.ident with fw := { major := i.major, minor := i.minor, patch := i.patch } }
    sec := { m.sec with rollback := if wordRank m.sec.rollback < wordRank i.floor then i.floor else m.sec.rollback }
    oasis := { m.oasis with slot := if src ≤ 1 then src else m.oasis.slot }
    clock := { m.clock with ht := bootHt b.elapsedMs m }
    power := { m.power with
      groups := groupsUp (tilesFitted m)
      sensors := (List.range 17).map fun k =>
        let r := b.temps.getD k 100
        { reading := r, highest := r, level := levelAt {} r m } } }
  let m := { m with halves := m.halves.zipIdx.map fun e => { e.1 with temp := b.temps.getD e.2 100 } }
  let m := onBoot (fun x => { x with source := src, fallback := fallback, noImage := false }) m
  if b.gondolaFail ≠ 0 then enterStage 15 (onBoot (fun x => { x with failBlock := b.gondolaFail }) m)
  else
    let m := { m with
      kiteCal := { m.kiteCal with
        running := some m.clock.elapsed, runCause := .bringUp, startHt := m.clock.ht, lastT := b.temps.getD 16 100 } }
    let m := refreshHt (selfTest b m)
    let m := (List.range (tilesFitted m)).foldl (fun m t => placeBringUp t (fillMemory t m)) m
    enterStage 7 m

/-- BOOT_IMAGE_SEARCH (R457): the boot ROM has looked at its sources and starts what it found; with no valid image it waits for the
host or the chain. (DESIGN CHOICE, log 7, DEDUCED, log 55) -/
def execBootImageSearch (t : Nat) (b : BootOutcome) (s : State) : Host.Outcome State Fault Refusal :=
  s.run (onTick t fun m =>
    if !m.power.railsUp ∨ (m.boot.stage ≠ 0 ∧ m.boot.stage ≠ 3) then m
    else
      match b.source with
      | none => if m.boot.stage = 0 then enterStage 3 m else m
      | some src => if sourceAllowed src m && imageValid b.image m then startImage src b m else m)

/-- BOOT_WAIT_TIMEOUT (R457): no valid image within 10 s; the boot ROM keeps waiting. (DEDUCED, log 55) -/
def execBootWaitTimeout (t : Nat) (s : State) : Host.Outcome State Fault Refusal :=
  s.run (onTick t fun m =>
    if m.power.railsUp ∧ m.boot.stage ≤ 3 ∧ m.boot.released + 10 * ticksPerSecond ≤ m.clock.elapsed then
      onBoot (fun b => { b with noImage := true }) m
    else m)

/-- CHAIN_BOOT_TIMEOUT (R458): the chain has offered no image within 2 s; the request is cleared, and the flash is next. -/
def execChainBootTimeout (t : Nat) (s : State) : Host.Outcome State Fault Refusal :=
  s.run (onTick t fun m =>
    if m.oasis.chainBoot ∧ m.boot.stage ≤ 3 ∧ m.boot.released + 2 * ticksPerSecond ≤ m.clock.elapsed then
      { m with oasis := { m.oasis with chainBoot := false } }
    else m)

/-- Every fitted half that self-test has not fenced has completed its bring-up run (R143). (DEDUCED, log 53) -/
def bringUpDone (m : Part) : Bool :=
  (List.range (halvesFitted m)).all fun h => !isLive h m || !(half h m).cal.bringUpOwed

/-- FIRST_LIGHT (R460, R448): the part is REDUCED; a fault that reset it is told of first. A boot that reaches first light is no failed one;
a chain boot has met its request. (DEDUCED, log 53) -/
def execFirstLight (t : Nat) (s : State) : Host.Outcome State Fault Refusal :=
  s.run (onTick t fun m =>
    if m.boot.stage ≠ 7 ∨ !bringUpDone m then m
    else
      let m := enterStage 8 m
      let m := { m with oasis := { m.oasis with
        failedBoots := if m.boot.source ≤ 1 then m.oasis.failedBoots.set m.boot.source 0 else m.oasis.failedBoots,
        chainBoot := m.oasis.chainBoot && decide (m.boot.source ≠ 3) } }
      let m := m.oasis.resetFault.elim m fun f => pmuFault f m
      partStatus 0 255 { m with oasis := { m.oasis with resetFault := none } })

/-- The conditions of FULL (R463). -/
def fullReady (m : Part) : Bool :=
  let cal := (allHalves m).all fun h => !isLive h m || decide (bgNow h m = .converged ∨ bgNow h m = .held)
  let tiles := (List.range (tilesFitted m)).all fun t =>
    (isFenced (2 * t) m && isFenced (2 * t + 1) m) || ((tile t m).switch.isNone && !(tile t m).inReset)
  let unqualified := decide (m.spll.state = .qualify) && !m.spll.everLocked
    && decide (m.boot.released + 86016000 ≤ m.clock.elapsed)
  cal && tiles && (decide (m.spll.state = .locked) && m.spll.everLocked || decide (m.clock.source = .free) || unqualified)

/-- PART_FULL (R463). -/
def execPartFull (t : Nat) (s : State) : Host.Outcome State Fault Refusal :=
  s.run (onTick t fun m =>
    if m.boot.stage = 8 ∧ fullReady m then partStatus 0 255 (enterStage 9 { m with ident := { m.ident with full := true } })
    else m)

/-! ## Firmware (R459) -/

/-- The flash slot that the part does not run from. -/
def spareSlot (m : Part) : Nat := if (if m.boot.source ≤ 1 then m.boot.source else m.oasis.slot) = 0 then 1 else 0

/-- FW_LOAD STAGE takes effect: the image is read and verified, and its programming begins; a bad one leaves the slot without a valid
image. -/
def performStage (i : ImageOffer) : Perform := fun d o m =>
  if m.flash.staging.isSome then (m, reply stBusy)
  else
    let m := { m with flash := { m.flash with images := m.flash.images.set (spareSlot m) none, staged := false } }
    if imageValid i m then ({ m with flash := { m.flash with staging := some (d, o, i) } }, none) else (m, reply stBadParam)

/-- Checks of FW_LOAD STAGE. -/
def stageStatus (length : Nat) (m : Part) : Nat :=
  if !lengthOk length then stBadParam else if m.flash.staging.isSome then stBusy else stOk

/-- FW_LOAD STAGE (R459). -/
def execFwLoadStage (d : Desc) (length : Nat) (image : ImageOffer) (s : State) : Host.Outcome State Fault Refusal :=
  s.run (accept d (.fwLoadStage length image)
    (stageStatus length)
    (performStage { image with bytes := length }))

/-- FW_LOAD_STAGE_DONE (R459): the slot has been read back; not in BRACE, where programming pauses (R449). (DEDUCED, log 55) -/
def execFwLoadStageDone (t : Nat) (verified : Bool) (s : State) : Host.Outcome State Fault Refusal :=
  s.run (onTick t fun m =>
    match if m.power.brace.isSome then none else m.flash.staging with
    | none => m
    | some (d, o, i) =>
      let k := spareSlot m
      let m := { m with flash := { m.flash with
        staging := none, staged := verified, images := m.flash.images.set k (if verified then some i else none) } }
      let m := if verified then { m with oasis := { m.oasis with failedBoots := m.oasis.failedBoots.set k 0 } } else m
      finish d o 0x7E { status := if verified then stOk else stBadParam } m)

/-- The checks of FW_LOAD ACTIVATE. -/
def activateStatus (m : Part) : Nat :=
  firstStatus [(m.flash.staging.isSome, stBusy), (!m.flash.staged, stBadParam)]

/-- FW_LOAD ACTIVATE takes effect: the staged slot is preferred, and the part resets 10 ms later. -/
def performActivate : Perform := fun _ _ m =>
  let k := spareSlot m
  ({ m with
    oasis := { m.oasis with preferred := k }
    flash := { m.flash with staged := false }
    power := { m.power with resetAt := some (m.clock.elapsed + 245760) } }, reply stOk)

/-- FW_LOAD ACTIVATE (R459). -/
def execFwLoadActivate (d : Desc) (s : State) : Host.Outcome State Fault Refusal :=
  s.run (accept d .fwLoadActivate activateStatus performActivate)

/-! ## Tile resets (R453, R465, R481) -/

/-- A half that has passed a tile reset: PARKED, as after a reset but for its CAL_POLICY, with its bring-up run done.
(DEDUCED, log 59) -/
def restoreHalf (h : Nat) (residual : Int) (m : Part) : Part :=
  let old := half h m
  let n := m.free
  let now := m.clock.elapsed
  let cal : HalfCal := {
    auto := old.cal.auto, deltaT := old.cal.deltaT, windows := old.cal.windows, corr := n, corrNew := n, corrDet := n, count := 1,
    lastHt := m.clock.ht, lastT := old.temp, residual := residual, cause := .bringUp, bg := .converging, bgSince := now }
  let m := onHalf h (fun _ => { mode := .parked, isoOpen := true, temp := old.temp, cal := cal, restored := true }) { m with free := n + 1 }
  raise (192 + h) 0x62
    [⟨0, 1, h⟩, ⟨2, 2, cal.lastT⟩, ⟨4, 4, cal.count⟩, ⟨8, 2, residual⟩, ⟨10, 1, CalCause.bringUp.code⟩, ⟨11, 1, (bgNow h m).code⟩] m

/-- A half that has failed a tile reset is fenced again. (DEDUCED, log 59) -/
def failHalf (h : Nat) (m : Part) : Part :=
  fenceHalf h fenceSelftest 0 0 (onHalf h (fun x => { x with mode := .parked, isoOpen := true }) m)

/-- TILE_RESET_DONE (R465): halves that pass return PARKED, those that fail are fenced again. -/
def execTileResetDone (t tile : Nat) (r : TileResetResult) (s : State) : Host.Outcome State Fault Refusal :=
  s.runIf (decide (tile < tilesFitted s.part)) (onTick t fun m =>
    if !(m.tiles.getD tile {}).inReset then m
    else
      let m := fillMemory tile (onTile tile (fun _ => {}) m)
      let m := if r.passA then restoreHalf (2 * tile) r.residualA m else failHalf (2 * tile) m
      let m := if r.passB then restoreHalf (2 * tile + 1) r.residualB m else failHalf (2 * tile + 1) m
      partStatus ((if r.passA then 1 else 0) + if r.passB then 2 else 0) tile m)

end Sys2Proof.Machine
end

