-- ==== Sys2Proof/Machine/Registers.lean ====
section
/-! DEFINITION. The set-up registers of BAR0: what a write does and what a read returns (R469-R482, R8, R314). -/

namespace Sys2Proof.Machine

/-- Change the record of refused writes and the scratch registers. -/
def onRegs (f : Regs → Regs) (m : Part) : Part := { m with regs := f m.regs }

/-- A write that R470 or R471 refuses: its offset is recorded (GEN_WERR). (DEDUCED, log 56) -/
def refuseWrite (off : Nat) (m : Part) : Part := onRegs (fun r => { r with werrOffset := off % 65536, werrValid := true }) m

/-- A write that takes effect only where every field is in its range (R471). -/
def inRange (ok : Bool) (off : Nat) (f : Part → Part) (m : Part) : Part := if ok then f m else refuseWrite off m

/-- A write to an RWL register outside the HIF block: none after the lock (R8, R482). (DEDUCED, log 56) -/
def unlessLocked (f : Part → Part) (m : Part) : Part := if m.hif.lock then m else f m

/-- A write to a ring, page, polling or vector register: none while the interface runs, none after the lock (R314, R482).
(DEDUCED, log 56) -/
def whileDisabled (f : Part → Part) (m : Part) : Part := if m.hif.enable ∨ m.hif.lock then m else f m

/-- The low (`hi` false) or high half of a 64-bit address register; bits [11:0] are reserved. -/
def setAddr (hi : Bool) (v old : Nat) : Nat :=
  if hi then old % 2 ^ 32 + v % 2 ^ 32 * 2 ^ 32 else old / 2 ^ 32 * 2 ^ 32 + v % 2 ^ 32 / 4096 * 4096

/-! ## Registers whose writes act at once -/

/-- HIF_CTRL (R472, R474, R482). -/
def writeCtrl (v : Nat) (m : Part) : Part :=
  let m := if v / 2 % 2 = 1 then { m with hif := { m.hif with lock := true } } else m
  if v % 2 = 1 then enableHif m else disableHif m

/-- PMU_VIN_WARN (R475): in BRACE the qualification of the exit restarts. -/
def writeWarn (off v : Nat) (m : Part) : Part :=
  let w := v % 256
  unlessLocked (inRange (decide (100 ≤ w ∧ w ≤ 118)) off (onPower fun p =>
    { p with warn := w, brace := p.brace.map fun b => { b with qualify := m.clock.elapsed } })) m

/-- TET_TIME_DISAGREE (R477): on the head the configuration epoch increments, and the value holds from the next roll call.
(DEDUCED, log 57) -/
def writeDisagree (off v : Nat) (m : Part) : Part :=
  let ns := v % 2 ^ 20
  inRange (decide (50 ≤ ns ∧ ns ≤ 1000000)) off (fun m =>
    let m := onRegs (fun r => { r with timeDisagree := ns }) m
    if isHead m then onChain (fun c => { c with epoch := (c.epoch + 1) % 2 ^ 32, applied := (c.epoch + 1) % 2 ^ 32 }) m else m) m

/-- An open Kite session uses the key slot (R479). -/
def keyInUse (slot : Nat) (m : Part) : Bool := m.kite.sessions.any fun s => decide (s.2.key = slot)

/-- SEC_KEY_CMD (R479): op 1 writes the data registers into the slot, op 2 empties it; the data registers are cleared whatever the
result. -/
def keyCommand (op slot : Nat) (m : Part) : Part :=
  let s := m.sec
  let result := if op ≠ 1 ∧ op ≠ 2 then 2 else if keyInUse slot m then 1 else 0
  let held := if result ≠ 0 then s.held else if op = 1 then put slot s.keyData s.held else erase slot s.held
  { m with sec := { s with keyData := [0, 0, 0, 0], held := held, result := result, slot := slot } }

/-- The state that an offered image brings SEC_HBOOT_STATUS to (R480, R457): refused for its length, its signature or the rollback floor, or
accepted. (DEDUCED, log 57) -/
def offerState (i : ImageOffer) (m : Part) : Nat :=
  if !lengthOk m.sec.hbootLen then 5
  else if !i.signatureOk then 3
  else if revRank i.major i.minor i.patch < wordRank m.sec.rollback then 4
  else 6

/-- SEC_HBOOT_GO (R480): only while the boot ROM waits at stage 3. (DEDUCED, log 57) -/
def offerImage (i : ImageOffer) (m : Part) : Part :=
  if m.boot.stage = 3 then { m with sec := { m.sec with hbootState := offerState i m } } else m

/-- The synthesizer of a lock test is fitted. (DEDUCED, log 57) -/
def testFitted (target : Nat) (m : Part) : Bool := decide (target = 0 ∨ target = 9 ∨ target ≤ tilesFitted m)

/-- DBG_LOCK_TEST (R481): a start while busy has no effect. (DEDUCED, log 57) -/
def startTest (target : Nat) (m : Part) : Part :=
  if m.dbg.busy.isSome ∨ !testFitted target m then m
  else { m with dbg := { m.dbg with busy := some m.clock.elapsed, target := target } }

/-- N of the phase-window rule of the synthesizer under test. -/
def testLength (m : Part) : Nat :=
  if m.dbg.target = 0 then m.spll.nSpll else if m.dbg.target = 9 then m.spll.nKsyn else m.spll.nTsyn

/-- A tile may be reset (R465): it is fitted, in no reset, and every half of it is FENCED or PARKED and holds no open context. -/
def tileResettable (t : Nat) (m : Part) : Bool :=
  decide (t < tilesFitted m) && !(tile t m).inReset && !isLive (2 * t) m && !isLive (2 * t + 1) m && (ctxsOfTile t m).isEmpty

/-- DBG_TILE_RESET (R465, R481): a refused request sets the tile's refused bit; one that is taken clears it.
(DEDUCED, log 57) -/
def requestTileReset (t : Nat) (m : Part) : Part :=
  if tileResettable t m then
    leavePlans t (onTile t (fun x => { x with inReset := true, switch := none })
      { m with dbg := { m.dbg with tileRefused := putBits m.dbg.tileRefused t 1 0 } })
  else { m with dbg := { m.dbg with tileRefused := putBits m.dbg.tileRefused t 1 1 } }

/-! ## Writes by offset -/

/-- GEN block. -/
def writeGen (off v : Nat) (m : Part) : Part :=
  if off = 0x10 then onRegs (fun r => { r with werrValid := r.werrValid && decide (v / 2 ^ 16 % 2 = 0) }) m
  else if off = 0x14 then onRegs (fun r => { r with scratch := v % 2 ^ 32 }) m
  else if off < 0x10 then m
  else refuseWrite off m

/-- A new value of a register of ring pair `n`, whose indices restart at the next enable if it changed (R474).
(DEDUCED, log 56) -/
def changePair (n : Nat) (f : Hif → Hif) (m : Part) : Part :=
  let h := f m.hif
  { m with hif :=
      { h with changed := if (h.cmdq != m.hif.cmdq || h.cplq != m.hif.cplq) && !h.changed.contains n then n :: h.changed else h.changed } }

/-- The ring registers of pair `n`, at offset `r` of the pair. (DEDUCED, log 56) -/
def writePair (n off r v : Nat) (m : Part) : Part :=
  let cmd (f : CmdRing → CmdRing) : Part → Part := changePair n fun h => { h with cmdq := h.cmdq.modify n f }
  let cpl (f : CplRing → CplRing) : Part → Part := changePair n fun h => { h with cplq := h.cplq.modify n f }
  if r = 0x00 ∨ r = 0x04 then whileDisabled (cmd fun q => { q with base := setAddr (decide (r = 0x04)) v q.base }) m
  else if r = 0x08 then
    whileDisabled (inRange (decide (v % 16 = 0 ∨ 4 ≤ v % 16 ∧ v % 16 ≤ 12)) off (cmd fun q => { q with log2 := v % 16 })) m
  else if r = 0x10 ∨ r = 0x14 then whileDisabled (cpl fun q => { q with base := setAddr (decide (r = 0x14)) v q.base }) m
  else if r = 0x18 then
    let log := v % 32
    let vec := v / 256 % 256
    whileDisabled (inRange (decide (4 ≤ log ∧ log ≤ 16 ∧ (vec ≤ 63 ∨ vec = 255))) off
      (cpl fun q => { q with log2 := log, vector := vec })) m
  else refuseWrite off m

/-- HIF block. -/
def writeHif (off v : Nat) (m : Part) : Part :=
  let hif (f : Hif → Hif) (m : Part) : Part := { m with hif := f m.hif }
  if off = 0x1000 then writeCtrl v m
  else if off = 0x1004 then m
  else if off = 0x1008 then
    whileDisabled (inRange (decide (1 ≤ v % 256 ∧ v % 256 ≤ 128)) off (hif fun h => { h with dbPoll := v % 256 })) m
  else if off = 0x100C then nudge m
  else if off = 0x1010 ∨ off = 0x1014 then whileDisabled (hif fun h => { h with dbPage := setAddr (decide (off = 0x1014)) v h.dbPage }) m
  else if off = 0x1018 ∨ off = 0x101C then
    whileDisabled (hif fun h => { h with shadowPage := setAddr (decide (off = 0x101C)) v h.shadowPage }) m
  else if off = 0x1020 ∨ off = 0x1024 then
    whileDisabled (hif fun h => { h with flqTable := setAddr (decide (off = 0x1024)) v h.flqTable }) m
  else if off = 0x1028 ∨ off = 0x102C then
    whileDisabled (hif fun h => { h with evq := { h.evq with base := setAddr (decide (off = 0x102C)) v h.evq.base } }) m
  else if off = 0x1030 then
    whileDisabled (inRange (decide (6 ≤ v % 32 ∧ v % 32 ≤ 16)) off (hif fun h => { h with evq := { h.evq with log2 := v % 32 } })) m
  else if 0x1040 ≤ off ∧ off < 0x10C0 then writePair ((off - 0x1040) / 32) off ((off - 0x1040) % 32) v m
  else refuseWrite off m

/-- PMU block. -/
def writePmu (off v : Nat) (m : Part) : Part :=
  if off = 0x2000 then writeWarn off v m
  else if off = 0x2004 ∨ off = 0x2008 ∨ 0x2100 ≤ off ∧ off ≤ 0x2140 then m
  else refuseWrite off m

/-- CLK block (R476). -/
def writeClk (off v : Nat) (m : Part) : Part :=
  if off = 0x3000 then
    unlessLocked (inRange (decide (v % 4 ≤ 2 ∧ v / 4 % 4 ≤ 2)) off fun m => { m with oasis := { m.oasis with bootSrc := v % 16 } }) m
  else if off = 0x3004 then m
  else refuseWrite off m

/-- TET block (R477). -/
def writeTet (off v : Nat) (m : Part) : Part :=
  if off = 0x4000 then unlessLocked (onRegs fun r => { r with chainId := v % 2 ^ 32 }) m
  else if off = 0x4004 then writeDisagree off v m
  else if off = 0x4008 ∨ off = 0x400C then onRegs (fun r => { r with msgBase := setAddr (decide (off = 0x400C)) v r.msgBase }) m
  else if off = 0x4010 then m
  else refuseWrite off m

/-- OAS block: every register is RO. -/
def writeOas (off : Nat) (m : Part) : Part :=
  if off ≤ 0x5024 ∨ 0x5800 ≤ off then m else refuseWrite off m

/-- SEC block (R479, R480). A write to SEC_HBOOT_GO by its offset makes the boot ROM read; what it finds is the row SEC_HBOOT_GO. -/
def writeSec (off v : Nat) (m : Part) : Part :=
  let sec (f : Sec → Sec) (m : Part) : Part := { m with sec := f m.sec }
  if off < 0x6010 then sec (fun s => { s with keyData := s.keyData.set ((off - 0x6000) / 4) (v % 2 ^ 32) }) m
  else if off = 0x6010 then keyCommand (v / 256 % 4) (v % 128) m
  else if off = 0x6014 ∨ 0x6020 ≤ off ∧ off < 0x6030 ∨ off = 0x6040 ∨ off = 0x6060 then m
  else if off = 0x6050 ∨ off = 0x6054 then sec (fun s => { s with hbootAddr := setAddr (decide (off = 0x6054)) v s.hbootAddr }) m
  else if off = 0x6058 then inRange (lengthOk (v % 2 ^ 24)) off (sec fun s => { s with hbootLen := v % 2 ^ 24 }) m
  else if off = 0x605C then if v % 2 = 1 ∧ m.boot.stage = 3 then sec (fun s => { s with hbootState := 2 }) m else m
  else refuseWrite off m

/-- DBG block (R481). -/
def writeDbg (off v : Nat) (m : Part) : Part :=
  if off = 0x7000 then inRange (decide (v % 16 ≤ 9)) off (if v / 16 % 2 = 1 then startTest (v % 16) else id) m
  else if off = 0x7004 then m
  else if off = 0x7010 then if v / 256 % 2 = 1 then requestTileReset (v % 8) m else m
  else if off = 0x7014 then
    let clear := v / 256 % 256
    { m with dbg := { m.dbg with tileRefused := m.dbg.tileRefused - (m.dbg.tileRefused &&& clear) } }
  else if 0x7100 ≤ off ∧ off < 0x7300 then m
  else refuseWrite off m

/-- The MSI-X table: address, data and mask of a vector; the pending-bit array is read-only (R350, R469). (PRESUMED, log 6) -/
def writeMsix (off v : Nat) (m : Part) : Part :=
  let n := (off - 0x8000) / 16
  let x := vector n m
  let w := v % 2 ^ 32
  match off % 16 with
  | 0 => setVector n { x with addr := x.addr / 2 ^ 32 * 2 ^ 32 + w / 4 * 4 } m
  | 4 => setVector n { x with addr := x.addr % 2 ^ 32 + w * 2 ^ 32 } m
  | 8 => setVector n { x with data := w } m
  | _ => setMask n (decide (w % 2 = 1)) m

/-- An aligned 32-bit write. (DEDUCED, log 56) -/
def write32 (off v : Nat) (m : Part) : Part :=
  if off < 0x1000 then writeGen off v m
  else if off < 0x2000 then writeHif off v m
  else if off < 0x3000 then writePmu off v m
  else if off < 0x4000 then writeClk off v m
  else if off < 0x5000 then writeTet off v m
  else if off < 0x6000 then writeOas off m
  else if off < 0x7000 then writeSec off v m
  else if off < 0x8000 then writeDbg off v m
  else if off < 0x8400 then writeMsix off v m
  else if 0x8800 ≤ off ∧ off < 0x8808 then m
  else refuseWrite off m

/-- A write to BAR0, its width in bytes (R470): aligned 32-bit and 64-bit writes are accepted, the second as its two halves; others have no
effect and are recorded. (DEDUCED, log 56) -/
def writeRegister (off width v : Nat) (m : Part) : Part :=
  if width = 4 ∧ off % 4 = 0 then write32 off v m
  else if width = 8 ∧ off % 8 = 0 then write32 (off + 4) (v / 2 ^ 32) (write32 off v m)
  else refuseWrite off m

/-- A register write reaches a part that has its main rails. -/
def registerRow (f : Part → Part) (m : Part) : Part := if m.power.railsUp then f m else m

/-- REGISTER_WRITE (R471). -/
def execRegisterWrite (t offset width value : Nat) (s : State) : Host.Outcome State Fault Refusal :=
  s.run (onTick t (registerRow (writeRegister offset width value)))

/-- PMU_VIN_WARN (R475). -/
def execPmuVinWarn (t value : Nat) (s : State) : Host.Outcome State Fault Refusal :=
  s.run (onTick t (registerRow (writeWarn 0x2000 value)))

/-- TET_TIME_DISAGREE (R477). -/
def execTetTimeDisagree (t value : Nat) (s : State) : Host.Outcome State Fault Refusal :=
  s.run (onTick t (registerRow (writeDisagree 0x4004 value)))

/-- SEC_KEY_CMD with op WRITE (R479). -/
def execSecKeyWrite (t slot : Nat) (s : State) : Host.Outcome State Fault Refusal :=
  s.run (onTick t (registerRow (keyCommand 1 (slot % 128))))

/-- SEC_KEY_CMD with op ERASE (R479). -/
def execSecKeyErase (t slot : Nat) (s : State) : Host.Outcome State Fault Refusal :=
  s.run (onTick t (registerRow (keyCommand 2 (slot % 128))))

/-- SEC_HBOOT_GO (R480). (DEDUCED, log 57) -/
def execSecHbootGo (t : Nat) (image : ImageOffer) (s : State) : Host.Outcome State Fault Refusal :=
  s.run (onTick t (registerRow (offerImage image)))

/-- DBG_LOCK_TEST (R481). -/
def execDbgLockTest (t target : Nat) (s : State) : Host.Outcome State Fault Refusal :=
  s.run (onTick t (registerRow (writeDbg 0x7000 (target % 16 + 16))))

/-- Ticks of the N cycles that the test runs for at least: of REFIN, or of the HT clock (R72, R481). -/
def testTicks (m : Part) : Nat := if m.dbg.target = 0 then refTicks (testLength m) m else ceilDiv (testLength m) 4

/-- DBG_LOCK_TEST_DONE (R481): the longest run of reference cycles inside the window, and whether it met the phase-window rule; not before
its N cycles. -/
def execDbgLockTestDone (t longest : Nat) (s : State) : Host.Outcome State Fault Refusal :=
  s.run (onTick t fun m =>
    if m.dbg.busy.all fun e => decide (m.clock.elapsed < e + testTicks m) then m
    else
      { m with dbg := { m.dbg with
          busy := none, longest := satBits 16 longest, pass := decide (testLength m ≤ longest) } })

/-- DBG_TILE_RESET (R465). -/
def execDbgTileReset (t tile : Nat) (s : State) : Host.Outcome State Fault Refusal :=
  s.run (onTick t (registerRow (requestTileReset (tile % 8))))

/-! ## Reads -/

/-- Bits of a word from values: `p i` at bit `i`, for `n` bits. -/
def bitMask (n : Nat) (p : Nat → Bool) : Nat := ((List.range n).map fun i => if p i then 2 ^ i else 0).sum

/-- One bit of a word. -/
def bitAt (i : Nat) (b : Bool) : Nat := if b then 2 ^ i else 0

/-- The rail group of a tile is up. -/
def tileUp (t : Nat) (m : Part) : Bool := m.power.groups.getD (3 + t) false && decide (t < tilesFitted m) && !(tile t m).railOff

/-- The TSYN of a tile is locked. -/
def tsynLocked (t : Nat) (m : Part) : Bool := tileUp t m && (tile t m).switch.isNone && !(tile t m).inReset

/-- Code of an SPLL state (CLK_STATUS). -/
def SpllState.code : SpllState → Nat
  | .qualify => 0
  | .acquire => 1
  | .relock => 2
  | .locked => 3
  | .holdover => 4
  | .free => 5

/-- ref_in_use: the reference that the SPLL is acquiring or holds. (DEDUCED, log 57) -/
def refInUse (m : Part) : Nat :=
  let using_ := match m.spll.state with
    | .acquire => true
    | .relock => true
    | .locked => true
    | _ => false
  if !using_ then 0 else if effSource m = .chain then 3 else if m.spll.ref25 then 2 else 1

/-- A little-endian word of an image. -/
def wordAt (img : List Byte) (off : Nat) : Nat :=
  img.getD off 0 + 256 * img.getD (off + 1) 0 + 65536 * img.getD (off + 2) 0 + 16777216 * img.getD (off + 3) 0

/-- The entry `e` of the Oasis log: the next one overwrites the oldest. -/
def logEntry (e : Nat) (m : Part) : Option Event := m.oasis.log[(m.oasis.logHead + 63 - e) % 64]?

/-- A 64-bit register's half. -/
def halfWord (v : Nat) (hi : Bool) : Nat := if hi then v / 2 ^ 32 % 2 ^ 32 else v % 2 ^ 32

/-- The revision word of GEN_FWREV. -/
def fwWord (f : Firmware) : Nat := f.major % 256 + 256 * (f.minor % 256) + 65536 * (f.patch % 65536)

/-- GEN block. (DESIGN CHOICE, log 58) -/
def readGen (off : Nat) (m : Part) : Nat :=
  if off = 0x00 then 0x2800 + 65536 * m.ident.variant.code + bitAt 24 m.ident.gradeI
  else if off = 0x04 then m.ident.siliconLetter + 256 * m.ident.siliconDigit
  else if off = 0x08 then fwWord m.ident.fw
  else if off = 0x0C then
    m.boot.stage + 16 * m.boot.source + 256 * m.boot.failBlock + 65536 * satBits 16 ((m.boot.since - m.boot.released) / 24576)
  else if off = 0x10 then m.regs.werrOffset + bitAt 16 m.regs.werrValid
  else if off = 0x14 then m.regs.scratch
  else 0

/-- HIF block. (DESIGN CHOICE, log 58) -/
def readHif (off : Nat) (m : Part) : Nat :=
  let h := m.hif
  if off = 0x1000 then bitAt 0 h.enable + bitAt 1 h.lock
  else if off = 0x1004 then bitAt 0 h.enable + bitAt 1 h.quiesced + 16 * h.cfgErr + 256 * h.errRing
  else if off = 0x1008 then h.dbPoll
  else if off = 0x1010 ∨ off = 0x1014 then halfWord h.dbPage (decide (off = 0x1014))
  else if off = 0x1018 ∨ off = 0x101C then halfWord h.shadowPage (decide (off = 0x101C))
  else if off = 0x1020 ∨ off = 0x1024 then halfWord h.flqTable (decide (off = 0x1024))
  else if off = 0x1028 ∨ off = 0x102C then halfWord h.evq.base (decide (off = 0x102C))
  else if off = 0x1030 then h.evq.log2
  else if 0x1040 ≤ off ∧ off < 0x10C0 then
    let q := h.cmdq.getD ((off - 0x1040) / 32) {}
    let r := h.cplq.getD ((off - 0x1040) / 32) {}
    match (off - 0x1040) % 32 with
    | 0x00 => halfWord q.base false
    | 0x04 => halfWord q.base true
    | 0x08 => q.log2
    | 0x10 => halfWord r.base false
    | 0x14 => halfWord r.base true
    | 0x18 => r.log2 + 256 * r.vector
    | _ => 0
  else 0

/-- PMU block. (DESIGN CHOICE, log 58) -/
def readPmu (off : Nat) (m : Part) : Nat :=
  let p := m.power
  if off = 0x2000 then p.warn
  else if off = 0x2004 then satBits 16 p.vin + 65536 * satBits 16 p.vinMin
  else if off = 0x2008 then
    bitAt 0 p.brace.isSome + bitAt 1 (alertAsserted m) + bitAt 2 (p.groups.getD 2 false) + 256 * bitMask 8 (fun t => tileUp t m)
      + 65536 * (p.sensors.map fun x => x.level.code).foldl max 0
  else if 0x2100 ≤ off ∧ off ≤ 0x2140 then
    let s := (off - 0x2100) / 4
    let x := p.sensors.getD s {}
    if s < 16 ∧ halvesFitted m ≤ s then 0x8000 else wrapBits 16 x.reading + 65536 * x.level.code
  else 0

/-- CLK block. `pps`: an edge was accepted within the last 1.001 s. (DESIGN CHOICE, log 58) -/
def readClk (off : Nat) (m : Part) : Nat :=
  if off = 0x3000 then m.oasis.bootSrc
  else if off = 0x3004 then
    m.spll.state.code + 8 * refInUse m
      + bitAt 5 (m.pps.accepted.any fun e => decide (1024 * m.clock.elapsed ≤ e + 1024 * 24600576))
      + bitAt 6 (ksynUp m) + 256 * bitMask 8 (fun t => tsynLocked t m)
  else 0

/-- TET block. (DESIGN CHOICE, log 58) -/
def readTet (off : Nat) (m : Part) : Nat :=
  let c := m.chain
  if off = 0x4000 then m.regs.chainId
  else if off = 0x4004 then m.regs.timeDisagree
  else if off = 0x4008 ∨ off = 0x400C then halfWord m.regs.msgBase (decide (off = 0x400C))
  else if off = 0x4010 then
    ownAddr m % 1024 + bitAt 10 c.addr.isSome + bitAt 11 (isHead m) + bitAt 12 c.up.up + bitAt 13 c.down.up
      + bitAt 14 c.up.dcOn + bitAt 15 c.down.dcOn + bitAt 16 c.ring
  else 0

/-- OAS block (R478). (DESIGN CHOICE, log 58) -/
def readOas (off : Nat) (m : Part) : Nat :=
  let o := m.oasis
  if off = 0x5000 then o.addr.getD 0 % 1024 + bitAt 10 o.addr.isSome
  else if off = 0x5004 then o.chainId
  else if off = 0x5008 ∨ off = 0x500C then halfWord (o.lastHt.getD 0) (decide (off = 0x500C))
  else if off = 0x5010 then if o.lastHt.isNone then 0xFFFFFFFF else satBits 32 ((m.clock.elapsed - o.lastAt) / 24576)
  else if off = 0x5014 then o.resetCause % 256 + 256 * (o.resetItem % 256) + 65536 * satBits 16 o.resetVin
  else if off = 0x5018 ∨ off = 0x501C then halfWord o.resetHt (decide (off = 0x501C))
  else if off = 0x5020 then
    o.preferred % 2 + 2 * (o.slot % 2) + 4 * min 2 (o.failedBoots.getD 0 0) + 16 * min 2 (o.failedBoots.getD 1 0) + bitAt 6 o.chainBoot
  else if off = 0x5024 then o.logHead % 64 + 256 * o.log.length
  else if 0x5800 ≤ off ∧ off < 0x6000 then (logEntry ((off - 0x5800) / 32) m).elim 0 fun e => wordAt (eventBytes e) ((off - 0x5800) % 32)
  else 0

/-- SEC block: WO registers read zero. (DESIGN CHOICE, log 58) -/
def readSec (off : Nat) (m : Part) : Nat :=
  let s := m.sec
  if off = 0x6014 then s.result + 256 * s.slot
  else if 0x6020 ≤ off ∧ off < 0x6030 then bitMask 32 fun b => has (8 * (off - 0x6020) + b) s.held
  else if off = 0x6040 then s.rollback
  else if off = 0x6050 ∨ off = 0x6054 then halfWord s.hbootAddr (decide (off = 0x6054))
  else if off = 0x6058 then s.hbootLen
  else if off = 0x6060 then s.hbootState
  else 0

/-- DBG block. (DESIGN CHOICE, log 58) -/
def readDbg (off : Nat) (m : Part) : Nat :=
  if off = 0x7004 then bitAt 0 m.dbg.busy.isSome + bitAt 1 m.dbg.pass + 65536 * m.dbg.longest
  else if off = 0x7014 then bitMask 8 (fun t => (tile t m).inReset) + 256 * m.dbg.tileRefused
  else if 0x7100 ≤ off ∧ off < 0x7300 then
    ((m.ports.getD ((off - 0x7100) / 64) {}).counters.getD ((off - 0x7100) % 64 / 4) 0)
  else 0

/-- The MSI-X table and pending-bit array. (PRESUMED, log 6, DESIGN CHOICE, log 58) -/
def readMsix (off : Nat) (m : Part) : Nat :=
  if off < 0x8400 then
    let x := vector ((off - 0x8000) / 16) m
    match off % 16 with
    | 0 => halfWord x.addr false
    | 4 => halfWord x.addr true
    | 8 => x.data
    | _ => bitAt 0 x.masked
  else if 0x8800 ≤ off ∧ off < 0x8808 then bitMask 32 fun b => (vector (8 * (off - 0x8800) + b) m).pba
  else 0

/-- The 32-bit word that a read of BAR0 returns; reserved offsets return zero (R470). (DESIGN CHOICE, log 58) -/
def read32 (off : Nat) (m : Part) : Nat :=
  if off < 0x1000 then readGen off m
  else if off < 0x2000 then readHif off m
  else if off < 0x3000 then readPmu off m
  else if off < 0x4000 then readClk off m
  else if off < 0x5000 then readTet off m
  else if off < 0x6000 then readOas off m
  else if off < 0x7000 then readSec off m
  else if off < 0x8000 then readDbg off m
  else readMsix off m

/-- The bytes that a read of `width` bytes returns (R470): a 64-bit register may be read as one, and any other width reads in the 32-bit
word that holds it. (DEDUCED, log 56) -/
def readRegister (off width : Nat) (m : Part) : List Byte :=
  if width = 8 ∧ off % 8 = 0 then leBytes 4 (read32 off m) ++ leBytes 4 (read32 (off + 4) m)
  else ((leBytes 4 (read32 (off / 4 * 4) m)).drop (off % 4)).take width

end Sys2Proof.Machine
end

