-- ==== Sys2Proof/Machine/Execute.lean ====
section
/-! DEFINITION. Execution: the command on the part that executes it, scheduled actions on their ticks, steps of HT, and commands
that come over the chain (R51, R56-R58, R60, R66, R67, R327, R437). -/

namespace Sys2Proof.Machine

/-! ## Every command's checks and effect -/

/-- The command's own checks, on the part that executes it (order 6 of Table HIF-5). -/
def checkCmd (d : Desc) (c : HostCmd) : Part → Nat :=
  match c with
  | .nop => fun _ => stOk
  | .identify => fun _ => stOk
  | .halfSetupMode h mode input => modeStatus h mode input
  | .halfSetupLeveller h p => setupStatus h (!levValid p)
  | .halfSetupAntpwr h setting => antpwrStatus h setting
  | .halfSetupExtGain h gain => extGainStatus h gain
  | .accGpio h p => gpioStatus h p
  | .accI2c h p => i2cStatus h p
  | .planPrepare plan entries => planPrepareStatus plan entries
  | .planCommit plan => planCommitStatus plan
  | .planAbort plan => planAbortStatus plan
  | .ctxOpen p => openStatus false p
  | .ctxRetune p => retuneStatus p
  | .ctxClose c => slotStatusOwned c
  | .ctxQuery c => slotStatus c
  | .ctxWatch p => openStatus true p
  | .coefLoad c count scale words => coefLoadStatus c count scale words
  | .coefSwap c xfade => coefSwapStatus c xfade
  | .syncArmJoin g c => joinStatus g c
  | .syncArmLeave c => syncCtxStatus c
  | .syncArmReset g syncout _ => resetStatus g 0 syncout
  | .armSyncin g every syncout _ => resetStatus g every syncout
  | .disarm g => fun _ => groupStatus g
  | .svcSelect p => selectStatus p
  | .svcDeselect p => deselectStatus p
  | .svcLinkCreate set l p => linkCreateStatus set l p
  | .svcLinkAdd set src => linkAddStatus set src
  | .svcLinkRemove set c sel => linkRemoveStatus set c sel
  | .svcLinkDelete set => linkDeleteStatus set
  | .svcLinkQuery set => linkQueryStatus set
  | .svcFollowSet p => followSetStatus p
  | .svcFollowClear set => followClearStatus set
  | .dbConfig age keep _ => dbConfigStatus age keep
  | .dbDump => fun _ => stOk
  | .scan p => scanStatus p
  | .flowCreate p => flowCreateStatus p
  | .flowBind n p => flowBindStatus n p
  | .flowShape n weight rate burst => flowShapeStatus n weight rate burst
  | .flowDelete n => flowExists n
  | .timeshiftSet n w delay => timeshiftAccept n w delay
  | .captureStart mask mode n bytes => captureStartStatus mask mode n bytes
  | .captureStop mask => maskStatus mask
  | .kiteConfig count b => kiteConfigStatus count b
  | .kiteSessionOpen n key _ ch => openSessionStatus sessionAfter n key ch
  | .kiteSessionClose n => sessionStatus sessionAfter n
  | .kiteSessionUpdate n key ch => updateStatus sessionAfter n key ch
  | .kiteSessionFlush n => sessionStatus sessionAfter n
  | .kiteSend n cls len _ => kiteSendStatus n cls len
  | .kiteBudget subBand cls rate burst => kiteBudgetStatus subBand cls rate burst
  | .audioPortConfig p => portConfigStatus p
  | .audioPortStart p => portStartStatus d p
  | .audioPortStop p => portStopStatus p
  | .calPolicy h auto deltaT ws => calPolicyStatus h auto deltaT ws
  | .calRun h => calRunStatus h
  | .clockConfig p => clockStatus p
  | .chainEnumerate _ _ => enumerateStatus
  | .chainRollcall => fun _ => stOk
  | .chainSend dest message => chainSendStatus dest message
  | .eventRouteSources first last toRing vec => routeSourcesStatus first last toRing vec
  | .eventRouteVector vec holdoff count => routeVectorStatus vec holdoff count
  | .fwLoadStage length _ => stageStatus length
  | .fwLoadActivate => activateStatus

/-- The command's effect. `order` is the acceptance order of a scheduled action, which names a CAL_RUN. -/
def performCmd (order : Option Nat) (c : HostCmd) : Perform :=
  match c with
  | .nop => performNop
  | .identify => performIdentify
  | .halfSetupMode h mode input => performMode h mode input
  | .halfSetupLeveller h p => performLeveller h p
  | .halfSetupAntpwr h setting => performAntpwr h setting
  | .halfSetupExtGain h gain => performExtGain h gain
  | .accGpio _ p => performGpio p
  | .accI2c _ p => performI2c p
  | .planPrepare plan entries => performPrepare plan entries
  | .planCommit plan => performCommit plan
  | .planAbort plan => performAbort plan
  | .ctxOpen p => performOpen false p
  | .ctxRetune p => performRetune p
  | .ctxClose c => performClose c
  | .ctxQuery c => performQuery c
  | .ctxWatch p => performOpen true p
  | .coefLoad c count scale words => performCoefLoad c count scale words
  | .coefSwap c xfade => performCoefSwap c xfade
  | .syncArmJoin g c => performGroup c (some g)
  | .syncArmLeave c => performGroup c none
  | .syncArmReset g syncout phase => performReset order g syncout (ncoPhase phase)
  | .armSyncin g every syncout phase => performArm g every syncout phase
  | .disarm g => performDisarm g
  | .svcSelect p => performSelect p
  | .svcDeselect p => performDeselect p
  | .svcLinkCreate set l p => performLinkCreate set l p
  | .svcLinkAdd set src => performLinkAdd set src
  | .svcLinkRemove set c sel => performLinkRemove set c sel
  | .svcLinkDelete set => performLinkDelete set
  | .svcLinkQuery set => performLinkQuery set
  | .svcFollowSet p => performFollowSet p
  | .svcFollowClear set => performFollowClear set
  | .dbConfig age keep mask => performDbConfig age keep mask
  | .dbDump => performDbDump
  | .scan p => performScan p
  | .flowCreate p => performFlowCreate p
  | .flowBind n p => performFlowBind n p
  | .flowShape n weight rate burst => performFlowShape n weight rate burst
  | .flowDelete n => performFlowDelete n
  | .timeshiftSet n w delay => performTimeshift n w delay
  | .captureStart mask mode n bytes => performCaptureStart mask mode n bytes
  | .captureStop mask => performCaptureStop mask
  | .kiteConfig count b => performKiteConfig count b
  | .kiteSessionOpen n key peer ch => performSessionOpen n key peer ch
  | .kiteSessionClose n => performSessionClose n
  | .kiteSessionUpdate n key ch => performSessionUpdate n key ch
  | .kiteSessionFlush n => performSessionFlush n
  | .kiteSend n cls len payload => performKiteSend n cls len payload
  | .kiteBudget subBand cls rate burst => performKiteBudget subBand cls rate burst
  | .audioPortConfig p => performPortConfig p
  | .audioPortStart p => performPortStart p
  | .audioPortStop p => performPortStop p
  | .calPolicy h auto deltaT ws => performCalPolicy h auto deltaT ws
  | .calRun h => performCalRun (order.getD 0) h
  | .clockConfig p => performClock p
  | .chainEnumerate options walk => performEnumerate options walk
  | .chainRollcall => performRollcall
  | .chainSend dest message => performChainSend dest message
  | .eventRouteSources first last toRing vec => performRouteSources first last toRing vec
  | .eventRouteVector vec holdoff count => performRouteVector vec holdoff count
  | .fwLoadStage length i => performStage { i with bytes := length }
  | .fwLoadActivate => performActivate

/-- The command's effect outside the queue. -/
def performAtOnce (c : HostCmd) : Perform :=
  match c with
  | .halfSetupLeveller h p => levellerNow h p
  | c => performCmd none c

/-! ## Scheduled actions (R51, R56-R58) -/

/-- `a` executes before `b`: the earlier tick, then the class order of Table HTM-4, then acceptance order (R58, R67). -/
def actionBefore (a b : Action) : Bool :=
  decide (a.due < b.due) || (decide (a.due = b.due) &&
    (decide (cmdOrder a.cmd < cmdOrder b.cmd) || (decide (cmdOrder a.cmd = cmdOrder b.cmd) && decide (a.order < b.order))))

/-- The first of several actions. -/
def firstAction : List Action → Option Action
  | [] => none
  | a :: rest =>
    match firstAction rest with
    | none => some a
    | some b => if actionBefore b a then some b else some a

/-- An action leaves the queue and executes; one that R56 moved, or that a step jumped over, is late. -/
def runAction (late : Bool) (a : Action) (m : Part) : Part :=
  let origin := if late || a.late then Origin.late a.origin else a.origin
  performNow a.desc origin a.cmd (performCmd (some a.order) a.cmd) (settleTx (keepQueue (fun b => decide (b.order ≠ a.order)) m))

/-- Execute the queued actions that are due, in order. An action that one before it has withdrawn does not execute.
(DESIGN CHOICE / DEDUCED, log 17) -/
def runDue (late : Bool) (p : Action → Part → Bool) : Nat → Part → Part
  | 0, m => m
  | fuel + 1, m =>
    match firstAction (m.sched.queue.filter fun a => p a m) with
    | none => m
    | some a => runDue late p fuel (runAction late a m)

/-- The internal actions of a class of Table HTM-4 that fall on this tick, after the queued ones of the class: the context actions of
following, the resets that SYNCIN edges have fixed, the closes of following (R54, R68). (DEDUCED, log 17) -/
def internalActions (cls : Nat) (m : Part) : Part :=
  match cls with
  | 3 => followActions (fun a => !a.closes) m
  | 5 => syncinResets m
  | 6 => followActions FollowAct.closes m
  | _ => m

/-- The actions of one class that are due execute: those of the queue, then the internal ones (R54, R58). -/
def runClass (m : Part) (cls : Nat) : Part :=
  internalActions cls
    (runDue false (fun a m => decide (a.due ≤ m.clock.ht) && decide (cmdOrder a.cmd ≤ cls)) m.sched.queue.length m)

/-- Every action of this tick executes up to class `cls` of Table HTM-4, in class order (R58); a pin asserted for a change that did not
take effect is released. -/
def runThrough (cls : Nat) (m : Part) : Part := tidyPins (((List.range cls).map (· + 1)).foldl runClass m)

/-- SCHEDULED_ACTION_EXECUTE (R51): every action whose tick has come, and after them the leveller steps of the tick. -/
def execScheduledActionExecute (t : Nat) (s : State) : Host.Outcome State Fault Refusal :=
  s.run (onTick t fun m => landSteps (runThrough 10 m))

/-- SYNCIN_RESET (R68): the resets that an edge fixed to this tick, in the place of the Reset class. -/
def execSyncinReset (t : Nat) (s : State) : Host.Outcome State Fault Refusal := s.run (onTick t (runThrough 5))

/-- FOLLOW_ACTION_EXECUTE (R296), in the place of the Context and Close classes. -/
def execFollowActionExecute (t : Nat) (s : State) : Host.Outcome State Fault Refusal := s.run (onTick t (runThrough 6))

/-- LEVELLER_STEP_LANDING (R115): the announced steps land, after every action of the tick (R58). -/
def execLevellerStepLanding (t half band : Nat) (s : State) : Host.Outcome State Fault Refusal :=
  s.runIf (decide (half < halvesFitted s.part) && decide (band < 3)) (onTick t fun m => landSteps (runThrough 10 m))

/-- CAL_RUN_START (R133, R134), after the actions of its tick up to the Calibration class. -/
def execCalRunStart (t half : Nat) (s : State) : Host.Outcome State Fault Refusal :=
  s.runIf (decide (half < halvesFitted s.part)) (onTick t fun m => startPlaced half (runThrough 7 m))

/-- KITE_CAL_RUN (R144), after the actions of its tick up to the Calibration class: a CAL_RUN's run waits only for the ramp-down of a frame
on air. -/
def execKiteCalRun (t : Nat) (s : State) : Host.Outcome State Fault Refusal :=
  s.run (onTick t fun m => runKite (settleTx (runThrough 7 m)))

/-- KITE_WINDOW_BOUNDARY (R387), after the actions of its tick (R58). -/
def execKiteWindowBoundary (t : Nat) (s : State) : Host.Outcome State Fault Refusal :=
  s.run (onTick t fun m => crossWindow (settleTx (runThrough 10 m)))

/-- KITE_DECISION (R392), after the actions of its tick (R58). -/
def execKiteDecision (t : Nat) (s : State) : Host.Outcome State Fault Refusal :=
  s.run (onTick t fun m => decideSlot (settleTx (runThrough 10 m)))

/-! ## Steps of HT (R60, R66, R67, R437) -/

/-- What follows a step of HT: the runs fixed for CAL_RUNs still queued are forgotten, the actions jumped over execute as late, in the
order of their ticks, the runs of those that are left are fixed afresh; the Kite superframe is cut. -/
def afterStep (m : Part) : Part :=
  let m := runDue true (fun a m => decide (a.due < m.clock.ht)) m.sched.queue.length (forgetRuns m)
  kiteStep (refixRuns m)

/-- A master tells its followers of its step (R437). -/
def noticeStep (before : Part) (m : Part) : Part :=
  if 1 < m.chain.parts ∧ m.clock.source = .loc ∧ m.chain.master = some (ownAddr m) then
    send 65535 (.notice ((m.clock.ht : Int) - before.clock.ht) m.clock.grid) m
  else m

/-- A step takes effect with all that follows from it. (DESIGN CHOICE / DEDUCED, log 17) -/
def stepNow (st : Step) (m : Part) : Part := afterStep (noticeStep m (applyStep st (settleTx m)))

/-- The step tick of a step that waits has come. -/
def Step.due (m : Part) (st : Step) : Bool := st.tick.any fun k => decide (k ≤ m.clock.ht)

/-- HT_STEP (R66): the first step that waits and whose step tick has come takes effect. (DESIGN CHOICE / DEDUCED, log 17) -/
def execHtStep (t : Nat) (s : State) : Host.Outcome State Fault Refusal :=
  s.run (onTick t fun m =>
    match m.clock.steps.find? (Step.due m) with
    | none => m
    | some st => stepNow st m)

/-- The step that a notice asks for: a running slew and an epoch set that waits are not the master's and stand.
(DESIGN CHOICE / DEDUCED, log 17) -/
def noticedStep (steps grid : Int) (m : Part) : Part :=
  let before := m.clock
  let st : Step := { tick := some m.clock.ht, steps := steps, rem := 0, epoch := none, grid := some grid }
  let m := applyStep st (settleTx m)
  afterStep { m with clock := { m.clock with
    slew := before.slew, phaseTerm := before.phaseTerm, steps := before.steps.filter fun x => x.epoch.isSome } }

/-- STEP_NOTICE (R437): a follower that does not hold the master's G yet steps with it. (DESIGN CHOICE / DEDUCED, log 17) -/
def execStepNotice (t : Nat) (steps grid : Int) (s : State) : Host.Outcome State Fault Refusal :=
  s.run (onTick t fun m =>
    if effSource m ≠ .chain ∨ !otherMaster m ∨ m.clock.grid = grid then m else noticedStep steps grid m)

/-! ## Commands over the chain (R327) -/

/-- A forwarded command is accepted here; a CAL_RUN's runs are fixed at its acceptance (R134). -/
def acceptRemote (src seq : Nat) (late : Bool) (d : Desc) (c : HostCmd) (m : Part) : Part :=
  let own := checkCmd (if late then { d with due := 0 } else d) c m
  fixAccepted m.sched.nextOrder (acceptHere d (.remote src seq) late c own (performAtOnce c) m)

/-- CHAIN_COMMAND_ARRIVAL (R327). -/
def execChainCommandArrival (t src seq : Nat) (late : Bool) (d : Desc) (c : HostCmd) (s : State) : Host.Outcome State Fault Refusal :=
  s.run (onTick t (receive src seq fun m => (acceptRemote src seq late d c m, stOk)))

end Sys2Proof.Machine
end

