-- ==== Sys2Proof/Machine/Dispatch.lean ====
section
/-! DEFINITION. Dispatch: one arm per command, one direct call of its meaning. -/

namespace Sys2Proof.Machine

/-- The effect of a command on everything but the queue. -/
def exec (i : Instr) (s : State) : Host.Outcome State Fault Refusal :=
  match i with
  | .nop d => Sys2Proof.Machine.execNop d s
  | .identify d => Sys2Proof.Machine.execIdentify d s
  | .halfSetupMode d half mode input => Sys2Proof.Machine.execHalfSetupMode d half mode input s
  | .halfSetupLeveller d half p => Sys2Proof.Machine.execHalfSetupLeveller d half p s
  | .halfSetupAntpwr d half setting => Sys2Proof.Machine.execHalfSetupAntpwr d half setting s
  | .halfSetupExtGain d half gain => Sys2Proof.Machine.execHalfSetupExtGain d half gain s
  | .accGpio d half p => Sys2Proof.Machine.execAccGpio d half p s
  | .accI2c d half p => Sys2Proof.Machine.execAccI2c d half p s
  | .planPrepare d plan entries => Sys2Proof.Machine.execPlanPrepare d plan entries s
  | .planCommit d plan => Sys2Proof.Machine.execPlanCommit d plan s
  | .planAbort d plan => Sys2Proof.Machine.execPlanAbort d plan s
  | .ctxOpen d p => Sys2Proof.Machine.execCtxOpen d p s
  | .ctxRetune d p => Sys2Proof.Machine.execCtxRetune d p s
  | .ctxClose d ctx => Sys2Proof.Machine.execCtxClose d ctx s
  | .ctxQuery d ctx => Sys2Proof.Machine.execCtxQuery d ctx s
  | .ctxWatch d p => Sys2Proof.Machine.execCtxWatch d p s
  | .coefLoad d ctx count scale words => Sys2Proof.Machine.execCoefLoad d ctx count scale words s
  | .coefSwap d ctx xfade => Sys2Proof.Machine.execCoefSwap d ctx xfade s
  | .syncArmJoin d group ctx => Sys2Proof.Machine.execSyncArmJoin d group ctx s
  | .syncArmLeave d ctx => Sys2Proof.Machine.execSyncArmLeave d ctx s
  | .syncArmReset d group syncout phase => Sys2Proof.Machine.execSyncArmReset d group syncout phase s
  | .armSyncin d group every syncout phase => Sys2Proof.Machine.execArmSyncin d group every syncout phase s
  | .disarm d group => Sys2Proof.Machine.execDisarm d group s
  | .svcSelect d p => Sys2Proof.Machine.execSvcSelect d p s
  | .svcDeselect d p => Sys2Proof.Machine.execSvcDeselect d p s
  | .svcLinkCreate d set sources p => Sys2Proof.Machine.execSvcLinkCreate d set sources p s
  | .svcLinkAdd d set source => Sys2Proof.Machine.execSvcLinkAdd d set source s
  | .svcLinkRemove d set ctx sel => Sys2Proof.Machine.execSvcLinkRemove d set ctx sel s
  | .svcLinkDelete d set => Sys2Proof.Machine.execSvcLinkDelete d set s
  | .svcLinkQuery d set => Sys2Proof.Machine.execSvcLinkQuery d set s
  | .svcFollowSet d p => Sys2Proof.Machine.execSvcFollowSet d p s
  | .svcFollowClear d set => Sys2Proof.Machine.execSvcFollowClear d set s
  | .dbConfig d age luKeep annMask => Sys2Proof.Machine.execDbConfig d age luKeep annMask s
  | .dbDump d => Sys2Proof.Machine.execDbDump d s
  | .scan d p => Sys2Proof.Machine.execScan d p s
  | .flowCreate d p => Sys2Proof.Machine.execFlowCreate d p s
  | .flowBind d flow p => Sys2Proof.Machine.execFlowBind d flow p s
  | .flowShape d flow weight rate burst => Sys2Proof.Machine.execFlowShape d flow weight rate burst s
  | .flowDelete d flow => Sys2Proof.Machine.execFlowDelete d flow s
  | .timeshiftSet d flow window delay => Sys2Proof.Machine.execTimeshiftSet d flow window delay s
  | .captureStart d mask mode flow bytes => Sys2Proof.Machine.execCaptureStart d mask mode flow bytes s
  | .captureStop d mask => Sys2Proof.Machine.execCaptureStop d mask s
  | .kiteConfig d count block => Sys2Proof.Machine.execKiteConfig d count block s
  | .kiteSessionOpen d session key peer channel => Sys2Proof.Machine.execKiteSessionOpen d session key peer channel s
  | .kiteSessionClose d session => Sys2Proof.Machine.execKiteSessionClose d session s
  | .kiteSessionUpdate d session key channel => Sys2Proof.Machine.execKiteSessionUpdate d session key channel s
  | .kiteSessionFlush d session => Sys2Proof.Machine.execKiteSessionFlush d session s
  | .kiteSend d session cls length payload => Sys2Proof.Machine.execKiteSend d session cls length payload s
  | .kiteBudget d subBand cls rate burst => Sys2Proof.Machine.execKiteBudget d subBand cls rate burst s
  | .audioPortConfig d p => Sys2Proof.Machine.execAudioPortConfig d p s
  | .audioPortStart d port => Sys2Proof.Machine.execAudioPortStart d port s
  | .audioPortStop d port => Sys2Proof.Machine.execAudioPortStop d port s
  | .calPolicy d half auto deltaT windows => Sys2Proof.Machine.execCalPolicy d half auto deltaT windows s
  | .calRun d half => Sys2Proof.Machine.execCalRun d half s
  | .clockConfig d p => Sys2Proof.Machine.execClockConfig d p s
  | .chainEnumerate d options walk => Sys2Proof.Machine.execChainEnumerate d options walk s
  | .chainRollcall d => Sys2Proof.Machine.execChainRollcall d s
  | .chainSend d dest message => Sys2Proof.Machine.execChainSend d dest message s
  | .eventRouteSources d first last toRing vector => Sys2Proof.Machine.execEventRouteSources d first last toRing vector s
  | .eventRouteVector d vector holdoff count => Sys2Proof.Machine.execEventRouteVector d vector holdoff count s
  | .fwLoadStage d length image => Sys2Proof.Machine.execFwLoadStage d length image s
  | .fwLoadActivate d => Sys2Proof.Machine.execFwLoadActivate d s
  | .doorbellFetch t page => Sys2Proof.Machine.execDoorbellFetch t page s
  | .scheduledActionExecute t => Sys2Proof.Machine.execScheduledActionExecute t s
  | .tileSwitchReturn t tile => Sys2Proof.Machine.execTileSwitchReturn t tile s
  | .htSecondsBoundary t => Sys2Proof.Machine.execHtSecondsBoundary t s
  | .ppsinEdge t sub => Sys2Proof.Machine.execPpsinEdge t sub s
  | .ppsMissing t => Sys2Proof.Machine.execPpsMissing t s
  | .htSlewDone t => Sys2Proof.Machine.execHtSlewDone t s
  | .htStep t => Sys2Proof.Machine.execHtStep t s
  | .syncinEdge t => Sys2Proof.Machine.execSyncinEdge t s
  | .syncinReset t => Sys2Proof.Machine.execSyncinReset t s
  | .spllWindowEnd t w => Sys2Proof.Machine.execSpllWindowEnd t w s
  | .refinMissingEdge t => Sys2Proof.Machine.execRefinMissingEdge t s
  | .spllPhaseLock t => Sys2Proof.Machine.execSpllPhaseLock t s
  | .spllAcquireTimeout t => Sys2Proof.Machine.execSpllAcquireTimeout t s
  | .tsynUnlock t tile => Sys2Proof.Machine.execTsynUnlock t tile s
  | .tsynRelockRetry t tile => Sys2Proof.Machine.execTsynRelockRetry t tile s
  | .ksynUnlock t => Sys2Proof.Machine.execKsynUnlock t s
  | .detectorPeriodEnd t half r => Sys2Proof.Machine.execDetectorPeriodEnd t half r s
  | .levellerDwellExpiry t half band => Sys2Proof.Machine.execLevellerDwellExpiry t half band s
  | .levellerStepLanding t half band => Sys2Proof.Machine.execLevellerStepLanding t half band s
  | .adcClip t half samples => Sys2Proof.Machine.execAdcClip t half samples s
  | .antpwrCurrentLimit t half current => Sys2Proof.Machine.execAntpwrCurrentLimit t half current s
  | .antpwrOpen t half current => Sys2Proof.Machine.execAntpwrOpen t half current s
  | .gpioEdge t pin level => Sys2Proof.Machine.execGpioEdge t pin level s
  | .i2cTransactionStart t => Sys2Proof.Machine.execI2cTransactionStart t s
  | .i2cTransactionDone t r => Sys2Proof.Machine.execI2cTransactionDone t r s
  | .i2cClockHeld t => Sys2Proof.Machine.execI2cClockHeld t s
  | .tempSensorRead t sensor reading => Sys2Proof.Machine.execTempSensorRead t sensor reading s
  | .calRunStart t half => Sys2Proof.Machine.execCalRunStart t half s
  | .calPhaseEnd t half => Sys2Proof.Machine.execCalPhaseEnd t half s
  | .calRunEnd t half r => Sys2Proof.Machine.execCalRunEnd t half r s
  | .calRampIncrement t half => Sys2Proof.Machine.execCalRampIncrement t half s
  | .bgConverged t e => Sys2Proof.Machine.execBgConverged t e s
  | .bgHeld t half => Sys2Proof.Machine.execBgHeld t half s
  | .kiteCalRun t => Sys2Proof.Machine.execKiteCalRun t s
  | .kiteCalDone t image leakage => Sys2Proof.Machine.execKiteCalDone t image leakage s
  | .ctxPresencePass t ctx p => Sys2Proof.Machine.execCtxPresencePass t ctx p s
  | .ctxDetection t ctx d => Sys2Proof.Machine.execCtxDetection t ctx d s
  | .ctxConfirmation t ctx copy => Sys2Proof.Machine.execCtxConfirmation t ctx copy s
  | .ctxLoss t ctx copy => Sys2Proof.Machine.execCtxLoss t ctx copy s
  | .acquireTimeout t ctx copy => Sys2Proof.Machine.execAcquireTimeout t ctx copy s
  | .confirmTimeout t ctx copy => Sys2Proof.Machine.execConfirmTimeout t ctx copy s
  | .lostTimeout t ctx copy => Sys2Proof.Machine.execLostTimeout t ctx copy s
  | .holdEnd t half => Sys2Proof.Machine.execHoldEnd t half s
  | .qualityWindowEnd t ctx q => Sys2Proof.Machine.execQualityWindowEnd t ctx q s
  | .amFmBlock t ctx b => Sys2Proof.Machine.execAmFmBlock t ctx b s
  | .xfadeDone t ctx => Sys2Proof.Machine.execXfadeDone t ctx s
  | .pilotAbsent t ctx => Sys2Proof.Machine.execPilotAbsent t ctx s
  | .pilotLock t ctx => Sys2Proof.Machine.execPilotLock t ctx s
  | .pilotLost t ctx => Sys2Proof.Machine.execPilotLost t ctx s
  | .rdsBlock t ctx b => Sys2Proof.Machine.execRdsBlock t ctx b s
  | .dabFrame t ctx f => Sys2Proof.Machine.execDabFrame t ctx f s
  | .selectionAbsent t ctx sel => Sys2Proof.Machine.execSelectionAbsent t ctx sel s
  | .dabplusSuperframe t ctx sel f => Sys2Proof.Machine.execDabplusSuperframe t ctx sel f s
  | .l2Frame t ctx sel f => Sys2Proof.Machine.execL2Frame t ctx sel f s
  | .drmFrame t ctx f => Sys2Proof.Machine.execDrmFrame t ctx f s
  | .muxReconf t ctx r => Sys2Proof.Machine.execMuxReconf t ctx r s
  | .blockDeadline t ctx sel r => Sys2Proof.Machine.execBlockDeadline t ctx sel r s
  | .poolSaturated t half => Sys2Proof.Machine.execPoolSaturated t half s
  | .poolClear t half => Sys2Proof.Machine.execPoolClear t half s
  | .linkMatchWindow t set ctx sel w => Sys2Proof.Machine.execLinkMatchWindow t set ctx sel w s
  | .linkUnitMatch t set ctx sel u => Sys2Proof.Machine.execLinkUnitMatch t set ctx sel u s
  | .linkNoMatch t set ctx sel => Sys2Proof.Machine.execLinkNoMatch t set ctx sel s
  | .linkBlend t set => Sys2Proof.Machine.execLinkBlend t set s
  | .followEvaluation t => Sys2Proof.Machine.execFollowEvaluation t s
  | .followActionExecute t => Sys2Proof.Machine.execFollowActionExecute t s
  | .scanDwellEnd t => Sys2Proof.Machine.execScanDwellEnd t s
  | .dbEntryAged t => Sys2Proof.Machine.execDbEntryAged t s
  | .motObjectTimeout t ctx sel transportId => Sys2Proof.Machine.execMotObjectTimeout t ctx sel transportId s
  | .recordCloseTimeout t flow => Sys2Proof.Machine.execRecordCloseTimeout t flow s
  | .egressRecordStart t link => Sys2Proof.Machine.execEgressRecordStart t link s
  | .bufferFlush t ring => Sys2Proof.Machine.execBufferFlush t ring s
  | .memberUnderrun t flow span => Sys2Proof.Machine.execMemberUnderrun t flow span s
  | .dramCorrected t line channel => Sys2Proof.Machine.execDramCorrected t line channel s
  | .dramUncorrectable t line channel owner => Sys2Proof.Machine.execDramUncorrectable t line channel owner s
  | .msixHoldoffExpiry t vector => Sys2Proof.Machine.execMsixHoldoffExpiry t vector s
  | .msixUnmask t vector => Sys2Proof.Machine.execMsixUnmask t vector s
  | .kiteConfigApply t => Sys2Proof.Machine.execKiteConfigApply t s
  | .kiteDecision t => Sys2Proof.Machine.execKiteDecision t s
  | .kiteTxEnd t => Sys2Proof.Machine.execKiteTxEnd t s
  | .kiteWindowBoundary t => Sys2Proof.Machine.execKiteWindowBoundary t s
  | .kiteDetection t p => Sys2Proof.Machine.execKiteDetection t p s
  | .kiteSyncDone t demod shift pilots => Sys2Proof.Machine.execKiteSyncDone t demod shift pilots s
  | .kiteSyncTimeout t demod => Sys2Proof.Machine.execKiteSyncTimeout t demod s
  | .kiteHeaderDone t demod h => Sys2Proof.Machine.execKiteHeaderDone t demod h s
  | .kitePayloadDone t demod r => Sys2Proof.Machine.execKitePayloadDone t demod r s
  | .audioClockStart t port => Sys2Proof.Machine.execAudioClockStart t port s
  | .audioFirstFrame t port => Sys2Proof.Machine.execAudioFirstFrame t port s
  | .audioTrailEnd t port => Sys2Proof.Machine.execAudioTrailEnd t port s
  | .audioFsEdge t port bclks edge => Sys2Proof.Machine.execAudioFsEdge t port bclks edge s
  | .audioSlip t port fill dir => Sys2Proof.Machine.execAudioSlip t port fill dir s
  | .audioXrun t port dir overrun cause => Sys2Proof.Machine.execAudioXrun t port dir overrun cause s
  | .audioStall t port => Sys2Proof.Machine.execAudioStall t port s
  | .audioResume t port aligned => Sys2Proof.Machine.execAudioResume t port aligned s
  | .tetherLinkDown t port topology => Sys2Proof.Machine.execTetherLinkDown t port topology s
  | .tetherLinkUp t port up => Sys2Proof.Machine.execTetherLinkUp t port up s
  | .rollCall t p => Sys2Proof.Machine.execRollCall t p s
  | .rollCallAnswer t addr a => Sys2Proof.Machine.execRollCallAnswer t addr a s
  | .masterClaim t addr c => Sys2Proof.Machine.execMasterClaim t addr c s
  | .stepNotice t steps grid => Sys2Proof.Machine.execStepNotice t steps grid s
  | .chainTransferAck t seq status => Sys2Proof.Machine.execChainTransferAck t seq status s
  | .chainMsgDelivery t src seq message => Sys2Proof.Machine.execChainMsgDelivery t src seq message s
  | .chainCommandArrival t src seq late d c => Sys2Proof.Machine.execChainCommandArrival t src seq late d c s
  | .tetherDcFault t port => Sys2Proof.Machine.execTetherDcFault t port s
  | .tetherDcRetry t port limited => Sys2Proof.Machine.execTetherDcRetry t port limited s
  | .vinStart t vin => Sys2Proof.Machine.execVinStart t vin s
  | .braceEntry t vin => Sys2Proof.Machine.execBraceEntry t vin s
  | .braceExit t vin vinMin => Sys2Proof.Machine.execBraceExit t vin vinMin s
  | .braceVinLow t => Sys2Proof.Machine.execBraceVinLow t s
  | .vinReset t vin dcPresent => Sys2Proof.Machine.execVinReset t vin dcPresent s
  | .vinOverVoltage t vin => Sys2Proof.Machine.execVinOverVoltage t vin s
  | .powerReset t => Sys2Proof.Machine.execPowerReset t s
  | .railTrip t group value overCurrent => Sys2Proof.Machine.execRailTrip t group value overCurrent s
  | .watchdogExpiry t cpu => Sys2Proof.Machine.execWatchdogExpiry t cpu s
  | .porstN t => Sys2Proof.Machine.execPorstN t s
  | .hostReset t => Sys2Proof.Machine.execHostReset t s
  | .bootImageSearch t b => Sys2Proof.Machine.execBootImageSearch t b s
  | .bootWaitTimeout t => Sys2Proof.Machine.execBootWaitTimeout t s
  | .firstLight t => Sys2Proof.Machine.execFirstLight t s
  | .partFull t => Sys2Proof.Machine.execPartFull t s
  | .quarantineReboot t => Sys2Proof.Machine.execQuarantineReboot t s
  | .chainBootTimeout t => Sys2Proof.Machine.execChainBootTimeout t s
  | .fwActivateReset t => Sys2Proof.Machine.execFwActivateReset t s
  | .tileLinkFault t tile detail => Sys2Proof.Machine.execTileLinkFault t tile detail s
  | .memoryFault t half detail => Sys2Proof.Machine.execMemoryFault t half detail s
  | .converterStuck t half => Sys2Proof.Machine.execConverterStuck t half s
  | .tileResetDone t tile r => Sys2Proof.Machine.execTileResetDone t tile r s
  | .hifEnable t => Sys2Proof.Machine.execHifEnable t s
  | .hifDisable t => Sys2Proof.Machine.execHifDisable t s
  | .hifLock t => Sys2Proof.Machine.execHifLock t s
  | .hifQuiesced t => Sys2Proof.Machine.execHifQuiesced t s
  | .hifNudge t value => Sys2Proof.Machine.execHifNudge t value s
  | .pmuVinWarn t value => Sys2Proof.Machine.execPmuVinWarn t value s
  | .tetTimeDisagree t value => Sys2Proof.Machine.execTetTimeDisagree t value s
  | .secKeyWrite t slot => Sys2Proof.Machine.execSecKeyWrite t slot s
  | .secKeyErase t slot => Sys2Proof.Machine.execSecKeyErase t slot s
  | .secHbootGo t image => Sys2Proof.Machine.execSecHbootGo t image s
  | .dbgLockTest t target => Sys2Proof.Machine.execDbgLockTest t target s
  | .dbgLockTestDone t longest => Sys2Proof.Machine.execDbgLockTestDone t longest s
  | .dbgTileReset t tile => Sys2Proof.Machine.execDbgTileReset t tile s
  | .registerWrite t offset width value => Sys2Proof.Machine.execRegisterWrite t offset width value s
  | .muteLead t half => Sys2Proof.Machine.execMuteLead t half s
  | .muteTrail t pin => Sys2Proof.Machine.execMuteTrail t pin s
  | .ksynRelock t => Sys2Proof.Machine.execKsynRelock t s
  | .vinOverVoltageRelease t vin => Sys2Proof.Machine.execVinOverVoltageRelease t vin s
  | .fwLoadStageDone t verified => Sys2Proof.Machine.execFwLoadStageDone t verified s
  | .chainCompletionArrival t src seq c => Sys2Proof.Machine.execChainCompletionArrival t src seq c s
  | .chainEventArrival t src seq e => Sys2Proof.Machine.execChainEventArrival t src seq e s
  | .chainRecordArrival t src r => Sys2Proof.Machine.execChainRecordArrival t src r s
  | .chainConfigArrival t c => Sys2Proof.Machine.execChainConfigArrival t c s
  | .chainRouteUpdate t r => Sys2Proof.Machine.execChainRouteUpdate t r s
  | .chainEnumerationWalk t addr chainId epoch => Sys2Proof.Machine.execChainEnumerationWalk t addr chainId epoch s
  | .masterSecondsMarker t sub delayNs => Sys2Proof.Machine.execMasterSecondsMarker t sub delayNs s
  | .audioPortFrame t f => Sys2Proof.Machine.execAudioPortFrame t f s

end Sys2Proof.Machine
end

