-- ==== Sys2Proof/Machine/Step.lean ====
section
/-! DEFINITION. One step: the command at the front of the queue, or one idle tick. -/

namespace Sys2Proof.Machine

/-- On an empty queue one tick of house time passes (DESIGN CHOICE, log 2). -/
def State.idle (s : State) : State :=
  { s with part := { s.part with clock := { s.part.clock with
      ht := s.part.clock.ht + 1, elapsed := s.part.clock.elapsed + 1 } } }

/-- Take the command at the front of the queue and run it with the queue's rest. (DESIGN CHOICE, log 1 and 2) -/
def step (s : State) : Host.Outcome State Fault Refusal :=
  match s.pending with
  | [] => .next s.idle
  | c :: rest => exec c { s with pending := rest }

/-- `s` with the command that the word spells put at the front of its queue. (DESIGN CHOICE, log 1) -/
def State.withFetchWord (s : State) (nbits w : Nat) : State :=
  match decodeTableWord nbits w with
  | some c => { s with pending := c :: s.pending }
  | none => s

end Sys2Proof.Machine
end

