-- ==== Sys2Proof/WellFormed.lean ====
section
/-! DEFINITION. Well-formed commands: every operand fits the field that carries it (Tables HIF-4, HIF-8 and HIF-10 for a command
descriptor, the register and the fitted maximum for an event). What the part makes of a value that fits its field is the
machine's. -/

namespace Sys2Proof

/-! ## Field widths -/

/-- The value fits a field of one byte. -/
def u8 (v : Nat) : Bool := decide (v < 2 ^ 8)

/-- The value fits a field of two bytes. -/
def u16 (v : Nat) : Bool := decide (v < 2 ^ 16)

/-- The value fits a field of four bytes. -/
def u32 (v : Nat) : Bool := decide (v < 2 ^ 32)

/-- The value fits a field of eight bytes. -/
def u64 (v : Nat) : Bool := decide (v < 2 ^ 64)

/-- The value fits a signed field of `bits` bits. -/
def signed (bits : Nat) (v : Int) : Bool := decide (-(2 ^ (bits - 1) : Int) ≤ v ∧ v < 2 ^ (bits - 1))

/-- A descriptor without opcode and parameters (Table HIF-4), read from one of the four command rings (R315). -/
def Desc.wf (d : Desc) : Bool := decide (d.ring < 4) && u16 d.tag && u16 d.dest && u16 d.resSize && u64 d.due && u64 d.resAddr

/-! ## Parameters (Tables HIF-8 and HIF-10) -/

/-- Table RFI-7. -/
def LevellerParams.wf (p : LevellerParams) : Bool :=
  u8 p.band && u8 p.mode && signed 8 p.upper && signed 8 p.lower && u16 p.dwell && u8 p.attenMin && u8 p.attenMax && u8 p.manual

/-- Table RFI-9. -/
def GpioParams.wf (p : GpioParams) : Bool :=
  u8 p.pin && u8 p.function && u8 p.level && u8 p.debounce && u8 p.isoHalf && u8 p.polarity && u16 p.muteLead && u16 p.muteTrail

/-- The bytes of an I2C transaction (R125). -/
def I2cParams.wf (p : I2cParams) : Bool := u8 p.address && u8 p.speed && u8 p.wlen && u8 p.rlen && p.bytes.all u8

/-- Table HIF-10. -/
def CtxParams.wf (p : CtxParams) : Bool :=
  u16 p.ctx && u8 p.type && u32 p.freq && u16 p.lostTimeout && u8 p.iterMax && u8 p.reserve && u8 p.occupancy
    && decide (p.block.length ≤ 11) && p.block.all u8

/-- SVC_SELECT. -/
def SelParams.wf (p : SelParams) : Bool := u16 p.ctx && u8 p.kind && u8 p.sub && u8 p.scids && u32 p.sid

/-- A source of SVC_LINK. -/
def LinkSource.wf (p : LinkSource) : Bool := u16 p.ctx && u8 p.sel && u8 p.rank

/-- The set parameters (Table DEC-6). -/
def SetParams.wf (p : SetParams) : Bool :=
  u8 p.alignWindow && u8 p.holdBack && u16 p.badHold && u32 p.xfade && u8 p.goodHold && u8 p.blendGood

/-- SVC_FOLLOW_POLICY SET. -/
def FollowParams.wf (p : FollowParams) : Bool :=
  u16 p.set && u16 p.ctx && u8 p.sel && u8 p.maxWatch && u8 p.maxMembers && u8 p.scope && u16 p.halves && u8 p.regional
    && u8 p.promoteCnr && u16 p.promoteTime && u8 p.releaseCnr && u8 p.releaseTime && u8 p.rehomeTime && p.setParams.wf

/-- SVC_FOLLOW_POLICY SCAN. -/
def ScanParams.wf (p : ScanParams) : Bool := u8 p.half && u8 p.raster && u32 p.first && u32 p.last && u8 p.dwell && u8 p.watches

/-- FLOW_CREATE. -/
def FlowParams.wf (p : FlowParams) : Bool := u16 p.flow && u8 p.type && u8 p.subtype && u16 p.source && u8 p.sel && u32 p.length

/-- FLOW_BIND. -/
def BindParams.wf (p : BindParams) : Bool := u8 p.target && u16 p.a && u8 p.b && u16 p.remote

/-- A channel of Table KTE-2. -/
def KiteChannel.wf (c : KiteChannel) : Bool :=
  u32 c.freq && u8 c.bw && u8 c.sf && u8 c.rate && u8 c.subBand && signed 16 c.power && u8 c.rampLevel

/-- Table KTE-1. -/
def KiteBlock.wf (b : KiteBlock) : Bool :=
  u8 b.captureDb && u8 b.ramp && u16 b.lead && u16 b.trail && b.kinds.all u8 && b.rxChannel.all u8 && b.channels.all KiteChannel.wf

/-- AUDIO_PORT_CONFIG. -/
def PortParams.wf (p : PortParams) : Bool :=
  u8 p.port && u8 p.format && u8 p.role && u8 p.slots && u8 p.bits && u16 p.clkLead && u16 p.clkTrail && u8 p.mclk

/-- A window of Table CAL-3. -/
def CalWindow.wf (w : CalWindow) : Bool := u32 w.period && u32 w.phase && u32 w.offset && u32 w.length

/-- CLOCK_CONFIG. -/
def ClockParams.wf (p : ClockParams) : Bool :=
  p.source.all u8 && p.refFreq.all u8 && p.lockTol.all u8 && p.slewLimit.all u8 && p.nSpll.all u16 && p.nTsyn.all u16
    && p.nKsyn.all u16 && p.ppsDelay.all (signed 32) && p.stepLimit.all u32 && p.epoch.all u64

/-- An entry of a plan (R337). -/
def PlanEntry.wf : PlanEntry → Bool
  | .tilePlan t p => u8 t && u8 p
  | .halfMode h m i => u8 h && u8 m && u8 i
  | .leveller h p => u8 h && p.wf
  | .antpwr h s => u8 h && u8 s
  | .extGain h g => u8 h && signed 16 g
  | .ctxOpen p => p.wf
  | .ctxWatch p => p.wf
  | .ctxRetune p => p.wf
  | .ctxClose c => u16 c
  | .select p => p.wf
  | .deselect p => p.wf
  | .coefSwap c x => u16 c && u16 x
  | .syncReset g s p => u8 g && u8 s && u32 p
  | .other o => u8 o

/-- The parameters of a host command fit their fields (Table HIF-8); a list is as long as the count that announces it can say. -/
def HostCmd.wf : HostCmd → Bool
  | .nop => true
  | .identify => true
  | .halfSetupMode h m i => u8 h && u8 m && u8 i
  | .halfSetupLeveller h p => u8 h && p.wf
  | .halfSetupAntpwr h s => u8 h && u8 s
  | .halfSetupExtGain h g => u8 h && signed 16 g
  | .accGpio h p => u8 h && p.wf
  | .accI2c h p => u8 h && p.wf
  | .planPrepare n es => u8 n && u16 es.length && es.all PlanEntry.wf
  | .planCommit n => u8 n
  | .planAbort n => u8 n
  | .ctxOpen p => p.wf
  | .ctxRetune p => p.wf
  | .ctxClose c => u16 c
  | .ctxQuery c => u16 c
  | .ctxWatch p => p.wf
  | .coefLoad c n s ws => u16 c && u16 n && u8 s && ws.all u32
  | .coefSwap c x => u16 c && u16 x
  | .syncArmJoin g c => u8 g && u16 c
  | .syncArmLeave c => u16 c
  | .syncArmReset g s p => u8 g && u8 s && u32 p
  | .armSyncin g e s p => u8 g && u8 e && u8 s && u32 p
  | .disarm g => u8 g
  | .svcSelect p => p.wf
  | .svcDeselect p => p.wf
  | .svcLinkCreate n l p => u16 n && u8 l.length && l.all LinkSource.wf && p.wf
  | .svcLinkAdd n x => u16 n && x.wf
  | .svcLinkRemove n c s => u16 n && u16 c && u8 s
  | .svcLinkDelete n => u16 n
  | .svcLinkQuery n => u16 n
  | .svcFollowSet p => p.wf
  | .svcFollowClear n => u16 n
  | .dbConfig a k m => u16 a && u8 k && u16 m
  | .dbDump => true
  | .scan p => p.wf
  | .flowCreate p => p.wf
  | .flowBind n p => u16 n && p.wf
  | .flowShape n w r b => u16 n && u16 w && u32 r && u32 b
  | .flowDelete n => u16 n
  | .timeshiftSet n w d => u16 n && u32 w && u32 d
  | .captureStart k m n b => u16 k && u8 m && u16 n && u64 b
  | .captureStop k => u16 k
  | .kiteConfig n b => u8 n && b.wf
  | .kiteSessionOpen n k p c => u16 n && u8 k && u32 p && u8 c
  | .kiteSessionClose n => u16 n
  | .kiteSessionUpdate n k c => u16 n && u8 k && u8 c
  | .kiteSessionFlush n => u16 n
  | .kiteSend n c l p => u16 n && u8 c && u8 l && p.all u8
  | .kiteBudget s c r b => u8 s && u8 c && u32 r && u32 b
  | .audioPortConfig p => p.wf
  | .audioPortStart p => u8 p
  | .audioPortStop p => u8 p
  | .calPolicy h a d ws => u8 h && u8 a && u8 d && u8 ws.length && ws.all CalWindow.wf
  | .calRun h => u8 h
  | .clockConfig p => p.wf
  | .chainEnumerate o _ => u8 o
  | .chainRollcall => true
  | .chainSend d m => u16 d && u16 m.length && m.all u8
  | .eventRouteSources f l r v => u16 f && u16 l && u8 r && u8 v
  | .eventRouteVector v h c => u8 v && u16 h && u8 c
  | .fwLoadStage n _ => u32 n
  | .fwLoadActivate => true

/-! ## Commands and events -/

/-- What a row is: a host command with its descriptor, or an event with the HT tick on which it happens. -/
def Instr.source : Instr → (Desc × HostCmd) ⊕ Nat
  | .nop d => .inl (d, .nop)
  | .identify d => .inl (d, .identify)
  | .halfSetupMode d half mode input => .inl (d, .halfSetupMode half mode input)
  | .halfSetupLeveller d half p => .inl (d, .halfSetupLeveller half p)
  | .halfSetupAntpwr d half setting => .inl (d, .halfSetupAntpwr half setting)
  | .halfSetupExtGain d half gain => .inl (d, .halfSetupExtGain half gain)
  | .accGpio d half p => .inl (d, .accGpio half p)
  | .accI2c d half p => .inl (d, .accI2c half p)
  | .planPrepare d plan entries => .inl (d, .planPrepare plan entries)
  | .planCommit d plan => .inl (d, .planCommit plan)
  | .planAbort d plan => .inl (d, .planAbort plan)
  | .ctxOpen d p => .inl (d, .ctxOpen p)
  | .ctxRetune d p => .inl (d, .ctxRetune p)
  | .ctxClose d ctx => .inl (d, .ctxClose ctx)
  | .ctxQuery d ctx => .inl (d, .ctxQuery ctx)
  | .ctxWatch d p => .inl (d, .ctxWatch p)
  | .coefLoad d ctx count scale words => .inl (d, .coefLoad ctx count scale words)
  | .coefSwap d ctx xfade => .inl (d, .coefSwap ctx xfade)
  | .syncArmJoin d group ctx => .inl (d, .syncArmJoin group ctx)
  | .syncArmLeave d ctx => .inl (d, .syncArmLeave ctx)
  | .syncArmReset d group syncout phase => .inl (d, .syncArmReset group syncout phase)
  | .armSyncin d group every syncout phase => .inl (d, .armSyncin group every syncout phase)
  | .disarm d group => .inl (d, .disarm group)
  | .svcSelect d p => .inl (d, .svcSelect p)
  | .svcDeselect d p => .inl (d, .svcDeselect p)
  | .svcLinkCreate d set sources p => .inl (d, .svcLinkCreate set sources p)
  | .svcLinkAdd d set source => .inl (d, .svcLinkAdd set source)
  | .svcLinkRemove d set ctx sel => .inl (d, .svcLinkRemove set ctx sel)
  | .svcLinkDelete d set => .inl (d, .svcLinkDelete set)
  | .svcLinkQuery d set => .inl (d, .svcLinkQuery set)
  | .svcFollowSet d p => .inl (d, .svcFollowSet p)
  | .svcFollowClear d set => .inl (d, .svcFollowClear set)
  | .dbConfig d age luKeep annMask => .inl (d, .dbConfig age luKeep annMask)
  | .dbDump d => .inl (d, .dbDump)
  | .scan d p => .inl (d, .scan p)
  | .flowCreate d p => .inl (d, .flowCreate p)
  | .flowBind d flow p => .inl (d, .flowBind flow p)
  | .flowShape d flow weight rate burst => .inl (d, .flowShape flow weight rate burst)
  | .flowDelete d flow => .inl (d, .flowDelete flow)
  | .timeshiftSet d flow window delay => .inl (d, .timeshiftSet flow window delay)
  | .captureStart d mask mode flow bytes => .inl (d, .captureStart mask mode flow bytes)
  | .captureStop d mask => .inl (d, .captureStop mask)
  | .kiteConfig d count block => .inl (d, .kiteConfig count block)
  | .kiteSessionOpen d session key peer channel => .inl (d, .kiteSessionOpen session key peer channel)
  | .kiteSessionClose d session => .inl (d, .kiteSessionClose session)
  | .kiteSessionUpdate d session key channel => .inl (d, .kiteSessionUpdate session key channel)
  | .kiteSessionFlush d session => .inl (d, .kiteSessionFlush session)
  | .kiteSend d session cls length payload => .inl (d, .kiteSend session cls length payload)
  | .kiteBudget d subBand cls rate burst => .inl (d, .kiteBudget subBand cls rate burst)
  | .audioPortConfig d p => .inl (d, .audioPortConfig p)
  | .audioPortStart d port => .inl (d, .audioPortStart port)
  | .audioPortStop d port => .inl (d, .audioPortStop port)
  | .calPolicy d half auto deltaT windows => .inl (d, .calPolicy half auto deltaT windows)
  | .calRun d half => .inl (d, .calRun half)
  | .clockConfig d p => .inl (d, .clockConfig p)
  | .chainEnumerate d options walk => .inl (d, .chainEnumerate options walk)
  | .chainRollcall d => .inl (d, .chainRollcall)
  | .chainSend d dest message => .inl (d, .chainSend dest message)
  | .eventRouteSources d first last toRing vector => .inl (d, .eventRouteSources first last toRing vector)
  | .eventRouteVector d vector holdoff count => .inl (d, .eventRouteVector vector holdoff count)
  | .fwLoadStage d length image => .inl (d, .fwLoadStage length image)
  | .fwLoadActivate d => .inl (d, .fwLoadActivate)
  | .doorbellFetch t _ => .inr t
  | .scheduledActionExecute t => .inr t
  | .tileSwitchReturn t _ => .inr t
  | .htSecondsBoundary t => .inr t
  | .ppsinEdge t _ => .inr t
  | .ppsMissing t => .inr t
  | .htSlewDone t => .inr t
  | .htStep t => .inr t
  | .syncinEdge t => .inr t
  | .syncinReset t => .inr t
  | .spllWindowEnd t _ => .inr t
  | .refinMissingEdge t => .inr t
  | .spllPhaseLock t => .inr t
  | .spllAcquireTimeout t => .inr t
  | .tsynUnlock t _ => .inr t
  | .tsynRelockRetry t _ => .inr t
  | .ksynUnlock t => .inr t
  | .detectorPeriodEnd t _ _ => .inr t
  | .levellerDwellExpiry t _ _ => .inr t
  | .levellerStepLanding t _ _ => .inr t
  | .adcClip t _ _ => .inr t
  | .antpwrCurrentLimit t _ _ => .inr t
  | .antpwrOpen t _ _ => .inr t
  | .gpioEdge t _ _ => .inr t
  | .i2cTransactionStart t => .inr t
  | .i2cTransactionDone t _ => .inr t
  | .i2cClockHeld t => .inr t
  | .tempSensorRead t _ _ => .inr t
  | .calRunStart t _ => .inr t
  | .calPhaseEnd t _ => .inr t
  | .calRunEnd t _ _ => .inr t
  | .calRampIncrement t _ => .inr t
  | .bgConverged t _ => .inr t
  | .bgHeld t _ => .inr t
  | .kiteCalRun t => .inr t
  | .kiteCalDone t _ _ => .inr t
  | .ctxPresencePass t _ _ => .inr t
  | .ctxDetection t _ _ => .inr t
  | .ctxConfirmation t _ _ => .inr t
  | .ctxLoss t _ _ => .inr t
  | .acquireTimeout t _ _ => .inr t
  | .confirmTimeout t _ _ => .inr t
  | .lostTimeout t _ _ => .inr t
  | .holdEnd t _ => .inr t
  | .qualityWindowEnd t _ _ => .inr t
  | .amFmBlock t _ _ => .inr t
  | .xfadeDone t _ => .inr t
  | .pilotAbsent t _ => .inr t
  | .pilotLock t _ => .inr t
  | .pilotLost t _ => .inr t
  | .rdsBlock t _ _ => .inr t
  | .dabFrame t _ _ => .inr t
  | .selectionAbsent t _ _ => .inr t
  | .dabplusSuperframe t _ _ _ => .inr t
  | .l2Frame t _ _ _ => .inr t
  | .drmFrame t _ _ => .inr t
  | .muxReconf t _ _ => .inr t
  | .blockDeadline t _ _ _ => .inr t
  | .poolSaturated t _ => .inr t
  | .poolClear t _ => .inr t
  | .linkMatchWindow t _ _ _ _ => .inr t
  | .linkUnitMatch t _ _ _ _ => .inr t
  | .linkNoMatch t _ _ _ => .inr t
  | .linkBlend t _ => .inr t
  | .followEvaluation t => .inr t
  | .followActionExecute t => .inr t
  | .scanDwellEnd t => .inr t
  | .dbEntryAged t => .inr t
  | .motObjectTimeout t _ _ _ => .inr t
  | .recordCloseTimeout t _ => .inr t
  | .egressRecordStart t _ => .inr t
  | .bufferFlush t _ => .inr t
  | .memberUnderrun t _ _ => .inr t
  | .dramCorrected t _ _ => .inr t
  | .dramUncorrectable t _ _ _ => .inr t
  | .msixHoldoffExpiry t _ => .inr t
  | .msixUnmask t _ => .inr t
  | .kiteConfigApply t => .inr t
  | .kiteDecision t => .inr t
  | .kiteTxEnd t => .inr t
  | .kiteWindowBoundary t => .inr t
  | .kiteDetection t _ => .inr t
  | .kiteSyncDone t _ _ _ => .inr t
  | .kiteSyncTimeout t _ => .inr t
  | .kiteHeaderDone t _ _ => .inr t
  | .kitePayloadDone t _ _ => .inr t
  | .audioClockStart t _ => .inr t
  | .audioFirstFrame t _ => .inr t
  | .audioTrailEnd t _ => .inr t
  | .audioFsEdge t _ _ _ => .inr t
  | .audioSlip t _ _ _ => .inr t
  | .audioXrun t _ _ _ _ => .inr t
  | .audioStall t _ => .inr t
  | .audioResume t _ _ => .inr t
  | .tetherLinkDown t _ _ => .inr t
  | .tetherLinkUp t _ _ => .inr t
  | .rollCall t _ => .inr t
  | .rollCallAnswer t _ _ => .inr t
  | .masterClaim t _ _ => .inr t
  | .stepNotice t _ _ => .inr t
  | .chainTransferAck t _ _ => .inr t
  | .chainMsgDelivery t _ _ _ => .inr t
  | .chainCommandArrival t _ _ _ _ _ => .inr t
  | .tetherDcFault t _ => .inr t
  | .tetherDcRetry t _ _ => .inr t
  | .vinStart t _ => .inr t
  | .braceEntry t _ => .inr t
  | .braceExit t _ _ => .inr t
  | .braceVinLow t => .inr t
  | .vinReset t _ _ => .inr t
  | .vinOverVoltage t _ => .inr t
  | .powerReset t => .inr t
  | .railTrip t _ _ _ => .inr t
  | .watchdogExpiry t _ => .inr t
  | .porstN t => .inr t
  | .hostReset t => .inr t
  | .bootImageSearch t _ => .inr t
  | .bootWaitTimeout t => .inr t
  | .firstLight t => .inr t
  | .partFull t => .inr t
  | .quarantineReboot t => .inr t
  | .chainBootTimeout t => .inr t
  | .fwActivateReset t => .inr t
  | .tileLinkFault t _ _ => .inr t
  | .memoryFault t _ _ => .inr t
  | .converterStuck t _ => .inr t
  | .tileResetDone t _ _ => .inr t
  | .hifEnable t => .inr t
  | .hifDisable t => .inr t
  | .hifLock t => .inr t
  | .hifQuiesced t => .inr t
  | .hifNudge t _ => .inr t
  | .pmuVinWarn t _ => .inr t
  | .tetTimeDisagree t _ => .inr t
  | .secKeyWrite t _ => .inr t
  | .secKeyErase t _ => .inr t
  | .secHbootGo t _ => .inr t
  | .dbgLockTest t _ => .inr t
  | .dbgLockTestDone t _ => .inr t
  | .dbgTileReset t _ => .inr t
  | .registerWrite t _ _ _ => .inr t
  | .muteLead t _ => .inr t
  | .muteTrail t _ => .inr t
  | .ksynRelock t => .inr t
  | .vinOverVoltageRelease t _ => .inr t
  | .fwLoadStageDone t _ => .inr t
  | .chainCompletionArrival t _ _ _ => .inr t
  | .chainEventArrival t _ _ _ => .inr t
  | .chainRecordArrival t _ _ => .inr t
  | .chainConfigArrival t _ => .inr t
  | .chainRouteUpdate t _ => .inr t
  | .chainEnumerationWalk t _ _ _ => .inr t
  | .masterSecondsMarker t _ _ => .inr t
  | .audioPortFrame t _ => .inr t

/-- Every operand fits its field; a tick of HT fits 64 bits (R40). -/
def Instr.wf : Instr → Bool
  | .nop d => d.wf
  | .identify d => d.wf
  | .halfSetupMode d half mode input => d.wf && HostCmd.wf (.halfSetupMode half mode input)
  | .halfSetupLeveller d half p => d.wf && HostCmd.wf (.halfSetupLeveller half p)
  | .halfSetupAntpwr d half setting => d.wf && HostCmd.wf (.halfSetupAntpwr half setting)
  | .halfSetupExtGain d half gain => d.wf && HostCmd.wf (.halfSetupExtGain half gain)
  | .accGpio d half p => d.wf && HostCmd.wf (.accGpio half p)
  | .accI2c d half p => d.wf && HostCmd.wf (.accI2c half p)
  | .planPrepare d plan entries => d.wf && HostCmd.wf (.planPrepare plan entries)
  | .planCommit d plan => d.wf && HostCmd.wf (.planCommit plan)
  | .planAbort d plan => d.wf && HostCmd.wf (.planAbort plan)
  | .ctxOpen d p => d.wf && HostCmd.wf (.ctxOpen p)
  | .ctxRetune d p => d.wf && HostCmd.wf (.ctxRetune p)
  | .ctxClose d ctx => d.wf && HostCmd.wf (.ctxClose ctx)
  | .ctxQuery d ctx => d.wf && HostCmd.wf (.ctxQuery ctx)
  | .ctxWatch d p => d.wf && HostCmd.wf (.ctxWatch p)
  | .coefLoad d ctx count scale words => d.wf && HostCmd.wf (.coefLoad ctx count scale words)
  | .coefSwap d ctx xfade => d.wf && HostCmd.wf (.coefSwap ctx xfade)
  | .syncArmJoin d group ctx => d.wf && HostCmd.wf (.syncArmJoin group ctx)
  | .syncArmLeave d ctx => d.wf && HostCmd.wf (.syncArmLeave ctx)
  | .syncArmReset d group syncout phase => d.wf && HostCmd.wf (.syncArmReset group syncout phase)
  | .armSyncin d group every syncout phase => d.wf && HostCmd.wf (.armSyncin group every syncout phase)
  | .disarm d group => d.wf && HostCmd.wf (.disarm group)
  | .svcSelect d p => d.wf && HostCmd.wf (.svcSelect p)
  | .svcDeselect d p => d.wf && HostCmd.wf (.svcDeselect p)
  | .svcLinkCreate d set sources p => d.wf && HostCmd.wf (.svcLinkCreate set sources p)
  | .svcLinkAdd d set source => d.wf && HostCmd.wf (.svcLinkAdd set source)
  | .svcLinkRemove d set ctx sel => d.wf && HostCmd.wf (.svcLinkRemove set ctx sel)
  | .svcLinkDelete d set => d.wf && HostCmd.wf (.svcLinkDelete set)
  | .svcLinkQuery d set => d.wf && HostCmd.wf (.svcLinkQuery set)
  | .svcFollowSet d p => d.wf && HostCmd.wf (.svcFollowSet p)
  | .svcFollowClear d set => d.wf && HostCmd.wf (.svcFollowClear set)
  | .dbConfig d age luKeep annMask => d.wf && HostCmd.wf (.dbConfig age luKeep annMask)
  | .dbDump d => d.wf
  | .scan d p => d.wf && HostCmd.wf (.scan p)
  | .flowCreate d p => d.wf && HostCmd.wf (.flowCreate p)
  | .flowBind d flow p => d.wf && HostCmd.wf (.flowBind flow p)
  | .flowShape d flow weight rate burst => d.wf && HostCmd.wf (.flowShape flow weight rate burst)
  | .flowDelete d flow => d.wf && HostCmd.wf (.flowDelete flow)
  | .timeshiftSet d flow window delay => d.wf && HostCmd.wf (.timeshiftSet flow window delay)
  | .captureStart d mask mode flow bytes => d.wf && HostCmd.wf (.captureStart mask mode flow bytes)
  | .captureStop d mask => d.wf && HostCmd.wf (.captureStop mask)
  | .kiteConfig d count block => d.wf && HostCmd.wf (.kiteConfig count block)
  | .kiteSessionOpen d session key peer channel => d.wf && HostCmd.wf (.kiteSessionOpen session key peer channel)
  | .kiteSessionClose d session => d.wf && HostCmd.wf (.kiteSessionClose session)
  | .kiteSessionUpdate d session key channel => d.wf && HostCmd.wf (.kiteSessionUpdate session key channel)
  | .kiteSessionFlush d session => d.wf && HostCmd.wf (.kiteSessionFlush session)
  | .kiteSend d session cls length payload => d.wf && HostCmd.wf (.kiteSend session cls length payload)
  | .kiteBudget d subBand cls rate burst => d.wf && HostCmd.wf (.kiteBudget subBand cls rate burst)
  | .audioPortConfig d p => d.wf && HostCmd.wf (.audioPortConfig p)
  | .audioPortStart d port => d.wf && HostCmd.wf (.audioPortStart port)
  | .audioPortStop d port => d.wf && HostCmd.wf (.audioPortStop port)
  | .calPolicy d half auto deltaT windows => d.wf && HostCmd.wf (.calPolicy half auto deltaT windows)
  | .calRun d half => d.wf && HostCmd.wf (.calRun half)
  | .clockConfig d p => d.wf && HostCmd.wf (.clockConfig p)
  | .chainEnumerate d options walk => d.wf && HostCmd.wf (.chainEnumerate options walk)
  | .chainRollcall d => d.wf
  | .chainSend d dest message => d.wf && HostCmd.wf (.chainSend dest message)
  | .eventRouteSources d first last toRing vector => d.wf && HostCmd.wf (.eventRouteSources first last toRing vector)
  | .eventRouteVector d vector holdoff count => d.wf && HostCmd.wf (.eventRouteVector vector holdoff count)
  | .fwLoadStage d length image => d.wf && HostCmd.wf (.fwLoadStage length image)
  | .fwLoadActivate d => d.wf
  | .doorbellFetch t _ => u64 t
  | .scheduledActionExecute t => u64 t
  | .tileSwitchReturn t tile => u64 t && decide (tile < 8)
  | .htSecondsBoundary t => u64 t
  | .ppsinEdge t sub => u64 t && decide (sub < 1024)
  | .ppsMissing t => u64 t
  | .htSlewDone t => u64 t
  | .htStep t => u64 t
  | .syncinEdge t => u64 t
  | .syncinReset t => u64 t
  | .spllWindowEnd t _ => u64 t
  | .refinMissingEdge t => u64 t
  | .spllPhaseLock t => u64 t
  | .spllAcquireTimeout t => u64 t
  | .tsynUnlock t tile => u64 t && decide (tile < 8)
  | .tsynRelockRetry t tile => u64 t && decide (tile < 8)
  | .ksynUnlock t => u64 t
  | .detectorPeriodEnd t half r => u64 t && decide (half < 16) && r.samples.all (signed 14)
  | .levellerDwellExpiry t half band => u64 t && decide (half < 16) && decide (band < 3)
  | .levellerStepLanding t half band => u64 t && decide (half < 16) && decide (band < 3)
  | .adcClip t half samples => u64 t && decide (half < 16) && decide (samples ≤ 16)
  | .antpwrCurrentLimit t half current => u64 t && decide (half < 16) && u16 current
  | .antpwrOpen t half current => u64 t && decide (half < 16) && u16 current
  | .gpioEdge t pin level => u64 t && decide (pin < 16) && decide (level ≤ 1)
  | .i2cTransactionStart t => u64 t
  | .i2cTransactionDone t _ => u64 t
  | .i2cClockHeld t => u64 t
  | .tempSensorRead t sensor _ => u64 t && decide (sensor < 17)
  | .calRunStart t half => u64 t && decide (half < 16)
  | .calPhaseEnd t half => u64 t && decide (half < 16)
  | .calRunEnd t half _ => u64 t && decide (half < 16)
  | .calRampIncrement t half => u64 t && decide (half < 16)
  | .bgConverged t e => u64 t && decide (e.half < 16)
  | .bgHeld t half => u64 t && decide (half < 16)
  | .kiteCalRun t => u64 t
  | .kiteCalDone t _ _ => u64 t
  | .ctxPresencePass t ctx _ => u64 t && decide (ctx < 1024)
  | .ctxDetection t ctx _ => u64 t && decide (ctx < 1024)
  | .ctxConfirmation t ctx _ => u64 t && decide (ctx < 1024)
  | .ctxLoss t ctx _ => u64 t && decide (ctx < 1024)
  | .acquireTimeout t ctx _ => u64 t && decide (ctx < 1024)
  | .confirmTimeout t ctx _ => u64 t && decide (ctx < 1024)
  | .lostTimeout t ctx _ => u64 t && decide (ctx < 1024)
  | .holdEnd t half => u64 t && decide (half < 16)
  | .qualityWindowEnd t ctx _ => u64 t && decide (ctx < 1024)
  | .amFmBlock t ctx _ => u64 t && decide (ctx < 1024)
  | .xfadeDone t ctx => u64 t && decide (ctx < 1024)
  | .pilotAbsent t ctx => u64 t && decide (ctx < 1024)
  | .pilotLock t ctx => u64 t && decide (ctx < 1024)
  | .pilotLost t ctx => u64 t && decide (ctx < 1024)
  | .rdsBlock t ctx _ => u64 t && decide (ctx < 1024)
  | .dabFrame t ctx _ => u64 t && decide (ctx < 1024)
  | .selectionAbsent t ctx sel => u64 t && decide (ctx < 1024) && u8 sel
  | .dabplusSuperframe t ctx sel _ => u64 t && decide (ctx < 1024) && u8 sel
  | .l2Frame t ctx sel _ => u64 t && decide (ctx < 1024) && u8 sel
  | .drmFrame t ctx _ => u64 t && decide (ctx < 1024)
  | .muxReconf t ctx _ => u64 t && decide (ctx < 1024)
  | .blockDeadline t ctx sel _ => u64 t && decide (ctx < 1024) && u8 sel
  | .poolSaturated t half => u64 t && decide (half < 16)
  | .poolClear t half => u64 t && decide (half < 16)
  | .linkMatchWindow t set ctx sel _ => u64 t && u16 set && decide (ctx < 1024) && u8 sel
  | .linkUnitMatch t set ctx sel _ => u64 t && u16 set && decide (ctx < 1024) && u8 sel
  | .linkNoMatch t set ctx sel => u64 t && u16 set && decide (ctx < 1024) && u8 sel
  | .linkBlend t set => u64 t && u16 set
  | .followEvaluation t => u64 t
  | .followActionExecute t => u64 t
  | .scanDwellEnd t => u64 t
  | .dbEntryAged t => u64 t
  | .motObjectTimeout t ctx sel transportId => u64 t && decide (ctx < 1024) && u8 sel && u16 transportId
  | .recordCloseTimeout t flow => u64 t && u16 flow
  | .egressRecordStart t link => u64 t && decide (link < 3)
  | .bufferFlush t ring => u64 t && decide (ring < 512)
  | .memberUnderrun t flow span => u64 t && u16 flow && u64 span
  | .dramCorrected t line channel => u64 t && u64 line && u8 channel
  | .dramUncorrectable t line channel _ => u64 t && u64 line && u8 channel
  | .msixHoldoffExpiry t vector => u64 t && decide (vector < 64)
  | .msixUnmask t vector => u64 t && decide (vector < 64)
  | .kiteConfigApply t => u64 t
  | .kiteDecision t => u64 t
  | .kiteTxEnd t => u64 t
  | .kiteWindowBoundary t => u64 t
  | .kiteDetection t _ => u64 t
  | .kiteSyncDone t demod shift _ => u64 t && decide (demod < 8) && decide (shift < 4096)
  | .kiteSyncTimeout t demod => u64 t && decide (demod < 8)
  | .kiteHeaderDone t demod _ => u64 t && decide (demod < 8)
  | .kitePayloadDone t demod _ => u64 t && decide (demod < 8)
  | .audioClockStart t port => u64 t && decide (port < 8)
  | .audioFirstFrame t port => u64 t && decide (port < 8)
  | .audioTrailEnd t port => u64 t && decide (port < 8)
  | .audioFsEdge t port bclks _ => u64 t && decide (port < 8) && u32 bclks
  | .audioSlip t port fill _ => u64 t && decide (port < 8) && decide (fill ≤ 32)
  | .audioXrun t port _ _ cause => u64 t && decide (port < 8) && u8 cause
  | .audioStall t port => u64 t && decide (port < 8)
  | .audioResume t port _ => u64 t && decide (port < 8)
  | .tetherLinkDown t _ _ => u64 t
  | .tetherLinkUp t _ _ => u64 t
  | .rollCall t _ => u64 t
  | .rollCallAnswer t addr _ => u64 t && decide (addr < 1024)
  | .masterClaim t addr _ => u64 t && decide (addr < 1024)
  | .stepNotice t _ _ => u64 t
  | .chainTransferAck t seq status => u64 t && u32 seq && u8 status
  | .chainMsgDelivery t src seq _ => u64 t && decide (src < 1024) && u32 seq
  | .chainCommandArrival t src seq _ d c => u64 t && decide (src < 1024) && u32 seq && d.wf && c.wf
  | .tetherDcFault t _ => u64 t
  | .tetherDcRetry t _ _ => u64 t
  | .vinStart t vin => u64 t && u16 vin
  | .braceEntry t vin => u64 t && u16 vin
  | .braceExit t vin vinMin => u64 t && u16 vin && u16 vinMin
  | .braceVinLow t => u64 t
  | .vinReset t vin _ => u64 t && u16 vin
  | .vinOverVoltage t vin => u64 t && u16 vin
  | .powerReset t => u64 t
  | .railTrip t group value _ => u64 t && u8 group && u64 value
  | .watchdogExpiry t cpu => u64 t && u8 cpu
  | .porstN t => u64 t
  | .hostReset t => u64 t
  | .bootImageSearch t _ => u64 t
  | .bootWaitTimeout t => u64 t
  | .firstLight t => u64 t
  | .partFull t => u64 t
  | .quarantineReboot t => u64 t
  | .chainBootTimeout t => u64 t
  | .fwActivateReset t => u64 t
  | .tileLinkFault t tile detail => u64 t && decide (tile < 8) && u32 detail
  | .memoryFault t half detail => u64 t && decide (half < 16) && u32 detail
  | .converterStuck t half => u64 t && decide (half < 16)
  | .tileResetDone t tile _ => u64 t && decide (tile < 8)
  | .hifEnable t => u64 t
  | .hifDisable t => u64 t
  | .hifLock t => u64 t
  | .hifQuiesced t => u64 t
  | .hifNudge t value => u64 t && u64 value
  | .pmuVinWarn t value => u64 t && u64 value
  | .tetTimeDisagree t value => u64 t && u64 value
  | .secKeyWrite t slot => u64 t && u8 slot
  | .secKeyErase t slot => u64 t && u8 slot
  | .secHbootGo t _ => u64 t
  | .dbgLockTest t target => u64 t && u8 target
  | .dbgLockTestDone t longest => u64 t && u16 longest
  | .dbgTileReset t tile => u64 t && decide (tile < 8)
  | .registerWrite t offset width value => u64 t && decide (offset < 65536) && decide (width ≤ 8) && u64 value
  | .muteLead t half => u64 t && decide (half < 16)
  | .muteTrail t pin => u64 t && decide (pin < 16)
  | .ksynRelock t => u64 t
  | .vinOverVoltageRelease t vin => u64 t && u16 vin
  | .fwLoadStageDone t _ => u64 t
  | .chainCompletionArrival t src seq _ => u64 t && decide (src < 1024) && u32 seq
  | .chainEventArrival t src seq _ => u64 t && decide (src < 1024) && u32 seq
  | .chainRecordArrival t src _ => u64 t && decide (src < 1024)
  | .chainConfigArrival t _ => u64 t
  | .chainRouteUpdate t _ => u64 t
  | .chainEnumerationWalk t addr chainId epoch => u64 t && decide (addr < 1024) && u32 chainId && u32 epoch
  | .masterSecondsMarker t sub delayNs => u64 t && decide (sub < 1024) && u32 delayNs
  | .audioPortFrame t f => u64 t && decide (f.port < 8) && f.sdi.all u32

end Sys2Proof
end

