-- ==== Sys2Proof/Safety.lean ====
section
/-! DEFINITION. What counts as a sound part: the invariants that every command keeps, and the terms in which the statements speak of a
command that is read from a ring, of its answer and of the frame around an effect. -/

namespace Sys2Proof.Safety

open Sys2Proof.Machine

/-! ## Soundness -/

/-- What is fused into the silicon (R1, R2): the variant, the temperature grade, the silicon revision. -/
structure Fused where
  variant : Variant
  gradeI : Bool
  letter : Nat
  digit : Nat
deriving DecidableEq, Repr

/-- The fused identity of a part. -/
def fusedOf (m : Part) : Fused := ⟨m.ident.variant, m.ident.gradeI, m.ident.siliconLetter, m.ident.siliconDigit⟩

/-- Eight tiles, sixteen halves, pins, ports, demodulators, rings and sensors: the fixed arrays of the family (R12, R123, R315, R389, R402,
R451). -/
def Arrays (m : Part) : Prop :=
  m.tiles.length = 8 ∧ m.halves.length = 16 ∧ m.gpio.length = 16 ∧ m.ports.length = 8 ∧ m.kite.demods.length = 8
    ∧ m.power.sensors.length = 17 ∧ m.hif.cmdq.length = 4 ∧ m.hif.cplq.length = 4

/-- The scheduled-action queue holds at most 1024 actions, and EV_SCHED_HIGH is armed exactly while R53's hysteresis allows it. -/
def SchedSound (q : Sched) : Prop :=
  q.queue.length ≤ 1024 ∧ (q.high = false → q.queue.length < 896) ∧ (q.high = true → 768 ≤ q.queue.length)

/-- At most 1024 events are held (R347), and the Oasis log holds at most 64 (Table PWR-7). -/
def EventsSound (m : Part) : Prop := m.hif.evq.held.length ≤ 1024 ∧ m.oasis.log.length ≤ 64

/-- A sound part with a given fused identity. -/
structure Sound (f : Fused) (m : Part) : Prop where
  fused : fusedOf m = f
  arrays : Arrays m
  sched : SchedSound m.sched
  events : EventsSound m

/-! ## Commands from a ring -/

/-- The part once the command's descriptor has been read from its ring (R52, R320). -/
def readPart (d : Desc) (m : Part) : Part := (readDesc d m).getD m

/-- The descriptor of `c` is read by the part that is to execute it, and passes checks 1 to 3 of Table HIF-5 (R324, R326, R429). -/
structure Admitted (d : Desc) (c : HostCmd) (m : Part) : Prop where
  read : (readDesc d m).isSome = true
  primary : isHead m = true ∨ secondaryAllows c = true
  clean : d.clean = true
  readable : d.readable = true
  here : d.dest = ownAddr m
  trusted : m.chain.quarantined = false

/-- The command passes every check of Table HIF-5 and carries at = 0 (R50, R326, R339). -/
structure Executes (d : Desc) (c : HostCmd) (m : Part) : Prop extends Admitted d c m where
  atOnce : d.due = 0
  block : needsBlock c = true → d.res = true ∧ d.resSize ≠ 0
  passed : checkCmd d c (readPart d m) = stOk
  unlocked : locked c (readPart d m) = false

/-- The state in which the command has been answered `r`, on the part `m`. -/
def answered (d : Desc) (c : HostCmd) (r : Reply) (m : Part) (s : State) : State := { s with part := finish d .ring (opcodeOf c) r m }

/-- The part `m` with the words told to others as they are in `u`: the host interface, the host's memory, the Oasis event log and the
transfers on the chain. -/
def told (m u : Part) : Part := { m with
  hif := u.hif
  host := u.host
  oasis := { m.oasis with log := u.oasis.log, logHead := u.oasis.logHead }
  chain := { m.chain with transfers := u.chain.transfers, nextSeq := u.chain.nextSeq } }

/-- No action falls on this tick: none of the queue, none of following, no reset that an edge has fixed (R51, R54, R68, R296). -/
structure Quiet (m : Part) : Prop where
  queue : ∀ a ∈ m.sched.queue, m.clock.ht < a.due
  following : ∀ a ∈ m.service.actions, m.clock.elapsed < a.due
  resets : ∀ r ∈ m.syncin.pending, m.clock.elapsed < r.due

/-- The state in which the part has become `m`; its queue is as it was. -/
def withPart (s : State) (m : Part) : State := { s with part := m }

end Sys2Proof.Safety
end

