-- ==== Sys2Proof/Certificates/Slice0/Obligations.lean ====
section
/-! DEFINITION. The statements for the provers. Each says which rules of the spec it rests on. -/

open Sys2Proof Sys2Proof.Machine Sys2Proof.Safety

/-! ## Commands from a ring complete with their own effect

A command that passes every check of Table HIF-5 (`Executes`) is answered at once on the part `m` that has read its descriptor; what is not
named in the new part is as it was. -/

/-- NOP and IDENTIFY change nothing; EVENT_ROUTE SOURCES routes every defined source of its range, EVENT_ROUTE VECTOR sets its vector's
holdoff and count, and sends the message that the new values ask for (Table HIF-8, R336, R349, R350). -/
def Obligations.HostCommandsComplete : Prop :=
  ∀ (d : Desc) (s : State),
    (Executes d .nop s.part →
      exec (.nop d) s = .next (answered d .nop { status := stOk } (readPart d s.part) s)) ∧
    (Executes d .identify s.part →
      exec (.identify d) s = .next (answered d .identify { status := stOk, chunks := [identifyBody (readPart d s.part)] }
        (readPart d s.part) s)) ∧
    (∀ first last toRing vec, let c := HostCmd.eventRouteSources first last toRing vec
      let m := readPart d s.part
      Executes d c s.part →
        exec (.eventRouteSources d first last toRing vec) s = .next (answered d c { status := stOk }
          { m with hif := { m.hif with
              routes := (sourceRange first last).foldl (fun l n => put n ⟨decide (toRing = 1), vec⟩ l) m.hif.routes } } s)) ∧
    (∀ vec holdoff count, let c := HostCmd.eventRouteVector vec holdoff count
      let m := readPart d s.part
      let x : Machine.Vector := { Machine.vector vec m with holdoff := orDefault 2 0 holdoff, count := orDefault 1 1 count }
      Executes d c s.part →
        exec (.eventRouteVector d vec holdoff count) s = .next (answered d c { status := stOk }
          (if 0 < x.triggers ∧ (x.holdoff = 0 ∨ x.count ≤ x.triggers) then sendVector vec (setVector vec x m) else setVector vec x m) s))

/-- HALF_SETUP MODE gives the half or the pair the mode that its code names; LEVELLER configures the band and, in MANUAL, makes or
postpones the step; ANTPWR and EXT_GAIN set the half's output and gain (R22, R23, R25, R100, R108, R110, R128). -/
def Obligations.HalfCommandsComplete : Prop :=
  ∀ (d : Desc) (h : Nat) (s : State), let m := readPart d s.part
    (∀ mode input, let c := HostCmd.halfSetupMode h mode input
      Executes d c s.part → ∃ k, halfModeOf mode = some k ∧
        exec (.halfSetupMode d h mode input) s = .next (answered d c { status := stOk }
          (if k.paired then setPair h k (decide (input = 1)) m else setAlone h k m) s)) ∧
    (∀ p, let c := HostCmd.halfSetupLeveller h p
      let m' := onBand h p.band (Band.configure (decodeLev p) m.clock.elapsed) m
      Executes d c s.part →
        exec (.halfSetupLeveller d h p) s = .next (answered d c { status := stOk }
          (landSteps (if levMode (decodeLev p).mode ≠ .manual ∨ (bandAt h p.band m').target = (decodeLev p).manual then m'
           else if levFrozen h m' then onBand h p.band (fun b => { b with manualPending := true }) m'
           else announceStep h p.band (decodeLev p).manual m.clock.elapsed m')) s)) ∧
    (∀ setting, let c := HostCmd.halfSetupAntpwr h setting
      Executes d c s.part → ∃ v, antSetting setting = some v ∧
        exec (.halfSetupAntpwr d h setting) s = .next (answered d c { status := stOk }
          (onHalf h (fun x => if x.antpwr = v then x else { x with antpwr := v, antCurrent := 0 }) m) s)) ∧
    (∀ gain, let c := HostCmd.halfSetupExtGain h gain
      Executes d c s.part →
        exec (.halfSetupExtGain d h gain) s = .next (answered d c { status := stOk }
          (onHalf h (fun x => { x with extGain := gain }) m) s))

/-- ACC_GPIO gives its pin one of the functions of Table RFI-9; ACC_I2C queues its transaction and completes when it ends (R123, R125,
R126). -/
def Obligations.AccessoryCommandsComplete : Prop :=
  ∀ (d : Desc) (h : Nat) (s : State), let m := readPart d s.part
    (∀ p, let c := HostCmd.accGpio h p
      let iso (g : Gpio) : Gpio := { g with
        function := .isoFollow, half := p.isoHalf, activeLow := decide (p.polarity = 1),
        lead := orDefault 2 512 p.muteLead, trail := orDefault 2 512 p.muteTrail, muteUntil := none }
      Executes d c s.part →
        exec (.accGpio d h p) s = .next (answered d c { status := stOk }
          { m with gpio := m.gpio.modify p.pin fun g =>
              if p.function = 0 then { g with
                  function := .input, debounce := p.debounce, asserted := false, muteUntil := none
                  acceptedAt := if g.function = .input then g.acceptedAt else some m.clock.elapsed }
              else if p.function = 1 then { g with function := .output, level := p.level, asserted := false, muteUntil := none }
              else (iso g).drive ((iso g).wanted m) } s)) ∧
    (∀ p, let c := HostCmd.accI2c h p
      Executes d c s.part →
        exec (.accI2c d h p) s = .next { s with part := { m with i2c := { m.i2c with
          queue := m.i2c.queue ++ [{ desc := d, origin := .ring, params := p, execHt := m.clock.ht }] } } })

/-- PLAN_PREPARE holds a plan whose entries all validate, with their dividers in the shadow registers, and otherwise lists every entry and
prepares nothing; PLAN_COMMIT executes the entries in commit order and holds the contexts of its tiles; PLAN_ABORT withdraws a pending
commit with ST_ABORTED and discards the plan (R337, R338, R340, R341). -/
def Obligations.PlanCommandsComplete : Prop :=
  ∀ (d : Desc) (plan : Nat) (s : State), let m := readPart d s.part
    (∀ entries, let c := HostCmd.planPrepare plan entries
      let l := validate (closedBy entries) (commitOrder entries) m
      let targets := entryTargets entries.length l
      Executes d c s.part →
        exec (.planPrepare d plan entries) s = .next
          (if l.all fun r => decide (r.status = stOk) then
            answered d c { status := stOk, result := searchMask entries l, targets := targets }
              (entries.foldl (fun m e => loadShadow plan e m) { m with plans := put plan { entries := entries } m.plans }) s
           else answered d c { status := stPrepareFail, targets := targets } m s)) ∧
    (∀ p, let c := HostCmd.planCommit plan
      let r := runEntries plan (commitOrder p.entries) { m with plans := erase plan m.plans }
      let m' := dropPlan plan r.2
      let tiles := switchedTiles plan p.entries m'
      let ctxs := ((p.entries.flatMap entryCtxs) ++ tiles.flatMap fun t => ctxsOfTile t m').dedup.filter fun c => has c m'.ctxs
      Executes d c s.part → look plan m.plans = some p →
        exec (.planCommit d plan) s = .next (answered d c
          { status := listStatus (r.1.map EntryResult.status), targets := entryTargets p.entries.length r.1 } (holdPlan plan tiles ctxs m') s)) ∧
    (Executes d (.planAbort plan) s.part →
        exec (.planAbort d plan) s = .next (answered d (.planAbort plan) { status := stOk }
          (tidyPins (dropPlan plan (withdraw (fun a => decide (a.cmd = .planCommit plan)) stAborted m))) s))

/-- CTX_OPEN and CTX_WATCH open the slot with the parameters of Table HIF-10, CTX_RETUNE retunes it, and each answers the free load units
of the half, but a DAB context that holds more selections than its new reserve stays as it is, with ST_NO_CAPACITY; CTX_CLOSE closes it, or releases it while only an open that has not executed holds it, and CTX_QUERY reports it. A retune or
a query of a slot that holds no context yet completes with ST_NO_CONTEXT, or ST_FENCED on a fenced half (R168-R177, R333-R335). -/
def Obligations.ContextCommandsComplete : Prop :=
  ∀ (d : Desc) (s : State), let m := readPart d s.part
    (∀ p, let c := HostCmd.ctxOpen p
      let m' := openCtx p.ctx (decodeCtx false p) m
      Executes d c s.part →
        exec (.ctxOpen d p) s = .next (answered d c { status := stOk, result := freeLu (ctxHalf p.ctx) m' } m' s)) ∧
    (∀ p, let c := HostCmd.ctxWatch p
      let m' := openCtx p.ctx (decodeCtx true p) m
      Executes d c s.part →
        exec (.ctxWatch d p) s = .next (answered d c { status := stOk, result := freeLu (ctxHalf p.ctx) m' } m' s)) ∧
    (∀ p, let c := HostCmd.ctxRetune p
      let m' := retuneCtx p.ctx causeCommand (decodeCtx false p) m
      Executes d c s.part →
        exec (.ctxRetune d p) s = .next
          (if (ctx p.ctx m).isNone then answered d c { status := noCtx p.ctx m } m s
           else if (ctx p.ctx m).any (fun x => decide (x.cfg.type = 7 ∧ p.type = 7 ∧ (decodeCtx false p).reserve < x.sels.length)) then
             answered d c { status := stNoCapacity } m s
           else answered d c { status := stOk, result := freeLu (ctxHalf p.ctx) m' } m' s)) ∧
    (∀ k, let c := HostCmd.ctxClose k
      Executes d c s.part → (ctx k m).isSome = true ∨ (m.sched.queue.any fun a => isOpen a.cmd && (ctxsOf a.cmd).contains k) = true →
        exec (.ctxClose d k) s = .next (answered d c { status := stOk } (closeNow k m) s)) ∧
    (∀ k x, let c := HostCmd.ctxQuery k
      let last := if digitalType x.cfg.type then digitalSection x else analogueSection x
      Executes d c s.part → ctx k m = some x →
        exec (.ctxQuery d k) s = .next (answered d c
          { status := stOk, chunks := [contextSection k x m] ++ qualitySection k x ++ [frontSection k m, last] } m s)) ∧
    (∀ k, Executes d (.ctxQuery k) s.part → ctx k m = none →
        exec (.ctxQuery d k) s = .next (answered d (.ctxQuery k) { status := noCtx k m } m s))

/-- COEF_LOAD writes the inactive bank of an open context and COEF_SWAP makes it the active one, at once or over a cross-fade; either
finds both banks in use while a fade runs and completes with ST_COEF_BUSY. SYNC_ARM JOIN and LEAVE set the context's group, RESET resets
the group's members and lists them when one failed, ARM_SYNCIN and DISARM set and clear the group's arming (R156-R164, Table CHN-5). -/
def Obligations.FilterCommandsComplete : Prop :=
  ∀ (d : Desc) (s : State), let m := readPart d s.part
    (∀ k count scale words x, let c := HostCmd.coefLoad k count scale words
      let m' := settleFade k m
      let bank : Bank := { words := some words, scale := scale }
      Executes d c s.part → ctx k m' = some x → tapsOf k x.cfg.type m' = count →
        exec (.coefLoad d k count scale words) s = .next
          (if x.chain.fade.isSome then answered d c { status := stCoefBusy } m' s
           else answered d c { status := stOk, result := Config.crc32 words }
            (onCtx k (fun x => { x with chain :=
              if x.chain.active1 then { x.chain with bank0 := bank } else { x.chain with bank1 := bank } }) m') s)) ∧
    (∀ k xfade x, let c := HostCmd.coefSwap k xfade
      let m' := settleFade k m
      let fade : Fade := { len := xfade, first := gridAt (family x.cfg.type).k m'.clock.elapsed m' }
      Executes d c s.part → ctx k m' = some x →
        exec (.coefSwap d k xfade) s = .next
          (if x.chain.fade.isSome then answered d c { status := stCoefBusy } m' s
           else answered d c { status := stOk }
            (onCtx k (fun x => { x with chain := { x.chain with
              active1 := !x.chain.active1, fade := if xfade = 0 then none else some fade } }) m') s)) ∧
    (∀ g k, Executes d (.syncArmJoin g k) s.part → (ctx k m).isSome = true →
      exec (.syncArmJoin d g k) s = .next (answered d (.syncArmJoin g k) { status := stOk }
        (onCtx k (fun x => { x with group := some g }) m) s)) ∧
    (∀ k, Executes d (.syncArmLeave k) s.part → (ctx k m).isSome = true →
      exec (.syncArmLeave d k) s = .next (answered d (.syncArmLeave k) { status := stOk }
        (onCtx k (fun x => { x with group := none }) m) s)) ∧
    (∀ g syncout phase, let c := HostCmd.syncArmReset g syncout phase
      let ts := resetTargets (members g m) m ++ (lostMembers g none m).map fun k => ⟨3, stFenced, k, 0⟩
      let failed := ts.any fun t => decide (t.status ≠ stOk)
      Executes d c s.part →
        exec (.syncArmReset d g syncout phase) s = .next (answered d c
          { status := if failed then stPartial else stOk, result := (members g m).length, targets := if failed then ts else [] }
          (resetGroup g (ncoPhase phase) (decide (syncout = 1)) m) s)) ∧
    (∀ g every syncout phase, let c := HostCmd.armSyncin g every syncout phase
      let arm : Armed := { every := decide (every = 1), syncout := decide (syncout = 1), phase := ncoPhase phase }
      Executes d c s.part →
        exec (.armSyncin d g every syncout phase) s = .next (answered d c { status := stOk }
          { m with syncin := { m.syncin with armed := put g arm m.syncin.armed } } s)) ∧
    (∀ g, Executes d (.disarm g) s.part →
      exec (.disarm d g) s = .next (answered d (.disarm g) { status := stOk }
        { m with syncin := { m.syncin with armed := erase g m.syncin.armed } } s))

/-- SVC_SELECT adds a selection to an open context whose reserve has room, or answers the one that it names already; SVC_DESELECT ends it. SVC_LINK CREATE, ADD,
REMOVE and DELETE form, extend, shrink and end a source set, and QUERY reports one; to REMOVE a source without a place changes nothing
(R170, R272-R274, Tables DIG-4, DEC-5). -/
def Obligations.SelectionCommandsComplete : Prop :=
  ∀ (d : Desc) (s : State), let m := readPart d s.part
    (∀ p x, let c := HostCmd.svcSelect p
      let y := newSelection p m.clock.elapsed
      let z : Selection := { y with sel := (described x.cfg.type x.dig.organisation y).elim y.sel SubDesc.sub }
      Executes d c s.part → ctx p.ctx m = some x → kindFits p.kind x.cfg.type = true →
        exec (.svcSelect d p) s = .next
          (match x.sels.find? fun y => decide (y.name = selName x.cfg.type p) with
           | none => if x.cfg.type = 7 ∧ x.cfg.reserve ≤ x.sels.length then answered d c { status := stNoCapacity } m s
             else answered d c { status := stOk, result := z.sel } (refreshCtx p.ctx (onSels p.ctx (fun l => l ++ [z]) m)) s
           | some y => if y.kind = p.kind then answered d c { status := stOk, result := y.sel } m s
             else answered d c { status := stBusy } m s)) ∧
    (∀ p x, let c := HostCmd.svcDeselect p
      Executes d c s.part → ctx p.ctx m = some x →
        exec (.svcDeselect d p) s = .next
          (match x.sels.find? fun y => decide (y.name = selName x.cfg.type p) with
           | none => answered d c { status := stOk } m s
           | some y => answered d c { status := stOk, result := y.sel } (endSelection p.ctx y none m) s)) ∧
    (∀ set l p, Executes d (.svcLinkCreate set l p) s.part →
      exec (.svcLinkCreate d set l p) s = .next (answered d (.svcLinkCreate set l p) { status := stOk } (createSet set l (decodeSet p) m) s)) ∧
    (∀ set src, Executes d (.svcLinkAdd set src) s.part →
      exec (.svcLinkAdd d set src) s = .next (answered d (.svcLinkAdd set src) { status := stOk } (addMember set src m) s)) ∧
    (∀ set k sel g i, Executes d (.svcLinkRemove set k sel) s.part → sourceSet set m = some g →
      (g.members.findIdx? fun y => decide (y.ctx = k ∧ y.sel = sel)) = some i →
      exec (.svcLinkRemove d set k sel) s = .next (answered d (.svcLinkRemove set k sel) { status := stOk } (removeMember set i m) s)) ∧
    (∀ set, Executes d (.svcLinkDelete set) s.part →
      exec (.svcLinkDelete d set) s = .next (answered d (.svcLinkDelete set) { status := stOk } (deleteSet set m) s)) ∧
    (∀ set g, Executes d (.svcLinkQuery set) s.part → sourceSet set m = some g →
      exec (.svcLinkQuery d set) s = .next (answered d (.svcLinkQuery set)
        { status := stOk, chunks := { bytes := 2, fields := [⟨0, 1, g.reference⟩, ⟨1, 1, branchCode g g.active⟩] } :: g.members.map (memberChunk g) }
        m s))

/-- SVC_FOLLOW_POLICY SET keeps a policy keyed on its home's service and CLEAR ends it; DB_CONFIG gives the limits that the next
evaluation takes; DB_DUMP writes BEGIN, one ADD for each entry and END to the database flows, and changes no entry; SCAN opens its watch
contexts and completes when its last dwell ends, or at once with ST_NO_CAPACITY when it got none (R285-R302). -/
def Obligations.FollowingCommandsComplete : Prop :=
  ∀ (d : Desc) (s : State), let m := readPart d s.part
    (∀ p, let c := HostCmd.svcFollowSet p
      let f : Follow := { params := followDefaults p, setCfg := decodeSet p.setParams, key := homeKey p.ctx p.sel m }
      Executes d c s.part →
        exec (.svcFollowSet d p) s = .next (answered d c { status := stOk }
          { m with service := { m.service with policies := put p.set f m.service.policies } } s)) ∧
    (∀ set, Executes d (.svcFollowClear set) s.part →
      exec (.svcFollowClear d set) s = .next (answered d (.svcFollowClear set) { status := stOk } (endPolicy set m) s)) ∧
    (∀ age keep mask, let c := HostCmd.dbConfig age keep mask
      Executes d c s.part →
        exec (.dbConfig d age keep mask) s = .next (answered d c { status := stOk }
          { m with service := { m.service with db := { m.service.db with
              next := some (orDefault 2 15 age, orDefault 1 8 keep, mask) } } } s)) ∧
    (let db := m.service.db
     let m1 := db.services.foldl (fun m e => dbItem (serviceBody opAdd e) m) (dbItem (markBody 0) m)
     let m2 := db.freqs.foldl (fun m e => dbItem (freqBody opAdd e) m) m1
     let m3 := db.links.foldl (fun m e => dbItem (linkBody opAdd e) m) m2
     Executes d .dbDump s.part →
      exec (.dbDump d) s = .next (answered d .dbDump { status := stOk } (dbItem (markBody 1) m3) s)) ∧
    (∀ p, let c := HostCmd.scan p
      let r := scanOpen (scanSlots p.half p.watches m) (scanChannels p) [] m
      let run : ScanRun := { desc := d, origin := .ring, execHt := r.2.2.clock.ht, ctxs := r.1, left := r.2.1, found := 0,
                             dwell := tenth * orDefault 1 5 p.dwell, dwellEnd := r.2.2.clock.elapsed + tenth * orDefault 1 5 p.dwell }
      Executes d c s.part →
        exec (.scan d p) s = .next
          (if r.1.isEmpty then answered d c { status := stNoCapacity } r.2.2 s
           else { s with part := { r.2.2 with service := { r.2.2.service with scans := r.2.2.service.scans ++ [run] } } }))

/-- FLOW_CREATE makes an unbound flow; FLOW_BIND binds it, taking a ring that was not in use; FLOW_SHAPE sets its weight, rate and burst;
FLOW_DELETE unbinds and removes it with its captures; TIMESHIFT_SET sets its window and delay; CAPTURE_START captures on the halves of its
mask that can be captured and CAPTURE_STOP stops them, each listing its targets when one failed (R351-R370). -/
def Obligations.FlowCommandsComplete : Prop :=
  ∀ (d : Desc) (n : Nat) (s : State), let m := readPart d s.part
    (∀ p, let c := HostCmd.flowCreate p
      let f : Flow := { type := p.type, subtype := p.subtype, source := p.source, sel := p.sel, blank := p.blank, length := payloadLength p,
                        accrued := m.clock.elapsed, produced := m.clock.elapsed }
      Executes d c s.part →
        exec (.flowCreate d p) s = .next (answered d c { status := stOk } { m with flows := put p.flow f m.flows } s)) ∧
    (∀ p, let c := HostCmd.flowBind n p
      Executes d c s.part → bindAllowed n p m = true →
        exec (.flowBind d n p) s = .next (answered d c { status := stOk }
          (retarget n (bindTarget p) (if p.target = 1 then takeRing p.a p.entry m else m)) s)) ∧
    (∀ weight rate burst, let c := HostCmd.flowShape n weight rate burst
      let b := orDefault 4 65536 burst
      Executes d c s.part →
        exec (.flowShape d n weight rate burst) s = .next (answered d c { status := stOk }
          (refreshTags (onFlow n (fun f => { accrue m f with
            weight := orDefault 2 256 weight, rate := if rate = 2 ^ 32 - 1 then none else some rate, burst := b,
            ballast := min (accrue m f).ballast (65536 * b) }) m)) s)) ∧
    (let m' := retarget n .none m
     Executes d (.flowDelete n) s.part →
        exec (.flowDelete d n) s = .next (answered d (.flowDelete n) { status := stOk }
          (refreshTags { m' with flows := erase n m'.flows, captures := m'.captures.filter fun k => decide (k.flow ≠ n) }) s)) ∧
    (∀ w delay, let c := HostCmd.timeshiftSet n w delay
      Executes d c s.part →
        exec (.timeshiftSet d n w delay) s = .next (answered d c { status := stOk }
          (refreshTags (onFlow n (fun f => { f with window := w, delay := delay, windowBytes := windowSize f w m }) m)) s)) ∧
    (∀ mask mode bytes, let c := HostCmd.captureStart mask mode n bytes
      let hs := maskHalves mask
      let ok := hs.filter fun h => decide (captureTarget h m = stOk)
      let size (h : Nat) : Nat := bytes / groupBytes (tile (halfTile h) m).plan * groupBytes (tile (halfTile h) m).plan
      Executes d c s.part → (m.captures.any fun k => hs.contains k.half) = false → 2 ^ 30 + (ok.map size).sum ≤ poolSize m →
        exec (.captureStart d mask mode n bytes) s = .next (answered d c
          (targetsReply (hs.map fun h => { kind := 1, status := captureTarget h m, id := h, detail := 0 }))
          { m with captures := m.captures ++ ok.map fun h =>
              { half := h, circular := decide (mode = 1), flow := n, size := size h, produced := m.clock.elapsed } } s)) ∧
    (∀ mask, Executes d (.captureStop mask) s.part →
      exec (.captureStop d mask) s = .next (answered d (.captureStop mask)
        (targetsReply ((maskHalves mask).map fun h =>
          { kind := 1, status := if isFenced h m then stFenced else stOk, id := h, detail := 0 }))
        (freeCaptures ((maskHalves mask).foldl (fun m h => stopCapture h m) m)) s))

/-- KITE_CONFIG returns frames decided but not begun to their queues and starts the search for its channels, and a configuration that is still searching completes with ST_ABORTED; KITE_SESSION
opens, closes, updates and flushes sessions; KITE_SEND gives the frame the session's counter and queues it; KITE_BUDGET sets a bucket's
rate and burst, and cuts its balance to the burst (R375, R376, R394, R397-R399). A session command that no longer fits its session when it
executes is answered with the status of that check. -/
def Obligations.KiteCommandsComplete : Prop :=
  ∀ (d : Desc) (n : Nat) (s : State), let m := readPart d s.part
    (∀ count b, let c := HostCmd.kiteConfig count b
      let m1 := returnTxs (fun _ => true) (freeDemods cntHop (settleTx m))
      let m2 := m1.kite.pending.elim m1 fun p => finish p.desc p.origin 0x50 { status := stAborted } m1
      Executes d c s.part →
        exec (.kiteConfig d count b) s = .next { s with
          part := onKite (fun k => { k with
            pending := some { block := decodeKite b, count := count, desc := d, origin := .ring } }) m2 }) ∧
    (∀ key peer ch, let c := HostCmd.kiteSessionOpen n key peer ch
      let x : KiteSession := { key := key, peer := peer, channel := ch }
      Executes d c s.part → openSessionStatus sessionNow n key ch m = stOk →
        exec (.kiteSessionOpen d n key peer ch) s = .next (answered d c { status := stOk }
          (sessionEvent n sessOpened x (onKite (fun k => { k with sessions := put n x k.sessions }) m)) s)) ∧
    (Executes d (.kiteSessionClose n) s.part → sessionStatus sessionNow n m = stOk →
      exec (.kiteSessionClose d n) s = .next (answered d (.kiteSessionClose n) { status := stOk } (closeSession n sessClosed txClose m) s)) ∧
    (∀ key ch, let c := HostCmd.kiteSessionUpdate n key ch
      let m' := onSession n (fun x =>
        if x.key = key then { x with channel := ch, tagged := false }
        else { x with channel := ch, key := key, txCount := 0, rxLast := none, tagged := false }) m
      Executes d c s.part → updateStatus sessionNow n key ch m = stOk →
        exec (.kiteSessionUpdate d n key ch) s = .next (answered d c { status := stOk }
          ((kiteSession n m').elim m' fun x => sessionEvent n sessUpdated x m') s)) ∧
    (let m' := discardWhere n txFlush (fun _ => true) m
     Executes d (.kiteSessionFlush n) s.part → sessionStatus sessionNow n m = stOk →
      exec (.kiteSessionFlush d n) s = .next (answered d (.kiteSessionFlush n) { status := stOk }
        ((kiteSession n m').elim m' fun x => sessionEvent n sessFlushed x m') s)) ∧
    (∀ cls len payload x, let c := HostCmd.kiteSend n cls len payload
      let fr : KiteFrame := { cls := cls, length := len, payload := payload, seq := x.txCount, tag := d.tag }
      Executes d c s.part → kiteSession n m = some x → x.txCount ≠ 2 ^ 32 - 1 → x.queue.length < 64 →
      (m.kite.sessions.map fun e => e.2.queue.length).sum < 16384 →
        exec (.kiteSend d n cls len payload) s = .next (answered d c { status := stOk, result := x.txCount }
          (onSession n (fun x => { x with queue := x.queue ++ [fr], txCount := x.txCount + 1 }) m) s)) ∧
    (∀ subBand cls rate burst, let c := HostCmd.kiteBudget subBand cls rate burst
      let m' := settleTx m
      let b := (bucketOf subBand cls m').accrue m'.clock.elapsed
      Executes d c s.part →
        exec (.kiteBudget d subBand cls rate burst) s = .next (answered d c { status := stOk }
          (setBucket subBand cls { b with rate := rate, burst := burst, balance := min b.balance (1000000 * burst) } m') s))

/-- AUDIO_PORT_CONFIG configures its port and AUDIO_PORT_STOP stops it; AUDIO_PORT_START and CAL_RUN with at = 0 take the first tick of
their lead and a queue entry, and CAL_RUN fixes its runs at acceptance; CAL_POLICY sets the policy of its halves, which are then judged
(R131-R134, R403, R408, R409). -/
def Obligations.AudioAndCalibrationCommandsComplete : Prop :=
  ∀ (d : Desc) (s : State), let m := readPart d s.part
    (∀ p, Executes d (.audioPortConfig p) s.part →
      exec (.audioPortConfig d p) s = .next (answered d (.audioPortConfig p) { status := stOk }
        (settleMclk (onPort p.port (fun x => { x with cfg := portCfg p }) m)) s)) ∧
    (∀ p, let c := HostCmd.audioPortStart p
      Executes d c s.part → m.sched.queue.length < 1024 →
        exec (.audioPortStart d p) s = .next { s with part := enqueue (portTick c (m.clock.ht + leadOf c m) m) false d .ring c m }) ∧
    (∀ p, Executes d (.audioPortStop p) s.part →
      exec (.audioPortStop d p) s = .next (answered d (.audioPortStop p) { status := stOk } (stopPort p m) s)) ∧
    (∀ h auto deltaT ws, let c := HostCmd.calPolicy h auto deltaT ws
      Executes d c s.part →
        exec (.calPolicy d h auto deltaT ws) s = .next (answered d c { status := stOk }
          ((calHalves h m).foldl (fun m k => wantRun k (onCal k (fun x => { x with
            auto := decide (orDefault 1 0 auto = 0), deltaT := orDefault 1 4 deltaT, windows := ws.map decodeWindow }) m)) m) s)) ∧
    (∀ h, let c := HostCmd.calRun h
      Executes d c s.part → m.sched.queue.length < 1024 →
        exec (.calRun d h) s = .next { s with
          part := fixAccepted s.part.sched.nextOrder (enqueue (m.clock.ht + 2048) false d .ring c m) })

/-- CLOCK_CONFIG completes ST_OK: an optional field that is absent keeps its value, one that is all ones takes the default, and any other is
the new value (R62, R75, R328); a source that is named is the source of HT; HT goes on counting, and outside the clock, the SPLL and the
election of a time master only what is told of it changes. -/
def Obligations.ClockConfigCompletes : Prop :=
  ∀ (d : Desc) (p : ClockParams) (s : State), Executes d (.clockConfig p) s.part →
    let num (f : Option Nat) (bytes default old : Nat) : Nat := f.elim old (orDefault bytes default)
    ∃ m', exec (.clockConfig d p) s = .next (answered d (.clockConfig p) { status := stOk } m' s) ∧
      m'.clock.slewLimit = num p.slewLimit 1 20 s.part.clock.slewLimit ∧
      m'.clock.stepLimit = num p.stepLimit 4 2000 s.part.clock.stepLimit ∧
      m'.clock.ppsDelay = p.ppsDelay.getD s.part.clock.ppsDelay ∧
      m'.spll.lockTol = num p.lockTol 1 20 s.part.spll.lockTol ∧
      m'.spll.nSpll = num p.nSpll 2 512 s.part.spll.nSpll ∧
      m'.spll.nTsyn = num p.nTsyn 2 512 s.part.spll.nTsyn ∧
      m'.spll.nKsyn = num p.nKsyn 2 512 s.part.spll.nKsyn ∧
      m'.clock.ht = s.part.clock.ht ∧
      (p.source = none → p.refFreq = none → m'.clock.source = s.part.clock.source) ∧
      (∀ v, p.source = some v → v ≠ 255 → m'.clock.source = sourceOf v) ∧
      m' = { told (readPart d s.part) m' with
        clock := m'.clock, spll := m'.spll
        chain := { (told (readPart d s.part) m').chain with master := m'.chain.master, masterLocked := m'.chain.masterLocked } }

/-- CHAIN_ENUMERATE gives the head address 0, the chain of its TET_CHAIN_ID and the parts found, and a new epoch, unless a part holds
work; CHAIN_ROLLCALL answers the roll call; CHAIN_SEND sends to every destination named and completes when each has acknowledged. FW_LOAD
STAGE takes a valid image into the spare slot and completes when it is written; ACTIVATE prefers that slot and resets 10 ms later
(R426-R428, R440, R442, R459). -/
def Obligations.ChainCommandsComplete : Prop :=
  ∀ (d : Desc) (s : State), let m := readPart d s.part
    (∀ options w, let c := HostCmd.chainEnumerate options w
      let found := w.parts.take 1023
      let closed := decide (options % 2 = 1) && w.returned && !w.broken
      Executes d c s.part →
        (busyParts found ≠ [] →
          exec (.chainEnumerate d options w) s = .next (answered d c { status := stBusy, targets := busyParts found } m s)) ∧
        (busyParts found = [] → ∃ m', m'.chain.addr = some 0 ∧ m'.chain.chainId = m.regs.chainId ∧ m'.chain.parts = found.length + 1 ∧
          m'.chain.ring = closed ∧ m'.chain.epoch = (m.chain.epoch + 1) % 2 ^ 32 ∧ m'.oasis.addr = some 0 ∧
          m' = { told m m' with
            chain := m'.chain, clock := m'.clock, spll := m'.spll
            oasis := { (told m m').oasis with addr := some 0, chainId := m.regs.chainId } } ∧
          exec (.chainEnumerate d options w) s = .next (answered d c {
            status := if w.broken ∨ (decide (options % 2 = 1) ∧ !closed) then stPartial else stOk,
            result := found.length + 1 + if closed then 65536 else 0 } m' s))) ∧
    (Executes d .chainRollcall s.part →
      exec (.chainRollcall d) s = .next (answered d .chainRollcall { status := stOk, chunks := rollBody (settleRoll m) } (settleRoll m) s)) ∧
    (∀ dest message, let c := HostCmd.chainSend dest message
      let targets := if dest = 0xFFFF then
          (List.range m.chain.parts).filter fun a => decide (a ≠ ownAddr m) && joined (ownAddr m) a m
        else [dest]
      let r := sendTo message targets [] [] m
      let single := decide (dest ≠ 0xFFFF)
      Executes d c s.part →
        exec (.chainSend d dest message) s = .next
          (if r.1.isEmpty then answered d c (sendReply single r.2.1) r.2.2 s
           else { s with
             part := onChain (fun k => { k with
               sends := k.sends ++ [{ desc := d, origin := .ring, waiting := r.1, failed := r.2.1, single := single }] }) r.2.2 })) ∧
    (∀ length image, let c := HostCmd.fwLoadStage length image
      let i : ImageOffer := { image with bytes := length }
      let m' := { m with flash := { m.flash with images := m.flash.images.set (spareSlot m) none, staged := false } }
      Executes d c s.part →
        exec (.fwLoadStage d length image) s = .next
          (if imageValid i m' then { s with part := { m' with flash := { m'.flash with staging := some (d, .ring, i) } } }
           else answered d c { status := stBadParam } m' s)) ∧
    (Executes d .fwLoadActivate s.part →
      exec (.fwLoadActivate d) s = .next (answered d .fwLoadActivate { status := stOk }
        { m with
          oasis := { m.oasis with preferred := spareSlot m }
          flash := { m.flash with staged := false }
          power := { m.power with resetAt := some (m.clock.elapsed + 245760) } } s))


/-! ## Rows that happen by themselves

`advance t s.part` is the part on the tick on which the row happens. What is not named in the new part is as it was on that tick. -/

/-- The host interface. A doorbell fetch that is due, and meets no DMA error, writes fetch_seq and HT to the shadow page and takes every
producer index that its ring can hold; an enable that passes every check of R472 restarts the rings and writes what was held, one that
fails reports the first check; a disable ends fetching; the lock sets; a nudge asks for a fetch; a holdoff that has run out, and an unmask
of a pending vector, send the message. -/
def Obligations.InterfaceEventsComplete : Prop :=
  ∀ (t : Nat) (s : State), let m := advance t s.part
    (∀ page, m.hif.enable = true → fetchDue m = true → page.ok = true → page.dmaErrors = [] →
      ∃ u, exec (.doorbellFetch t page) s = .next u ∧ u.pending = s.pending ∧ u.part.hif.shadowHt = m.clock.ht ∧
        u.part.hif.fetchSeq = (m.hif.fetchSeq + 1) % 2 ^ 32 ∧ u.part.hif.fetchFails = 0 ∧
        u.part = { told m u.part with flows := u.part.flows } ∧
        (u.part.flows.map fun f => (f.1, { f.2 with tag := 0, backlogged := false })) =
          (m.flows.map fun f => (f.1, { f.2 with tag := 0, backlogged := false })) ∧
        ∀ n prod, n < 4 → page.cmdProd[n]? = some prod → (m.hif.cmdq.getD n {}).log2 ≠ 0 → (m.hif.cmdq.getD n {}).stopped = false →
          (ringUsed prod (m.hif.cmdq.getD n {}).cons ≤ 2 ^ (m.hif.cmdq.getD n {}).log2 →
            (u.part.hif.cmdq.getD n {}).prod = prod) ∧
          (2 ^ (m.hif.cmdq.getD n {}).log2 < ringUsed prod (m.hif.cmdq.getD n {}).cons →
            (u.part.hif.cmdq.getD n {}).stopped = true ∧ (u.part.hif.cmdq.getD n {}).prod = (m.hif.cmdq.getD n {}).prod)) ∧
    (m.hif.enable = false →
      exec (.hifEnable t) s = .next (withPart s <|
        ((hifChecks m).find? fun c => c.2.isSome).elim (refreshTags (drainHeld (let x := restartRings m
          { x with hif := { x.hif with enabledAt := x.clock.elapsed, fetchedAt := none } }))) fun c =>
          { m with hif := { m.hif with cfgErr := c.1, errRing := c.2.getD 0 } })) ∧
    (m.hif.enable = true →
      exec (.hifDisable t) s = .next (withPart s <|
        refreshTags { m with hif := { m.hif with enable := false, fetchAgain := false, fetchFails := 0 } }) ∧
      ∀ v, exec (.hifNudge t v) s = .next (withPart s <| { m with hif := { m.hif with fetchAgain := true } })) ∧
    exec (.hifLock t) s = .next (withPart s <| { m with hif := { m.hif with lock := true } }) ∧
    (m.hif.enable = false → exec (.hifQuiesced t) s = .next (withPart s <| { m with hif := { m.hif with quiesced := true } })) ∧
    (∀ v, v < 64 →
      (∀ e, 0 < (Machine.vector v m).triggers → (Machine.vector v m).since = some e →
          e + holdoffTicks (Machine.vector v m).holdoff ≤ m.clock.elapsed →
        exec (.msixHoldoffExpiry t v) s = .next (withPart s <| sendVector v m)) ∧
      (let x := { Machine.vector v m with masked := false, pba := false }
       exec (.msixUnmask t v) s = .next (withPart s <|
        if (Machine.vector v m).pba then sendMsix v (setVector v x m) else setVector v x m)))

/-- Writes to the set-up registers, on a part that has its main rails: PMU_VIN_WARN within its range and before the lock,
TET_TIME_DISAGREE on a secondary part, a key written to or erased from a slot that no session uses, an image offered to the waiting boot
ROM, a lock test started and ended, a tile reset that R465 allows, and GEN_SCRATCH by its offset (R471, R475, R477, R479, R480, R481). -/
def Obligations.RegisterRowsComplete : Prop :=
  ∀ (t : Nat) (s : State), let m := advance t s.part
    m.power.railsUp = true →
    (∀ v, m.hif.lock = false → 100 ≤ v → v ≤ 118 →
      exec (.pmuVinWarn t v) s = .next (withPart s <| { m with power := { m.power with
        warn := v, brace := m.power.brace.map fun b => { b with qualify := m.clock.elapsed } } })) ∧
    (∀ v, 50 ≤ v → v ≤ 1000000 → isHead m = false →
      exec (.tetTimeDisagree t v) s = .next (withPart s <| { m with regs := { m.regs with timeDisagree := v } })) ∧
    (∀ slot, slot < 128 → keyInUse slot m = false →
      exec (.secKeyWrite t slot) s = .next (withPart s <| { m with sec := { m.sec with
        keyData := [0, 0, 0, 0], held := put slot m.sec.keyData m.sec.held, result := 0, slot := slot } }) ∧
      exec (.secKeyErase t slot) s = .next (withPart s <| { m with sec := { m.sec with
        keyData := [0, 0, 0, 0], held := erase slot m.sec.held, result := 0, slot := slot } })) ∧
    (∀ i, m.boot.stage = 3 → lengthOk m.sec.hbootLen = true → i.signatureOk = true →
      wordRank m.sec.rollback ≤ revRank i.major i.minor i.patch →
      exec (.secHbootGo t i) s = .next (withPart s <| { m with sec := { m.sec with hbootState := 6 } })) ∧
    (∀ target, target ≤ 9 → testFitted target m = true → m.dbg.busy = none →
      exec (.dbgLockTest t target) s = .next (withPart s <| { m with dbg := { m.dbg with
        busy := some m.clock.elapsed, target := target } })) ∧
    (∀ longest e, m.dbg.busy = some e → e + testTicks m ≤ m.clock.elapsed →
      exec (.dbgLockTestDone t longest) s = .next (withPart s <| { m with dbg := { m.dbg with
        busy := none, longest := satBits 16 longest, pass := decide (testLength m ≤ longest) } })) ∧
    (∀ tile, tile < 8 → tileResettable tile m = true →
      exec (.dbgTileReset t tile) s = .next (withPart s <|
        leavePlans tile (onTile tile (fun x => { x with inReset := true, switch := none })
          { m with dbg := { m.dbg with tileRefused := putBits m.dbg.tileRefused tile 1 0 } }))) ∧
    (∀ v, v < 2 ^ 32 →
      exec (.registerWrite t 0x14 4 v) s = .next (withPart s <| { m with regs := { m.regs with scratch := v } }))

/-- The house clock's rows. A seconds boundary pulses PPSOUT and stores HT (R45, R70); a slew that has run its time ends with
EV_HT_SLEW_DONE, unless it only spread a remainder below a tick (R64); a step takes effect on its step tick (R66, R148); the master's seconds marker names the seconds boundary that is
the step tick of a chain demand, and a follower steps with the master's notice (R66, R437); the one queued action that is due leaves the
queue and executes, and the leveller steps of its tick land after it (R51, R58). -/
def Obligations.HouseTimeEventsComplete : Prop :=
  ∀ (t : Nat) (s : State), let m := advance t s.part
    (onSecond m = true →
      exec (.htSecondsBoundary t) s = .next (withPart s <| { m with
        pins := { m.pins with ppsoutEnd := some (m.clock.elapsed + 245760) }
        oasis := { m.oasis with lastHt := some m.clock.ht, lastAt := m.clock.elapsed } })) ∧
    (∀ x, m.clock.slew = some x → x.ends ≤ m.clock.elapsed →
      let m' := { m with clock := { m.clock with slew := none } }
      exec (.htSlewDone t) s = .next (withPart s <|
        if x.demand.natAbs < 1024 then m' else raise 3 0x07 [⟨0, 8, roundDiv x.demand 1024⟩] m')) ∧
    (∀ st k, m.clock.steps = [st] → st.tick = some k → k ≤ m.clock.ht →
      let m' := applyStep st (settleTx m)
      exec (.htStep t) s = .next (withPart s <| afterStep (noticeStep m m')) ∧
      m'.clock.steps = [] ∧
      m'.clock.ht = (st.epoch.elim ((m.clock.ht : Int) + st.steps).toNat fun e => e * ticksPerSecond) ∧
      (st.grid = none → m'.clock.grid = m.clock.grid + ((m'.clock.ht : Int) - m.clock.ht))) ∧
    (∀ (st : Step) (sub delay : Nat), effSource m = .chain → otherMaster m = true → m.pps.rePhased = true → m.clock.steps = [st] →
        st.tick = none → st.epoch = none →
      let x : Int := (1024 * m.clock.ht + sub : Nat) - roundDiv ((delay : Int) * 25165824) 1000000000
      let k := ((x + 512) / 1024).toNat
      exec (.masterSecondsMarker t sub delay) s = .next (withPart s <| { m with clock := { m.clock with
        steps := [{ st with tick := some (if m.clock.ht ≤ k then k else k + ticksPerSecond) }] } })) ∧
    (∀ steps grid, effSource m = .chain → otherMaster m = true → m.clock.grid ≠ grid →
      exec (.stepNotice t steps grid) s = .next (withPart s <| noticedStep steps grid m)) ∧
    (∀ a, m.sched.queue = [a] → a.due ≤ m.clock.ht → (∀ a ∈ m.service.actions, m.clock.elapsed < a.due) →
        (∀ r ∈ m.syncin.pending, m.clock.elapsed < r.due) →
      let m' := runAction false a m
      Quiet m' → exec (.scheduledActionExecute t) s = .next (withPart s <| landSteps (tidyPins m')))

/-- PPSIN and SYNCIN. An edge in cadence after an accepted one is accepted, any other is a stray that is counted and reported; while edges
are acquired the first one counts as none, and one in cadence with its predecessor counts (the model's choice, log 15); the PPS goes
missing after 1.001 s (R47-R49). A SYNCIN edge that is not within 2,048 ticks of the last fixes the armed resets 2,048 ticks later, an
earlier one is ignored and counted; a reset that is due resets its group (R68). -/
def Obligations.PulseEventsComplete : Prop :=
  ∀ (t : Nat) (s : State), let m := advance t s.part
    (∀ sub,
      let instant := 1024 * m.clock.elapsed + sub
      let x : Int := (1024 * m.clock.ht + sub : Nat) + 256 * m.clock.ppsDelay
      let seen := { m with pps := { m.pps with prev := some instant } }
      (m.pps.acquiring = false → (m.pps.accepted.any fun a => inCadence (instant - a)) = true →
        exec (.ppsinEdge t sub) s = .next (withPart s <| acceptEdge instant (offsetOf x) ((x + 512) / 1024).toNat seen)) ∧
      (m.pps.acquiring = false → (m.pps.accepted.any fun a => inCadence (instant - a)) = false →
        exec (.ppsinEdge t sub) s = .next (withPart s <|
          ppsEvent 0x03 (offsetOf x) { seen with pps := { seen.pps with strays := m.pps.strays + 1 } })) ∧
      (m.pps.acquiring = true → m.pps.prev = none →
        exec (.ppsinEdge t sub) s = .next (withPart s <| { seen with pps := { seen.pps with count := 0, offsets := [] } })) ∧
      (∀ e, m.pps.acquiring = true → m.pps.prev = some e → inCadence (instant - e) = true → m.pps.count < 2 →
        exec (.ppsinEdge t sub) s = .next (withPart s <| { seen with pps := { seen.pps with
          count := m.pps.count + 1, offsets := agreeing (offsetOf x) m.pps.offsets } }))) ∧
    (∀ a, m.pps.acquiring = false → m.pps.accepted = some a → a + second1024 + 24576 * 1024 ≤ 1024 * m.clock.elapsed →
      ∃ u, exec (.ppsMissing t) s = .next u ∧ u.pending = s.pending ∧ u.part.pps.acquiring = true ∧ u.part.pps.count = 0 ∧
        u.part.pps.offsets = [] ∧ u.part.clock.ht = m.clock.ht ∧ (effSource m = .loc → u.part.clock.aligned = false) ∧
        u.part = { told m u.part with pps := u.part.pps, clock := u.part.clock }) ∧
    ((m.syncin.last.any fun l => decide (m.clock.elapsed < l + 2048)) = false →
      exec (.syncinEdge t) s = .next (withPart s <| raise 4 0x09 [⟨0, 4, m.syncin.ignored⟩]
        { m with syncin := { m.syncin with
            last := some m.clock.elapsed
            pending := m.syncin.pending ++ m.syncin.armed.map fun a => { due := m.clock.elapsed + 2048, group := a.1, arm := a.2 }
            armed := m.syncin.armed.filter fun a => a.2.every } })) ∧
    ((m.syncin.last.any fun l => decide (m.clock.elapsed < l + 2048)) = true →
      exec (.syncinEdge t) s = .next (withPart s <| { m with syncin := { m.syncin with ignored := m.syncin.ignored + 1 } })) ∧
    (∀ r, m.syncin.pending = [r] → r.due ≤ m.clock.elapsed → (∀ a ∈ m.sched.queue, m.clock.ht < a.due) →
        (∀ a ∈ m.service.actions, m.clock.elapsed < a.due) →
      exec (.syncinReset t) s = .next (withPart s <| tidyPins
        (resetGroup r.group r.arm.phase r.arm.syncout { m with syncin := { m.syncin with pending := [] } })))

/-- The synthesizers. A window that passes takes QUALIFY to ACQUIRE or RELOCK, RELOCK to LOCKED, and gives LOCKED its new word; a missing
edge in LOCKED starts HOLDOVER; phase lock ends ACQUIRE, 100 ms without it return to QUALIFY (R72, R76-R79). A TSYN that loses lock
re-locks on the cradle clock, and the third loss within 1 s fences the tile as well; a re-lock that failed searches; a TSYN that locks returns the
tile (R86, R90). KSYN: unlock freezes the word and aborts the frame, relock ends (R93). -/
def Obligations.SynthesizerEventsComplete : Prop :=
  ∀ (t : Nat) (s : State), let m := advance t s.part
    (let done (x : Part) : Part := { x with spll := { x.spll with tolNow := x.spll.lockTol } }
     (∀ w, w.complete = true → inPull w m = true →
      (m.spll.state = .qualify →
        exec (.spllWindowEnd t w) s = .next (withPart s <| done <|
          enterSpll (if m.spll.everLocked then .relock else .acquire) (fun x => { x with
            dco := w.refPpb, ref25 := if x.refAuto ∧ effSource m = .loc then w.is25 else x.ref25
            autoRef := if x.refAuto ∧ effSource m = .loc then some w.is25 else x.autoRef }) m)) ∧
      (m.spll.state = .relock → compares w m = true →
        exec (.spllWindowEnd t w) s = .next (withPart s <| done <|
          enterSpll .locked (fun x => { x with dco := w.refPpb, held := w.refPpb }) m)) ∧
      (m.spll.state = .locked → compares w m = true →
        exec (.spllWindowEnd t w) s = .next (withPart s <| done <|
          { m with spll := { m.spll with dco := w.refPpb, held := w.refPpb } }))) ∧
     (∀ w, m.spll.state = .locked → w.complete = false →
        exec (.spllWindowEnd t w) s = .next (withPart s <| done <| holdover lossMissing m))) ∧
    (m.spll.state = .locked → effSource m ≠ .chain → exec (.refinMissingEdge t) s = .next (withPart s <| holdover lossMissing m)) ∧
    (m.spll.state = .acquire →
      (effSource m ≠ .chain → exec (.refinMissingEdge t) s = .next (withPart s <| enterSpll .qualify id m)) ∧
      (m.spll.entered + refTicks m.spll.nSpll m ≤ m.clock.elapsed →
        exec (.spllPhaseLock t) s = .next (withPart s <|
          enterSpll .locked (fun x => { x with everLocked := true, held := x.dco }) m)) ∧
      (m.spll.entered + 2457600 ≤ m.clock.elapsed →
        exec (.spllAcquireTimeout t) s = .next (withPart s <| enterSpll .qualify id m))) ∧
    (∀ k, k < tilesFitted s.part → (m.tiles.getD k {}).switch = none → (m.tiles.getD k {}).railOff = false →
        (m.tiles.getD k {}).inReset = false →
      let x : Tile := m.tiles.getD k {}
      let losses := (m.clock.elapsed :: x.unlocks).filter fun u => decide (m.clock.elapsed ≤ u + ticksPerSecond)
      let stale := entryStale k x.plan m
      let m' := raise (8 + k) 0x0C [⟨0, 1, k⟩, ⟨1, 1, x.plan⟩, ⟨2, 1, if stale then 1 else 0⟩]
        (onTile k (fun x => { x with unlocks := losses, frozen := true }) m)
      exec (.tsynUnlock t k) s = .next (withPart s <|
        onNextTick (beginSwitch k (if stale then .relockSearch else .relockFast) x.plan none)
          (if 3 ≤ losses.length then fenceTile k fenceTsyn losses.length m' else m'))) ∧
    (∀ k sw, k < tilesFitted s.part → (m.tiles.getD k {}).switch = some sw →
      (sw.start + ceilDiv m.spll.nTsyn 4 < m.clock.elapsed →
        exec (.tileSwitchReturn t k) s = .next (withPart s <| returnTile k sw m)) ∧
      (sw.kind = .relockFast → sw.start + 2458 ≤ m.clock.elapsed →
        exec (.tsynRelockRetry t k) s = .next (withPart s <|
          onTile k (fun x => { x with switch := some { sw with kind := .relockSearch } }) m))) ∧
    (let k := settleTx m
     (k.ksyn.locked = true →
      exec (.ksynUnlock t) s = .next (withPart s <|
        let x := holdWord k
        raise 6 0x0B [⟨0, 1, k.ksyn.channel.getD 0⟩] (abortKite txUnlock { x with ksyn := { x.ksyn with
          locked := false, relocking := true, frozen := true, since := x.clock.elapsed } }))) ∧
     (k.ksyn.relocking = true → k.ksyn.since + ceilDiv k.spll.nKsyn 4 ≤ k.clock.elapsed →
      exec (.ksynRelock t) s = .next (withPart s <| { k with ksyn := { k.ksyn with
        locked := true, relocking := false, frozen := false } })))

/-- The front end of a fitted half. A detector period that ends takes the readings and lets each band decide; a dwell that has run out
announces a step of 2 dB back; an announced step lands; clipped samples are counted, and reported at most every 100 ms; a supply at its
current limit goes OFF, an open one is reported once (R109-R111, R119, R120, R101). -/
def Obligations.FrontEndEventsComplete : Prop :=
  ∀ (t h : Nat) (s : State), let m := advance t s.part
    h < halvesFitted s.part →
    (∀ r, m.clock.ht % 16 = 0 →
      let m' := watchHeld h r (takeReadings h r (feedHalf h r.samples m))
      exec (.detectorPeriodEnd t h r) s = .next (withPart s <|
        (List.range 3).foldl (fun m b => judgeBand h b m) (if r.clipped then judgeClip h m' else m'))) ∧
    (∀ b, b < 3 → let x := bandAt h b m
      m.clock.ht % 16 = 0 → x.mode = .auto → levFrozen h m = false → sharedB h m = false → x.steps = [] →
      x.belowSince + 24576 * x.dwell ≤ m.clock.elapsed → x.attenMin + 2 ≤ x.atten →
        exec (.levellerDwellExpiry t h b) s = .next (withPart s <| announceStep h b (x.atten - 2) (m.clock.elapsed + 16) m)) ∧
    (∀ b, b < 3 → Quiet m → exec (.levellerStepLanding t h b) s = .next (withPart s <| landSteps (tidyPins m))) ∧
    (∀ n, h < m.halves.length → isLive h m = true → n ≠ 0 →
      let x := m.halves.getD h {}
      let m' := onHalf h (fun x => { x with
        clipSamples := satBits 32 (x.clipSamples + n)
        clipped := true
        clips := noteClip m.clock.elapsed x.clips
        overloadFirst := some (x.overloadFirst.getD m.clock.ht)
        overloadCount := x.overloadCount + n }) m
      ((∀ a, x.overloadAt = some a → a + 2457600 ≤ m.clock.elapsed) →
        exec (.adcClip t h n) s = .next (withPart s <|
          raise (halfSource h 3) 0x83 [⟨0, 8, x.overloadFirst.getD m.clock.ht⟩, ⟨8, 4, x.overloadCount + n⟩]
            (onHalf h (fun x => { x with overloadAt := some m.clock.elapsed, overloadFirst := none, overloadCount := 0 }) m'))) ∧
      (∀ a, x.overloadAt = some a → m.clock.elapsed < a + 2457600 → exec (.adcClip t h n) s = .next (withPart s m'))) ∧
    (∀ current, (m.halves.getD h {}).antpwr ≠ .off →
      exec (.antpwrCurrentLimit t h current) s = .next (withPart s <| raise (halfSource h 4) 0x84 [⟨0, 2, current⟩]
        (onHalf h (fun x => { x with antpwr := .off, antCurrent := 0, antOpenRaised := false }) m)) ∧
      (current < 3 → (m.halves.getD h {}).antOpenRaised = false →
        exec (.antpwrOpen t h current) s = .next (withPart s <| raise (halfSource h 4) 0x85 [⟨0, 2, current⟩]
          (onHalf h (fun x => { x with antCurrent := current, antOpenRaised := true }) m))))

/-- Pins and the accessory bus. An edge of an input pin that has held its level for the debounce time is accepted and reported (R123, R124); MUTE_LEAD asserts the pins of the half and starts the HOLD of
a run whose lead has begun, a trail that has run de-asserts its pin (R126, R136); the bus runs one transaction at a time, which completes
with what it read, with ST_ABORTED and the byte's number on a NACK, and with ST_ABORTED when the clock is held (R125). -/
def Obligations.AccessoryEventsComplete : Prop :=
  ∀ (t : Nat) (s : State), let m := advance t s.part
    (∀ pin level, pin < 16 → level ≤ 1 → let g : Gpio := m.gpio.getD pin {}
      g.function = .input → g.level ≠ level → (∀ e, g.acceptedAt = some e → e + g.debounce < m.clock.elapsed) →
      exec (.gpioEdge t pin level) s = .next (withPart s <| raise 68 0x34 [⟨0, 1, pin⟩, ⟨1, 1, level⟩]
        { m with gpio := m.gpio.modify pin fun g => { g with level := level, acceptedAt := some m.clock.elapsed } })) ∧
    (∀ h, h < halvesFitted s.part → 0 < muteLeadOf h m →
      exec (.muteLead t h) s = .next (withPart s <| beginCalHold h
        (onCal h (fun c => { c with placed := c.placed.map fun p =>
          if p.start ≤ m.clock.elapsed + muteLeadOf h m then { p with asserted := true } else p }) (assertPins h m)))) ∧
    (∀ pin u, pin < 16 → (m.gpio.getD pin {}).muteUntil = some u → u ≤ m.clock.elapsed → ((m.gpio.getD pin {}).wanted m) = false →
      exec (.muteTrail t pin) s = .next (withPart s <|
        { m with gpio := m.gpio.modify pin fun g => { g.drive false with muteUntil := none } })) ∧
    (∀ j rest, m.i2c.busy = none → m.i2c.queue = j :: rest →
      exec (.i2cTransactionStart t) s = .next (withPart s <|
        { m with i2c := { queue := rest, busy := some { j with execHt := m.clock.ht } } })) ∧
    (∀ j, m.i2c.busy = some j →
      let m' := { m with i2c := { m.i2c with busy := none } }
      (∀ r i, r.nack = some i →
        exec (.i2cTransactionDone t r) s = .next (withPart s <|
          finish j.desc j.origin 0x10 { status := stAborted, result := i, execHt := some j.execHt } m')) ∧
      (∀ r, r.nack = none → j.params.rlen ≤ 4 →
        exec (.i2cTransactionDone t r) s = .next (withPart s <|
          finish j.desc j.origin 0x10 { status := stOk, result := leNat ((r.data.take j.params.rlen).take 4), execHt := some j.execHt } m')) ∧
      exec (.i2cClockHeld t) s = .next (withPart s <|
        finish j.desc j.origin 0x10 { status := stAborted, execHt := some j.execHt } m'))

/-- Calibration. A sensor reading below the critical threshold is judged for a run that is due; a placed run starts on its tick when
nothing stands in its way; its phases follow Table CAL-4; its end starts the ramp; ramp increments come every 256 ticks, and the last one
leaves the new correction; the background estimator converges or is held; the Kite run starts and ends (R97, R98, R132-R144). -/
def Obligations.CalibrationEventsComplete : Prop :=
  ∀ (t : Nat) (s : State), let m := advance t s.part
    (∀ n reading, n < halvesFitted s.part → m.power.railsUp = true →
        ((readSensor n reading m).power.sensors.getD n {}).level ≠ .critical →
      exec (.tempSensorRead t n reading) s = .next (withPart s <| judgeDue n (readSensor n reading m))) ∧
    (∀ h p rest, h < halvesFitted s.part → Quiet m →
      let k := tidyPins m
      (half h k).cal.placed = p :: rest → p.start ≤ k.clock.elapsed → runReady p k = true → (half h k).cal.run = none →
        tileFree h k = true →
      exec (.calRunStart t h) s = .next (withPart s <|
        startRun h p.cause p.command (onCal h (fun c => { c with placed := rest }) k))) ∧
    (∀ h r ph off, h < halvesFitted s.part → (m.halves.getD h {}).cal.run = some r → nextPhase r.phase = some (ph, off) →
        r.start + r.pass * runTicks + off ≤ m.clock.elapsed →
      exec (.calPhaseEnd t h) s = .next (withPart s <|
        if ph = .reconnect then closeIso h (setPhase h r.pass ph m) else setPhase h r.pass ph m)) ∧
    (∀ h x r, h < halvesFitted s.part → (m.halves.getD h {}).cal.run = some x → runOver h m = true →
      exec (.calRunEnd t h r) s = .next (withPart s <| endRun h r.residual x m)) ∧
    (∀ h r, h < halvesFitted s.part → r.paused = false → r.next ≤ m.clock.elapsed → m.clock.elapsed < r.next + 256 →
      let next : Option CalRamp :=
        if rampSteps ≤ r.done + 1 then none else some { r with done := r.done + 1, next := r.next + 256 }
      ((half h m).cal.ramp = some r → (half h m).cal.fineRamp = none →
        exec (.calRampIncrement t h) s = .next (withPart s <|
          onCal h (fun c => { c with
            ramp := next, corr := if next.isNone then c.corrNew else c.corr
            ended := if next.isNone then some (c.corr, r.next + (rampSteps - r.done - 1) * 256) else c.ended }) m)) ∧
      ((half h m).cal.fineRamp = some r → (half h m).cal.ramp = none →
        exec (.calRampIncrement t h) s = .next (withPart s <|
          onCal h (fun c => { c with fineRamp := next, fine := if next.isNone then c.fineNew else c.fine }) m))) ∧
    (∀ h, h < halvesFitted s.part →
      (∀ e, e.half = h → isLive h m = true → bgPaused h m = false → (m.halves.getD h {}).cal.bg ≠ .held →
        exec (.bgConverged t e) s = .next (withPart s <|
          onHalf h (fun x => { x with restored := false, cal := refine e m.clock.elapsed x.cal }) m)) ∧
      (isLive h m = true ∨ (m.halves.getD h {}).restored = true → (m.halves.getD h {}).cal.bg = .converging → (m.halves.getD h {}).cal.bgSince + 88473600 ≤ m.clock.elapsed →
        exec (.bgHeld t h) s = .next (withPart s <|
          onHalf h (fun x => { x with restored := false, cal := { x.cal with bg := .held } }) m))) ∧
    (let k := settleTx (tidyPins m)
     Quiet m → k.kiteCal.running = none → k.kite.txs = [] → k.kite.hopAt = none → k.kiteCal.command.isSome = true →
      exec (.kiteCalRun t) s = .next (withPart s <| startKiteRun .command k)) ∧
    (let k := settleTx m
     (∀ e image leakage, k.kiteCal.running = some e → e + 9830 ≤ k.clock.elapsed → k.kiteCal.runCause ≠ .command →
      exec (.kiteCalDone t image leakage) s = .next (withPart s <| settleTx <|
        raise 208 0x63 [⟨0, 2, image⟩, ⟨2, 2, leakage⟩, ⟨4, 4, satBits 32 (k.kiteCal.count + 1)⟩]
          { k with
            free := k.free + 1
            kiteCal := { k.kiteCal with
              running := none, count := satBits 32 (k.kiteCal.count + 1), lastHt := k.kiteCal.startHt
              lastT := gondolaTemp k, image := image, leakage := leakage, cause := k.kiteCal.runCause, corrNew := k.free } })))

/-- The life cycle of a context (Table CTX-4): each transition of a copy that is in the state it leaves, and a HOLD that ends on a fitted
half (R177-R181). A quality window that ends gives its report and starts the next one (R187). -/
def Obligations.LifeCycleEventsComplete : Prop :=
  ∀ (t c : Nat) (k : Copy) (s : State), let m := advance t s.part
    let type := (look c m.ctxs).elim 0 fun x => x.cfg.type
    (∀ test : PresenceTest, test.copy = k → copyIn c k .search m = true → presenceHolds type test.test = true →
        sampled c k (presenceSpan type) m = true → dipSeen c k m = true →
      exec (.ctxPresencePass t c test) s = .next (withPart s <| moveCopy c k .acquire causeCriterion
        (fun x => { x.startAcquire with quality := { x.quality with presence := true } }) m)) ∧
    (copyIn c k .acquire m = true →
      (∀ d, d.copy = k → copyMeets c k (fun x y => detects x m.clock.elapsed y d) m = true →
        exec (.ctxDetection t c d) s = .next (withPart s <| moveCopy c k .detected causeCriterion (Ctx.startDetected m.clock.elapsed)
          (onCtx c (fun x => x.onCopy k fun y => (fastMove x d.agcErr m y).acquired x m.clock.elapsed d.found d.offset) m))) ∧
      (stayed c k (fun g => acquireLimit g.type) m = true →
        exec (.acquireTimeout t c k) s = .next (withPart s <| moveCopy c k .search causeTimeout Ctx.startSearch m))) ∧
    (copyIn c k .detected m = true →
      (copyMeets c k confirms m = true →
        exec (.ctxConfirmation t c k) s = .next (withPart s <| moveCopy c k .track causeCriterion id m)) ∧
      (stayed c k (fun g => confirmLimit g.type) m = true →
        exec (.confirmTimeout t c k) s = .next (withPart s <| moveCopy c k .acquire causeTimeout Ctx.startAcquire m))) ∧
    (copyIn c k .track m = true → copyMeets c k loses m = true →
      exec (.ctxLoss t c k) s = .next (withPart s <| moveCopy c k .lost causeCriterion id m)) ∧
    (copyIn c k .lost m = true →
      (copyMeets c k confirms m = true →
        exec (.ctxConfirmation t c k) s = .next (withPart s <| moveCopy c k .track causeCriterion id m)) ∧
      (stayed c k (fun g => tenth * g.lostTimeout) m = true →
        exec (.lostTimeout t c k) s = .next (withPart s <| moveCopy c k .search causeTimeout Ctx.startSearch m))) ∧
    (∀ h, h < halvesFitted s.part → exec (.holdEnd t h) s = .next (withPart s <| endHolds h m)) ∧
    (∀ q, exec (.qualityWindowEnd t c q) s = .next (withPart s <| endWindow c q (fillSilence c m)))

/-- AM and FM. A block takes the CNR of the copies, runs their demodulators, the AGC, delivery, mute and blend, and lets waiting
parameters take effect, in that order (R28, R185, R201, R205, R212, R215, R219); a fade that has reached its end completes (R158); each
copy's pilot is declared absent 40 ms after ACQUIRE, locks, and is lost in TRACK, as its own loop finds (R210); an RDS block of a running
decoder goes to the search or to the synchronised decoder (R223-R225). -/
def Obligations.AnalogueEventsComplete : Prop :=
  ∀ (t c : Nat) (x : Ctx) (s : State), let m := advance t s.part
    look c m.ctxs = some x →
    (∀ b, digitalType x.cfg.type = false → tau m % 61440 = 0 →
      let r := measureBlock c b m x
      let b' := r.2
      let e := if r.1.cfg.probe then (r.1, { heard := rowDemod b', fell := false, resets := 0 }) else demodulate c b' m r.1
      let counted : Ctx := { e.1 with a := e.1.a.countCnr e.1 b'.cnrA m, b := e.1.b.map fun k => k.countCnr e.1 b'.cnrB m }
      let m1 := agcStep c 50 b'.agcErrA b'.agcErrB (onCtx c (fun _ => counted) m)
      let m2 := notePilot c x.pilot (deliver c b'.cnrA b'.cnrB b'.delayNs m1)
      let m3 := onCtx c (fun x => { x with ana := { x.ana with
        blockCnr := ctxCnr x b', lowAt := if ctxCnr x b' < 200 then some m2.clock.elapsed else x.ana.lowAt } }) m2
      let cnr := (ctx c m3).elim 0 fun x => muteCnr c x m3
      let m4 := onCtx c (fun x =>
        let y := (x.muteBlock cnr).countBlock e.2
        let before := if x.ana.muteRunning then x.ana else { x.ana with mute := y.ana.mute }
        { y with ana := { y.ana with
          audio := y.ana.audio ++ pcmBlock y before y.ana e.2.heard.audio
          heardTo := if e.2.heard.audio.isEmpty then y.ana.heardTo else m3.clock.elapsed
          taps := if (setsOf c m3).isEmpty then []
            else y.ana.taps.filter (fun t => decide (m3.clock.elapsed - 25 * ticksPerSecond ≤ t.tick)) ++ setTaps y before y.ana e.2.heard } }) m3
      exec (.amFmBlock t c b) s = .next (withPart s <| judgeAnalogue c
        (noteResets c e.2.resets (onCtx c Ctx.applyPending (blockPcm c m4))))) ∧
    (∀ f, x.chain.fade = some f → fadeEnd x f ≤ m.clock.elapsed →
      exec (.xfadeDone t c) s = .next (withPart s <| endFade c (htOf (fadeEnd x f) m) m)) ∧
    (pilotRuns x = true →
      exec (.pilotAbsent t c) s = .next (withPart s <| setPilots c .absent (pilotLate m.clock.elapsed) m) ∧
      exec (.pilotLock t c) s = .next (withPart s <| setPilots c .locked pilotLocks m) ∧
      exec (.pilotLost t c) s = .next (withPart s <| setPilots c .absent (pilotLoses x m) m)) ∧
    (∀ b, rdsRuns x = true →
      exec (.rdsBlock t c b) s = .next (withPart s <|
        if x.rds.synced then rdsSynced c x (heardBlock x m b) m else rdsSearch c x (heardBlock x m b) m))

/-- DAB and DRM. A DAB frame moves the copies' demodulators on, counts what it measured, delivers its FIBs, gives every selection its place
in the multiplex and its raw data, and learns from it (R238-R242); a DRM frame delivers FAC and SDC, ends the selections of hierarchical
modulation and queues its multiplex frame (R250-R254, R264); an absent selection ends (R242, R253); a superframe waits for its deadline and
a fire code that passes gives synchronisation, and a Layer II frame is released at once, or waits for the set that it leads (R245, R246,
R283); a block that reaches its deadline feeds its decisions back and releases its units (R264-R270); a reconfiguration is reported and
moves, keeps or ends each selection (R255); the pool is reported saturated and clear (R194); an incomplete MOT object is dropped 60 s after
its last segment (R308). -/
def Obligations.DigitalEventsComplete : Prop :=
  ∀ (t c : Nat) (x : Ctx) (s : State), let m := advance t s.part
    let now := m.clock.elapsed
    look c m.ctxs = some x →
    (∀ f, x.cfg.type = 7 → framesRun x = true →
      let start := now - 2359296
      let y := countFrame f (x.onCopies (dabUpTo x start m))
      let m1 := frameBoundary c (frameMer y.a f.merA) (y.b.elim f.merB fun b => frameMer b f.merB) f.agcErrA f.agcErrB f.delayNs
        (onCtx c (fun _ => y.onCopies (CopyState.frameMeter y start m)) m)
      let pre := if y.delivered.path.fed then y.delivered.ofdm.ficErr.getD (0, 0) else (f.preErr, f.preCnt)
      let m2 := onDig c (Digital.noteFrame f start) (deliverFibs c y start f.cifCount 0 f.fibs
        (countErrors c pre.1 pre.2 (f.fibs.filter fun b => !b.ok).length f.fibs.length m1))
      let m3 := frameSels c 7 start (decide (y.under = .track)) ((ctx c m2).elim [] fun z => z.dig.organisation) m2
      let m4 := rawSels c start f.data (((ctx c m3).elim [] Ctx.sels).foldl (plainSel c start) m3)
      exec (.dabFrame t c f) s = .next (withPart s <| dabAlarm c (goodItems f.fibs f.items) (learnAll c (goodItems f.fibs f.items) m4))) ∧
    (∀ f', x.cfg.type = 5 ∨ x.cfg.type = 6 → framesRun x = true →
      let f := DrmFrame.acquired x f'
      modeFits x.cfg.type f.mode = true →
      let start := now - frameTicks x.cfg.type
      let coding := x.dig.organisation.flatMap SubDesc.coding
      let z := x.onCopies (drmUpTo x f.mode f.occupancy f.msc (f.sdc.map fun _ => f.sdcMap) coding start m)
      let y : Ctx := { z with a := z.a.countFac (if z.b.isNone then f.fac.ok else f.facA), b := z.b.map (CopyState.countFac f.facB) }
      let m1 := frameBoundary c (frameMer y.a f.merA) (y.b.elim f.merB fun b => frameMer b f.merB) f.agcErrA f.agcErrB f.delayNs
        (onCtx c (fun _ => y.onCopies (CopyState.frameMeter y start m)) m)
      let pre := if y.delivered.path.fed then controlErrors y y.delivered f coding else (f.preErr, f.preCnt)
      let blocks := f.fac :: f.sdc.toList
      let m2 := deliverBlock c 0x30 y start f.fac (countErrors c pre.1 pre.2 (blocks.filter fun b => !b.ok).length blocks.length m1)
      let m3 := onDig c (fun g => { g with frameStart := start, mode := some f.mode })
        (f.sdc.elim m2 fun b => deliverBlock c 0x31 y start b m2)
      let m4 := if f.fac.ok then drmOccupancyEvent c y f.occupancy m3 else m3
      let m5 := if f.fac.ok && f.hierarchical then endSelections c endUnsupported ((ctx c m4).elim [] Ctx.sels) m4 else m4
      let org := if (f.fac.ok || f.sdc.any CheckedBlock.ok) && !f.streams.isEmpty then f.streams else y.dig.organisation
      let m6 := learnAll c (goodItems blocks f.items)
        (frameSels c x.cfg.type start (decide (y.under = .track)) org (onDig c (fun g => { g with organisation := org }) m5))
      let m7 := if f.sdc.any CheckedBlock.ok then drmAlarm c (goodItems blocks f.items) m6 else m6
      exec (.drmFrame t c f') s = .next (withPart s <| if drmFits f then queueMux c x.cfg.type f m7 else m7)) ∧
    (∀ sel y, (x.sels.find? fun y => decide (y.sel = sel ∧ absentLimit x.cfg.type ≤ y.missing)) = some y →
      exec (.selectionAbsent t c sel) s = .next (withPart s <| endSelection c y (some endAbsent) m)) ∧
    (let k := settlePair c m
     (∀ sel y f, fedSelection c sel 1 k = some y → (look c k.ctxs).any (fun z => superEnds z k.clock.elapsed) = true →
      let k1 := queueBlock 196608 f.asks f.asksB
        { ctx := c, sel := sel, deadline := k.clock.elapsed, held := y.synced, counts := true, coded := 320 * y.size, coding := y.coding
          words := y.rate, limit := 4 }
        (onCtx c (fun x => x.onCopies (dabUpTo x (frameOf x.dig.frameStart k.clock.elapsed) k)) k)
      let copy := (look c k1.ctxs).elim Copy.a fun x => if x.b.isNone then .a else x.pair.copy
      exec (.dabplusSuperframe t c sel f) s = .next (withPart s <|
        if !y.synced && firePasses (blockOf c sel k.clock.elapsed copy k1) f.fire then
          plusSync c sel 0 (onSel c sel (fun y => { y with synced := true, syncFails := 0 }) k1)
        else k1)) ∧
     (∀ sel y f, fedSelection c sel 0 k = some y → l2Due y f.low k.clock.elapsed = true →
      let ok := (y.l2Sync f).synced && f.sync && f.headerOk && f.scfOk && y.full fillTicks k.clock.elapsed
      let k1 := countErrors c f.preErr f.preCnt (if ok then 0 else 1) 1
        (onSel c sel (fun s => { (s.l2Sync f) with l2At := some k.clock.elapsed }) k)
      let units := stampUnits c [L2Frame.result f] k1
      exec (.l2Frame t c sel f) s = .next (withPart s <|
        if leadHold c sel k1 ≠ 0 then
          queueBlock 0 1 1 { ctx := c, sel := sel, deadline := k.clock.elapsed, held := false, counts := false } k1
        else deliverSide c sel units (f.pads.map fun p => (0, p)) (f.mots.map fun g => (0, g))
          (releaseUnits c sel ok units (configChange c sel f.configChanged k1))))) ∧
    (let k := settlePair c (runPools m)
     ∀ sel b z y r, k.blocks.find? (fun b => decide (b.ctx = c ∧ b.sel = sel ∧ b.deadline ≤ k.clock.elapsed)) = some b →
        ctx c k = some z → z.sel sel = some y →
      let same (e : IterBlock) : Bool := decide (e.ctx = c ∧ e.sel = sel ∧ e.deadline = b.deadline)
      let done := k.blocks.filter same
      let copy := if z.b.isNone then Copy.a else z.pair.copy
      let b' := ((done.find? fun e => decide (e.copy = copy) && !e.alone).or done.head?).getD b
      let k1 := done.foldl (fun m b => if b.alone then countIterations b m else feedBack b (countIterations b m))
        { k with blocks := k.blocks.filter fun e => !same e }
      let fire := firePasses (some b') r.fire
      let k2 := configure c y r.config r.configChanged (plusLoss c y b' fire k1)
      let full := y.full (blockSpan z.cfg.type y b') b'.base
      let whole := full && (decide (y.kind ≠ 1) || (y.synced && fire))
      let units := stampUnits c (followedUnits b' r.units) k2
      let k3 := countBlockErrors c z y b' r (units.filter fun u => !(whole && u.ok)).length units.length k2
      let k4 := if y.kind = 5 then rawSel c (frameBegin z (b'.base - 1)) full r.data k3 y else k3
      exec (.blockDeadline t c sel r) s = .next (withPart s <| deliverSide c sel units r.pads r.mots (releaseUnits c sel whole units k4))) ∧
    (∀ r, framesRun x = true →
      exec (.muxReconf t c r) s = .next (withPart s <| r.changes.foldl (reconfSel c)
        (onDig c (fun g => { g with reconfigs := satBits 32 (g.reconfigs + 1) })
          (raise (halfSource (ctxHalf c) 9) 0x8C [⟨0, 2, c⟩, ⟨4, 2, r.count⟩] m)))) ∧
    (∀ h, h < halvesFitted s.part → let p := (m.halves.getD h {}).pool
      (p.saturated = false → p.since + ticksPerSecond ≤ now → p.blocks < 100 * p.short →
        exec (.poolSaturated t h) s = .next (withPart s <| raise (halfSource h 5) 0x86 [⟨0, 2, 1024 * p.short / p.blocks⟩]
          (onHalf h (fun x => { x with pool := { x.pool with saturated := true } }) m))) ∧
      (p.saturated = true → p.lastShort + 10 * ticksPerSecond ≤ now →
        exec (.poolClear t h) s = .next (withPart s <| raise (halfSource h 5) 0x87 [⟨0, 2, 0⟩]
          (onHalf h (fun x => { x with pool := { x.pool with saturated := false } }) m)))) ∧
    (∀ sel id, (m.service.mots.any fun o => sameMot c sel id o && decide (o.lastAt + minute ≤ now)) = true →
      exec (.motObjectTimeout t c sel id) s = .next (withPart s <| dropMot c sel id m) ∧
        ∀ o ∈ (dropMot c sel id m).service.mots, sameMot c sel id o = false)

/-- Source sets and following. Match windows end on whole seconds of τ and act by the member's state; units match by their own rule; 30 s
in SEEK without a candidate are reported once; a branch that wins the set starts the blend; policies are evaluated every 100 ms, on the
database as configured since, and what they have decided executes on its tick, in the place of its class; a dwell that ends goes on with
its scan; database entries and MOT objects age out (R277-R282, R288, R291, R296, R311). -/
def Obligations.ServiceEventsComplete : Prop :=
  ∀ (t : Nat) (s : State), let m := advance t s.part
    (∀ n c sel g i y, sourceSet n m = some g → memberIdx g c sel = some i → g.members[i]? = some y →
      (∀ w, tau m % 24576000 = 0 → w.valid = true → byAudio g i = true → windowFit y m = true →
          (g.members[g.reference]?).any (fun r => windowFit r m) = true →
        exec (.linkMatchWindow t n c sel w) s = .next (withPart s <| match y.state with
          | .idle => m
          | .seek => seekWindow n i g y w m
          | .verify => verifyWindow n i y w m
          | .joined => joinedWindow n i y w m)) ∧
      (∀ u, byUnits g i = true →
        let k := if unitsMatch u = true then onMember n i (fun y => { y with units := y.units + 1 }) m else m
        exec (.linkUnitMatch t n c sel u) s = .next (withPart s <| match y.state with
          | .idle => k
          | .seek =>
            if unitsMatch u = false ∨ offsetFits g u.offset = false then onMember n i (fun y => { y with candidate := none }) k
            else if y.candidate = some u.offset then
              onMember n i (fun y => { y with good := 2 })
                (moveMember n i .verify .candidate (onMember n i (fun y => { y with offset := u.offset }) k))
            else onMember n i (fun y => { y with candidate := some u.offset }) k
          | .verify =>
            if y.candidate ≠ some u.offset then k
            else if unitsDiffer u = true then moveMember n i .seek .contradiction k
            else if unitsMatch u = false then onMember n i (fun y => { y with good := 0 }) k
            else if y.good + 1 < 8 then onMember n i (fun y => { y with good := y.good + 1 }) k
            else moveMember n i .joined .proven k
          | .joined => if unitsDiffer u = true then moveMember n i .seek .mismatch k else k)) ∧
      (y.state = .seek → y.noMatch = false → y.seekSince + 30 * ticksPerSecond ≤ m.clock.elapsed →
        exec (.linkNoMatch t n c sel) s = .next (withPart s <|
          onMember n i (fun y => { y with noMatch := true }) (memberEvent n y .seek .noMatch m)))) ∧
    (∀ n g b, sourceSet n m = some g → blendTo g m.clock.elapsed = some b →
      let m' := (leadCtx n m).elim m fun c => catchUp c m
      exec (.linkBlend t n) s = .next (withPart s <|
        raise 100 0x45 [⟨0, 2, n⟩, ⟨2, 1, branchCode g g.active⟩, ⟨3, 1, branchCode g b⟩, ⟨8, 8, m'.clock.ht⟩]
          (onSet n (fun g =>
            let start := gridAt pcmTicks m'.clock.elapsed m'
            let stop := start + pcmTicks * g.cfg.xfade
            { g with active := b, fadeEnd := some stop, blends := { start := start, stop := stop, old := g.active, new := b } :: g.blends }) m'))) ∧
    (tau m % 2457600 = 0 →
      exec (.followEvaluation t) s = .next (withPart s <| (m.service.policies.map (·.1)).foldl evaluate (onDb Database.configured m))) ∧
    (∀ a rest, m.service.actions = a :: rest → a.due ≤ m.clock.elapsed → a.waits m = false → (∀ b ∈ rest, m.clock.elapsed < b.due) →
        (∀ b ∈ m.sched.queue, m.clock.ht < b.due) → (∀ r ∈ m.syncin.pending, m.clock.elapsed < r.due) →
      let m' := doAct { m with service := { m.service with actions := rest } } a
      Quiet m' → exec (.followActionExecute t) s = .next (withPart s <| tidyPins m')) ∧
    (∀ r rest, m.service.scans = r :: rest → r.dwellEnd ≤ m.clock.elapsed → (∀ b ∈ rest, m.clock.elapsed < b.dwellEnd) →
      exec (.scanDwellEnd t) s = .next (withPart s <| scanDwell { m with service := { m.service with scans := rest } } r)) ∧
    (∀ e, m.service.db.services = [e] → aged e.confirmed m = true → keyed e.key m = false → m.service.db.freqs = [] →
        m.service.db.links = [] →
      exec (.dbEntryAged t) s = .next (withPart s <|
        dbItem (serviceBody opRemove e) { m with service := { m.service with db := { m.service.db with services := [] } } })) ∧
    (∀ c sel id, (m.service.mots.any fun o => sameMot c sel id o && decide (o.lastAt + minute ≤ m.clock.elapsed)) = true →
      exec (.motObjectTimeout t c sel id) s = .next (withPart s <| dropMot c sel id m))

/-- Flows and their memory. A variable record open for 50 ms closes (R355); a link starts the record that its scheduler picks (R363); a
buffer whose flush time has passed returns (R344); a group member that cannot cover the present output is filled (R367); a corrected DRAM
error is counted and reported at most once a second, an uncorrectable one loses its line and charges its page (R371, R372). -/
def Obligations.FlowEventsComplete : Prop :=
  ∀ (t : Nat) (s : State), let m := advance t s.part
    (∀ n f o, flow n m = some f → f.variable = true → f.opened = some o → o.first + 1228800 ≤ m.clock.elapsed →
      exec (.recordCloseTimeout t n) s = .next (withPart s <| closeRecord n m)) ∧
    (∀ k n f x rest r, k < 3 → pickFlow k (refreshTags m) = some (n, f) → f.staged = x :: rest → f.target = .ring r →
      exec (.egressRecordStart t k) s = .next (withPart s <| refreshTags (freeCaptures (sendToRing r n x (refreshTags m))))) ∧
    (∀ k n f x rest a g, k < 3 → pickFlow k (refreshTags m) = some (n, f) → f.staged = x :: rest → f.target = .chain a g →
      exec (.egressRecordStart t k) s = .next (withPart s <| refreshTags (freeCaptures
        (chargeFlow n k x (send a (.record g { x with flow := g }) (refreshTags m)))))) ∧
    (∀ r q b, m.hif.enable = true → flowRing r m = some q → q.stopped = false → q.current = some b →
        b.first + ceilDiv (q.entry.flush * 24576) 10 ≤ m.clock.elapsed →
      exec (.bufferFlush t r) s = .next (withPart s <| refreshTags (returnBuffer r
        { ring := r, desc := b.desc, used := b.used / 8, records := satBits 8 b.records, done := true, flushed := true, emptied := false }
        (onRing r (fun q => { q with current := none }) m)))) ∧
    (∀ n span f g, flow n m = some f → groupOf f m = some g → f.bound = true → groupDelay g m ≠ 0 →
      let due := tau m - groupDelay g m * msTicks
      (f.staged.any fun r => decide (r.tau ≤ due ∧ due < r.tau + recordTicks f r m)) = false →
      (f.filled.any fun e => decide (due < e)) = false →
        exec (.memberUnderrun t n span) s = .next (withPart s <| refreshTags (onFlow n (fun x => { x with
          staged := x.staged ++ [fillRecord n f due span m], seq := (x.seq + 1) % 2 ^ 32, disc := false
          filled := some (due + if f.variable then max 1 span else recordTicks f (fillRecord n f due span m) m) }) m))) ∧
    (∀ line ch,
      let d := { m.dram with corrected := m.dram.corrected + 1, correctedTotal := m.dram.correctedTotal + 1 }
      (m.dram.correctedAt = none →
        exec (.dramCorrected t line ch) s = .next (withPart s <|
          raise 69 0x35 [⟨0, 4, d.corrected⟩, ⟨4, 4, d.correctedTotal⟩, ⟨8, 1, ch⟩]
            { m with dram := { d with corrected := 0, correctedAt := some m.clock.elapsed } })) ∧
      (∀ e, m.dram.correctedAt = some e → m.clock.elapsed < e + ticksPerSecond →
        exec (.dramCorrected t line ch) s = .next (withPart s <| { m with dram := d }))) ∧
    (∀ line ch owner, let m' := hitPage (line / 4096) (loseLine owner m)
      exec (.dramUncorrectable t line ch owner) s = .next (withPart s <| raise 69 0x36
        [⟨0, 8, line⟩, ⟨8, 1, ch⟩, ⟨9, 1, DramOwner.code owner⟩, ⟨10, 2, DramOwner.flow owner⟩, ⟨12, 2, m'.dram.retired.length⟩] m'))

/-- The Kite link, whose rows first bring the frames on air up to their tick. A configuration applies on a seconds boundary with no frame
on air; a free slot boundary decides a frame; a frame that ends is counted and reported; a window boundary hops; a detection takes a free
demodulator, which goes through sync, header and payload, or fails and is counted (R376, R381, R383, R388-R392). -/
def Obligations.KiteEventsComplete : Prop :=
  ∀ (t : Nat) (s : State), let m := settleTx (advance t s.part)
    let k := settleTx (tidyPins (advance t s.part))
    (∀ p, m.kite.pending = some p → onSecond m = true → m.kite.txs = [] →
      exec (.kiteConfigApply t) s = .next (withPart s <| applyKite p m)) ∧
    (∀ b, Quiet (advance t s.part) → k.kite.cfg = some b → onSlot k = true → k.kite.committed ≤ k.clock.elapsed → k.kite.pending = none →
        k.power.brace = none → ksynUp k = true → k.kite.txs.length < 2 →
      exec (.kiteDecision t) s = .next (withPart s <| decideKite b k)) ∧
    (∀ x rest, m.kite.txs = x :: rest → x.finish ≤ m.clock.elapsed →
      exec (.kiteTxEnd t) s = .next (withPart s <| reportTx x.session x.channel x.sf x.frame txSent (x.finish - x.start) x.startHt
        (returnRx x.finish (countKite cntSent 1 (onKite (fun k => { k with txs := rest }) m))))) ∧
    (Quiet (advance t s.part) → k.kite.cfg.isSome = true → k.clock.ht % ticksPerSecond % windowTicks = 0 → k.kite.pending = none →
        onSecond k = false →
      exec (.kiteWindowBoundary t) s = .next (withPart s <| hopRx (windowOf k.clock.ht) k)) ∧
    (∀ p i, 7 ≤ p.sf → p.sf ≤ 12 → let m := applyPilots p.pilots m
        kiteBlind m = false → (m.kite.demods.any fun d => duplicate p d m) = false →
        ((weakest [.sync, .header] m).filter fun e => decide (e.2.level + 30 ≤ p.level)) = none →
        (m.kite.demods.findIdx? fun d => decide (d.state = .free)) = some i →
      exec (.kiteDetection t p) s = .next (withPart s <| dropEvent (assign i p m))) ∧
    (∀ i d shift pilots, i < 8 → let m := applyPilots pilots m
        m.kite.demods[i]? = some d → d.state = .sync →
      ((modeOf d.sf shift).1 = d.sf → exec (.kiteSyncDone t i shift pilots) s = .next (withPart s <| setDemod i
        { d with state := .header, rate := (modeOf d.sf shift).2, stamp := m.clock.ht - symbolTicks 11 d.sf (rxBw m) } m)) ∧
      ((modeOf d.sf shift).1 ≠ d.sf → exec (.kiteSyncDone t i shift pilots) s = .next (withPart s <| failDemod i cntSyncFail m))) ∧
    (∀ i d, i < 8 → m.kite.demods[i]? = some d → d.state = .sync →
      (d.since + symbolTicks 10 d.sf (rxBw m) ≤ m.clock.elapsed →
        exec (.kiteSyncTimeout t i) s = .next (withPart s <| failDemod i cntSyncFail m))) ∧
    (∀ i d h, i < 8 → let m := applyPilots h.pilots m
        m.kite.demods[i]? = some d → d.state = .header →
      exec (.kiteHeaderDone t i h) s = .next (withPart s <|
        if (rowHeader h).ok then setDemod i { d with state := .payload, head := some (rowHeader h) } m else failDemod i cntFalseDetect m)) ∧
    (∀ i d h r, i < 8 → let m := applyPilots r.pilots m
        m.kite.demods[i]? = some d → d.state = .payload → d.head = some h →
      exec (.kitePayloadDone t i r) s = .next (withPart s <| dropEvent (checkFrame h d (rowPayload d.rate h.length r) (setDemod i {} m))))

/-- Audio ports. The clock of a start begins CLK_LEAD frames before its first data frame; the first frame starts the port and completes
the command; a trail ends in IDLE; FS edges lock a slave's word counter and report glitches; a fill beyond its limits slips; an overrun or
underrun is reported; a slave stalls and resumes; every frame of the grid carries input and output (R408-R417). -/
def Obligations.AudioEventsComplete : Prop :=
  ∀ (t p : Nat) (s : State), let m := advance t s.part
    let x := port p m
    p < 8 →
    (∀ a, m.sched.queue.find? (startsPort p) = some a → x.start = none → a.due ≤ m.clock.ht + 512 * x.cfg.elim 0 PortCfg.clkLead →
      exec (.audioClockStart t p) s = .next (withPart s <| clockStart p a.due m)) ∧
    (∀ st, x.start = some st → x.state = .lead → st.due ≤ m.clock.ht → x.locked = true → x.slave = true ∨ tau m % 512 = 0 →
      let m' := takeStart p m
      let up := onPort p (fun x => { x with state := .run, start := none }) m'
      exec (.audioFirstFrame t p) s = .next (withPart s <|
        ((port p m').start.bind PortStart.job).elim up fun j => finish j.1 j.2 0x59 { status := stOk } up)) ∧
    (∀ e, x.state = .trail → x.trailEnd = some e → e ≤ m.clock.elapsed →
      exec (.audioTrailEnd t p) s = .next (withPart s <| onPort p (fun x => { x with state := .idle, trailEnd := none }) m)) ∧
    (∀ c n edge, x.cfg = some c → c.slave = true →
      (x.state = .lead → exec (.audioFsEdge t p n edge) s = .next (withPart s <| lockWord p n edge m)) ∧
      (x.state = .run → n < c.frameBits → exec (.audioFsEdge t p n true) s = .next (withPart s <| portXrun p false 0 (some (c.frameBits - n)) m)) ∧
      (x.state = .run → c.frameBits ≤ n → exec (.audioFsEdge t p n false) s = .next (withPart s <| portXrun p true 1 none m))) ∧
    (∀ fill, x.slave = true → x.state = .run → 18 ≤ fill → fill ≤ 32 → x.lastTx = none →
      exec (.audioSlip t p fill .tx) s = .next (withPart s <|
        countPort p 0 1 (onPort p (fun y => { y with txFill := fill - 1, lastTx := some y.frame }) m))) ∧
    (∀ dir over_ cause, xrunFits x dir over_ cause = true →
      exec (.audioXrun t p dir over_ cause) s = .next (withPart s <| portXrun p over_ cause none m)) ∧
    (x.slave = true → x.state = .run →
      exec (.audioStall t p) s = .next (withPart s <| raise (224 + p) 0x68 [⟨0, 1, p⟩, ⟨4, 4, x.frame - 1⟩]
        (onPort p (fun x => { x with
          state := .stalled, held := x.state, stalledAt := m.clock.elapsed, stallDue := m.clock.elapsed }) m))) ∧
    (x.state = .stalled → let n := if x.held = .lead then 0 else framesDue x.stalledAt m
      let m' := followStall p m
      exec (.audioResume t p true) s = .next (withPart s <| raise (224 + p) 0x69
        [⟨0, 1, p⟩, ⟨1, 1, 1⟩, ⟨4, 4, (m'.clock.elapsed - x.stalledAt) / 512⟩, ⟨8, 4, n⟩, ⟨12, 4, n⟩]
        (onPort p (fun x => { x with state := x.held }) m'))) ∧
    (∀ sdi, tau m % 512 = 0 → x.state = .run →
      let wait := if x.slave then 512 * x.rxFill else 0
      let m' := onPort p (fun y => { y with frame := y.frame + 1, slipped := false, lastIn := sdi, out := [] })
        (inputFrames p 1 (m.clock.ht - wait) (tau m - wait) (flagIf x.slipped flagSlipped) sdi m)
      exec (.audioPortFrame t ⟨p, sdi⟩) s = .next (withPart s <|
        freeCaptures ((port p m').pairs.foldl (fun m q => presentPair p q m) m')))

/-- The links of the chain and its topology. A break of a link at another part is noted and rerouted, a link that trains on its own name
stays down with WIRING, one that heals is forgotten as a break; routes, the configuration and an enumeration's address are taken by a part
that is not the head; a DC port that has failed goes off and is tried again; a claim of another part elects the master again (R424-R434,
R443). -/
def Obligations.TopologyEventsComplete : Prop :=
  ∀ (t : Nat) (s : State), let m := advance t s.part
    (∀ port x, x.near ≠ ownAddr m → isHead m = false → m.chain.breaks.contains (linkIndex x.near port m) = false →
      exec (.tetherLinkDown t port x) s = .next (withPart s <| elect m (resend
        (onChain (fun c => { c with breaks := c.breaks ++ [linkIndex x.near port m] }) m)))) ∧
    (∀ port x, x.near = ownAddr m → x.sameName = true →
      exec (.tetherLinkUp t port x) s = .next (withPart s <| topology topoWiring x.near x.far (portCode port) 0
        (onLink port (fun l => { l with up := false, wiring := true }) m))) ∧
    (∀ port x, x.near ≠ ownAddr m → x.sameName = false → isHead m = false →
        m.chain.breaks.contains (linkIndex x.near port m) = true →
      exec (.tetherLinkUp t port x) s = .next (withPart s <| elect m (resend
        (onChain (fun c => { c with breaks := c.breaks.filter fun b => decide (b ≠ linkIndex x.near port m) }) m)))) ∧
    (∀ r, isHead m = false →
      exec (.chainRouteUpdate t r) s = .next (withPart s <| elect m (resend (onChain (fun c => { c with breaks := r.breaks }) m)))) ∧
    (∀ c, isHead m = false →
      exec (.chainConfigArrival t c) s = .next (withPart s <| elect m (onChain (fun x => { x with
        chainId := c.chainId, epoch := c.epoch, applied := c.epoch, parts := c.parts, ring := c.ring
        timeDisagree := c.timeDisagree }) m))) ∧
    (∀ addr chainId epoch, 0 < addr → addr ≤ 1023 → m.chain.addr = some addr ∨ holdsWork m = false →
      exec (.chainEnumerationWalk t addr chainId epoch) s = .next (withPart s <| elect m { m with
        chain := { m.chain with addr := some addr, chainId := chainId, epoch := epoch }
        oasis := { m.oasis with addr := some addr, chainId := chainId } })) ∧
    (∀ port,
      exec (.tetherDcFault t port) s = .next (withPart s <| topology topoDcFault (ownAddr m) 0xFFFF (portCode port) 0
        (onLink port (fun l => { l with dcOn := false, dcFault := true }) m))) ∧
    (m.chain.up.dcFault = true →
      exec (.tetherDcRetry t .up false) s = .next (withPart s <| onLink .up (fun l => { l with dcOn := true, dcFault := false }) m) ∧
      exec (.tetherDcRetry t .up true) s = .next (withPart s <| topology topoDcFault (ownAddr m) 0xFFFF (portCode .up) 0 m)) ∧
    (∀ addr c, addr ≠ ownAddr m →
      exec (.masterClaim t addr c) s = .next (withPart s <| elect m { m with chain := { m.chain with
        claims := if c.claims then put addr c m.chain.claims else erase addr m.chain.claims } }))

/-- What the chain carries. A roll call quarantines a part of another major version and lets a follower judge its time; an answer is taken
by the head; the first arrival of a transfer is acted on and acknowledged, a duplicate only acknowledged (R432); an acknowledgement ends a
send; a forwarded command is accepted here, its completion and events go to the head's rings, a record to its flow (R327, R346, R358,
R438-R440). -/
def Obligations.TransferEventsComplete : Prop :=
  ∀ (t : Nat) (s : State), let m := advance t s.part
    (∀ p, m.chain.rollAt = none → isHead m = false → m.chain.quarantined = false →
      exec (.rollCall t p) s = .next (withPart s <| if p.fwMajor = m.ident.fw.major then judgeTime p m else enterQuarantine m)) ∧
    (∀ addr a at0, isHead m = true → 0 < addr → addr < m.chain.parts → m.chain.rollAt = some at0 → m.clock.elapsed ≤ at0 + 1228800 →
      exec (.rollCallAnswer t addr a) s = .next (withPart s <| takeAnswer addr a m)) ∧
    (∀ seq status x c, m.chain.transfers.find? (fun x => decide (x.seq = seq)) = some x → m.chain.sends = [c] → c.waiting = [seq] →
      let failed := if status = stOk then c.failed else c.failed ++ [failedPart x.dest status]
      exec (.chainTransferAck t seq status) s = .next (withPart s <| finish c.desc c.origin 0x72 (sendReply c.single failed)
        (onChain (fun k => { k with transfers := k.transfers.filter fun y => decide (y.seq ≠ seq), sends := [] }) m))) ∧
    (∀ src seq, m.chain.seen.contains (src, seq) = false →
      let seen := onChain (fun c => { c with seen := (src, seq) :: c.seen }) m
      let ack (st : Nat) (m : Part) : Part := onChain (fun c => { c with acks := (src, seq, st) :: c.acks }) m
      (∀ message, let r := deliverMessage src message seen
        exec (.chainMsgDelivery t src seq message) s = .next (withPart s <| ack r.2 r.1)) ∧
      (∀ late d c,
        exec (.chainCommandArrival t src seq late d c) s = .next (withPart s <| ack stOk (acceptRemote src seq late d c seen))) ∧
      (∀ c d rest, takeForwarded src c.tag c.opcode m.chain.forwarded = (some d, rest) →
        exec (.chainCompletionArrival t src seq c) s = .next (withPart s <| ack stOk (postCompletion
          { ring := d.ring, tag := c.tag, opcode := c.opcode, status := c.status, execHt := c.execHt, result := c.result, src := src
            trunc := c.truncated, block := c.block.map (RemoteBlock.toBlock c.opcode d.resAddr) }
          (onChain (fun x => { x with forwarded := rest }) seen)))) ∧
      (∀ e, isHead m = true →
        exec (.chainEventArrival t src seq e) s = .next (withPart s <| ack stOk (postEvent
          { source := e.source, origin := e.origin, code := e.code, seq := e.seq, stamp := e.stamp, payload := e.payload }
          e.vector seen)))) ∧
    (∀ src seq message late d c, m.chain.seen.contains (src, seq) = true →
      let again := onChain (fun c => { c with acks := (src, seq, stOk) :: c.acks }) m
      exec (.chainMsgDelivery t src seq message) s = .next (withPart s again) ∧
      exec (.chainCommandArrival t src seq late d c) s = .next (withPart s again)) ∧
    (∀ src r, m.chain.records.contains (src, r.flow, r.seq) = false → m.chain.quarantined = false →
      exec (.chainRecordArrival t src r) s = .next (withPart s <|
        stageRemote r.flow r (onChain (fun c => { c with records := (src, r.flow, r.seq) :: c.records }) m)))

/-- Supply, resets and watchdogs: start, the two resets of VIN, over-voltage and its release, BRACE with its entry, exit and the event
after 1 s, a rail group that trips, POR, the watchdog and the host's reset (R446-R456). -/
def Obligations.PowerEventsComplete : Prop :=
  ∀ (t : Nat) (s : State), let m := advance t s.part
    (∀ vin, m.power.railsUp = false →
      (m.power.overVoltage = false → m.power.hot = false → 10800 ≤ vin →
        exec (.vinStart t vin) s = .next (withPart s <| railsOn vin m)) ∧
      (m.power.overVoltage = true → vin < 13800 →
        exec (.vinOverVoltageRelease t vin) s = .next (withPart s <| railsOn vin (onPower (fun p => { p with overVoltage := false }) m)))) ∧
    exec (.powerReset t) s = .next (withPart s <| powerOff m) ∧
    (isHead m = false →
      exec (.hostReset t) s = .next (withPart s <| { m with hif := {}, regs := { m.regs with msgBase := 0 } })) ∧
    (isHead m = true →
      let m' := dropHostState { m with hif := {} }
      exec (.hostReset t) s = .next (withPart s <| { m' with hif := {}, regs := { m'.regs with msgBase := 0 } })) ∧
    (m.power.railsUp = true →
      exec (.porstN t) s = .next (withPart s <| systemReset srcPorst 255 none m) ∧
      (∀ vin, vin < 9600 →
        exec (.vinReset t vin true) s = .next (withPart s <| railsOff (systemReset srcVin 255 none (sampleVin vin m))) ∧
        exec (.vinReset t vin false) s = .next (withPart s <| powerOff (sampleVin vin m))) ∧
      (∀ vin, 14500 < vin →
        exec (.vinOverVoltage t vin) s = .next (withPart s <| onPower (fun p => { p with overVoltage := true }) (railsOff (systemReset srcFault
          255 (some { cause := pmuVinOv, group := 255, value := vin, ht := m.clock.ht }) (sampleVin vin m))))) ∧
      (∀ vin, m.power.brace = none → vin < 100 * m.power.warn →
        ∃ u, exec (.braceEntry t vin) s = .next u ∧ u.part.power.brace = some
            { entered := m.clock.elapsed, qualify := m.clock.elapsed, since := (m.clock.elapsed : Int) - 246, vinMin := vin } ∧
          u.part.power.vin = vin ∧ u.part.oasis.lastHt = some m.clock.ht ∧ u.part.clock = m.clock ∧ u.pending = s.pending ∧
          u.part.ident = m.ident ∧ u.part.spll = m.spll ∧ u.part.sched = m.sched ∧ u.part.tiles = m.tiles ∧ u.part.plans = m.plans)) ∧
    (∀ b, m.power.brace = some b →
      (∀ vin low, 100 * m.power.warn + 200 < vin → b.qualify + 24576 ≤ m.clock.elapsed →
        let m' := onPower (fun p => { p with brace := none }) (sampleVin vin (sampleVin (min b.vinMin low) m))
        let dip := (m.clock.elapsed : Int) - 24576 - b.since
        let e := raise 16 0x10 [⟨0, 1, 1⟩, ⟨4, 4, roundDiv (1000 * dip) 24576⟩, ⟨8, 2, min b.vinMin low⟩] m'
        exec (.braceExit t vin low) s = .next (withPart s <| (allHalves e).foldl (fun m h => resumeHalf h m) e)) ∧
      (b.lowRaised = false → b.entered + ticksPerSecond ≤ m.clock.elapsed →
        exec (.braceVinLow t) s = .next (withPart s <|
          pmuFault { cause := pmuVinLow, group := 255, value := m.power.vin, ht := m.clock.ht }
            (onPower (fun p => { p with brace := some { b with lowRaised := true } }) m)))) ∧
    (∀ value, let fault : PmuFault := { cause := pmuRailUv, group := 1, value := value, ht := m.clock.ht }
      exec (.railTrip t 1 value false) s = .next (withPart s <| systemReset srcFault 1 (some fault) m)) ∧
    (∀ k value, k < tilesFitted s.part → k < 8 →
      let fault : PmuFault := { cause := pmuRailOc, group := 3 + k, value := value, ht := m.clock.ht }
      exec (.railTrip t (3 + k) value true) s = .next (withPart s <| leavePlans k (fenceTile k fenceRail (3 + k)
        (onTile k (fun x => { x with railOff := true, switch := none })
          (pmuFault fault (onPower (fun p => { p with groups := p.groups.set (3 + k) false }) m)))))) ∧
    (∀ cpu, exec (.watchdogExpiry t cpu) s = .next (withPart s <| systemReset srcWatchdog 255
      (some { cause := pmuWatchdog, group := 255, value := cpu, ht := m.clock.ht }) (noteFailedBoot m)))

/-- Boot, firmware and fences: the image search starts a valid image of an allowed source or waits at stage 3, with ALERT_N after 10 s;
first light and FULL are told; the boot over the chain is given up after 2 s; the resets of an activation and of QUARANTINE; a staged
image is verified; a faulted tile, half or converter is fenced, a tile reset restores or fails its halves (R440, R457-R465). -/
def Obligations.BootEventsComplete : Prop :=
  ∀ (t : Nat) (s : State), let m := advance t s.part
    (∀ b, m.power.railsUp = true → m.boot.stage = 0 →
      (b.source = none → exec (.bootImageSearch t b) s = .next (withPart s <| enterStage 3 m)) ∧
      (∀ src, b.source = some src → sourceAllowed src m = true → imageValid b.image m = true →
        exec (.bootImageSearch t b) s = .next (withPart s <| startImage src b m))) ∧
    (m.boot.stage ≤ 3 →
      (m.power.railsUp = true → m.boot.released + 10 * ticksPerSecond ≤ m.clock.elapsed →
        exec (.bootWaitTimeout t) s = .next (withPart s <| { m with boot := { m.boot with noImage := true } })) ∧
      (m.oasis.chainBoot = true → m.boot.released + 2 * ticksPerSecond ≤ m.clock.elapsed →
        exec (.chainBootTimeout t) s = .next (withPart s <| { m with oasis := { m.oasis with chainBoot := false } }))) ∧
    (m.boot.stage = 7 → bringUpDone m = true →
      ∃ u, exec (.firstLight t) s = .next u ∧ u.pending = s.pending ∧ u.part.boot.stage = 8 ∧ u.part.boot.since = m.clock.elapsed ∧
        u.part.oasis.resetFault = none ∧ (m.boot.source ≤ 1 → u.part.oasis.failedBoots = m.oasis.failedBoots.set m.boot.source 0) ∧
        (m.boot.source = 3 → u.part.oasis.chainBoot = false) ∧ u.part = { told m u.part with boot := u.part.boot, oasis := u.part.oasis }) ∧
    (m.boot.stage = 8 → fullReady m = true →
      exec (.partFull t) s = .next (withPart s <| partStatus 0 255 (enterStage 9 { m with ident := { m.ident with full := true } }))) ∧
    (m.chain.quarantined = true → (m.chain.rebootAt.any fun e => decide (e ≤ m.clock.elapsed)) = true →
      exec (.quarantineReboot t) s = .next (withPart s <|
        systemReset srcFirmware 255 none { m with oasis := { m.oasis with rebootHt := some m.clock.ht } })) ∧
    ((m.power.resetAt.any fun e => decide (e ≤ m.clock.elapsed)) = true → m.dram.firmwareBad = false →
      exec (.fwActivateReset t) s = .next (withPart s <| systemReset srcFirmware 255 none m)) ∧
    (∀ d o i, m.power.brace = none → m.flash.staging = some (d, o, i) →
      exec (.fwLoadStageDone t true) s = .next (withPart s <| finish d o 0x7E { status := stOk } { m with
        flash := { m.flash with staging := none, staged := true, images := m.flash.images.set (spareSlot m) (some i) }
        oasis := { m.oasis with failedBoots := m.oasis.failedBoots.set (spareSlot m) 0 } }) ∧
      exec (.fwLoadStageDone t false) s = .next (withPart s <| finish d o 0x7E { status := stBadParam } { m with
        flash := { m.flash with staging := none, staged := false, images := m.flash.images.set (spareSlot m) none } })) ∧
    (∀ k detail, k < tilesFitted s.part →
      exec (.tileLinkFault t k detail) s = .next (withPart s <| fenceTile k fenceLink detail m) ∧
      ∀ r, (m.tiles.getD k {}).inReset = true →
        let m1 := fillMemory k (onTile k (fun _ => {}) m)
        let m2 := if r.passA then restoreHalf (2 * k) r.residualA m1 else failHalf (2 * k) m1
        let m3 := if r.passB then restoreHalf (2 * k + 1) r.residualB m2 else failHalf (2 * k + 1) m2
        exec (.tileResetDone t k r) s = .next (withPart s <|
          partStatus ((if r.passA then 1 else 0) + if r.passB then 2 else 0) k m3)) ∧
    (∀ h detail, h < halvesFitted s.part →
      exec (.memoryFault t h detail) s = .next (withPart s <| fenceHalf h fenceMemory 0 detail m) ∧
      (isLive h m = true → tileHolds h m = false →
        exec (.converterStuck t h) s = .next (withPart s <| fenceHalf h fenceConverter 0 0 m)))

/-! ## Steps, outcomes and acceptance -/

/-- A step takes the command at the front of the queue and runs it with the queue's rest. -/
def Obligations.StepRunsFrontCommand : Prop :=
  ∀ (c : Instr) (rest : List Instr) (s : State),
    step { s with pending := c :: rest } = exec c { s with pending := rest }

/-- On an empty queue a step lets one tick of house time pass (the model's choice, log 2) and changes nothing else. -/
def Obligations.EmptyQueueIdles : Prop :=
  ∀ (s : State), s.pending = [] →
    step s = .next { s with part := { s.part with
      clock := { s.part.clock with ht := s.part.clock.ht + 1, elapsed := s.part.clock.elapsed + 1 } } }

/-- Every command answers a next state and leaves the queue as it is, unless the row names a half, tile, pin, port, sensor, rail group,
link, vector or demodulator that this part does not have: then it stops with notFitted. A command from a ring never stops. -/
def Obligations.NoCommandIsRefused : Prop :=
  ∀ (i : Instr) (s : State),
    ((∃ u, exec i s = .next u ∧ u.pending = s.pending) ∨ exec i s = .fault .notFitted) ∧
    (∀ d c, i.source = .inl (d, c) → ∃ u, exec i s = .next u)

/-- A row about a half or a tile that is not fitted, or about a pin, port, vector, link or demodulator beyond the family's, stops with
notFitted: nothing on this part can raise it (R4, R5). -/
def Obligations.UnfittedRowsStop : Prop :=
  ∀ (t n : Nat) (s : State),
    (halvesFitted s.part ≤ n →
      (∀ r, exec (.detectorPeriodEnd t n r) s = .fault .notFitted) ∧
      (∀ b, exec (.levellerDwellExpiry t n b) s = .fault .notFitted ∧ exec (.levellerStepLanding t n b) s = .fault .notFitted) ∧
      (∀ v, exec (.adcClip t n v) s = .fault .notFitted ∧ exec (.antpwrCurrentLimit t n v) s = .fault .notFitted ∧
        exec (.antpwrOpen t n v) s = .fault .notFitted ∧ exec (.memoryFault t n v) s = .fault .notFitted) ∧
      exec (.converterStuck t n) s = .fault .notFitted ∧ exec (.holdEnd t n) s = .fault .notFitted ∧
      exec (.muteLead t n) s = .fault .notFitted ∧ exec (.calRunStart t n) s = .fault .notFitted ∧
      exec (.calPhaseEnd t n) s = .fault .notFitted ∧ (∀ r, exec (.calRunEnd t n r) s = .fault .notFitted) ∧
      exec (.calRampIncrement t n) s = .fault .notFitted ∧ (∀ g w, exec (.bgConverged t ⟨n, g, w⟩) s = .fault .notFitted) ∧
      exec (.bgHeld t n) s = .fault .notFitted ∧ exec (.poolSaturated t n) s = .fault .notFitted ∧
      exec (.poolClear t n) s = .fault .notFitted) ∧
    (tilesFitted s.part ≤ n →
      exec (.tsynUnlock t n) s = .fault .notFitted ∧ exec (.tsynRelockRetry t n) s = .fault .notFitted ∧
      exec (.tileSwitchReturn t n) s = .fault .notFitted ∧ (∀ v, exec (.tileLinkFault t n v) s = .fault .notFitted) ∧
      (∀ r, exec (.tileResetDone t n r) s = .fault .notFitted)) ∧
    (16 ≤ n → (∀ v, exec (.gpioEdge t n v) s = .fault .notFitted) ∧ exec (.muteTrail t n) s = .fault .notFitted) ∧
    (3 ≤ n → ∀ h, exec (.levellerDwellExpiry t h n) s = .fault .notFitted ∧ exec (.levellerStepLanding t h n) s = .fault .notFitted) ∧
    (halvesFitted s.part ≤ n → n ≠ 16 → ∀ v, exec (.tempSensorRead t n v) s = .fault .notFitted) ∧
    (3 + tilesFitted s.part ≤ n → n ≠ 11 → ∀ v oc, exec (.railTrip t n v oc) s = .fault .notFitted) ∧
    (8 ≤ n → (∀ l, exec (.audioPortFrame t ⟨n, l⟩) s = .fault .notFitted) ∧ exec (.audioFirstFrame t n) s = .fault .notFitted ∧
      exec (.audioClockStart t n) s = .fault .notFitted ∧ exec (.audioTrailEnd t n) s = .fault .notFitted ∧
      (∀ b e, exec (.audioFsEdge t n b e) s = .fault .notFitted) ∧ (∀ f dir, exec (.audioSlip t n f dir) s = .fault .notFitted) ∧
      (∀ dir o c, exec (.audioXrun t n dir o c) s = .fault .notFitted) ∧ exec (.audioStall t n) s = .fault .notFitted ∧
      (∀ a, exec (.audioResume t n a) s = .fault .notFitted) ∧ exec (.kiteSyncTimeout t n) s = .fault .notFitted ∧
      (∀ v l, exec (.kiteSyncDone t n v l) s = .fault .notFitted) ∧ (∀ v, exec (.kiteHeaderDone t n v) s = .fault .notFitted) ∧
      (∀ v, exec (.kitePayloadDone t n v) s = .fault .notFitted)) ∧
    (64 ≤ n → exec (.msixHoldoffExpiry t n) s = .fault .notFitted ∧ exec (.msixUnmask t n) s = .fault .notFitted) ∧
    (3 ≤ n → exec (.egressRecordStart t n) s = .fault .notFitted)

/-- A command whose descriptor the part does not read has no effect: while the interface is disabled, the ring stopped or not configured,
or its completion ring full (R320, R324). -/
def Obligations.UnreadCommandsHaveNoEffect : Prop :=
  ∀ (i : Instr) (d : Desc) (c : HostCmd) (s : State),
    i.source = .inl (d, c) → readDesc d s.part = none → exec i s = .next s

/-- Orders 2 and 3 of Table HIF-5, and the secondary interface (R326, R429): a descriptor with a reserved bit set, with memory that cannot
be read or with a dest that is not in the chain completes with ST_BAD_PARAM; a quarantined part answers ST_QUARANTINED; a secondary
interface answers ST_BUSY to what R429 does not allow. Nothing else happens. -/
def Obligations.BadDescriptorsAreAnswered : Prop :=
  ∀ (i : Instr) (d : Desc) (c : HostCmd) (s : State), i.source = .inl (d, c) → (readDesc d s.part).isSome = true →
    let m := readPart d s.part
    (isHead s.part = false → secondaryAllows c = false ∨ d.dest ≠ ownAddr s.part →
      exec i s = .next (answered d c { status := stBusy } m s)) ∧
    (isHead s.part = true ∨ secondaryAllows c = true ∧ d.dest = ownAddr s.part →
      (d.clean = false ∨ d.readable = false ∨ s.part.chain.parts ≤ d.dest ∧ d.dest ≠ ownAddr s.part →
        exec i s = .next (answered d c { status := stBadParam } m s)) ∧
      (d.clean = true → d.readable = true → d.dest = ownAddr s.part → s.part.chain.quarantined = true →
        exec i s = .next (answered d c { status := stQuarantined } m s)))

/-- Orders 4 to 9 of Table HIF-5 (R326, with R50, R53, R54, R56, R339): the first check that fails gives the completion's status, and the
command has no other effect. -/
def Obligations.RefusalsFollowTheTable : Prop :=
  ∀ (i : Instr) (d : Desc) (c : HostCmd) (s : State), i.source = .inl (d, c) → Admitted d c s.part →
    let m := readPart d s.part
    let late := decide (d.due < m.clock.ht + leadOf c m)
    let st := firstStatus [
      (decide (d.due ≠ 0) && ((classOf c).isNone || decide (m.clock.ht + 2 ^ 42 < d.due)), stBadParam),
      (needsBlock c && (!d.res || decide (d.resSize = 0)), stBadParam),
      (decide (checkCmd d c m ≠ stOk), checkCmd d c m),
      (locked c m, stBusy),
      (decide (d.due ≠ 0) && decide (1024 ≤ m.sched.queue.length), stBusy),
      (decide (d.due ≠ 0) && d.strict && late, stLate)]
    st ≠ stOk → exec i s = .next (answered d c { status := st } m s)

/-- A command that passes every check and carries at = 0 takes effect at once, with the effect that a scheduled one has: a leveller step
that it makes lands on this tick. CAL_RUN and AUDIO_PORT_START are not of this form (R50). -/
def Obligations.CommandsAtZeroExecuteAtOnce : Prop :=
  ∀ (i : Instr) (d : Desc) (c : HostCmd) (s : State), i.source = .inl (d, c) → Executes d c s.part →
    (∀ h, c ≠ .calRun h) → (∀ p, c ≠ .audioPortStart p) →
    exec i s = .next (withPart s (performNow d .ring c (performAtOnce c) (readPart d s.part)))

/-- A schedulable command that passes every check and carries a non-zero at waits in the queue for that tick, or, when it is late and not
strict, for the earliest tick of its lead; a CAL_RUN's runs are fixed with it (R50, R55, R56, R134). -/
def Obligations.ScheduledCommandsWait : Prop :=
  ∀ (i : Instr) (d : Desc) (c : HostCmd) (s : State), i.source = .inl (d, c) → Admitted d c s.part →
    let m := readPart d s.part
    let late := decide (d.due < m.clock.ht + leadOf c m)
    let q := if late then enqueue (portTick c (m.clock.ht + leadOf c m) m) true d .ring c m else enqueue d.due false d .ring c m
    d.due ≠ 0 → (classOf c).isSome = true → d.due ≤ m.clock.ht + 2 ^ 42 → (needsBlock c = true → d.res = true ∧ d.resSize ≠ 0) →
    checkCmd d c m = stOk → locked c m = false → m.sched.queue.length < 1024 → (late = true → d.strict = false) →
      ((∀ h, c ≠ .calRun h) → exec i s = .next (withPart s q)) ∧
      (∀ h, c = .calRun h → exec i s = .next (withPart s (fixAccepted m.sched.nextOrder q)))

/-- R53. The queue holds 1024 actions: with it full, a further scheduled action that would otherwise be queued completes with ST_BUSY and no
effect. EV_SCHED_HIGH is raised when the occupied entries rise to 896, and again only after they have fallen below 768. -/
def Obligations.QueueLimits : Prop :=
  (∀ (i : Instr) (d : Desc) (c : HostCmd) (s : State), i.source = .inl (d, c) → Admitted d c s.part →
    let m := readPart d s.part
    d.due ≠ 0 → (classOf c).isSome = true → d.due ≤ m.clock.ht + 2 ^ 42 → (needsBlock c = true → d.res = true ∧ d.resSize ≠ 0) →
    checkCmd d c m = stOk → locked c m = false → 1024 ≤ m.sched.queue.length →
      exec i s = .next (answered d c { status := stBusy } m s)) ∧
  (∀ (due : Nat) (late : Bool) (d : Desc) (o : Origin) (c : HostCmd) (m : Part),
    let a : Action := { order := m.sched.nextOrder, due := due, late := late, desc := d, origin := o, cmd := c }
    let q := { m.sched with queue := m.sched.queue ++ [a], nextOrder := m.sched.nextOrder + 1 }
    enqueue due late d o c m =
      if 896 ≤ m.sched.queue.length + 1 ∧ m.sched.high = false then
        raise 64 0x30 [⟨0, 2, m.sched.queue.length + 1⟩] { m with sched := { q with high := true } }
      else { m with sched := q }) ∧
  (∀ (p : Action → Bool) (m : Part), m.sched.high = true →
    ((keepQueue p m).sched.high = false ↔ (keepQueue p m).sched.queue.length < 768))

/-- Of the actions that are due, the one with the earliest tick executes first, then the first in the class order of Table HTM-4, then the
first accepted (R58, R67). -/
def Obligations.ActionsExecuteInOrder : Prop :=
  ∀ (q : List Action) (a : Action), firstAction q = some a →
    a ∈ q ∧ ∀ b ∈ q, a.due < b.due ∨ a.due = b.due ∧
      (cmdOrder a.cmd < cmdOrder b.cmd ∨ cmdOrder a.cmd = cmdOrder b.cmd ∧ a.order ≤ b.order)

/-! ## Completions, events and frames -/

/-- A command of this part's host is answered with its tag and opcode, its status (ST_LATE for a late action that executed as asked), the
low 32 bits of the tick on which it took effect, its result word and the address of this part; the answer changes nothing but the host
interface and the host's memory (R56, R330). -/
def Obligations.CompletionsCarryTheirCommand : Prop :=
  ∀ (d : Desc) (o : Origin) (op : Nat) (r : Reply) (m : Part), o.isRemote = false →
    ∃ c : Completion, c.ring = d.ring ∧ c.tag = d.tag ∧ c.opcode = op ∧
      c.status = (if o.isLate ∧ r.status = stOk then stLate else r.status) ∧
      c.execHt = (r.execHt.getD m.clock.ht) % 2 ^ 32 ∧ c.result = r.result ∧ c.src = ownAddr m ∧
      finish d o op r m = postCompletion c m ∧
      finish d o op r m = { m with hif := (finish d o op r m).hif, host := (finish d o op r m).host }

/-- R324. A completion is written where its ring has space, and held otherwise: it is never dropped. While its completion ring is full, a
command ring is not read. An event that finds the event ring full is not written. -/
def Obligations.FullRingsHold : Prop :=
  (∀ (c : Completion) (m : Part), c.ring < m.hif.cplq.length →
    let r := cplRing c.ring m
    let u := postCompletion c m
    (m.hif.enable = true → r.held = [] → cplOpen r = true →
      u.host.completions = c :: m.host.completions ∧ (cplRing c.ring u).prod = (r.prod + 1) % 2 ^ 32 ∧ (cplRing c.ring u).held = []) ∧
    (m.hif.enable = false ∨ r.held ≠ [] ∨ cplOpen r = false →
      u.host = m.host ∧ (cplRing c.ring u).held = r.held ++ [c] ∧ (cplRing c.ring u).prod = r.prod)) ∧
  (∀ r : CplRing, cplOpen r = true → ringUsed r.prod r.cons < 2 ^ r.log2) ∧
  (∀ m : Part, evqOpen m = true → ringUsed m.hif.evq.prod m.hif.evq.cons < 2 ^ m.hif.evq.log2) ∧
  (∀ (i : Instr) (d : Desc) (c : HostCmd) (s : State), i.source = .inl (d, c) → cplFull (cplRing d.ring s.part) = true →
    exec i s = .next s) ∧
  (∀ (e : Event) (v : Nat) (m : Part), evqOpen m = false →
    (postEvent e v m).host = m.host ∧ (postEvent e v m).hif.evq.prod = m.hif.evq.prod ∧
    ((postEvent e v m).hif.evq.held = m.hif.evq.held ++ [(e, v)] ∨ (postEvent e v m).hif.evq.dropped = m.hif.evq.dropped + 1))

/-- Events of the head: one that the ring can take is written at once, up to 1024 are held in order while it cannot, and those beyond are
dropped and counted; the sequence number rises by one with each, written or not (R347, R348). -/
def Obligations.EventsAreHeldThenDropped : Prop :=
  ∀ (src code : Nat) (p : List Field) (m : Part), isHead m = true → (route src m).toRing = true →
    let e : Event := { source := src, origin := ownAddr m, code := code, seq := m.hif.evq.seq, stamp := m.clock.ht, payload := p }
    let u := raise src code p m
    u.hif.evq.seq = (m.hif.evq.seq + 1) % 65536 ∧
    (m.hif.evq.held = [] → m.hif.evq.dropped = 0 → evqOpen m = true →
      u.host.events = e :: m.host.events ∧ u.hif.evq.prod = (m.hif.evq.prod + 1) % 2 ^ 32 ∧ u.hif.evq.held = []) ∧
    (m.hif.evq.dropped = 0 → evqOpen m = false → m.hif.evq.held.length < 1024 →
      u.host = m.host ∧ u.hif.evq.held = m.hif.evq.held ++ [(e, (route src m).vector)]) ∧
    (evqOpen m = false → 1024 ≤ m.hif.evq.held.length →
      u.host = m.host ∧ u.hif.evq.held = m.hif.evq.held ∧ u.hif.evq.dropped = m.hif.evq.dropped + 1)

/-- The frame of an event and of an answer: outside the host interface, the host's memory, the Oasis event log and the chain's transfers
nothing changes, so that where a statement gives a new part by raise and finish over a named update, everything not named is as it was. -/
def Obligations.AnswersAndEventsChangeNothingElse : Prop :=
  ∀ (m : Part),
    (∀ src code p, raise src code p m = told m (raise src code p m) ∧ (raise src code p m).hif.cmdq = m.hif.cmdq ∧
      (raise src code p m).hif.routes = m.hif.routes ∧ (raise src code p m).hif.enable = m.hif.enable) ∧
    (∀ d o op r, finish d o op r m = told m (finish d o op r m) ∧ (finish d o op r m).hif.cmdq = m.hif.cmdq ∧
      (finish d o op r m).hif.routes = m.hif.routes ∧ (finish d o op r m).hif.enable = m.hif.enable)

/-! ## Reset, locks and fences -/

/-- The fixed arrays, the queue's bound with its high-water mark, and the bounds of the held events and the event log hold after reset
(the size of the part that resets is the model's choice, log 3). -/
def Obligations.ResetIsSound : Prop := Sound (fusedOf State.reset.part) State.reset.part

/-- Every step from a sound part leads to a sound part with the same fuses: eight tiles, sixteen halves, sixteen pins, eight ports, eight
demodulators and their companions, at most 1024 actions, EV_SCHED_HIGH armed as R53 says, at most 1024 held events (R347) and 64 logged
ones. -/
def Obligations.StepKeepsSound : Prop :=
  ∀ (f : Fused) (s u : State), Sound f s.part → step s = .next u → Sound f u.part

/-- What the spec gives for reset: every pin is an input (R123), every antenna supply is off (R100), every event is routed to the ring and
vector 0 (R349), the interface is disabled and unlocked (R472, R482), no context is open, no action is queued and no flow exists. -/
def Obligations.ResetValues : Prop :=
  let m := State.reset.part
  State.reset.pending = [] ∧ (∀ g ∈ m.gpio, g.function = .input) ∧ (∀ h ∈ m.halves, h.antpwr = .off) ∧
  (∀ n, route n m = { toRing := true, vector := 0 }) ∧ m.hif.enable = false ∧ m.hif.lock = false ∧ m.ctxs = [] ∧
  m.sched.queue = [] ∧ m.flows = [] ∧ m.plans = []

/-- R10. The global context ID is tile × 128 + half × 64 + slot, whatever the part: it names the half 2 × tile + half and that slot of it.
-/
def Obligations.ContextIdsNameSlots : Prop :=
  (∀ (tile half slot : Nat), half < 2 → slot < 64 →
    ctxHalf (tile * 128 + half * 64 + slot) = 2 * tile + half ∧ (tile * 128 + half * 64 + slot) % 64 = slot) ∧
  (∀ a b : Nat, ctxHalf a = ctxHalf b → a % 64 = b % 64 → a = b)

/-- Commands that name a context: beyond the fitted range ST_BAD_PARAM (R4), on a fenced half ST_FENCED (R37), an open on a parked half
ST_NO_CAPACITY and any other command for a slot that is not held ST_NO_CONTEXT (R24, Table CTX-2). -/
def Obligations.SlotChecks : Prop :=
  ∀ (d : Desc) (m : Part),
    (∀ p, slotOutside p.ctx m = true → checkCmd d (.ctxOpen p) m = stBadParam ∧ checkCmd d (.ctxWatch p) m = stBadParam ∧
      checkCmd d (.ctxRetune p) m = stBadParam) ∧
    (∀ p, slotOutside p.ctx m = false → slotFenced p.ctx m = true → checkCmd d (.ctxOpen p) m = stFenced ∧
      checkCmd d (.ctxWatch p) m = stFenced ∧ checkCmd d (.ctxRetune p) m = stFenced) ∧
    (∀ p, slotOutside p.ctx m = false → slotFenced p.ctx m = false → slotParked p.ctx m = true →
      checkCmd d (.ctxOpen p) m = stNoCapacity ∧ checkCmd d (.ctxWatch p) m = stNoCapacity) ∧
    (∀ c, slotOutside c m = true → checkCmd d (.ctxClose c) m = stBadParam ∧ checkCmd d (.ctxQuery c) m = stBadParam) ∧
    (∀ c, slotOutside c m = false → slotFenced c m = true → checkCmd d (.ctxClose c) m = stFenced ∧ checkCmd d (.ctxQuery c) m = stFenced) ∧
    (∀ c, slotOutside c m = false → slotFenced c m = false → slotHeld c m = false →
      checkCmd d (.ctxClose c) m = stNoContext ∧ checkCmd d (.ctxQuery c) m = stNoContext)

/-- R45. The Oasis domain stores the current HT once per HT second and at every entry to BRACE. -/
def Obligations.OasisStoresHt : Prop :=
  ∀ (t vin : Nat) (s : State), let m := advance t s.part
    (onSecond m = true → ∃ u, exec (.htSecondsBoundary t) s = .next u ∧ u.part.oasis.lastHt = some m.clock.ht ∧
      u.part.oasis.lastAt = m.clock.elapsed) ∧
    (m.power.railsUp = true → m.power.brace = none → vin < 100 * m.power.warn →
      ∃ u, exec (.braceEntry t vin) s = .next u ∧ u.part.power.brace.isSome = true ∧ u.part.oasis.lastHt = some m.clock.ht ∧
        u.part.oasis.lastAt = m.clock.elapsed)

/-- With HIF_CTRL.lock set, writes to the registers of Table REG-3 have no effect; neither have, while the interface is enabled, writes to
the ring, page, polling and vector registers of the HIF block (R8, R314, R482). -/
def Obligations.LockedRegistersKeepTheirValues : Prop :=
  ∀ (t off v : Nat) (s : State), let m := advance t s.part
    (m.hif.lock = true → off ∈ [0x2000, 0x3000, 0x4000] → exec (.registerWrite t off 4 v) s = .next (withPart s m)) ∧
    (m.hif.lock = true → exec (.pmuVinWarn t v) s = .next (withPart s m)) ∧
    (m.hif.lock = true ∨ m.hif.enable = true →
      off ∈ [0x1008, 0x1010, 0x1014, 0x1018, 0x101C, 0x1020, 0x1024, 0x1028, 0x102C, 0x1030] ∨
        0x1040 ≤ off ∧ off < 0x10C0 ∧ off % 32 ∈ [0x00, 0x04, 0x08, 0x10, 0x14, 0x18] →
      exec (.registerWrite t off 4 v) s = .next (withPart s m))

/-- A reset of scope HOST on the head clears the host interface with its lock, and what the host created: contexts, flows, source sets,
policies, scheduled actions and plans; it keeps HT, the clock's settings, the address and the running firmware (R454). -/
def Obligations.HostResetClearsAndKeeps : Prop :=
  ∀ (t : Nat) (s : State), let m := advance t s.part
    isHead m = true → ∃ u, exec (.hostReset t) s = .next u ∧ u.pending = s.pending ∧
      u.part.hif = {} ∧ u.part.ctxs = [] ∧ u.part.flows = [] ∧ u.part.sets = [] ∧ u.part.service.policies = [] ∧
      u.part.sched = {} ∧ u.part.plans = [] ∧ u.part.regs.msgBase = 0 ∧
      u.part.clock = m.clock ∧ u.part.spll = m.spll ∧ u.part.chain.addr = m.chain.addr ∧ u.part.ident = m.ident

/-- A reset of scope SYSTEM writes its cause, item, HT and fault into the Oasis record and keeps the Oasis, the address and the rollback
floor; the rest of the part starts afresh. A reset of scope POWER leaves no record (R45, R453, R456). -/
def Obligations.SystemResetsLeaveTheirRecord : Prop :=
  ∀ (t : Nat) (s : State), let m := advance t s.part
    (∀ cause item fault, let u := systemReset cause item fault m
      u.oasis.resetCause = cause ∧ u.oasis.resetItem = item ∧ u.oasis.resetHt = m.clock.ht ∧ u.oasis.lastHt = some m.clock.ht ∧
      u.oasis.resetFault = fault ∧ u.oasis.log = m.oasis.log ∧ u.chain.addr = m.oasis.addr ∧ u.sec.rollback = m.sec.rollback ∧
      u.ctxs = [] ∧ u.flows = [] ∧ u.hif = {} ∧ u.sched = {} ∧ u.boot = {}) ∧
    (∃ u, exec (.powerReset t) s = .next u ∧ u.part.oasis = {} ∧ u.part.power.railsUp = false ∧ u.part.ctxs = [] ∧ u.part.hif = {} ∧
      u.part.ident = { m.ident with fw := {}, full := false })

/-- A half that is fenced is isolated with its antenna output off; unless its partner carries its contexts, none of them is left
(R36-R38). -/
def Obligations.FencingWithdrawsAHalf : Prop :=
  ∀ (t h detail : Nat) (s : State), let m := advance t s.part
    h < halvesFitted s.part → h < m.halves.length → isFenced h m = false →
    ∃ u, exec (.memoryFault t h detail) s = .next u ∧ u.pending = s.pending ∧
      (half h u.part).mode = .fenced ∧ (half h u.part).antpwr = .off ∧ (half h u.part).isoOpen = true ∧
      (half h u.part).fenceCause = some fenceMemory ∧
      (paired h m = false → ∀ c, ctxHalf c = h → ctx c u.part = none)

/-- While a fade runs, a COEF_LOAD or COEF_SWAP that executes, at once or on its tick, is answered ST_COEF_BUSY and has no effect; on the
grid tick of its last output the fade is over before the command (R159). -/
def Obligations.FadesRefuseCoefficients : Prop :=
  ∀ (order : Option Nat) (d : Desc) (o : Origin) (c : Nat) (m : Part) (x : Ctx) (f : Fade),
    look c m.ctxs = some x → x.chain.fade = some f →
    (m.clock.elapsed < fadeEnd x f →
      (∀ n scale words, performCmd order (.coefLoad c n scale words) d o m = (m, some { status := stCoefBusy })) ∧
      (∀ xfade, performCmd order (.coefSwap c xfade) d o m = (m, some { status := stCoefBusy }))) ∧
    (fadeEnd x f ≤ m.clock.elapsed →
      ∀ xfade, ∃ u, performCmd order (.coefSwap c xfade) d o m = (u, some { status := stOk }))

/-- A copy outside HOLD that makes a transition of Table CTX-4 is in the new state from this tick on, and the other copy is as it was
(R178-R181). -/
def Obligations.MovedCopyReachesItsState : Prop :=
  ∀ (c : Nat) (k : Copy) (st st' : CtxState) (cause : Nat) (m : Part) (x : Ctx),
    look c m.ctxs = some x → copyIn c k st m = true → (x.copy k).map CopyState.holds = some [] →
    ∃ x', look c (moveCopy c k st' cause id m).ctxs = some x' ∧
      (x'.copy k).map CopyState.state = some st' ∧ (x'.copy k).map CopyState.entered = some m.clock.elapsed ∧
      ∀ k', k' ≠ k → x'.copy k' = x.copy k'

/-! ## What a command or a row has brought about

The statements on commands and rows above give the whole next part; this one says of the forms it names, in few words, that each completes and
what holds then. -/

/-- Each of these forms completes, under conditions on the state and the operands alone. Commands that pass every check of Table HIF-5
with at = 0. kiteConfig: the configuration is pending and no frame that is not on air is left. kiteSessionOpen: the session is open with
its key, peer and channel. kiteSessionClose: it is closed. kiteSessionUpdate: it has its new key and channel. kiteSessionFlush: no frame
of it is queued. kiteSend: the frame is queued with the session's counter. kiteBudget: the bucket has its rate and burst. audioPortConfig:
the port is configured. audioPortStart and calRun: the action waits for the first tick of its lead. audioPortStop: the port no longer
runs. calPolicy: the halves have their policy. clockConfig: the clock has its limits. chainEnumerate: the chain has its identity and its
parts. chainRollcall: the roll call is answered. chainSend: the message to another part is under way and its command waits. fwLoadStage: a
valid image is being written. fwLoadActivate: the slot is preferred and the part is to reset 10 ms later. Rows of the host interface.
doorbellFetch: fetch_seq counts and HT is written. hifEnable: with every check passed the interface is enabled. hifDisable: it is
disabled. hifNudge: a fetch is asked for. hifLock: the lock is set. hifQuiesced: quiesced is set. msixHoldoffExpiry: the message of a
vector whose holdoff has run out is sent. msixUnmask: the mask is lifted, and a message that waited is sent (R62, R131, R134, R317, R320,
R350, R376, R394, R397, R399, R403, R408, R409, R427, R440, R442, R459, R472, R482). -/
def Obligations.CommandsAndInterfaceRowsTakeEffect : Prop :=
  (∀ (d : Desc) (s : State), let m := readPart d s.part
    (∀ (n : Nat),
      (∀ count b, Executes d (.kiteConfig count b) s.part → ∃ u, exec (.kiteConfig d count b) s = .next u ∧
        u.part.kite.pending = some { block := decodeKite b, count := count, desc := d, origin := .ring } ∧
        ∀ x ∈ u.part.kite.txs, x.begun = true) ∧
      (∀ key peer ch, Executes d (.kiteSessionOpen n key peer ch) s.part → openSessionStatus sessionNow n key ch m = stOk →
        ∃ u, exec (.kiteSessionOpen d n key peer ch) s = .next u ∧
          kiteSession n u.part = some { key := key, peer := peer, channel := ch }) ∧
      (∀ x, Executes d (.kiteSessionClose n) s.part → m.kite.cfg.isSome = true → kiteSession n m = some x →
        ∃ u, exec (.kiteSessionClose d n) s = .next u ∧ kiteSession n u.part = none) ∧
      (∀ key ch x, Executes d (.kiteSessionUpdate n key ch) s.part → updateStatus sessionNow n key ch m = stOk → kiteSession n m = some x →
        ∃ u, exec (.kiteSessionUpdate d n key ch) s = .next u ∧ ∃ y, kiteSession n u.part = some y ∧ y.key = key ∧ y.channel = ch ∧
          y.peer = x.peer) ∧
      (∀ x, Executes d (.kiteSessionFlush n) s.part → m.kite.cfg.isSome = true → kiteSession n m = some x →
        ∃ u, exec (.kiteSessionFlush d n) s = .next u ∧ ∃ y, kiteSession n u.part = some y ∧ y.queue = [] ∧ y.txCount = x.txCount) ∧
      (∀ cls len payload x, Executes d (.kiteSend n cls len payload) s.part → kiteSession n m = some x → x.txCount ≠ 2 ^ 32 - 1 →
          x.queue.length < 64 → (m.kite.sessions.map fun e => e.2.queue.length).sum < 16384 →
        ∃ u, exec (.kiteSend d n cls len payload) s = .next u ∧ ∃ y, kiteSession n u.part = some y ∧ y.txCount = x.txCount + 1 ∧
          y.queue = x.queue ++ [{ cls := cls, length := len, payload := payload, seq := x.txCount, tag := d.tag }]) ∧
      (∀ subBand cls rate burst, Executes d (.kiteBudget subBand cls rate burst) s.part →
        ∃ u, exec (.kiteBudget d subBand cls rate burst) s = .next u ∧
          (bucketOf subBand cls u.part).rate = rate ∧ (bucketOf subBand cls u.part).burst = burst)) ∧
    (∀ p, Executes d (.audioPortConfig p) s.part → p.port < s.part.ports.length →
      ∃ u, exec (.audioPortConfig d p) s = .next u ∧ (port p.port u.part).cfg = portCfg p) ∧
    (∀ p, Executes d (.audioPortStart p) s.part → s.part.sched.queue.length < 1024 →
      ∃ u, exec (.audioPortStart d p) s = .next u ∧ ∃ a ∈ u.part.sched.queue, a.cmd = .audioPortStart p ∧ a.desc = d ∧
        a.due = portTick (.audioPortStart p) (m.clock.ht + leadOf (.audioPortStart p) m) m) ∧
    (∀ p, Executes d (.audioPortStop p) s.part → p < s.part.ports.length →
      ∃ u, exec (.audioPortStop d p) s = .next u ∧ ((port p u.part).state = .idle ∨ (port p u.part).state = .trail)) ∧
    (∀ h auto deltaT ws, Executes d (.calPolicy h auto deltaT ws) s.part →
      ∃ u, exec (.calPolicy d h auto deltaT ws) s = .next u ∧ ∀ k ∈ calHalves h s.part, k < s.part.halves.length →
        (half k u.part).cal.auto = decide (orDefault 1 0 auto = 0) ∧ (half k u.part).cal.deltaT = orDefault 1 4 deltaT ∧
        (half k u.part).cal.windows = ws.map decodeWindow) ∧
    (∀ h, Executes d (.calRun h) s.part → s.part.sched.queue.length < 1024 →
      ∃ u, exec (.calRun d h) s = .next u ∧ ∃ a ∈ u.part.sched.queue, a.cmd = .calRun h ∧ a.desc = d ∧ a.due = s.part.clock.ht + 2048) ∧
    (∀ p, Executes d (.clockConfig p) s.part →
      ∃ u, exec (.clockConfig d p) s = .next u ∧ (∀ v, p.stepLimit = some v → u.part.clock.stepLimit = orDefault 4 2000 v) ∧
        (∀ v, p.slewLimit = some v → u.part.clock.slewLimit = orDefault 1 20 v) ∧
        (∀ v, p.ppsDelay = some v → u.part.clock.ppsDelay = v) ∧
        (p.stepLimit = none → u.part.clock.stepLimit = s.part.clock.stepLimit)) ∧
    (∀ options w, Executes d (.chainEnumerate options w) s.part → busyParts (w.parts.take 1023) = [] →
      ∃ u, exec (.chainEnumerate d options w) s = .next u ∧ u.part.chain.addr = some 0 ∧ u.part.chain.chainId = s.part.regs.chainId ∧
        u.part.chain.parts = (w.parts.take 1023).length + 1) ∧
    (Executes d .chainRollcall s.part →
      ∃ u, exec (.chainRollcall d) s = .next u ∧ u.pending = s.pending ∧
        u.part = finish d .ring (opcodeOf .chainRollcall) { status := stOk, chunks := rollBody (settleRoll m) } (settleRoll m)) ∧
    (∀ dest message, Executes d (.chainSend dest message) s.part → dest < s.part.chain.parts → dest ≠ 0xFFFF → dest ≠ ownAddr s.part →
        joined (ownAddr s.part) dest s.part = true → (look dest s.part.chain.peers).any Peer.quarantined = false →
      ∃ u, exec (.chainSend d dest message) s = .next u ∧
        u.part.chain.transfers = s.part.chain.transfers ++ [{ seq := s.part.chain.nextSeq, dest := dest, item := .message message }] ∧
        u.part.chain.sends = s.part.chain.sends ++ [{
          desc := d, origin := .ring, waiting := [s.part.chain.nextSeq], failed := [], single := true }]) ∧
    (∀ length image, let i : ImageOffer := { image with bytes := length }
      Executes d (.fwLoadStage length image) s.part → imageValid i m = true →
      ∃ u, exec (.fwLoadStage d length image) s = .next u ∧ u.part.flash.staging = some (d, .ring, i) ∧ u.part.flash.staged = false) ∧
    (Executes d .fwLoadActivate s.part →
      ∃ u, exec (.fwLoadActivate d) s = .next u ∧ u.part.oasis.preferred = spareSlot s.part ∧
        u.part.power.resetAt = some (s.part.clock.elapsed + 245760))) ∧
  (∀ (t : Nat) (s : State), let m := advance t s.part
    (∀ page, m.hif.enable = true → fetchDue m = true → page.ok = true → page.dmaErrors = [] →
      ∃ u, exec (.doorbellFetch t page) s = .next u ∧ u.part.hif.fetchSeq = (m.hif.fetchSeq + 1) % 2 ^ 32 ∧
        u.part.hif.shadowHt = m.clock.ht) ∧
    (m.hif.enable = false → (∀ c ∈ hifChecks m, c.2 = none) →
      ∃ u, exec (.hifEnable t) s = .next u ∧ u.part.hif.enable = true ∧ u.part.hif.cfgErr = 0) ∧
    (m.hif.enable = true → ∃ u, exec (.hifDisable t) s = .next u ∧ u.part.hif.enable = false) ∧
    (m.hif.enable = true → ∀ v, ∃ u, exec (.hifNudge t v) s = .next u ∧ u.part.hif.fetchAgain = true) ∧
    (∃ u, exec (.hifLock t) s = .next u ∧ u.part.hif.lock = true) ∧
    (m.hif.enable = false → ∃ u, exec (.hifQuiesced t) s = .next u ∧ u.part.hif.quiesced = true) ∧
    (∀ v e, v < 64 → 0 < (Machine.vector v m).triggers → (Machine.vector v m).since = some e →
        e + holdoffTicks (Machine.vector v m).holdoff ≤ m.clock.elapsed → (Machine.vector v m).masked = false →
      ∃ u, exec (.msixHoldoffExpiry t v) s = .next u ∧ u.part.host.messages = v :: m.host.messages ∧
        (Machine.vector v u.part).triggers = 0) ∧
    (∀ v, v < 64 → ∃ u, exec (.msixUnmask t v) s = .next u ∧ (Machine.vector v u.part).masked = false ∧
      ((Machine.vector v m).pba = true → u.part.host.messages = v :: m.host.messages)))
end

