-- ==== Sys2Proof/Laws/State.lean ====
section
/-! SUPPORT. What each shared operation of Ops.lean leaves of the part: one lemma for an operation, then one for a field, so that no
proof unfolds a record update. -/

namespace Sys2Proof.Machine

/-! ## The operations as record updates -/

theorem sendVector_frame (v : Nat) (m : Part) :
    ∃ x o w, sendVector v m = { m with
      hif := { m.hif with vectors := x }, host := { m.host with messages := o, writes := w } } := by
  unfold sendVector
  dsimp only
  split
  · exact ⟨_, m.host.messages, m.host.writes, rfl⟩
  · exact ⟨_, _, _, rfl⟩

theorem trigger_frame (v : Nat) (m : Part) :
    ∃ x o w, trigger v m = { m with
      hif := { m.hif with vectors := x }, host := { m.host with messages := o, writes := w } } := by
  unfold trigger
  split
  · exact ⟨m.hif.vectors, m.host.messages, m.host.writes, rfl⟩
  · dsimp only
    split
    · obtain ⟨x, o, w, e⟩ := sendVector_frame v (setVector v { vector v m with
        triggers := (vector v m).triggers + 1, since := some ((vector v m).since.getD m.clock.elapsed) } m)
      exact ⟨x, o, w, e⟩
    · exact ⟨_, m.host.messages, m.host.writes, rfl⟩

/-- A write to host memory is one more entry of the writes. -/
theorem writeHost_frame (a : Nat) (b : List Byte) (m : Part) :
    ∃ w, writeHost a b m = { m with host := { m.host with writes := w } } := ⟨_, rfl⟩

/-- A write of the shadow page is one more entry of the writes. -/
theorem writeShadow_frame (off size n : Nat) (m : Part) :
    ∃ w, writeShadow off size n m = { m with host := { m.host with writes := w } } := ⟨_, rfl⟩

theorem writeEvent_frame (e : Event) (v : Nat) (m : Part) :
    ∃ x o w, writeEvent e v m = { m with
      hif := { m.hif with evq := { m.hif.evq with prod := (m.hif.evq.prod + 1) % 2 ^ 32 }, vectors := x },
      host := { m.host with events := e :: m.host.events, messages := o, writes := w } } := by
  unfold writeEvent
  dsimp only
  obtain ⟨w, h⟩ := writeHost_frame (entryAddr m.hif.evq.base m.hif.evq.log2 32 m.hif.evq.prod) (eventBytes e) m
  rw [h]
  obtain ⟨w, h⟩ := writeShadow_frame 0x20 4 ((m.hif.evq.prod + 1) % 2 ^ 32) { m with host := { m.host with writes := w } }
  rw [h]
  obtain ⟨x, o, w, h⟩ := trigger_frame v { m with
    hif := { m.hif with evq := { m.hif.evq with prod := (m.hif.evq.prod + 1) % 2 ^ 32 } },
    host := { m.host with events := e :: m.host.events, writes := w } }
  exact ⟨x, o, w, h⟩

theorem postEvent_frame (e : Event) (v : Nat) (m : Part) :
    ∃ q x n o w, postEvent e v m = { m with
      hif := { m.hif with evq := q, vectors := x }, host := { m.host with events := n, messages := o, writes := w } } := by
  unfold postEvent
  split
  · obtain ⟨x, o, w, h⟩ := writeEvent_frame e v m
    exact ⟨_, x, _, o, w, h⟩
  · split <;> exact ⟨_, m.hif.vectors, m.host.events, m.host.messages, m.host.writes, rfl⟩

/-- Raising an event writes the event ring, MSI-X, the Oasis log and, on a part that is not the head, the transfers. -/
theorem raiseAt_frame (t s c : Nat) (p : List Field) (m : Part) :
    ∃ q x n o w l g k j, raiseAt t s c p m = { m with
      hif := { m.hif with evq := q, vectors := x }, host := { m.host with events := n, messages := o, writes := w },
      oasis := { m.oasis with log := l, logHead := g }, chain := { m.chain with transfers := k, nextSeq := j } } := by
  have key : ∀ y : Part, (∃ l g, y = { m with oasis := { m.oasis with log := l, logHead := g } }) →
      ∃ q x n o w l g k j, (if (route s m).toRing then
        let y := { y with hif := { y.hif with evq := { y.hif.evq with seq := (y.hif.evq.seq + 1) % 65536 } } }
        if isHead y ∨ c = 0x22 then
          postEvent { source := s, origin := ownAddr m, code := c, seq := m.hif.evq.seq, stamp := t, payload := p } (route s m).vector y
        else send 0 (.event { source := s, origin := ownAddr m, code := c, seq := m.hif.evq.seq, stamp := t, payload := p }
          (route s m).vector) y
        else y) = { m with
          hif := { m.hif with evq := q, vectors := x }, host := { m.host with events := n, messages := o, writes := w },
          oasis := { m.oasis with log := l, logHead := g }, chain := { m.chain with transfers := k, nextSeq := j } } := by
    rintro y ⟨l, g, rfl⟩
    split
    · dsimp only
      split
      · obtain ⟨q, x, n, o, w, e⟩ := postEvent_frame
          { source := s, origin := ownAddr m, code := c, seq := m.hif.evq.seq, stamp := t, payload := p } (route s m).vector
          { m with
            oasis := { m.oasis with log := l, logHead := g },
            hif := { m.hif with evq := { m.hif.evq with seq := (m.hif.evq.seq + 1) % 65536 } } }
        exact ⟨q, x, n, o, w, l, g, m.chain.transfers, m.chain.nextSeq, e⟩
      · exact ⟨_, m.hif.vectors, m.host.events, m.host.messages, m.host.writes, l, g, _, _, rfl⟩
    · exact ⟨m.hif.evq, m.hif.vectors, m.host.events, m.host.messages, m.host.writes, l, g, m.chain.transfers, m.chain.nextSeq, rfl⟩
  refine key (logEvent { source := s, origin := ownAddr m, code := c, seq := m.hif.evq.seq, stamp := t, payload := p } m) ?_
  unfold logEvent
  split
  · exact ⟨_, _, rfl⟩
  · exact ⟨m.oasis.log, m.oasis.logHead, rfl⟩

theorem raise_frame (s c : Nat) (p : List Field) (m : Part) :
    ∃ q x n o w l g k j, raise s c p m = { m with
      hif := { m.hif with evq := q, vectors := x }, host := { m.host with events := n, messages := o, writes := w },
      oasis := { m.oasis with log := l, logHead := g }, chain := { m.chain with transfers := k, nextSeq := j } } :=
  raiseAt_frame _ _ _ _ _

theorem writeCompletion_frame (c : Completion) (m : Part) :
    ∃ q x o w, writeCompletion c m = { m with
      hif := { m.hif with cplq := q, vectors := x, fetchAgain := true },
      host := { m.host with completions := c :: m.host.completions, messages := o, writes := w } } := by
  have key : ∀ y w0, y = { m with host := { m.host with writes := w0 } } →
      ∃ q x o w, (
        let z := onCpl c.ring (fun r => { r with prod := ((cplRing c.ring m).prod + 1) % 2 ^ 32 })
          (writeShadow (0x10 + 4 * c.ring) 4 (((cplRing c.ring m).prod + 1) % 2 ^ 32)
            (writeHost (entryAddr (cplRing c.ring m).base (cplRing c.ring m).log2 16 (cplRing c.ring m).prod) (completionBytes c) y))
        trigger (cplRing c.ring m).vector { z with
          host := { z.host with completions := c :: z.host.completions }, hif := { z.hif with fetchAgain := true } }) = { m with
      hif := { m.hif with cplq := q, vectors := x, fetchAgain := true },
      host := { m.host with completions := c :: m.host.completions, messages := o, writes := w } } := by
    rintro y w0 rfl
    obtain ⟨w1, h1⟩ := writeHost_frame (entryAddr (cplRing c.ring m).base (cplRing c.ring m).log2 16 (cplRing c.ring m).prod)
      (completionBytes c) { m with host := { m.host with writes := w0 } }
    rw [h1]
    obtain ⟨w2, h2⟩ := writeShadow_frame (0x10 + 4 * c.ring) 4 (((cplRing c.ring m).prod + 1) % 2 ^ 32)
      { m with host := { m.host with writes := w1 } }
    rw [h2]
    obtain ⟨x, o, w, e⟩ := trigger_frame (cplRing c.ring m).vector { m with
      hif := { m.hif with
        cplq := (onCpl c.ring (fun r => { r with prod := ((cplRing c.ring m).prod + 1) % 2 ^ 32 }) m).hif.cplq, fetchAgain := true },
      host := { m.host with completions := c :: m.host.completions, writes := w2 } }
    exact ⟨_, x, o, w, e⟩
  unfold writeCompletion
  cases hb : c.block with
  | none => exact key m m.host.writes rfl
  | some b => exact key _ _ rfl

theorem postCompletion_frame (c : Completion) (m : Part) :
    ∃ q x f n o w, postCompletion c m = { m with
      hif := { m.hif with cplq := q, vectors := x, fetchAgain := f },
      host := { m.host with completions := n, messages := o, writes := w } } := by
  unfold postCompletion
  dsimp only
  split
  · obtain ⟨q, x, o, w, e⟩ := writeCompletion_frame c m
    exact ⟨q, x, _, _, o, w, e⟩
  · exact ⟨_, m.hif.vectors, m.hif.fetchAgain, m.host.completions, m.host.messages, m.host.writes, rfl⟩

/-- A completion writes a completion ring and MSI-X, or goes over the chain. -/
theorem finish_frame (d : Desc) (o : Origin) (c : Nat) (r : Reply) (m : Part) :
    ∃ q x f n u w k j, finish d o c r m = { m with
      hif := { m.hif with cplq := q, vectors := x, fetchAgain := f },
      host := { m.host with completions := n, messages := u, writes := w },
      chain := { m.chain with transfers := k, nextSeq := j } } := by
  unfold finish
  dsimp only
  split
  · exact ⟨m.hif.cplq, m.hif.vectors, m.hif.fetchAgain, m.host.completions, m.host.messages, m.host.writes, _, _, rfl⟩
  · obtain ⟨q, x, f, n, u, w, e⟩ := postCompletion_frame _ m
    exact ⟨q, x, f, n, u, w, m.chain.transfers, m.chain.nextSeq, e⟩

/-! ## setVector -/

@[simp] theorem setVector_ident (v : Nat) (x : Vector) (m : Part) : (setVector v x m).ident = m.ident := rfl
@[simp] theorem setVector_clock (v : Nat) (x : Vector) (m : Part) : (setVector v x m).clock = m.clock := rfl
@[simp] theorem setVector_pps (v : Nat) (x : Vector) (m : Part) : (setVector v x m).pps = m.pps := rfl
@[simp] theorem setVector_syncin (v : Nat) (x : Vector) (m : Part) : (setVector v x m).syncin = m.syncin := rfl
@[simp] theorem setVector_spll (v : Nat) (x : Vector) (m : Part) : (setVector v x m).spll = m.spll := rfl
@[simp] theorem setVector_ksyn (v : Nat) (x : Vector) (m : Part) : (setVector v x m).ksyn = m.ksyn := rfl
@[simp] theorem setVector_pins (v : Nat) (x : Vector) (m : Part) : (setVector v x m).pins = m.pins := rfl
@[simp] theorem setVector_sched (v : Nat) (x : Vector) (m : Part) : (setVector v x m).sched = m.sched := rfl
@[simp] theorem setVector_tiles (v : Nat) (x : Vector) (m : Part) : (setVector v x m).tiles = m.tiles := rfl
@[simp] theorem setVector_halves (v : Nat) (x : Vector) (m : Part) : (setVector v x m).halves = m.halves := rfl
@[simp] theorem setVector_ctxs (v : Nat) (x : Vector) (m : Part) : (setVector v x m).ctxs = m.ctxs := rfl
@[simp] theorem setVector_calCommands (v : Nat) (x : Vector) (m : Part) : (setVector v x m).calCommands = m.calCommands := rfl
@[simp] theorem setVector_kiteCal (v : Nat) (x : Vector) (m : Part) : (setVector v x m).kiteCal = m.kiteCal := rfl
@[simp] theorem setVector_gpio (v : Nat) (x : Vector) (m : Part) : (setVector v x m).gpio = m.gpio := rfl
@[simp] theorem setVector_i2c (v : Nat) (x : Vector) (m : Part) : (setVector v x m).i2c = m.i2c := rfl
@[simp] theorem setVector_plans (v : Nat) (x : Vector) (m : Part) : (setVector v x m).plans = m.plans := rfl
@[simp] theorem setVector_planHolds (v : Nat) (x : Vector) (m : Part) : (setVector v x m).planHolds = m.planHolds := rfl
@[simp] theorem setVector_blocks (v : Nat) (x : Vector) (m : Part) : (setVector v x m).blocks = m.blocks := rfl
@[simp] theorem setVector_sets (v : Nat) (x : Vector) (m : Part) : (setVector v x m).sets = m.sets := rfl
@[simp] theorem setVector_service (v : Nat) (x : Vector) (m : Part) : (setVector v x m).service = m.service := rfl
@[simp] theorem setVector_flows (v : Nat) (x : Vector) (m : Part) : (setVector v x m).flows = m.flows := rfl
@[simp] theorem setVector_egress (v : Nat) (x : Vector) (m : Part) : (setVector v x m).egress = m.egress := rfl
@[simp] theorem setVector_captures (v : Nat) (x : Vector) (m : Part) : (setVector v x m).captures = m.captures := rfl
@[simp] theorem setVector_dram (v : Nat) (x : Vector) (m : Part) : (setVector v x m).dram = m.dram := rfl
@[simp] theorem setVector_kite (v : Nat) (x : Vector) (m : Part) : (setVector v x m).kite = m.kite := rfl
@[simp] theorem setVector_ports (v : Nat) (x : Vector) (m : Part) : (setVector v x m).ports = m.ports := rfl
@[simp] theorem setVector_mclk (v : Nat) (x : Vector) (m : Part) : (setVector v x m).mclk = m.mclk := rfl
@[simp] theorem setVector_chain (v : Nat) (x : Vector) (m : Part) : (setVector v x m).chain = m.chain := rfl
@[simp] theorem setVector_power (v : Nat) (x : Vector) (m : Part) : (setVector v x m).power = m.power := rfl
@[simp] theorem setVector_boot (v : Nat) (x : Vector) (m : Part) : (setVector v x m).boot = m.boot := rfl
@[simp] theorem setVector_oasis (v : Nat) (x : Vector) (m : Part) : (setVector v x m).oasis = m.oasis := rfl
@[simp] theorem setVector_flash (v : Nat) (x : Vector) (m : Part) : (setVector v x m).flash = m.flash := rfl
@[simp] theorem setVector_regs (v : Nat) (x : Vector) (m : Part) : (setVector v x m).regs = m.regs := rfl
@[simp] theorem setVector_sec (v : Nat) (x : Vector) (m : Part) : (setVector v x m).sec = m.sec := rfl
@[simp] theorem setVector_dbg (v : Nat) (x : Vector) (m : Part) : (setVector v x m).dbg = m.dbg := rfl
@[simp] theorem setVector_host (v : Nat) (x : Vector) (m : Part) : (setVector v x m).host = m.host := rfl
@[simp] theorem setVector_free (v : Nat) (x : Vector) (m : Part) : (setVector v x m).free = m.free := rfl

/-! ## sendVector -/

@[simp] theorem sendVector_ident (v : Nat) (m : Part) : (sendVector v m).ident = m.ident := by
  obtain ⟨_, _, _, e⟩ := sendVector_frame v m; rw [e]
@[simp] theorem sendVector_clock (v : Nat) (m : Part) : (sendVector v m).clock = m.clock := by
  obtain ⟨_, _, _, e⟩ := sendVector_frame v m; rw [e]
@[simp] theorem sendVector_pps (v : Nat) (m : Part) : (sendVector v m).pps = m.pps := by
  obtain ⟨_, _, _, e⟩ := sendVector_frame v m; rw [e]
@[simp] theorem sendVector_syncin (v : Nat) (m : Part) : (sendVector v m).syncin = m.syncin := by
  obtain ⟨_, _, _, e⟩ := sendVector_frame v m; rw [e]
@[simp] theorem sendVector_spll (v : Nat) (m : Part) : (sendVector v m).spll = m.spll := by
  obtain ⟨_, _, _, e⟩ := sendVector_frame v m; rw [e]
@[simp] theorem sendVector_ksyn (v : Nat) (m : Part) : (sendVector v m).ksyn = m.ksyn := by
  obtain ⟨_, _, _, e⟩ := sendVector_frame v m; rw [e]
@[simp] theorem sendVector_pins (v : Nat) (m : Part) : (sendVector v m).pins = m.pins := by
  obtain ⟨_, _, _, e⟩ := sendVector_frame v m; rw [e]
@[simp] theorem sendVector_sched (v : Nat) (m : Part) : (sendVector v m).sched = m.sched := by
  obtain ⟨_, _, _, e⟩ := sendVector_frame v m; rw [e]
@[simp] theorem sendVector_tiles (v : Nat) (m : Part) : (sendVector v m).tiles = m.tiles := by
  obtain ⟨_, _, _, e⟩ := sendVector_frame v m; rw [e]
@[simp] theorem sendVector_halves (v : Nat) (m : Part) : (sendVector v m).halves = m.halves := by
  obtain ⟨_, _, _, e⟩ := sendVector_frame v m; rw [e]
@[simp] theorem sendVector_ctxs (v : Nat) (m : Part) : (sendVector v m).ctxs = m.ctxs := by
  obtain ⟨_, _, _, e⟩ := sendVector_frame v m; rw [e]
@[simp] theorem sendVector_calCommands (v : Nat) (m : Part) : (sendVector v m).calCommands = m.calCommands := by
  obtain ⟨_, _, _, e⟩ := sendVector_frame v m; rw [e]
@[simp] theorem sendVector_kiteCal (v : Nat) (m : Part) : (sendVector v m).kiteCal = m.kiteCal := by
  obtain ⟨_, _, _, e⟩ := sendVector_frame v m; rw [e]
@[simp] theorem sendVector_gpio (v : Nat) (m : Part) : (sendVector v m).gpio = m.gpio := by
  obtain ⟨_, _, _, e⟩ := sendVector_frame v m; rw [e]
@[simp] theorem sendVector_i2c (v : Nat) (m : Part) : (sendVector v m).i2c = m.i2c := by
  obtain ⟨_, _, _, e⟩ := sendVector_frame v m; rw [e]
@[simp] theorem sendVector_plans (v : Nat) (m : Part) : (sendVector v m).plans = m.plans := by
  obtain ⟨_, _, _, e⟩ := sendVector_frame v m; rw [e]
@[simp] theorem sendVector_planHolds (v : Nat) (m : Part) : (sendVector v m).planHolds = m.planHolds := by
  obtain ⟨_, _, _, e⟩ := sendVector_frame v m; rw [e]
@[simp] theorem sendVector_blocks (v : Nat) (m : Part) : (sendVector v m).blocks = m.blocks := by
  obtain ⟨_, _, _, e⟩ := sendVector_frame v m; rw [e]
@[simp] theorem sendVector_sets (v : Nat) (m : Part) : (sendVector v m).sets = m.sets := by
  obtain ⟨_, _, _, e⟩ := sendVector_frame v m; rw [e]
@[simp] theorem sendVector_service (v : Nat) (m : Part) : (sendVector v m).service = m.service := by
  obtain ⟨_, _, _, e⟩ := sendVector_frame v m; rw [e]
@[simp] theorem sendVector_flows (v : Nat) (m : Part) : (sendVector v m).flows = m.flows := by
  obtain ⟨_, _, _, e⟩ := sendVector_frame v m; rw [e]
@[simp] theorem sendVector_egress (v : Nat) (m : Part) : (sendVector v m).egress = m.egress := by
  obtain ⟨_, _, _, e⟩ := sendVector_frame v m; rw [e]
@[simp] theorem sendVector_captures (v : Nat) (m : Part) : (sendVector v m).captures = m.captures := by
  obtain ⟨_, _, _, e⟩ := sendVector_frame v m; rw [e]
@[simp] theorem sendVector_dram (v : Nat) (m : Part) : (sendVector v m).dram = m.dram := by
  obtain ⟨_, _, _, e⟩ := sendVector_frame v m; rw [e]
@[simp] theorem sendVector_kite (v : Nat) (m : Part) : (sendVector v m).kite = m.kite := by
  obtain ⟨_, _, _, e⟩ := sendVector_frame v m; rw [e]
@[simp] theorem sendVector_ports (v : Nat) (m : Part) : (sendVector v m).ports = m.ports := by
  obtain ⟨_, _, _, e⟩ := sendVector_frame v m; rw [e]
@[simp] theorem sendVector_mclk (v : Nat) (m : Part) : (sendVector v m).mclk = m.mclk := by
  obtain ⟨_, _, _, e⟩ := sendVector_frame v m; rw [e]
@[simp] theorem sendVector_chain (v : Nat) (m : Part) : (sendVector v m).chain = m.chain := by
  obtain ⟨_, _, _, e⟩ := sendVector_frame v m; rw [e]
@[simp] theorem sendVector_power (v : Nat) (m : Part) : (sendVector v m).power = m.power := by
  obtain ⟨_, _, _, e⟩ := sendVector_frame v m; rw [e]
@[simp] theorem sendVector_boot (v : Nat) (m : Part) : (sendVector v m).boot = m.boot := by
  obtain ⟨_, _, _, e⟩ := sendVector_frame v m; rw [e]
@[simp] theorem sendVector_oasis (v : Nat) (m : Part) : (sendVector v m).oasis = m.oasis := by
  obtain ⟨_, _, _, e⟩ := sendVector_frame v m; rw [e]
@[simp] theorem sendVector_flash (v : Nat) (m : Part) : (sendVector v m).flash = m.flash := by
  obtain ⟨_, _, _, e⟩ := sendVector_frame v m; rw [e]
@[simp] theorem sendVector_regs (v : Nat) (m : Part) : (sendVector v m).regs = m.regs := by
  obtain ⟨_, _, _, e⟩ := sendVector_frame v m; rw [e]
@[simp] theorem sendVector_sec (v : Nat) (m : Part) : (sendVector v m).sec = m.sec := by
  obtain ⟨_, _, _, e⟩ := sendVector_frame v m; rw [e]
@[simp] theorem sendVector_dbg (v : Nat) (m : Part) : (sendVector v m).dbg = m.dbg := by
  obtain ⟨_, _, _, e⟩ := sendVector_frame v m; rw [e]
@[simp] theorem sendVector_free (v : Nat) (m : Part) : (sendVector v m).free = m.free := by
  obtain ⟨_, _, _, e⟩ := sendVector_frame v m; rw [e]

/-! ## trigger -/

@[simp] theorem trigger_ident (v : Nat) (m : Part) : (trigger v m).ident = m.ident := by
  obtain ⟨_, _, _, e⟩ := trigger_frame v m; rw [e]
@[simp] theorem trigger_clock (v : Nat) (m : Part) : (trigger v m).clock = m.clock := by
  obtain ⟨_, _, _, e⟩ := trigger_frame v m; rw [e]
@[simp] theorem trigger_pps (v : Nat) (m : Part) : (trigger v m).pps = m.pps := by
  obtain ⟨_, _, _, e⟩ := trigger_frame v m; rw [e]
@[simp] theorem trigger_syncin (v : Nat) (m : Part) : (trigger v m).syncin = m.syncin := by
  obtain ⟨_, _, _, e⟩ := trigger_frame v m; rw [e]
@[simp] theorem trigger_spll (v : Nat) (m : Part) : (trigger v m).spll = m.spll := by
  obtain ⟨_, _, _, e⟩ := trigger_frame v m; rw [e]
@[simp] theorem trigger_ksyn (v : Nat) (m : Part) : (trigger v m).ksyn = m.ksyn := by
  obtain ⟨_, _, _, e⟩ := trigger_frame v m; rw [e]
@[simp] theorem trigger_pins (v : Nat) (m : Part) : (trigger v m).pins = m.pins := by
  obtain ⟨_, _, _, e⟩ := trigger_frame v m; rw [e]
@[simp] theorem trigger_sched (v : Nat) (m : Part) : (trigger v m).sched = m.sched := by
  obtain ⟨_, _, _, e⟩ := trigger_frame v m; rw [e]
@[simp] theorem trigger_tiles (v : Nat) (m : Part) : (trigger v m).tiles = m.tiles := by
  obtain ⟨_, _, _, e⟩ := trigger_frame v m; rw [e]
@[simp] theorem trigger_halves (v : Nat) (m : Part) : (trigger v m).halves = m.halves := by
  obtain ⟨_, _, _, e⟩ := trigger_frame v m; rw [e]
@[simp] theorem trigger_ctxs (v : Nat) (m : Part) : (trigger v m).ctxs = m.ctxs := by
  obtain ⟨_, _, _, e⟩ := trigger_frame v m; rw [e]
@[simp] theorem trigger_calCommands (v : Nat) (m : Part) : (trigger v m).calCommands = m.calCommands := by
  obtain ⟨_, _, _, e⟩ := trigger_frame v m; rw [e]
@[simp] theorem trigger_kiteCal (v : Nat) (m : Part) : (trigger v m).kiteCal = m.kiteCal := by
  obtain ⟨_, _, _, e⟩ := trigger_frame v m; rw [e]
@[simp] theorem trigger_gpio (v : Nat) (m : Part) : (trigger v m).gpio = m.gpio := by
  obtain ⟨_, _, _, e⟩ := trigger_frame v m; rw [e]
@[simp] theorem trigger_i2c (v : Nat) (m : Part) : (trigger v m).i2c = m.i2c := by
  obtain ⟨_, _, _, e⟩ := trigger_frame v m; rw [e]
@[simp] theorem trigger_plans (v : Nat) (m : Part) : (trigger v m).plans = m.plans := by
  obtain ⟨_, _, _, e⟩ := trigger_frame v m; rw [e]
@[simp] theorem trigger_planHolds (v : Nat) (m : Part) : (trigger v m).planHolds = m.planHolds := by
  obtain ⟨_, _, _, e⟩ := trigger_frame v m; rw [e]
@[simp] theorem trigger_blocks (v : Nat) (m : Part) : (trigger v m).blocks = m.blocks := by
  obtain ⟨_, _, _, e⟩ := trigger_frame v m; rw [e]
@[simp] theorem trigger_sets (v : Nat) (m : Part) : (trigger v m).sets = m.sets := by
  obtain ⟨_, _, _, e⟩ := trigger_frame v m; rw [e]
@[simp] theorem trigger_service (v : Nat) (m : Part) : (trigger v m).service = m.service := by
  obtain ⟨_, _, _, e⟩ := trigger_frame v m; rw [e]
@[simp] theorem trigger_flows (v : Nat) (m : Part) : (trigger v m).flows = m.flows := by
  obtain ⟨_, _, _, e⟩ := trigger_frame v m; rw [e]
@[simp] theorem trigger_egress (v : Nat) (m : Part) : (trigger v m).egress = m.egress := by
  obtain ⟨_, _, _, e⟩ := trigger_frame v m; rw [e]
@[simp] theorem trigger_captures (v : Nat) (m : Part) : (trigger v m).captures = m.captures := by
  obtain ⟨_, _, _, e⟩ := trigger_frame v m; rw [e]
@[simp] theorem trigger_dram (v : Nat) (m : Part) : (trigger v m).dram = m.dram := by
  obtain ⟨_, _, _, e⟩ := trigger_frame v m; rw [e]
@[simp] theorem trigger_kite (v : Nat) (m : Part) : (trigger v m).kite = m.kite := by
  obtain ⟨_, _, _, e⟩ := trigger_frame v m; rw [e]
@[simp] theorem trigger_ports (v : Nat) (m : Part) : (trigger v m).ports = m.ports := by
  obtain ⟨_, _, _, e⟩ := trigger_frame v m; rw [e]
@[simp] theorem trigger_mclk (v : Nat) (m : Part) : (trigger v m).mclk = m.mclk := by
  obtain ⟨_, _, _, e⟩ := trigger_frame v m; rw [e]
@[simp] theorem trigger_chain (v : Nat) (m : Part) : (trigger v m).chain = m.chain := by
  obtain ⟨_, _, _, e⟩ := trigger_frame v m; rw [e]
@[simp] theorem trigger_power (v : Nat) (m : Part) : (trigger v m).power = m.power := by
  obtain ⟨_, _, _, e⟩ := trigger_frame v m; rw [e]
@[simp] theorem trigger_boot (v : Nat) (m : Part) : (trigger v m).boot = m.boot := by
  obtain ⟨_, _, _, e⟩ := trigger_frame v m; rw [e]
@[simp] theorem trigger_oasis (v : Nat) (m : Part) : (trigger v m).oasis = m.oasis := by
  obtain ⟨_, _, _, e⟩ := trigger_frame v m; rw [e]
@[simp] theorem trigger_flash (v : Nat) (m : Part) : (trigger v m).flash = m.flash := by
  obtain ⟨_, _, _, e⟩ := trigger_frame v m; rw [e]
@[simp] theorem trigger_regs (v : Nat) (m : Part) : (trigger v m).regs = m.regs := by
  obtain ⟨_, _, _, e⟩ := trigger_frame v m; rw [e]
@[simp] theorem trigger_sec (v : Nat) (m : Part) : (trigger v m).sec = m.sec := by
  obtain ⟨_, _, _, e⟩ := trigger_frame v m; rw [e]
@[simp] theorem trigger_dbg (v : Nat) (m : Part) : (trigger v m).dbg = m.dbg := by
  obtain ⟨_, _, _, e⟩ := trigger_frame v m; rw [e]
@[simp] theorem trigger_free (v : Nat) (m : Part) : (trigger v m).free = m.free := by
  obtain ⟨_, _, _, e⟩ := trigger_frame v m; rw [e]

/-! ## postEvent -/

@[simp] theorem postEvent_ident (e : Event) (v : Nat) (m : Part) : (postEvent e v m).ident = m.ident := by
  obtain ⟨_, _, _, _, _, e⟩ := postEvent_frame e v m; rw [e]
@[simp] theorem postEvent_clock (e : Event) (v : Nat) (m : Part) : (postEvent e v m).clock = m.clock := by
  obtain ⟨_, _, _, _, _, e⟩ := postEvent_frame e v m; rw [e]
@[simp] theorem postEvent_pps (e : Event) (v : Nat) (m : Part) : (postEvent e v m).pps = m.pps := by
  obtain ⟨_, _, _, _, _, e⟩ := postEvent_frame e v m; rw [e]
@[simp] theorem postEvent_syncin (e : Event) (v : Nat) (m : Part) : (postEvent e v m).syncin = m.syncin := by
  obtain ⟨_, _, _, _, _, e⟩ := postEvent_frame e v m; rw [e]
@[simp] theorem postEvent_spll (e : Event) (v : Nat) (m : Part) : (postEvent e v m).spll = m.spll := by
  obtain ⟨_, _, _, _, _, e⟩ := postEvent_frame e v m; rw [e]
@[simp] theorem postEvent_ksyn (e : Event) (v : Nat) (m : Part) : (postEvent e v m).ksyn = m.ksyn := by
  obtain ⟨_, _, _, _, _, e⟩ := postEvent_frame e v m; rw [e]
@[simp] theorem postEvent_pins (e : Event) (v : Nat) (m : Part) : (postEvent e v m).pins = m.pins := by
  obtain ⟨_, _, _, _, _, e⟩ := postEvent_frame e v m; rw [e]
@[simp] theorem postEvent_sched (e : Event) (v : Nat) (m : Part) : (postEvent e v m).sched = m.sched := by
  obtain ⟨_, _, _, _, _, e⟩ := postEvent_frame e v m; rw [e]
@[simp] theorem postEvent_tiles (e : Event) (v : Nat) (m : Part) : (postEvent e v m).tiles = m.tiles := by
  obtain ⟨_, _, _, _, _, e⟩ := postEvent_frame e v m; rw [e]
@[simp] theorem postEvent_halves (e : Event) (v : Nat) (m : Part) : (postEvent e v m).halves = m.halves := by
  obtain ⟨_, _, _, _, _, e⟩ := postEvent_frame e v m; rw [e]
@[simp] theorem postEvent_ctxs (e : Event) (v : Nat) (m : Part) : (postEvent e v m).ctxs = m.ctxs := by
  obtain ⟨_, _, _, _, _, e⟩ := postEvent_frame e v m; rw [e]
@[simp] theorem postEvent_calCommands (e : Event) (v : Nat) (m : Part) : (postEvent e v m).calCommands = m.calCommands := by
  obtain ⟨_, _, _, _, _, e⟩ := postEvent_frame e v m; rw [e]
@[simp] theorem postEvent_kiteCal (e : Event) (v : Nat) (m : Part) : (postEvent e v m).kiteCal = m.kiteCal := by
  obtain ⟨_, _, _, _, _, e⟩ := postEvent_frame e v m; rw [e]
@[simp] theorem postEvent_gpio (e : Event) (v : Nat) (m : Part) : (postEvent e v m).gpio = m.gpio := by
  obtain ⟨_, _, _, _, _, e⟩ := postEvent_frame e v m; rw [e]
@[simp] theorem postEvent_i2c (e : Event) (v : Nat) (m : Part) : (postEvent e v m).i2c = m.i2c := by
  obtain ⟨_, _, _, _, _, e⟩ := postEvent_frame e v m; rw [e]
@[simp] theorem postEvent_plans (e : Event) (v : Nat) (m : Part) : (postEvent e v m).plans = m.plans := by
  obtain ⟨_, _, _, _, _, e⟩ := postEvent_frame e v m; rw [e]
@[simp] theorem postEvent_planHolds (e : Event) (v : Nat) (m : Part) : (postEvent e v m).planHolds = m.planHolds := by
  obtain ⟨_, _, _, _, _, e⟩ := postEvent_frame e v m; rw [e]
@[simp] theorem postEvent_blocks (e : Event) (v : Nat) (m : Part) : (postEvent e v m).blocks = m.blocks := by
  obtain ⟨_, _, _, _, _, e⟩ := postEvent_frame e v m; rw [e]
@[simp] theorem postEvent_sets (e : Event) (v : Nat) (m : Part) : (postEvent e v m).sets = m.sets := by
  obtain ⟨_, _, _, _, _, e⟩ := postEvent_frame e v m; rw [e]
@[simp] theorem postEvent_service (e : Event) (v : Nat) (m : Part) : (postEvent e v m).service = m.service := by
  obtain ⟨_, _, _, _, _, e⟩ := postEvent_frame e v m; rw [e]
@[simp] theorem postEvent_flows (e : Event) (v : Nat) (m : Part) : (postEvent e v m).flows = m.flows := by
  obtain ⟨_, _, _, _, _, e⟩ := postEvent_frame e v m; rw [e]
@[simp] theorem postEvent_egress (e : Event) (v : Nat) (m : Part) : (postEvent e v m).egress = m.egress := by
  obtain ⟨_, _, _, _, _, e⟩ := postEvent_frame e v m; rw [e]
@[simp] theorem postEvent_captures (e : Event) (v : Nat) (m : Part) : (postEvent e v m).captures = m.captures := by
  obtain ⟨_, _, _, _, _, e⟩ := postEvent_frame e v m; rw [e]
@[simp] theorem postEvent_dram (e : Event) (v : Nat) (m : Part) : (postEvent e v m).dram = m.dram := by
  obtain ⟨_, _, _, _, _, e⟩ := postEvent_frame e v m; rw [e]
@[simp] theorem postEvent_kite (e : Event) (v : Nat) (m : Part) : (postEvent e v m).kite = m.kite := by
  obtain ⟨_, _, _, _, _, e⟩ := postEvent_frame e v m; rw [e]
@[simp] theorem postEvent_ports (e : Event) (v : Nat) (m : Part) : (postEvent e v m).ports = m.ports := by
  obtain ⟨_, _, _, _, _, e⟩ := postEvent_frame e v m; rw [e]
@[simp] theorem postEvent_mclk (e : Event) (v : Nat) (m : Part) : (postEvent e v m).mclk = m.mclk := by
  obtain ⟨_, _, _, _, _, e⟩ := postEvent_frame e v m; rw [e]
@[simp] theorem postEvent_chain (e : Event) (v : Nat) (m : Part) : (postEvent e v m).chain = m.chain := by
  obtain ⟨_, _, _, _, _, e⟩ := postEvent_frame e v m; rw [e]
@[simp] theorem postEvent_power (e : Event) (v : Nat) (m : Part) : (postEvent e v m).power = m.power := by
  obtain ⟨_, _, _, _, _, e⟩ := postEvent_frame e v m; rw [e]
@[simp] theorem postEvent_boot (e : Event) (v : Nat) (m : Part) : (postEvent e v m).boot = m.boot := by
  obtain ⟨_, _, _, _, _, e⟩ := postEvent_frame e v m; rw [e]
@[simp] theorem postEvent_oasis (e : Event) (v : Nat) (m : Part) : (postEvent e v m).oasis = m.oasis := by
  obtain ⟨_, _, _, _, _, e⟩ := postEvent_frame e v m; rw [e]
@[simp] theorem postEvent_flash (e : Event) (v : Nat) (m : Part) : (postEvent e v m).flash = m.flash := by
  obtain ⟨_, _, _, _, _, e⟩ := postEvent_frame e v m; rw [e]
@[simp] theorem postEvent_regs (e : Event) (v : Nat) (m : Part) : (postEvent e v m).regs = m.regs := by
  obtain ⟨_, _, _, _, _, e⟩ := postEvent_frame e v m; rw [e]
@[simp] theorem postEvent_sec (e : Event) (v : Nat) (m : Part) : (postEvent e v m).sec = m.sec := by
  obtain ⟨_, _, _, _, _, e⟩ := postEvent_frame e v m; rw [e]
@[simp] theorem postEvent_dbg (e : Event) (v : Nat) (m : Part) : (postEvent e v m).dbg = m.dbg := by
  obtain ⟨_, _, _, _, _, e⟩ := postEvent_frame e v m; rw [e]
@[simp] theorem postEvent_free (e : Event) (v : Nat) (m : Part) : (postEvent e v m).free = m.free := by
  obtain ⟨_, _, _, _, _, e⟩ := postEvent_frame e v m; rw [e]

/-! ## raiseAt -/

@[simp] theorem raiseAt_ident (t s c : Nat) (p : List Field) (m : Part) : (raiseAt t s c p m).ident = m.ident := by
  obtain ⟨_, _, _, _, _, _, _, _, _, e⟩ := raiseAt_frame t s c p m; rw [e]
@[simp] theorem raiseAt_clock (t s c : Nat) (p : List Field) (m : Part) : (raiseAt t s c p m).clock = m.clock := by
  obtain ⟨_, _, _, _, _, _, _, _, _, e⟩ := raiseAt_frame t s c p m; rw [e]
@[simp] theorem raiseAt_pps (t s c : Nat) (p : List Field) (m : Part) : (raiseAt t s c p m).pps = m.pps := by
  obtain ⟨_, _, _, _, _, _, _, _, _, e⟩ := raiseAt_frame t s c p m; rw [e]
@[simp] theorem raiseAt_syncin (t s c : Nat) (p : List Field) (m : Part) : (raiseAt t s c p m).syncin = m.syncin := by
  obtain ⟨_, _, _, _, _, _, _, _, _, e⟩ := raiseAt_frame t s c p m; rw [e]
@[simp] theorem raiseAt_spll (t s c : Nat) (p : List Field) (m : Part) : (raiseAt t s c p m).spll = m.spll := by
  obtain ⟨_, _, _, _, _, _, _, _, _, e⟩ := raiseAt_frame t s c p m; rw [e]
@[simp] theorem raiseAt_ksyn (t s c : Nat) (p : List Field) (m : Part) : (raiseAt t s c p m).ksyn = m.ksyn := by
  obtain ⟨_, _, _, _, _, _, _, _, _, e⟩ := raiseAt_frame t s c p m; rw [e]
@[simp] theorem raiseAt_pins (t s c : Nat) (p : List Field) (m : Part) : (raiseAt t s c p m).pins = m.pins := by
  obtain ⟨_, _, _, _, _, _, _, _, _, e⟩ := raiseAt_frame t s c p m; rw [e]
@[simp] theorem raiseAt_sched (t s c : Nat) (p : List Field) (m : Part) : (raiseAt t s c p m).sched = m.sched := by
  obtain ⟨_, _, _, _, _, _, _, _, _, e⟩ := raiseAt_frame t s c p m; rw [e]
@[simp] theorem raiseAt_tiles (t s c : Nat) (p : List Field) (m : Part) : (raiseAt t s c p m).tiles = m.tiles := by
  obtain ⟨_, _, _, _, _, _, _, _, _, e⟩ := raiseAt_frame t s c p m; rw [e]
@[simp] theorem raiseAt_halves (t s c : Nat) (p : List Field) (m : Part) : (raiseAt t s c p m).halves = m.halves := by
  obtain ⟨_, _, _, _, _, _, _, _, _, e⟩ := raiseAt_frame t s c p m; rw [e]
@[simp] theorem raiseAt_ctxs (t s c : Nat) (p : List Field) (m : Part) : (raiseAt t s c p m).ctxs = m.ctxs := by
  obtain ⟨_, _, _, _, _, _, _, _, _, e⟩ := raiseAt_frame t s c p m; rw [e]
@[simp] theorem raiseAt_calCommands (t s c : Nat) (p : List Field) (m : Part) : (raiseAt t s c p m).calCommands = m.calCommands := by
  obtain ⟨_, _, _, _, _, _, _, _, _, e⟩ := raiseAt_frame t s c p m; rw [e]
@[simp] theorem raiseAt_kiteCal (t s c : Nat) (p : List Field) (m : Part) : (raiseAt t s c p m).kiteCal = m.kiteCal := by
  obtain ⟨_, _, _, _, _, _, _, _, _, e⟩ := raiseAt_frame t s c p m; rw [e]
@[simp] theorem raiseAt_gpio (t s c : Nat) (p : List Field) (m : Part) : (raiseAt t s c p m).gpio = m.gpio := by
  obtain ⟨_, _, _, _, _, _, _, _, _, e⟩ := raiseAt_frame t s c p m; rw [e]
@[simp] theorem raiseAt_i2c (t s c : Nat) (p : List Field) (m : Part) : (raiseAt t s c p m).i2c = m.i2c := by
  obtain ⟨_, _, _, _, _, _, _, _, _, e⟩ := raiseAt_frame t s c p m; rw [e]
@[simp] theorem raiseAt_plans (t s c : Nat) (p : List Field) (m : Part) : (raiseAt t s c p m).plans = m.plans := by
  obtain ⟨_, _, _, _, _, _, _, _, _, e⟩ := raiseAt_frame t s c p m; rw [e]
@[simp] theorem raiseAt_planHolds (t s c : Nat) (p : List Field) (m : Part) : (raiseAt t s c p m).planHolds = m.planHolds := by
  obtain ⟨_, _, _, _, _, _, _, _, _, e⟩ := raiseAt_frame t s c p m; rw [e]
@[simp] theorem raiseAt_blocks (t s c : Nat) (p : List Field) (m : Part) : (raiseAt t s c p m).blocks = m.blocks := by
  obtain ⟨_, _, _, _, _, _, _, _, _, e⟩ := raiseAt_frame t s c p m; rw [e]
@[simp] theorem raiseAt_sets (t s c : Nat) (p : List Field) (m : Part) : (raiseAt t s c p m).sets = m.sets := by
  obtain ⟨_, _, _, _, _, _, _, _, _, e⟩ := raiseAt_frame t s c p m; rw [e]
@[simp] theorem raiseAt_service (t s c : Nat) (p : List Field) (m : Part) : (raiseAt t s c p m).service = m.service := by
  obtain ⟨_, _, _, _, _, _, _, _, _, e⟩ := raiseAt_frame t s c p m; rw [e]
@[simp] theorem raiseAt_flows (t s c : Nat) (p : List Field) (m : Part) : (raiseAt t s c p m).flows = m.flows := by
  obtain ⟨_, _, _, _, _, _, _, _, _, e⟩ := raiseAt_frame t s c p m; rw [e]
@[simp] theorem raiseAt_egress (t s c : Nat) (p : List Field) (m : Part) : (raiseAt t s c p m).egress = m.egress := by
  obtain ⟨_, _, _, _, _, _, _, _, _, e⟩ := raiseAt_frame t s c p m; rw [e]
@[simp] theorem raiseAt_captures (t s c : Nat) (p : List Field) (m : Part) : (raiseAt t s c p m).captures = m.captures := by
  obtain ⟨_, _, _, _, _, _, _, _, _, e⟩ := raiseAt_frame t s c p m; rw [e]
@[simp] theorem raiseAt_dram (t s c : Nat) (p : List Field) (m : Part) : (raiseAt t s c p m).dram = m.dram := by
  obtain ⟨_, _, _, _, _, _, _, _, _, e⟩ := raiseAt_frame t s c p m; rw [e]
@[simp] theorem raiseAt_kite (t s c : Nat) (p : List Field) (m : Part) : (raiseAt t s c p m).kite = m.kite := by
  obtain ⟨_, _, _, _, _, _, _, _, _, e⟩ := raiseAt_frame t s c p m; rw [e]
@[simp] theorem raiseAt_ports (t s c : Nat) (p : List Field) (m : Part) : (raiseAt t s c p m).ports = m.ports := by
  obtain ⟨_, _, _, _, _, _, _, _, _, e⟩ := raiseAt_frame t s c p m; rw [e]
@[simp] theorem raiseAt_mclk (t s c : Nat) (p : List Field) (m : Part) : (raiseAt t s c p m).mclk = m.mclk := by
  obtain ⟨_, _, _, _, _, _, _, _, _, e⟩ := raiseAt_frame t s c p m; rw [e]
@[simp] theorem raiseAt_power (t s c : Nat) (p : List Field) (m : Part) : (raiseAt t s c p m).power = m.power := by
  obtain ⟨_, _, _, _, _, _, _, _, _, e⟩ := raiseAt_frame t s c p m; rw [e]
@[simp] theorem raiseAt_boot (t s c : Nat) (p : List Field) (m : Part) : (raiseAt t s c p m).boot = m.boot := by
  obtain ⟨_, _, _, _, _, _, _, _, _, e⟩ := raiseAt_frame t s c p m; rw [e]
@[simp] theorem raiseAt_flash (t s c : Nat) (p : List Field) (m : Part) : (raiseAt t s c p m).flash = m.flash := by
  obtain ⟨_, _, _, _, _, _, _, _, _, e⟩ := raiseAt_frame t s c p m; rw [e]
@[simp] theorem raiseAt_regs (t s c : Nat) (p : List Field) (m : Part) : (raiseAt t s c p m).regs = m.regs := by
  obtain ⟨_, _, _, _, _, _, _, _, _, e⟩ := raiseAt_frame t s c p m; rw [e]
@[simp] theorem raiseAt_sec (t s c : Nat) (p : List Field) (m : Part) : (raiseAt t s c p m).sec = m.sec := by
  obtain ⟨_, _, _, _, _, _, _, _, _, e⟩ := raiseAt_frame t s c p m; rw [e]
@[simp] theorem raiseAt_dbg (t s c : Nat) (p : List Field) (m : Part) : (raiseAt t s c p m).dbg = m.dbg := by
  obtain ⟨_, _, _, _, _, _, _, _, _, e⟩ := raiseAt_frame t s c p m; rw [e]
@[simp] theorem raiseAt_free (t s c : Nat) (p : List Field) (m : Part) : (raiseAt t s c p m).free = m.free := by
  obtain ⟨_, _, _, _, _, _, _, _, _, e⟩ := raiseAt_frame t s c p m; rw [e]

/-! ## raise -/

@[simp] theorem raise_ident (s c : Nat) (p : List Field) (m : Part) : (raise s c p m).ident = m.ident := by
  obtain ⟨_, _, _, _, _, _, _, _, _, e⟩ := raise_frame s c p m; rw [e]
@[simp] theorem raise_clock (s c : Nat) (p : List Field) (m : Part) : (raise s c p m).clock = m.clock := by
  obtain ⟨_, _, _, _, _, _, _, _, _, e⟩ := raise_frame s c p m; rw [e]
@[simp] theorem raise_pps (s c : Nat) (p : List Field) (m : Part) : (raise s c p m).pps = m.pps := by
  obtain ⟨_, _, _, _, _, _, _, _, _, e⟩ := raise_frame s c p m; rw [e]
@[simp] theorem raise_syncin (s c : Nat) (p : List Field) (m : Part) : (raise s c p m).syncin = m.syncin := by
  obtain ⟨_, _, _, _, _, _, _, _, _, e⟩ := raise_frame s c p m; rw [e]
@[simp] theorem raise_spll (s c : Nat) (p : List Field) (m : Part) : (raise s c p m).spll = m.spll := by
  obtain ⟨_, _, _, _, _, _, _, _, _, e⟩ := raise_frame s c p m; rw [e]
@[simp] theorem raise_ksyn (s c : Nat) (p : List Field) (m : Part) : (raise s c p m).ksyn = m.ksyn := by
  obtain ⟨_, _, _, _, _, _, _, _, _, e⟩ := raise_frame s c p m; rw [e]
@[simp] theorem raise_pins (s c : Nat) (p : List Field) (m : Part) : (raise s c p m).pins = m.pins := by
  obtain ⟨_, _, _, _, _, _, _, _, _, e⟩ := raise_frame s c p m; rw [e]
@[simp] theorem raise_sched (s c : Nat) (p : List Field) (m : Part) : (raise s c p m).sched = m.sched := by
  obtain ⟨_, _, _, _, _, _, _, _, _, e⟩ := raise_frame s c p m; rw [e]
@[simp] theorem raise_tiles (s c : Nat) (p : List Field) (m : Part) : (raise s c p m).tiles = m.tiles := by
  obtain ⟨_, _, _, _, _, _, _, _, _, e⟩ := raise_frame s c p m; rw [e]
@[simp] theorem raise_halves (s c : Nat) (p : List Field) (m : Part) : (raise s c p m).halves = m.halves := by
  obtain ⟨_, _, _, _, _, _, _, _, _, e⟩ := raise_frame s c p m; rw [e]
@[simp] theorem raise_ctxs (s c : Nat) (p : List Field) (m : Part) : (raise s c p m).ctxs = m.ctxs := by
  obtain ⟨_, _, _, _, _, _, _, _, _, e⟩ := raise_frame s c p m; rw [e]
@[simp] theorem raise_calCommands (s c : Nat) (p : List Field) (m : Part) : (raise s c p m).calCommands = m.calCommands := by
  obtain ⟨_, _, _, _, _, _, _, _, _, e⟩ := raise_frame s c p m; rw [e]
@[simp] theorem raise_kiteCal (s c : Nat) (p : List Field) (m : Part) : (raise s c p m).kiteCal = m.kiteCal := by
  obtain ⟨_, _, _, _, _, _, _, _, _, e⟩ := raise_frame s c p m; rw [e]
@[simp] theorem raise_gpio (s c : Nat) (p : List Field) (m : Part) : (raise s c p m).gpio = m.gpio := by
  obtain ⟨_, _, _, _, _, _, _, _, _, e⟩ := raise_frame s c p m; rw [e]
@[simp] theorem raise_i2c (s c : Nat) (p : List Field) (m : Part) : (raise s c p m).i2c = m.i2c := by
  obtain ⟨_, _, _, _, _, _, _, _, _, e⟩ := raise_frame s c p m; rw [e]
@[simp] theorem raise_plans (s c : Nat) (p : List Field) (m : Part) : (raise s c p m).plans = m.plans := by
  obtain ⟨_, _, _, _, _, _, _, _, _, e⟩ := raise_frame s c p m; rw [e]
@[simp] theorem raise_planHolds (s c : Nat) (p : List Field) (m : Part) : (raise s c p m).planHolds = m.planHolds := by
  obtain ⟨_, _, _, _, _, _, _, _, _, e⟩ := raise_frame s c p m; rw [e]
@[simp] theorem raise_blocks (s c : Nat) (p : List Field) (m : Part) : (raise s c p m).blocks = m.blocks := by
  obtain ⟨_, _, _, _, _, _, _, _, _, e⟩ := raise_frame s c p m; rw [e]
@[simp] theorem raise_sets (s c : Nat) (p : List Field) (m : Part) : (raise s c p m).sets = m.sets := by
  obtain ⟨_, _, _, _, _, _, _, _, _, e⟩ := raise_frame s c p m; rw [e]
@[simp] theorem raise_service (s c : Nat) (p : List Field) (m : Part) : (raise s c p m).service = m.service := by
  obtain ⟨_, _, _, _, _, _, _, _, _, e⟩ := raise_frame s c p m; rw [e]
@[simp] theorem raise_flows (s c : Nat) (p : List Field) (m : Part) : (raise s c p m).flows = m.flows := by
  obtain ⟨_, _, _, _, _, _, _, _, _, e⟩ := raise_frame s c p m; rw [e]
@[simp] theorem raise_egress (s c : Nat) (p : List Field) (m : Part) : (raise s c p m).egress = m.egress := by
  obtain ⟨_, _, _, _, _, _, _, _, _, e⟩ := raise_frame s c p m; rw [e]
@[simp] theorem raise_captures (s c : Nat) (p : List Field) (m : Part) : (raise s c p m).captures = m.captures := by
  obtain ⟨_, _, _, _, _, _, _, _, _, e⟩ := raise_frame s c p m; rw [e]
@[simp] theorem raise_dram (s c : Nat) (p : List Field) (m : Part) : (raise s c p m).dram = m.dram := by
  obtain ⟨_, _, _, _, _, _, _, _, _, e⟩ := raise_frame s c p m; rw [e]
@[simp] theorem raise_kite (s c : Nat) (p : List Field) (m : Part) : (raise s c p m).kite = m.kite := by
  obtain ⟨_, _, _, _, _, _, _, _, _, e⟩ := raise_frame s c p m; rw [e]
@[simp] theorem raise_ports (s c : Nat) (p : List Field) (m : Part) : (raise s c p m).ports = m.ports := by
  obtain ⟨_, _, _, _, _, _, _, _, _, e⟩ := raise_frame s c p m; rw [e]
@[simp] theorem raise_mclk (s c : Nat) (p : List Field) (m : Part) : (raise s c p m).mclk = m.mclk := by
  obtain ⟨_, _, _, _, _, _, _, _, _, e⟩ := raise_frame s c p m; rw [e]
@[simp] theorem raise_power (s c : Nat) (p : List Field) (m : Part) : (raise s c p m).power = m.power := by
  obtain ⟨_, _, _, _, _, _, _, _, _, e⟩ := raise_frame s c p m; rw [e]
@[simp] theorem raise_boot (s c : Nat) (p : List Field) (m : Part) : (raise s c p m).boot = m.boot := by
  obtain ⟨_, _, _, _, _, _, _, _, _, e⟩ := raise_frame s c p m; rw [e]
@[simp] theorem raise_flash (s c : Nat) (p : List Field) (m : Part) : (raise s c p m).flash = m.flash := by
  obtain ⟨_, _, _, _, _, _, _, _, _, e⟩ := raise_frame s c p m; rw [e]
@[simp] theorem raise_regs (s c : Nat) (p : List Field) (m : Part) : (raise s c p m).regs = m.regs := by
  obtain ⟨_, _, _, _, _, _, _, _, _, e⟩ := raise_frame s c p m; rw [e]
@[simp] theorem raise_sec (s c : Nat) (p : List Field) (m : Part) : (raise s c p m).sec = m.sec := by
  obtain ⟨_, _, _, _, _, _, _, _, _, e⟩ := raise_frame s c p m; rw [e]
@[simp] theorem raise_dbg (s c : Nat) (p : List Field) (m : Part) : (raise s c p m).dbg = m.dbg := by
  obtain ⟨_, _, _, _, _, _, _, _, _, e⟩ := raise_frame s c p m; rw [e]
@[simp] theorem raise_free (s c : Nat) (p : List Field) (m : Part) : (raise s c p m).free = m.free := by
  obtain ⟨_, _, _, _, _, _, _, _, _, e⟩ := raise_frame s c p m; rw [e]
@[simp] theorem raise_chain_addr (s c : Nat) (p : List Field) (m : Part) : (raise s c p m).chain.addr = m.chain.addr := by
  obtain ⟨_, _, _, _, _, _, _, _, _, e⟩ := raise_frame s c p m; rw [e]
@[simp] theorem raise_chain_chainId (s c : Nat) (p : List Field) (m : Part) : (raise s c p m).chain.chainId = m.chain.chainId := by
  obtain ⟨_, _, _, _, _, _, _, _, _, e⟩ := raise_frame s c p m; rw [e]
@[simp] theorem raise_chain_parts (s c : Nat) (p : List Field) (m : Part) : (raise s c p m).chain.parts = m.chain.parts := by
  obtain ⟨_, _, _, _, _, _, _, _, _, e⟩ := raise_frame s c p m; rw [e]
@[simp] theorem raise_chain_ring (s c : Nat) (p : List Field) (m : Part) : (raise s c p m).chain.ring = m.chain.ring := by
  obtain ⟨_, _, _, _, _, _, _, _, _, e⟩ := raise_frame s c p m; rw [e]
@[simp] theorem raise_chain_breaks (s c : Nat) (p : List Field) (m : Part) : (raise s c p m).chain.breaks = m.chain.breaks := by
  obtain ⟨_, _, _, _, _, _, _, _, _, e⟩ := raise_frame s c p m; rw [e]
@[simp] theorem raise_chain_epoch (s c : Nat) (p : List Field) (m : Part) : (raise s c p m).chain.epoch = m.chain.epoch := by
  obtain ⟨_, _, _, _, _, _, _, _, _, e⟩ := raise_frame s c p m; rw [e]
@[simp] theorem raise_chain_applied (s c : Nat) (p : List Field) (m : Part) : (raise s c p m).chain.applied = m.chain.applied := by
  obtain ⟨_, _, _, _, _, _, _, _, _, e⟩ := raise_frame s c p m; rw [e]
@[simp] theorem raise_chain_timeDisagree (s c : Nat) (p : List Field) (m : Part) : (raise s c p m).chain.timeDisagree = m.chain.timeDisagree := by
  obtain ⟨_, _, _, _, _, _, _, _, _, e⟩ := raise_frame s c p m; rw [e]
@[simp] theorem raise_chain_up (s c : Nat) (p : List Field) (m : Part) : (raise s c p m).chain.up = m.chain.up := by
  obtain ⟨_, _, _, _, _, _, _, _, _, e⟩ := raise_frame s c p m; rw [e]
@[simp] theorem raise_chain_down (s c : Nat) (p : List Field) (m : Part) : (raise s c p m).chain.down = m.chain.down := by
  obtain ⟨_, _, _, _, _, _, _, _, _, e⟩ := raise_frame s c p m; rw [e]
@[simp] theorem raise_chain_peers (s c : Nat) (p : List Field) (m : Part) : (raise s c p m).chain.peers = m.chain.peers := by
  obtain ⟨_, _, _, _, _, _, _, _, _, e⟩ := raise_frame s c p m; rw [e]
@[simp] theorem raise_chain_claims (s c : Nat) (p : List Field) (m : Part) : (raise s c p m).chain.claims = m.chain.claims := by
  obtain ⟨_, _, _, _, _, _, _, _, _, e⟩ := raise_frame s c p m; rw [e]
@[simp] theorem raise_chain_master (s c : Nat) (p : List Field) (m : Part) : (raise s c p m).chain.master = m.chain.master := by
  obtain ⟨_, _, _, _, _, _, _, _, _, e⟩ := raise_frame s c p m; rw [e]
@[simp] theorem raise_chain_masterLocked (s c : Nat) (p : List Field) (m : Part) : (raise s c p m).chain.masterLocked = m.chain.masterLocked := by
  obtain ⟨_, _, _, _, _, _, _, _, _, e⟩ := raise_frame s c p m; rw [e]
@[simp] theorem raise_chain_rollAt (s c : Nat) (p : List Field) (m : Part) : (raise s c p m).chain.rollAt = m.chain.rollAt := by
  obtain ⟨_, _, _, _, _, _, _, _, _, e⟩ := raise_frame s c p m; rw [e]
@[simp] theorem raise_chain_rollHt (s c : Nat) (p : List Field) (m : Part) : (raise s c p m).chain.rollHt = m.chain.rollHt := by
  obtain ⟨_, _, _, _, _, _, _, _, _, e⟩ := raise_frame s c p m; rw [e]
@[simp] theorem raise_chain_rollcall (s c : Nat) (p : List Field) (m : Part) : (raise s c p m).chain.rollcall = m.chain.rollcall := by
  obtain ⟨_, _, _, _, _, _, _, _, _, e⟩ := raise_frame s c p m; rw [e]
@[simp] theorem raise_chain_offsetNs (s c : Nat) (p : List Field) (m : Part) : (raise s c p m).chain.offsetNs = m.chain.offsetNs := by
  obtain ⟨_, _, _, _, _, _, _, _, _, e⟩ := raise_frame s c p m; rw [e]
@[simp] theorem raise_chain_offsetRun (s c : Nat) (p : List Field) (m : Part) : (raise s c p m).chain.offsetRun = m.chain.offsetRun := by
  obtain ⟨_, _, _, _, _, _, _, _, _, e⟩ := raise_frame s c p m; rw [e]
@[simp] theorem raise_chain_quarantined (s c : Nat) (p : List Field) (m : Part) : (raise s c p m).chain.quarantined = m.chain.quarantined := by
  obtain ⟨_, _, _, _, _, _, _, _, _, e⟩ := raise_frame s c p m; rw [e]
@[simp] theorem raise_chain_rebootAt (s c : Nat) (p : List Field) (m : Part) : (raise s c p m).chain.rebootAt = m.chain.rebootAt := by
  obtain ⟨_, _, _, _, _, _, _, _, _, e⟩ := raise_frame s c p m; rw [e]
@[simp] theorem raise_chain_seen (s c : Nat) (p : List Field) (m : Part) : (raise s c p m).chain.seen = m.chain.seen := by
  obtain ⟨_, _, _, _, _, _, _, _, _, e⟩ := raise_frame s c p m; rw [e]
@[simp] theorem raise_chain_records (s c : Nat) (p : List Field) (m : Part) : (raise s c p m).chain.records = m.chain.records := by
  obtain ⟨_, _, _, _, _, _, _, _, _, e⟩ := raise_frame s c p m; rw [e]
@[simp] theorem raise_chain_acks (s c : Nat) (p : List Field) (m : Part) : (raise s c p m).chain.acks = m.chain.acks := by
  obtain ⟨_, _, _, _, _, _, _, _, _, e⟩ := raise_frame s c p m; rw [e]
@[simp] theorem raise_chain_forwarded (s c : Nat) (p : List Field) (m : Part) : (raise s c p m).chain.forwarded = m.chain.forwarded := by
  obtain ⟨_, _, _, _, _, _, _, _, _, e⟩ := raise_frame s c p m; rw [e]
@[simp] theorem raise_chain_sends (s c : Nat) (p : List Field) (m : Part) : (raise s c p m).chain.sends = m.chain.sends := by
  obtain ⟨_, _, _, _, _, _, _, _, _, e⟩ := raise_frame s c p m; rw [e]
@[simp] theorem raise_chain_msgSeq (s c : Nat) (p : List Field) (m : Part) : (raise s c p m).chain.msgSeq = m.chain.msgSeq := by
  obtain ⟨_, _, _, _, _, _, _, _, _, e⟩ := raise_frame s c p m; rw [e]
@[simp] theorem raise_oasis_addr (s c : Nat) (p : List Field) (m : Part) : (raise s c p m).oasis.addr = m.oasis.addr := by
  obtain ⟨_, _, _, _, _, _, _, _, _, e⟩ := raise_frame s c p m; rw [e]
@[simp] theorem raise_oasis_chainId (s c : Nat) (p : List Field) (m : Part) : (raise s c p m).oasis.chainId = m.oasis.chainId := by
  obtain ⟨_, _, _, _, _, _, _, _, _, e⟩ := raise_frame s c p m; rw [e]
@[simp] theorem raise_oasis_lastHt (s c : Nat) (p : List Field) (m : Part) : (raise s c p m).oasis.lastHt = m.oasis.lastHt := by
  obtain ⟨_, _, _, _, _, _, _, _, _, e⟩ := raise_frame s c p m; rw [e]
@[simp] theorem raise_oasis_lastAt (s c : Nat) (p : List Field) (m : Part) : (raise s c p m).oasis.lastAt = m.oasis.lastAt := by
  obtain ⟨_, _, _, _, _, _, _, _, _, e⟩ := raise_frame s c p m; rw [e]
@[simp] theorem raise_oasis_resetCause (s c : Nat) (p : List Field) (m : Part) : (raise s c p m).oasis.resetCause = m.oasis.resetCause := by
  obtain ⟨_, _, _, _, _, _, _, _, _, e⟩ := raise_frame s c p m; rw [e]
@[simp] theorem raise_oasis_resetItem (s c : Nat) (p : List Field) (m : Part) : (raise s c p m).oasis.resetItem = m.oasis.resetItem := by
  obtain ⟨_, _, _, _, _, _, _, _, _, e⟩ := raise_frame s c p m; rw [e]
@[simp] theorem raise_oasis_resetHt (s c : Nat) (p : List Field) (m : Part) : (raise s c p m).oasis.resetHt = m.oasis.resetHt := by
  obtain ⟨_, _, _, _, _, _, _, _, _, e⟩ := raise_frame s c p m; rw [e]
@[simp] theorem raise_oasis_resetVin (s c : Nat) (p : List Field) (m : Part) : (raise s c p m).oasis.resetVin = m.oasis.resetVin := by
  obtain ⟨_, _, _, _, _, _, _, _, _, e⟩ := raise_frame s c p m; rw [e]
@[simp] theorem raise_oasis_resetFault (s c : Nat) (p : List Field) (m : Part) : (raise s c p m).oasis.resetFault = m.oasis.resetFault := by
  obtain ⟨_, _, _, _, _, _, _, _, _, e⟩ := raise_frame s c p m; rw [e]
@[simp] theorem raise_oasis_slot (s c : Nat) (p : List Field) (m : Part) : (raise s c p m).oasis.slot = m.oasis.slot := by
  obtain ⟨_, _, _, _, _, _, _, _, _, e⟩ := raise_frame s c p m; rw [e]
@[simp] theorem raise_oasis_preferred (s c : Nat) (p : List Field) (m : Part) : (raise s c p m).oasis.preferred = m.oasis.preferred := by
  obtain ⟨_, _, _, _, _, _, _, _, _, e⟩ := raise_frame s c p m; rw [e]
@[simp] theorem raise_oasis_failedBoots (s c : Nat) (p : List Field) (m : Part) : (raise s c p m).oasis.failedBoots = m.oasis.failedBoots := by
  obtain ⟨_, _, _, _, _, _, _, _, _, e⟩ := raise_frame s c p m; rw [e]
@[simp] theorem raise_oasis_chainBoot (s c : Nat) (p : List Field) (m : Part) : (raise s c p m).oasis.chainBoot = m.oasis.chainBoot := by
  obtain ⟨_, _, _, _, _, _, _, _, _, e⟩ := raise_frame s c p m; rw [e]
@[simp] theorem raise_oasis_rebootHt (s c : Nat) (p : List Field) (m : Part) : (raise s c p m).oasis.rebootHt = m.oasis.rebootHt := by
  obtain ⟨_, _, _, _, _, _, _, _, _, e⟩ := raise_frame s c p m; rw [e]
@[simp] theorem raise_oasis_bootSrc (s c : Nat) (p : List Field) (m : Part) : (raise s c p m).oasis.bootSrc = m.oasis.bootSrc := by
  obtain ⟨_, _, _, _, _, _, _, _, _, e⟩ := raise_frame s c p m; rw [e]
@[simp] theorem raise_hif_enable (s c : Nat) (p : List Field) (m : Part) : (raise s c p m).hif.enable = m.hif.enable := by
  obtain ⟨_, _, _, _, _, _, _, _, _, e⟩ := raise_frame s c p m; rw [e]
@[simp] theorem raise_hif_lock (s c : Nat) (p : List Field) (m : Part) : (raise s c p m).hif.lock = m.hif.lock := by
  obtain ⟨_, _, _, _, _, _, _, _, _, e⟩ := raise_frame s c p m; rw [e]
@[simp] theorem raise_hif_quiesced (s c : Nat) (p : List Field) (m : Part) : (raise s c p m).hif.quiesced = m.hif.quiesced := by
  obtain ⟨_, _, _, _, _, _, _, _, _, e⟩ := raise_frame s c p m; rw [e]
@[simp] theorem raise_hif_cfgErr (s c : Nat) (p : List Field) (m : Part) : (raise s c p m).hif.cfgErr = m.hif.cfgErr := by
  obtain ⟨_, _, _, _, _, _, _, _, _, e⟩ := raise_frame s c p m; rw [e]
@[simp] theorem raise_hif_errRing (s c : Nat) (p : List Field) (m : Part) : (raise s c p m).hif.errRing = m.hif.errRing := by
  obtain ⟨_, _, _, _, _, _, _, _, _, e⟩ := raise_frame s c p m; rw [e]
@[simp] theorem raise_hif_everEnabled (s c : Nat) (p : List Field) (m : Part) : (raise s c p m).hif.everEnabled = m.hif.everEnabled := by
  obtain ⟨_, _, _, _, _, _, _, _, _, e⟩ := raise_frame s c p m; rw [e]
@[simp] theorem raise_hif_dbPoll (s c : Nat) (p : List Field) (m : Part) : (raise s c p m).hif.dbPoll = m.hif.dbPoll := by
  obtain ⟨_, _, _, _, _, _, _, _, _, e⟩ := raise_frame s c p m; rw [e]
@[simp] theorem raise_hif_dbPage (s c : Nat) (p : List Field) (m : Part) : (raise s c p m).hif.dbPage = m.hif.dbPage := by
  obtain ⟨_, _, _, _, _, _, _, _, _, e⟩ := raise_frame s c p m; rw [e]
@[simp] theorem raise_hif_shadowPage (s c : Nat) (p : List Field) (m : Part) : (raise s c p m).hif.shadowPage = m.hif.shadowPage := by
  obtain ⟨_, _, _, _, _, _, _, _, _, e⟩ := raise_frame s c p m; rw [e]
@[simp] theorem raise_hif_flqTable (s c : Nat) (p : List Field) (m : Part) : (raise s c p m).hif.flqTable = m.hif.flqTable := by
  obtain ⟨_, _, _, _, _, _, _, _, _, e⟩ := raise_frame s c p m; rw [e]
@[simp] theorem raise_hif_cmdq (s c : Nat) (p : List Field) (m : Part) : (raise s c p m).hif.cmdq = m.hif.cmdq := by
  obtain ⟨_, _, _, _, _, _, _, _, _, e⟩ := raise_frame s c p m; rw [e]
@[simp] theorem raise_hif_cplq (s c : Nat) (p : List Field) (m : Part) : (raise s c p m).hif.cplq = m.hif.cplq := by
  obtain ⟨_, _, _, _, _, _, _, _, _, e⟩ := raise_frame s c p m; rw [e]
@[simp] theorem raise_hif_flq (s c : Nat) (p : List Field) (m : Part) : (raise s c p m).hif.flq = m.hif.flq := by
  obtain ⟨_, _, _, _, _, _, _, _, _, e⟩ := raise_frame s c p m; rw [e]
@[simp] theorem raise_hif_routes (s c : Nat) (p : List Field) (m : Part) : (raise s c p m).hif.routes = m.hif.routes := by
  obtain ⟨_, _, _, _, _, _, _, _, _, e⟩ := raise_frame s c p m; rw [e]
@[simp] theorem raise_hif_fetchSeq (s c : Nat) (p : List Field) (m : Part) : (raise s c p m).hif.fetchSeq = m.hif.fetchSeq := by
  obtain ⟨_, _, _, _, _, _, _, _, _, e⟩ := raise_frame s c p m; rw [e]
@[simp] theorem raise_hif_shadowHt (s c : Nat) (p : List Field) (m : Part) : (raise s c p m).hif.shadowHt = m.hif.shadowHt := by
  obtain ⟨_, _, _, _, _, _, _, _, _, e⟩ := raise_frame s c p m; rw [e]
@[simp] theorem raise_hif_fetchAgain (s c : Nat) (p : List Field) (m : Part) : (raise s c p m).hif.fetchAgain = m.hif.fetchAgain := by
  obtain ⟨_, _, _, _, _, _, _, _, _, e⟩ := raise_frame s c p m; rw [e]
@[simp] theorem raise_hif_fetchFails (s c : Nat) (p : List Field) (m : Part) : (raise s c p m).hif.fetchFails = m.hif.fetchFails := by
  obtain ⟨_, _, _, _, _, _, _, _, _, e⟩ := raise_frame s c p m; rw [e]
@[simp] theorem raise_hif_changed (s c : Nat) (p : List Field) (m : Part) : (raise s c p m).hif.changed = m.hif.changed := by
  obtain ⟨_, _, _, _, _, _, _, _, _, e⟩ := raise_frame s c p m; rw [e]
@[simp] theorem raise_host_completions (s c : Nat) (p : List Field) (m : Part) : (raise s c p m).host.completions = m.host.completions := by
  obtain ⟨_, _, _, _, _, _, _, _, _, e⟩ := raise_frame s c p m; rw [e]
@[simp] theorem raise_host_records (s c : Nat) (p : List Field) (m : Part) : (raise s c p m).host.records = m.host.records := by
  obtain ⟨_, _, _, _, _, _, _, _, _, e⟩ := raise_frame s c p m; rw [e]
@[simp] theorem raise_host_buffers (s c : Nat) (p : List Field) (m : Part) : (raise s c p m).host.buffers = m.host.buffers := by
  obtain ⟨_, _, _, _, _, _, _, _, _, e⟩ := raise_frame s c p m; rw [e]
@[simp] theorem raise_host_slots (s c : Nat) (p : List Field) (m : Part) : (raise s c p m).host.slots = m.host.slots := by
  obtain ⟨_, _, _, _, _, _, _, _, _, e⟩ := raise_frame s c p m; rw [e]

/-! ## finish -/

@[simp] theorem finish_ident (d : Desc) (o : Origin) (c : Nat) (r : Reply) (m : Part) : (finish d o c r m).ident = m.ident := by
  obtain ⟨_, _, _, _, _, _, _, _, e⟩ := finish_frame d o c r m; rw [e]
@[simp] theorem finish_clock (d : Desc) (o : Origin) (c : Nat) (r : Reply) (m : Part) : (finish d o c r m).clock = m.clock := by
  obtain ⟨_, _, _, _, _, _, _, _, e⟩ := finish_frame d o c r m; rw [e]
@[simp] theorem finish_pps (d : Desc) (o : Origin) (c : Nat) (r : Reply) (m : Part) : (finish d o c r m).pps = m.pps := by
  obtain ⟨_, _, _, _, _, _, _, _, e⟩ := finish_frame d o c r m; rw [e]
@[simp] theorem finish_syncin (d : Desc) (o : Origin) (c : Nat) (r : Reply) (m : Part) : (finish d o c r m).syncin = m.syncin := by
  obtain ⟨_, _, _, _, _, _, _, _, e⟩ := finish_frame d o c r m; rw [e]
@[simp] theorem finish_spll (d : Desc) (o : Origin) (c : Nat) (r : Reply) (m : Part) : (finish d o c r m).spll = m.spll := by
  obtain ⟨_, _, _, _, _, _, _, _, e⟩ := finish_frame d o c r m; rw [e]
@[simp] theorem finish_ksyn (d : Desc) (o : Origin) (c : Nat) (r : Reply) (m : Part) : (finish d o c r m).ksyn = m.ksyn := by
  obtain ⟨_, _, _, _, _, _, _, _, e⟩ := finish_frame d o c r m; rw [e]
@[simp] theorem finish_pins (d : Desc) (o : Origin) (c : Nat) (r : Reply) (m : Part) : (finish d o c r m).pins = m.pins := by
  obtain ⟨_, _, _, _, _, _, _, _, e⟩ := finish_frame d o c r m; rw [e]
@[simp] theorem finish_sched (d : Desc) (o : Origin) (c : Nat) (r : Reply) (m : Part) : (finish d o c r m).sched = m.sched := by
  obtain ⟨_, _, _, _, _, _, _, _, e⟩ := finish_frame d o c r m; rw [e]
@[simp] theorem finish_tiles (d : Desc) (o : Origin) (c : Nat) (r : Reply) (m : Part) : (finish d o c r m).tiles = m.tiles := by
  obtain ⟨_, _, _, _, _, _, _, _, e⟩ := finish_frame d o c r m; rw [e]
@[simp] theorem finish_halves (d : Desc) (o : Origin) (c : Nat) (r : Reply) (m : Part) : (finish d o c r m).halves = m.halves := by
  obtain ⟨_, _, _, _, _, _, _, _, e⟩ := finish_frame d o c r m; rw [e]
@[simp] theorem finish_ctxs (d : Desc) (o : Origin) (c : Nat) (r : Reply) (m : Part) : (finish d o c r m).ctxs = m.ctxs := by
  obtain ⟨_, _, _, _, _, _, _, _, e⟩ := finish_frame d o c r m; rw [e]
@[simp] theorem finish_calCommands (d : Desc) (o : Origin) (c : Nat) (r : Reply) (m : Part) : (finish d o c r m).calCommands = m.calCommands := by
  obtain ⟨_, _, _, _, _, _, _, _, e⟩ := finish_frame d o c r m; rw [e]
@[simp] theorem finish_kiteCal (d : Desc) (o : Origin) (c : Nat) (r : Reply) (m : Part) : (finish d o c r m).kiteCal = m.kiteCal := by
  obtain ⟨_, _, _, _, _, _, _, _, e⟩ := finish_frame d o c r m; rw [e]
@[simp] theorem finish_gpio (d : Desc) (o : Origin) (c : Nat) (r : Reply) (m : Part) : (finish d o c r m).gpio = m.gpio := by
  obtain ⟨_, _, _, _, _, _, _, _, e⟩ := finish_frame d o c r m; rw [e]
@[simp] theorem finish_i2c (d : Desc) (o : Origin) (c : Nat) (r : Reply) (m : Part) : (finish d o c r m).i2c = m.i2c := by
  obtain ⟨_, _, _, _, _, _, _, _, e⟩ := finish_frame d o c r m; rw [e]
@[simp] theorem finish_plans (d : Desc) (o : Origin) (c : Nat) (r : Reply) (m : Part) : (finish d o c r m).plans = m.plans := by
  obtain ⟨_, _, _, _, _, _, _, _, e⟩ := finish_frame d o c r m; rw [e]
@[simp] theorem finish_planHolds (d : Desc) (o : Origin) (c : Nat) (r : Reply) (m : Part) : (finish d o c r m).planHolds = m.planHolds := by
  obtain ⟨_, _, _, _, _, _, _, _, e⟩ := finish_frame d o c r m; rw [e]
@[simp] theorem finish_blocks (d : Desc) (o : Origin) (c : Nat) (r : Reply) (m : Part) : (finish d o c r m).blocks = m.blocks := by
  obtain ⟨_, _, _, _, _, _, _, _, e⟩ := finish_frame d o c r m; rw [e]
@[simp] theorem finish_sets (d : Desc) (o : Origin) (c : Nat) (r : Reply) (m : Part) : (finish d o c r m).sets = m.sets := by
  obtain ⟨_, _, _, _, _, _, _, _, e⟩ := finish_frame d o c r m; rw [e]
@[simp] theorem finish_service (d : Desc) (o : Origin) (c : Nat) (r : Reply) (m : Part) : (finish d o c r m).service = m.service := by
  obtain ⟨_, _, _, _, _, _, _, _, e⟩ := finish_frame d o c r m; rw [e]
@[simp] theorem finish_flows (d : Desc) (o : Origin) (c : Nat) (r : Reply) (m : Part) : (finish d o c r m).flows = m.flows := by
  obtain ⟨_, _, _, _, _, _, _, _, e⟩ := finish_frame d o c r m; rw [e]
@[simp] theorem finish_egress (d : Desc) (o : Origin) (c : Nat) (r : Reply) (m : Part) : (finish d o c r m).egress = m.egress := by
  obtain ⟨_, _, _, _, _, _, _, _, e⟩ := finish_frame d o c r m; rw [e]
@[simp] theorem finish_captures (d : Desc) (o : Origin) (c : Nat) (r : Reply) (m : Part) : (finish d o c r m).captures = m.captures := by
  obtain ⟨_, _, _, _, _, _, _, _, e⟩ := finish_frame d o c r m; rw [e]
@[simp] theorem finish_dram (d : Desc) (o : Origin) (c : Nat) (r : Reply) (m : Part) : (finish d o c r m).dram = m.dram := by
  obtain ⟨_, _, _, _, _, _, _, _, e⟩ := finish_frame d o c r m; rw [e]
@[simp] theorem finish_kite (d : Desc) (o : Origin) (c : Nat) (r : Reply) (m : Part) : (finish d o c r m).kite = m.kite := by
  obtain ⟨_, _, _, _, _, _, _, _, e⟩ := finish_frame d o c r m; rw [e]
@[simp] theorem finish_ports (d : Desc) (o : Origin) (c : Nat) (r : Reply) (m : Part) : (finish d o c r m).ports = m.ports := by
  obtain ⟨_, _, _, _, _, _, _, _, e⟩ := finish_frame d o c r m; rw [e]
@[simp] theorem finish_mclk (d : Desc) (o : Origin) (c : Nat) (r : Reply) (m : Part) : (finish d o c r m).mclk = m.mclk := by
  obtain ⟨_, _, _, _, _, _, _, _, e⟩ := finish_frame d o c r m; rw [e]
@[simp] theorem finish_power (d : Desc) (o : Origin) (c : Nat) (r : Reply) (m : Part) : (finish d o c r m).power = m.power := by
  obtain ⟨_, _, _, _, _, _, _, _, e⟩ := finish_frame d o c r m; rw [e]
@[simp] theorem finish_boot (d : Desc) (o : Origin) (c : Nat) (r : Reply) (m : Part) : (finish d o c r m).boot = m.boot := by
  obtain ⟨_, _, _, _, _, _, _, _, e⟩ := finish_frame d o c r m; rw [e]
@[simp] theorem finish_oasis (d : Desc) (o : Origin) (c : Nat) (r : Reply) (m : Part) : (finish d o c r m).oasis = m.oasis := by
  obtain ⟨_, _, _, _, _, _, _, _, e⟩ := finish_frame d o c r m; rw [e]
@[simp] theorem finish_flash (d : Desc) (o : Origin) (c : Nat) (r : Reply) (m : Part) : (finish d o c r m).flash = m.flash := by
  obtain ⟨_, _, _, _, _, _, _, _, e⟩ := finish_frame d o c r m; rw [e]
@[simp] theorem finish_regs (d : Desc) (o : Origin) (c : Nat) (r : Reply) (m : Part) : (finish d o c r m).regs = m.regs := by
  obtain ⟨_, _, _, _, _, _, _, _, e⟩ := finish_frame d o c r m; rw [e]
@[simp] theorem finish_sec (d : Desc) (o : Origin) (c : Nat) (r : Reply) (m : Part) : (finish d o c r m).sec = m.sec := by
  obtain ⟨_, _, _, _, _, _, _, _, e⟩ := finish_frame d o c r m; rw [e]
@[simp] theorem finish_dbg (d : Desc) (o : Origin) (c : Nat) (r : Reply) (m : Part) : (finish d o c r m).dbg = m.dbg := by
  obtain ⟨_, _, _, _, _, _, _, _, e⟩ := finish_frame d o c r m; rw [e]
@[simp] theorem finish_free (d : Desc) (o : Origin) (c : Nat) (r : Reply) (m : Part) : (finish d o c r m).free = m.free := by
  obtain ⟨_, _, _, _, _, _, _, _, e⟩ := finish_frame d o c r m; rw [e]
@[simp] theorem finish_chain_addr (d : Desc) (o : Origin) (c : Nat) (r : Reply) (m : Part) : (finish d o c r m).chain.addr = m.chain.addr := by
  obtain ⟨_, _, _, _, _, _, _, _, e⟩ := finish_frame d o c r m; rw [e]
@[simp] theorem finish_chain_chainId (d : Desc) (o : Origin) (c : Nat) (r : Reply) (m : Part) : (finish d o c r m).chain.chainId = m.chain.chainId := by
  obtain ⟨_, _, _, _, _, _, _, _, e⟩ := finish_frame d o c r m; rw [e]
@[simp] theorem finish_chain_parts (d : Desc) (o : Origin) (c : Nat) (r : Reply) (m : Part) : (finish d o c r m).chain.parts = m.chain.parts := by
  obtain ⟨_, _, _, _, _, _, _, _, e⟩ := finish_frame d o c r m; rw [e]
@[simp] theorem finish_chain_ring (d : Desc) (o : Origin) (c : Nat) (r : Reply) (m : Part) : (finish d o c r m).chain.ring = m.chain.ring := by
  obtain ⟨_, _, _, _, _, _, _, _, e⟩ := finish_frame d o c r m; rw [e]
@[simp] theorem finish_chain_breaks (d : Desc) (o : Origin) (c : Nat) (r : Reply) (m : Part) : (finish d o c r m).chain.breaks = m.chain.breaks := by
  obtain ⟨_, _, _, _, _, _, _, _, e⟩ := finish_frame d o c r m; rw [e]
@[simp] theorem finish_chain_epoch (d : Desc) (o : Origin) (c : Nat) (r : Reply) (m : Part) : (finish d o c r m).chain.epoch = m.chain.epoch := by
  obtain ⟨_, _, _, _, _, _, _, _, e⟩ := finish_frame d o c r m; rw [e]
@[simp] theorem finish_chain_applied (d : Desc) (o : Origin) (c : Nat) (r : Reply) (m : Part) : (finish d o c r m).chain.applied = m.chain.applied := by
  obtain ⟨_, _, _, _, _, _, _, _, e⟩ := finish_frame d o c r m; rw [e]
@[simp] theorem finish_chain_timeDisagree (d : Desc) (o : Origin) (c : Nat) (r : Reply) (m : Part) : (finish d o c r m).chain.timeDisagree = m.chain.timeDisagree := by
  obtain ⟨_, _, _, _, _, _, _, _, e⟩ := finish_frame d o c r m; rw [e]
@[simp] theorem finish_chain_up (d : Desc) (o : Origin) (c : Nat) (r : Reply) (m : Part) : (finish d o c r m).chain.up = m.chain.up := by
  obtain ⟨_, _, _, _, _, _, _, _, e⟩ := finish_frame d o c r m; rw [e]
@[simp] theorem finish_chain_down (d : Desc) (o : Origin) (c : Nat) (r : Reply) (m : Part) : (finish d o c r m).chain.down = m.chain.down := by
  obtain ⟨_, _, _, _, _, _, _, _, e⟩ := finish_frame d o c r m; rw [e]
@[simp] theorem finish_chain_peers (d : Desc) (o : Origin) (c : Nat) (r : Reply) (m : Part) : (finish d o c r m).chain.peers = m.chain.peers := by
  obtain ⟨_, _, _, _, _, _, _, _, e⟩ := finish_frame d o c r m; rw [e]
@[simp] theorem finish_chain_claims (d : Desc) (o : Origin) (c : Nat) (r : Reply) (m : Part) : (finish d o c r m).chain.claims = m.chain.claims := by
  obtain ⟨_, _, _, _, _, _, _, _, e⟩ := finish_frame d o c r m; rw [e]
@[simp] theorem finish_chain_master (d : Desc) (o : Origin) (c : Nat) (r : Reply) (m : Part) : (finish d o c r m).chain.master = m.chain.master := by
  obtain ⟨_, _, _, _, _, _, _, _, e⟩ := finish_frame d o c r m; rw [e]
@[simp] theorem finish_chain_masterLocked (d : Desc) (o : Origin) (c : Nat) (r : Reply) (m : Part) : (finish d o c r m).chain.masterLocked = m.chain.masterLocked := by
  obtain ⟨_, _, _, _, _, _, _, _, e⟩ := finish_frame d o c r m; rw [e]
@[simp] theorem finish_chain_rollAt (d : Desc) (o : Origin) (c : Nat) (r : Reply) (m : Part) : (finish d o c r m).chain.rollAt = m.chain.rollAt := by
  obtain ⟨_, _, _, _, _, _, _, _, e⟩ := finish_frame d o c r m; rw [e]
@[simp] theorem finish_chain_rollHt (d : Desc) (o : Origin) (c : Nat) (r : Reply) (m : Part) : (finish d o c r m).chain.rollHt = m.chain.rollHt := by
  obtain ⟨_, _, _, _, _, _, _, _, e⟩ := finish_frame d o c r m; rw [e]
@[simp] theorem finish_chain_rollcall (d : Desc) (o : Origin) (c : Nat) (r : Reply) (m : Part) : (finish d o c r m).chain.rollcall = m.chain.rollcall := by
  obtain ⟨_, _, _, _, _, _, _, _, e⟩ := finish_frame d o c r m; rw [e]
@[simp] theorem finish_chain_offsetNs (d : Desc) (o : Origin) (c : Nat) (r : Reply) (m : Part) : (finish d o c r m).chain.offsetNs = m.chain.offsetNs := by
  obtain ⟨_, _, _, _, _, _, _, _, e⟩ := finish_frame d o c r m; rw [e]
@[simp] theorem finish_chain_offsetRun (d : Desc) (o : Origin) (c : Nat) (r : Reply) (m : Part) : (finish d o c r m).chain.offsetRun = m.chain.offsetRun := by
  obtain ⟨_, _, _, _, _, _, _, _, e⟩ := finish_frame d o c r m; rw [e]
@[simp] theorem finish_chain_quarantined (d : Desc) (o : Origin) (c : Nat) (r : Reply) (m : Part) : (finish d o c r m).chain.quarantined = m.chain.quarantined := by
  obtain ⟨_, _, _, _, _, _, _, _, e⟩ := finish_frame d o c r m; rw [e]
@[simp] theorem finish_chain_rebootAt (d : Desc) (o : Origin) (c : Nat) (r : Reply) (m : Part) : (finish d o c r m).chain.rebootAt = m.chain.rebootAt := by
  obtain ⟨_, _, _, _, _, _, _, _, e⟩ := finish_frame d o c r m; rw [e]
@[simp] theorem finish_chain_seen (d : Desc) (o : Origin) (c : Nat) (r : Reply) (m : Part) : (finish d o c r m).chain.seen = m.chain.seen := by
  obtain ⟨_, _, _, _, _, _, _, _, e⟩ := finish_frame d o c r m; rw [e]
@[simp] theorem finish_chain_records (d : Desc) (o : Origin) (c : Nat) (r : Reply) (m : Part) : (finish d o c r m).chain.records = m.chain.records := by
  obtain ⟨_, _, _, _, _, _, _, _, e⟩ := finish_frame d o c r m; rw [e]
@[simp] theorem finish_chain_acks (d : Desc) (o : Origin) (c : Nat) (r : Reply) (m : Part) : (finish d o c r m).chain.acks = m.chain.acks := by
  obtain ⟨_, _, _, _, _, _, _, _, e⟩ := finish_frame d o c r m; rw [e]
@[simp] theorem finish_chain_forwarded (d : Desc) (o : Origin) (c : Nat) (r : Reply) (m : Part) : (finish d o c r m).chain.forwarded = m.chain.forwarded := by
  obtain ⟨_, _, _, _, _, _, _, _, e⟩ := finish_frame d o c r m; rw [e]
@[simp] theorem finish_chain_sends (d : Desc) (o : Origin) (c : Nat) (r : Reply) (m : Part) : (finish d o c r m).chain.sends = m.chain.sends := by
  obtain ⟨_, _, _, _, _, _, _, _, e⟩ := finish_frame d o c r m; rw [e]
@[simp] theorem finish_chain_msgSeq (d : Desc) (o : Origin) (c : Nat) (r : Reply) (m : Part) : (finish d o c r m).chain.msgSeq = m.chain.msgSeq := by
  obtain ⟨_, _, _, _, _, _, _, _, e⟩ := finish_frame d o c r m; rw [e]
@[simp] theorem finish_hif_enable (d : Desc) (o : Origin) (c : Nat) (r : Reply) (m : Part) : (finish d o c r m).hif.enable = m.hif.enable := by
  obtain ⟨_, _, _, _, _, _, _, _, e⟩ := finish_frame d o c r m; rw [e]
@[simp] theorem finish_hif_lock (d : Desc) (o : Origin) (c : Nat) (r : Reply) (m : Part) : (finish d o c r m).hif.lock = m.hif.lock := by
  obtain ⟨_, _, _, _, _, _, _, _, e⟩ := finish_frame d o c r m; rw [e]
@[simp] theorem finish_hif_quiesced (d : Desc) (o : Origin) (c : Nat) (r : Reply) (m : Part) : (finish d o c r m).hif.quiesced = m.hif.quiesced := by
  obtain ⟨_, _, _, _, _, _, _, _, e⟩ := finish_frame d o c r m; rw [e]
@[simp] theorem finish_hif_cfgErr (d : Desc) (o : Origin) (c : Nat) (r : Reply) (m : Part) : (finish d o c r m).hif.cfgErr = m.hif.cfgErr := by
  obtain ⟨_, _, _, _, _, _, _, _, e⟩ := finish_frame d o c r m; rw [e]
@[simp] theorem finish_hif_errRing (d : Desc) (o : Origin) (c : Nat) (r : Reply) (m : Part) : (finish d o c r m).hif.errRing = m.hif.errRing := by
  obtain ⟨_, _, _, _, _, _, _, _, e⟩ := finish_frame d o c r m; rw [e]
@[simp] theorem finish_hif_everEnabled (d : Desc) (o : Origin) (c : Nat) (r : Reply) (m : Part) : (finish d o c r m).hif.everEnabled = m.hif.everEnabled := by
  obtain ⟨_, _, _, _, _, _, _, _, e⟩ := finish_frame d o c r m; rw [e]
@[simp] theorem finish_hif_dbPoll (d : Desc) (o : Origin) (c : Nat) (r : Reply) (m : Part) : (finish d o c r m).hif.dbPoll = m.hif.dbPoll := by
  obtain ⟨_, _, _, _, _, _, _, _, e⟩ := finish_frame d o c r m; rw [e]
@[simp] theorem finish_hif_dbPage (d : Desc) (o : Origin) (c : Nat) (r : Reply) (m : Part) : (finish d o c r m).hif.dbPage = m.hif.dbPage := by
  obtain ⟨_, _, _, _, _, _, _, _, e⟩ := finish_frame d o c r m; rw [e]
@[simp] theorem finish_hif_shadowPage (d : Desc) (o : Origin) (c : Nat) (r : Reply) (m : Part) : (finish d o c r m).hif.shadowPage = m.hif.shadowPage := by
  obtain ⟨_, _, _, _, _, _, _, _, e⟩ := finish_frame d o c r m; rw [e]
@[simp] theorem finish_hif_flqTable (d : Desc) (o : Origin) (c : Nat) (r : Reply) (m : Part) : (finish d o c r m).hif.flqTable = m.hif.flqTable := by
  obtain ⟨_, _, _, _, _, _, _, _, e⟩ := finish_frame d o c r m; rw [e]
@[simp] theorem finish_hif_cmdq (d : Desc) (o : Origin) (c : Nat) (r : Reply) (m : Part) : (finish d o c r m).hif.cmdq = m.hif.cmdq := by
  obtain ⟨_, _, _, _, _, _, _, _, e⟩ := finish_frame d o c r m; rw [e]
@[simp] theorem finish_hif_evq (d : Desc) (o : Origin) (c : Nat) (r : Reply) (m : Part) : (finish d o c r m).hif.evq = m.hif.evq := by
  obtain ⟨_, _, _, _, _, _, _, _, e⟩ := finish_frame d o c r m; rw [e]
@[simp] theorem finish_hif_flq (d : Desc) (o : Origin) (c : Nat) (r : Reply) (m : Part) : (finish d o c r m).hif.flq = m.hif.flq := by
  obtain ⟨_, _, _, _, _, _, _, _, e⟩ := finish_frame d o c r m; rw [e]
@[simp] theorem finish_hif_routes (d : Desc) (o : Origin) (c : Nat) (r : Reply) (m : Part) : (finish d o c r m).hif.routes = m.hif.routes := by
  obtain ⟨_, _, _, _, _, _, _, _, e⟩ := finish_frame d o c r m; rw [e]
@[simp] theorem finish_hif_fetchSeq (d : Desc) (o : Origin) (c : Nat) (r : Reply) (m : Part) : (finish d o c r m).hif.fetchSeq = m.hif.fetchSeq := by
  obtain ⟨_, _, _, _, _, _, _, _, e⟩ := finish_frame d o c r m; rw [e]
@[simp] theorem finish_hif_shadowHt (d : Desc) (o : Origin) (c : Nat) (r : Reply) (m : Part) : (finish d o c r m).hif.shadowHt = m.hif.shadowHt := by
  obtain ⟨_, _, _, _, _, _, _, _, e⟩ := finish_frame d o c r m; rw [e]
@[simp] theorem finish_hif_fetchFails (d : Desc) (o : Origin) (c : Nat) (r : Reply) (m : Part) : (finish d o c r m).hif.fetchFails = m.hif.fetchFails := by
  obtain ⟨_, _, _, _, _, _, _, _, e⟩ := finish_frame d o c r m; rw [e]
@[simp] theorem finish_hif_changed (d : Desc) (o : Origin) (c : Nat) (r : Reply) (m : Part) : (finish d o c r m).hif.changed = m.hif.changed := by
  obtain ⟨_, _, _, _, _, _, _, _, e⟩ := finish_frame d o c r m; rw [e]
@[simp] theorem finish_host_events (d : Desc) (o : Origin) (c : Nat) (r : Reply) (m : Part) : (finish d o c r m).host.events = m.host.events := by
  obtain ⟨_, _, _, _, _, _, _, _, e⟩ := finish_frame d o c r m; rw [e]
@[simp] theorem finish_host_records (d : Desc) (o : Origin) (c : Nat) (r : Reply) (m : Part) : (finish d o c r m).host.records = m.host.records := by
  obtain ⟨_, _, _, _, _, _, _, _, e⟩ := finish_frame d o c r m; rw [e]
@[simp] theorem finish_host_buffers (d : Desc) (o : Origin) (c : Nat) (r : Reply) (m : Part) : (finish d o c r m).host.buffers = m.host.buffers := by
  obtain ⟨_, _, _, _, _, _, _, _, e⟩ := finish_frame d o c r m; rw [e]
@[simp] theorem finish_host_slots (d : Desc) (o : Origin) (c : Nat) (r : Reply) (m : Part) : (finish d o c r m).host.slots = m.host.slots := by
  obtain ⟨_, _, _, _, _, _, _, _, e⟩ := finish_frame d o c r m; rw [e]

/-! ## send -/

@[simp] theorem send_ident (a : Nat) (i : TransferItem) (m : Part) : (send a i m).ident = m.ident := rfl
@[simp] theorem send_clock (a : Nat) (i : TransferItem) (m : Part) : (send a i m).clock = m.clock := rfl
@[simp] theorem send_pps (a : Nat) (i : TransferItem) (m : Part) : (send a i m).pps = m.pps := rfl
@[simp] theorem send_syncin (a : Nat) (i : TransferItem) (m : Part) : (send a i m).syncin = m.syncin := rfl
@[simp] theorem send_spll (a : Nat) (i : TransferItem) (m : Part) : (send a i m).spll = m.spll := rfl
@[simp] theorem send_ksyn (a : Nat) (i : TransferItem) (m : Part) : (send a i m).ksyn = m.ksyn := rfl
@[simp] theorem send_pins (a : Nat) (i : TransferItem) (m : Part) : (send a i m).pins = m.pins := rfl
@[simp] theorem send_sched (a : Nat) (i : TransferItem) (m : Part) : (send a i m).sched = m.sched := rfl
@[simp] theorem send_tiles (a : Nat) (i : TransferItem) (m : Part) : (send a i m).tiles = m.tiles := rfl
@[simp] theorem send_halves (a : Nat) (i : TransferItem) (m : Part) : (send a i m).halves = m.halves := rfl
@[simp] theorem send_ctxs (a : Nat) (i : TransferItem) (m : Part) : (send a i m).ctxs = m.ctxs := rfl
@[simp] theorem send_calCommands (a : Nat) (i : TransferItem) (m : Part) : (send a i m).calCommands = m.calCommands := rfl
@[simp] theorem send_kiteCal (a : Nat) (i : TransferItem) (m : Part) : (send a i m).kiteCal = m.kiteCal := rfl
@[simp] theorem send_gpio (a : Nat) (i : TransferItem) (m : Part) : (send a i m).gpio = m.gpio := rfl
@[simp] theorem send_i2c (a : Nat) (i : TransferItem) (m : Part) : (send a i m).i2c = m.i2c := rfl
@[simp] theorem send_plans (a : Nat) (i : TransferItem) (m : Part) : (send a i m).plans = m.plans := rfl
@[simp] theorem send_planHolds (a : Nat) (i : TransferItem) (m : Part) : (send a i m).planHolds = m.planHolds := rfl
@[simp] theorem send_blocks (a : Nat) (i : TransferItem) (m : Part) : (send a i m).blocks = m.blocks := rfl
@[simp] theorem send_sets (a : Nat) (i : TransferItem) (m : Part) : (send a i m).sets = m.sets := rfl
@[simp] theorem send_service (a : Nat) (i : TransferItem) (m : Part) : (send a i m).service = m.service := rfl
@[simp] theorem send_hif (a : Nat) (i : TransferItem) (m : Part) : (send a i m).hif = m.hif := rfl
@[simp] theorem send_flows (a : Nat) (i : TransferItem) (m : Part) : (send a i m).flows = m.flows := rfl
@[simp] theorem send_egress (a : Nat) (i : TransferItem) (m : Part) : (send a i m).egress = m.egress := rfl
@[simp] theorem send_captures (a : Nat) (i : TransferItem) (m : Part) : (send a i m).captures = m.captures := rfl
@[simp] theorem send_dram (a : Nat) (i : TransferItem) (m : Part) : (send a i m).dram = m.dram := rfl
@[simp] theorem send_kite (a : Nat) (i : TransferItem) (m : Part) : (send a i m).kite = m.kite := rfl
@[simp] theorem send_ports (a : Nat) (i : TransferItem) (m : Part) : (send a i m).ports = m.ports := rfl
@[simp] theorem send_mclk (a : Nat) (i : TransferItem) (m : Part) : (send a i m).mclk = m.mclk := rfl
@[simp] theorem send_power (a : Nat) (i : TransferItem) (m : Part) : (send a i m).power = m.power := rfl
@[simp] theorem send_boot (a : Nat) (i : TransferItem) (m : Part) : (send a i m).boot = m.boot := rfl
@[simp] theorem send_oasis (a : Nat) (i : TransferItem) (m : Part) : (send a i m).oasis = m.oasis := rfl
@[simp] theorem send_flash (a : Nat) (i : TransferItem) (m : Part) : (send a i m).flash = m.flash := rfl
@[simp] theorem send_regs (a : Nat) (i : TransferItem) (m : Part) : (send a i m).regs = m.regs := rfl
@[simp] theorem send_sec (a : Nat) (i : TransferItem) (m : Part) : (send a i m).sec = m.sec := rfl
@[simp] theorem send_dbg (a : Nat) (i : TransferItem) (m : Part) : (send a i m).dbg = m.dbg := rfl
@[simp] theorem send_host (a : Nat) (i : TransferItem) (m : Part) : (send a i m).host = m.host := rfl
@[simp] theorem send_free (a : Nat) (i : TransferItem) (m : Part) : (send a i m).free = m.free := rfl
@[simp] theorem send_chain_addr (a : Nat) (i : TransferItem) (m : Part) : (send a i m).chain.addr = m.chain.addr := rfl
@[simp] theorem send_chain_chainId (a : Nat) (i : TransferItem) (m : Part) : (send a i m).chain.chainId = m.chain.chainId := rfl
@[simp] theorem send_chain_parts (a : Nat) (i : TransferItem) (m : Part) : (send a i m).chain.parts = m.chain.parts := rfl
@[simp] theorem send_chain_ring (a : Nat) (i : TransferItem) (m : Part) : (send a i m).chain.ring = m.chain.ring := rfl
@[simp] theorem send_chain_breaks (a : Nat) (i : TransferItem) (m : Part) : (send a i m).chain.breaks = m.chain.breaks := rfl
@[simp] theorem send_chain_epoch (a : Nat) (i : TransferItem) (m : Part) : (send a i m).chain.epoch = m.chain.epoch := rfl
@[simp] theorem send_chain_applied (a : Nat) (i : TransferItem) (m : Part) : (send a i m).chain.applied = m.chain.applied := rfl
@[simp] theorem send_chain_timeDisagree (a : Nat) (i : TransferItem) (m : Part) : (send a i m).chain.timeDisagree = m.chain.timeDisagree := rfl
@[simp] theorem send_chain_up (a : Nat) (i : TransferItem) (m : Part) : (send a i m).chain.up = m.chain.up := rfl
@[simp] theorem send_chain_down (a : Nat) (i : TransferItem) (m : Part) : (send a i m).chain.down = m.chain.down := rfl
@[simp] theorem send_chain_peers (a : Nat) (i : TransferItem) (m : Part) : (send a i m).chain.peers = m.chain.peers := rfl
@[simp] theorem send_chain_claims (a : Nat) (i : TransferItem) (m : Part) : (send a i m).chain.claims = m.chain.claims := rfl
@[simp] theorem send_chain_master (a : Nat) (i : TransferItem) (m : Part) : (send a i m).chain.master = m.chain.master := rfl
@[simp] theorem send_chain_masterLocked (a : Nat) (i : TransferItem) (m : Part) : (send a i m).chain.masterLocked = m.chain.masterLocked := rfl
@[simp] theorem send_chain_rollAt (a : Nat) (i : TransferItem) (m : Part) : (send a i m).chain.rollAt = m.chain.rollAt := rfl
@[simp] theorem send_chain_rollHt (a : Nat) (i : TransferItem) (m : Part) : (send a i m).chain.rollHt = m.chain.rollHt := rfl
@[simp] theorem send_chain_rollcall (a : Nat) (i : TransferItem) (m : Part) : (send a i m).chain.rollcall = m.chain.rollcall := rfl
@[simp] theorem send_chain_offsetNs (a : Nat) (i : TransferItem) (m : Part) : (send a i m).chain.offsetNs = m.chain.offsetNs := rfl
@[simp] theorem send_chain_offsetRun (a : Nat) (i : TransferItem) (m : Part) : (send a i m).chain.offsetRun = m.chain.offsetRun := rfl
@[simp] theorem send_chain_quarantined (a : Nat) (i : TransferItem) (m : Part) : (send a i m).chain.quarantined = m.chain.quarantined := rfl
@[simp] theorem send_chain_rebootAt (a : Nat) (i : TransferItem) (m : Part) : (send a i m).chain.rebootAt = m.chain.rebootAt := rfl
@[simp] theorem send_chain_seen (a : Nat) (i : TransferItem) (m : Part) : (send a i m).chain.seen = m.chain.seen := rfl
@[simp] theorem send_chain_records (a : Nat) (i : TransferItem) (m : Part) : (send a i m).chain.records = m.chain.records := rfl
@[simp] theorem send_chain_acks (a : Nat) (i : TransferItem) (m : Part) : (send a i m).chain.acks = m.chain.acks := rfl
@[simp] theorem send_chain_forwarded (a : Nat) (i : TransferItem) (m : Part) : (send a i m).chain.forwarded = m.chain.forwarded := rfl
@[simp] theorem send_chain_sends (a : Nat) (i : TransferItem) (m : Part) : (send a i m).chain.sends = m.chain.sends := rfl
@[simp] theorem send_chain_msgSeq (a : Nat) (i : TransferItem) (m : Part) : (send a i m).chain.msgSeq = m.chain.msgSeq := rfl

/-! ## advance -/

@[simp] theorem advance_ident (t : Nat) (m : Part) : (advance t m).ident = m.ident := rfl
@[simp] theorem advance_pps (t : Nat) (m : Part) : (advance t m).pps = m.pps := rfl
@[simp] theorem advance_syncin (t : Nat) (m : Part) : (advance t m).syncin = m.syncin := rfl
@[simp] theorem advance_spll (t : Nat) (m : Part) : (advance t m).spll = m.spll := rfl
@[simp] theorem advance_ksyn (t : Nat) (m : Part) : (advance t m).ksyn = m.ksyn := rfl
@[simp] theorem advance_pins (t : Nat) (m : Part) : (advance t m).pins = m.pins := rfl
@[simp] theorem advance_sched (t : Nat) (m : Part) : (advance t m).sched = m.sched := rfl
@[simp] theorem advance_tiles (t : Nat) (m : Part) : (advance t m).tiles = m.tiles := rfl
@[simp] theorem advance_halves (t : Nat) (m : Part) : (advance t m).halves = m.halves := rfl
@[simp] theorem advance_ctxs (t : Nat) (m : Part) : (advance t m).ctxs = m.ctxs := rfl
@[simp] theorem advance_calCommands (t : Nat) (m : Part) : (advance t m).calCommands = m.calCommands := rfl
@[simp] theorem advance_kiteCal (t : Nat) (m : Part) : (advance t m).kiteCal = m.kiteCal := rfl
@[simp] theorem advance_gpio (t : Nat) (m : Part) : (advance t m).gpio = m.gpio := rfl
@[simp] theorem advance_i2c (t : Nat) (m : Part) : (advance t m).i2c = m.i2c := rfl
@[simp] theorem advance_plans (t : Nat) (m : Part) : (advance t m).plans = m.plans := rfl
@[simp] theorem advance_planHolds (t : Nat) (m : Part) : (advance t m).planHolds = m.planHolds := rfl
@[simp] theorem advance_blocks (t : Nat) (m : Part) : (advance t m).blocks = m.blocks := rfl
@[simp] theorem advance_sets (t : Nat) (m : Part) : (advance t m).sets = m.sets := rfl
@[simp] theorem advance_service (t : Nat) (m : Part) : (advance t m).service = m.service := rfl
@[simp] theorem advance_hif (t : Nat) (m : Part) : (advance t m).hif = m.hif := rfl
@[simp] theorem advance_flows (t : Nat) (m : Part) : (advance t m).flows = m.flows := rfl
@[simp] theorem advance_egress (t : Nat) (m : Part) : (advance t m).egress = m.egress := rfl
@[simp] theorem advance_captures (t : Nat) (m : Part) : (advance t m).captures = m.captures := rfl
@[simp] theorem advance_dram (t : Nat) (m : Part) : (advance t m).dram = m.dram := rfl
@[simp] theorem advance_kite (t : Nat) (m : Part) : (advance t m).kite = m.kite := rfl
@[simp] theorem advance_ports (t : Nat) (m : Part) : (advance t m).ports = m.ports := rfl
@[simp] theorem advance_mclk (t : Nat) (m : Part) : (advance t m).mclk = m.mclk := rfl
@[simp] theorem advance_chain (t : Nat) (m : Part) : (advance t m).chain = m.chain := rfl
@[simp] theorem advance_power (t : Nat) (m : Part) : (advance t m).power = m.power := rfl
@[simp] theorem advance_boot (t : Nat) (m : Part) : (advance t m).boot = m.boot := rfl
@[simp] theorem advance_oasis (t : Nat) (m : Part) : (advance t m).oasis = m.oasis := rfl
@[simp] theorem advance_flash (t : Nat) (m : Part) : (advance t m).flash = m.flash := rfl
@[simp] theorem advance_regs (t : Nat) (m : Part) : (advance t m).regs = m.regs := rfl
@[simp] theorem advance_sec (t : Nat) (m : Part) : (advance t m).sec = m.sec := rfl
@[simp] theorem advance_dbg (t : Nat) (m : Part) : (advance t m).dbg = m.dbg := rfl
@[simp] theorem advance_host (t : Nat) (m : Part) : (advance t m).host = m.host := rfl
@[simp] theorem advance_free (t : Nat) (m : Part) : (advance t m).free = m.free := rfl

/-! ## onHalf -/

@[simp] theorem onHalf_ident (h : Nat) (f : Half → Half) (m : Part) : (onHalf h f m).ident = m.ident := rfl
@[simp] theorem onHalf_clock (h : Nat) (f : Half → Half) (m : Part) : (onHalf h f m).clock = m.clock := rfl
@[simp] theorem onHalf_pps (h : Nat) (f : Half → Half) (m : Part) : (onHalf h f m).pps = m.pps := rfl
@[simp] theorem onHalf_syncin (h : Nat) (f : Half → Half) (m : Part) : (onHalf h f m).syncin = m.syncin := rfl
@[simp] theorem onHalf_spll (h : Nat) (f : Half → Half) (m : Part) : (onHalf h f m).spll = m.spll := rfl
@[simp] theorem onHalf_ksyn (h : Nat) (f : Half → Half) (m : Part) : (onHalf h f m).ksyn = m.ksyn := rfl
@[simp] theorem onHalf_pins (h : Nat) (f : Half → Half) (m : Part) : (onHalf h f m).pins = m.pins := rfl
@[simp] theorem onHalf_sched (h : Nat) (f : Half → Half) (m : Part) : (onHalf h f m).sched = m.sched := rfl
@[simp] theorem onHalf_tiles (h : Nat) (f : Half → Half) (m : Part) : (onHalf h f m).tiles = m.tiles := rfl
@[simp] theorem onHalf_ctxs (h : Nat) (f : Half → Half) (m : Part) : (onHalf h f m).ctxs = m.ctxs := rfl
@[simp] theorem onHalf_calCommands (h : Nat) (f : Half → Half) (m : Part) : (onHalf h f m).calCommands = m.calCommands := rfl
@[simp] theorem onHalf_kiteCal (h : Nat) (f : Half → Half) (m : Part) : (onHalf h f m).kiteCal = m.kiteCal := rfl
@[simp] theorem onHalf_gpio (h : Nat) (f : Half → Half) (m : Part) : (onHalf h f m).gpio = m.gpio := rfl
@[simp] theorem onHalf_i2c (h : Nat) (f : Half → Half) (m : Part) : (onHalf h f m).i2c = m.i2c := rfl
@[simp] theorem onHalf_plans (h : Nat) (f : Half → Half) (m : Part) : (onHalf h f m).plans = m.plans := rfl
@[simp] theorem onHalf_planHolds (h : Nat) (f : Half → Half) (m : Part) : (onHalf h f m).planHolds = m.planHolds := rfl
@[simp] theorem onHalf_blocks (h : Nat) (f : Half → Half) (m : Part) : (onHalf h f m).blocks = m.blocks := rfl
@[simp] theorem onHalf_sets (h : Nat) (f : Half → Half) (m : Part) : (onHalf h f m).sets = m.sets := rfl
@[simp] theorem onHalf_service (h : Nat) (f : Half → Half) (m : Part) : (onHalf h f m).service = m.service := rfl
@[simp] theorem onHalf_hif (h : Nat) (f : Half → Half) (m : Part) : (onHalf h f m).hif = m.hif := rfl
@[simp] theorem onHalf_flows (h : Nat) (f : Half → Half) (m : Part) : (onHalf h f m).flows = m.flows := rfl
@[simp] theorem onHalf_egress (h : Nat) (f : Half → Half) (m : Part) : (onHalf h f m).egress = m.egress := rfl
@[simp] theorem onHalf_captures (h : Nat) (f : Half → Half) (m : Part) : (onHalf h f m).captures = m.captures := rfl
@[simp] theorem onHalf_dram (h : Nat) (f : Half → Half) (m : Part) : (onHalf h f m).dram = m.dram := rfl
@[simp] theorem onHalf_kite (h : Nat) (f : Half → Half) (m : Part) : (onHalf h f m).kite = m.kite := rfl
@[simp] theorem onHalf_ports (h : Nat) (f : Half → Half) (m : Part) : (onHalf h f m).ports = m.ports := rfl
@[simp] theorem onHalf_mclk (h : Nat) (f : Half → Half) (m : Part) : (onHalf h f m).mclk = m.mclk := rfl
@[simp] theorem onHalf_chain (h : Nat) (f : Half → Half) (m : Part) : (onHalf h f m).chain = m.chain := rfl
@[simp] theorem onHalf_power (h : Nat) (f : Half → Half) (m : Part) : (onHalf h f m).power = m.power := rfl
@[simp] theorem onHalf_boot (h : Nat) (f : Half → Half) (m : Part) : (onHalf h f m).boot = m.boot := rfl
@[simp] theorem onHalf_oasis (h : Nat) (f : Half → Half) (m : Part) : (onHalf h f m).oasis = m.oasis := rfl
@[simp] theorem onHalf_flash (h : Nat) (f : Half → Half) (m : Part) : (onHalf h f m).flash = m.flash := rfl
@[simp] theorem onHalf_regs (h : Nat) (f : Half → Half) (m : Part) : (onHalf h f m).regs = m.regs := rfl
@[simp] theorem onHalf_sec (h : Nat) (f : Half → Half) (m : Part) : (onHalf h f m).sec = m.sec := rfl
@[simp] theorem onHalf_dbg (h : Nat) (f : Half → Half) (m : Part) : (onHalf h f m).dbg = m.dbg := rfl
@[simp] theorem onHalf_host (h : Nat) (f : Half → Half) (m : Part) : (onHalf h f m).host = m.host := rfl
@[simp] theorem onHalf_free (h : Nat) (f : Half → Half) (m : Part) : (onHalf h f m).free = m.free := rfl

/-! ## onTile -/

@[simp] theorem onTile_ident (t : Nat) (f : Tile → Tile) (m : Part) : (onTile t f m).ident = m.ident := rfl
@[simp] theorem onTile_clock (t : Nat) (f : Tile → Tile) (m : Part) : (onTile t f m).clock = m.clock := rfl
@[simp] theorem onTile_pps (t : Nat) (f : Tile → Tile) (m : Part) : (onTile t f m).pps = m.pps := rfl
@[simp] theorem onTile_syncin (t : Nat) (f : Tile → Tile) (m : Part) : (onTile t f m).syncin = m.syncin := rfl
@[simp] theorem onTile_spll (t : Nat) (f : Tile → Tile) (m : Part) : (onTile t f m).spll = m.spll := rfl
@[simp] theorem onTile_ksyn (t : Nat) (f : Tile → Tile) (m : Part) : (onTile t f m).ksyn = m.ksyn := rfl
@[simp] theorem onTile_pins (t : Nat) (f : Tile → Tile) (m : Part) : (onTile t f m).pins = m.pins := rfl
@[simp] theorem onTile_sched (t : Nat) (f : Tile → Tile) (m : Part) : (onTile t f m).sched = m.sched := rfl
@[simp] theorem onTile_halves (t : Nat) (f : Tile → Tile) (m : Part) : (onTile t f m).halves = m.halves := rfl
@[simp] theorem onTile_ctxs (t : Nat) (f : Tile → Tile) (m : Part) : (onTile t f m).ctxs = m.ctxs := rfl
@[simp] theorem onTile_calCommands (t : Nat) (f : Tile → Tile) (m : Part) : (onTile t f m).calCommands = m.calCommands := rfl
@[simp] theorem onTile_kiteCal (t : Nat) (f : Tile → Tile) (m : Part) : (onTile t f m).kiteCal = m.kiteCal := rfl
@[simp] theorem onTile_gpio (t : Nat) (f : Tile → Tile) (m : Part) : (onTile t f m).gpio = m.gpio := rfl
@[simp] theorem onTile_i2c (t : Nat) (f : Tile → Tile) (m : Part) : (onTile t f m).i2c = m.i2c := rfl
@[simp] theorem onTile_plans (t : Nat) (f : Tile → Tile) (m : Part) : (onTile t f m).plans = m.plans := rfl
@[simp] theorem onTile_planHolds (t : Nat) (f : Tile → Tile) (m : Part) : (onTile t f m).planHolds = m.planHolds := rfl
@[simp] theorem onTile_blocks (t : Nat) (f : Tile → Tile) (m : Part) : (onTile t f m).blocks = m.blocks := rfl
@[simp] theorem onTile_sets (t : Nat) (f : Tile → Tile) (m : Part) : (onTile t f m).sets = m.sets := rfl
@[simp] theorem onTile_service (t : Nat) (f : Tile → Tile) (m : Part) : (onTile t f m).service = m.service := rfl
@[simp] theorem onTile_hif (t : Nat) (f : Tile → Tile) (m : Part) : (onTile t f m).hif = m.hif := rfl
@[simp] theorem onTile_flows (t : Nat) (f : Tile → Tile) (m : Part) : (onTile t f m).flows = m.flows := rfl
@[simp] theorem onTile_egress (t : Nat) (f : Tile → Tile) (m : Part) : (onTile t f m).egress = m.egress := rfl
@[simp] theorem onTile_captures (t : Nat) (f : Tile → Tile) (m : Part) : (onTile t f m).captures = m.captures := rfl
@[simp] theorem onTile_dram (t : Nat) (f : Tile → Tile) (m : Part) : (onTile t f m).dram = m.dram := rfl
@[simp] theorem onTile_kite (t : Nat) (f : Tile → Tile) (m : Part) : (onTile t f m).kite = m.kite := rfl
@[simp] theorem onTile_ports (t : Nat) (f : Tile → Tile) (m : Part) : (onTile t f m).ports = m.ports := rfl
@[simp] theorem onTile_mclk (t : Nat) (f : Tile → Tile) (m : Part) : (onTile t f m).mclk = m.mclk := rfl
@[simp] theorem onTile_chain (t : Nat) (f : Tile → Tile) (m : Part) : (onTile t f m).chain = m.chain := rfl
@[simp] theorem onTile_power (t : Nat) (f : Tile → Tile) (m : Part) : (onTile t f m).power = m.power := rfl
@[simp] theorem onTile_boot (t : Nat) (f : Tile → Tile) (m : Part) : (onTile t f m).boot = m.boot := rfl
@[simp] theorem onTile_oasis (t : Nat) (f : Tile → Tile) (m : Part) : (onTile t f m).oasis = m.oasis := rfl
@[simp] theorem onTile_flash (t : Nat) (f : Tile → Tile) (m : Part) : (onTile t f m).flash = m.flash := rfl
@[simp] theorem onTile_regs (t : Nat) (f : Tile → Tile) (m : Part) : (onTile t f m).regs = m.regs := rfl
@[simp] theorem onTile_sec (t : Nat) (f : Tile → Tile) (m : Part) : (onTile t f m).sec = m.sec := rfl
@[simp] theorem onTile_dbg (t : Nat) (f : Tile → Tile) (m : Part) : (onTile t f m).dbg = m.dbg := rfl
@[simp] theorem onTile_host (t : Nat) (f : Tile → Tile) (m : Part) : (onTile t f m).host = m.host := rfl
@[simp] theorem onTile_free (t : Nat) (f : Tile → Tile) (m : Part) : (onTile t f m).free = m.free := rfl

/-! ## onCtx -/

@[simp] theorem onCtx_ident (c : Nat) (f : Ctx → Ctx) (m : Part) : (onCtx c f m).ident = m.ident := rfl
@[simp] theorem onCtx_clock (c : Nat) (f : Ctx → Ctx) (m : Part) : (onCtx c f m).clock = m.clock := rfl
@[simp] theorem onCtx_pps (c : Nat) (f : Ctx → Ctx) (m : Part) : (onCtx c f m).pps = m.pps := rfl
@[simp] theorem onCtx_syncin (c : Nat) (f : Ctx → Ctx) (m : Part) : (onCtx c f m).syncin = m.syncin := rfl
@[simp] theorem onCtx_spll (c : Nat) (f : Ctx → Ctx) (m : Part) : (onCtx c f m).spll = m.spll := rfl
@[simp] theorem onCtx_ksyn (c : Nat) (f : Ctx → Ctx) (m : Part) : (onCtx c f m).ksyn = m.ksyn := rfl
@[simp] theorem onCtx_pins (c : Nat) (f : Ctx → Ctx) (m : Part) : (onCtx c f m).pins = m.pins := rfl
@[simp] theorem onCtx_sched (c : Nat) (f : Ctx → Ctx) (m : Part) : (onCtx c f m).sched = m.sched := rfl
@[simp] theorem onCtx_tiles (c : Nat) (f : Ctx → Ctx) (m : Part) : (onCtx c f m).tiles = m.tiles := rfl
@[simp] theorem onCtx_halves (c : Nat) (f : Ctx → Ctx) (m : Part) : (onCtx c f m).halves = m.halves := rfl
@[simp] theorem onCtx_calCommands (c : Nat) (f : Ctx → Ctx) (m : Part) : (onCtx c f m).calCommands = m.calCommands := rfl
@[simp] theorem onCtx_kiteCal (c : Nat) (f : Ctx → Ctx) (m : Part) : (onCtx c f m).kiteCal = m.kiteCal := rfl
@[simp] theorem onCtx_gpio (c : Nat) (f : Ctx → Ctx) (m : Part) : (onCtx c f m).gpio = m.gpio := rfl
@[simp] theorem onCtx_i2c (c : Nat) (f : Ctx → Ctx) (m : Part) : (onCtx c f m).i2c = m.i2c := rfl
@[simp] theorem onCtx_plans (c : Nat) (f : Ctx → Ctx) (m : Part) : (onCtx c f m).plans = m.plans := rfl
@[simp] theorem onCtx_planHolds (c : Nat) (f : Ctx → Ctx) (m : Part) : (onCtx c f m).planHolds = m.planHolds := rfl
@[simp] theorem onCtx_blocks (c : Nat) (f : Ctx → Ctx) (m : Part) : (onCtx c f m).blocks = m.blocks := rfl
@[simp] theorem onCtx_sets (c : Nat) (f : Ctx → Ctx) (m : Part) : (onCtx c f m).sets = m.sets := rfl
@[simp] theorem onCtx_service (c : Nat) (f : Ctx → Ctx) (m : Part) : (onCtx c f m).service = m.service := rfl
@[simp] theorem onCtx_hif (c : Nat) (f : Ctx → Ctx) (m : Part) : (onCtx c f m).hif = m.hif := rfl
@[simp] theorem onCtx_flows (c : Nat) (f : Ctx → Ctx) (m : Part) : (onCtx c f m).flows = m.flows := rfl
@[simp] theorem onCtx_egress (c : Nat) (f : Ctx → Ctx) (m : Part) : (onCtx c f m).egress = m.egress := rfl
@[simp] theorem onCtx_captures (c : Nat) (f : Ctx → Ctx) (m : Part) : (onCtx c f m).captures = m.captures := rfl
@[simp] theorem onCtx_dram (c : Nat) (f : Ctx → Ctx) (m : Part) : (onCtx c f m).dram = m.dram := rfl
@[simp] theorem onCtx_kite (c : Nat) (f : Ctx → Ctx) (m : Part) : (onCtx c f m).kite = m.kite := rfl
@[simp] theorem onCtx_ports (c : Nat) (f : Ctx → Ctx) (m : Part) : (onCtx c f m).ports = m.ports := rfl
@[simp] theorem onCtx_mclk (c : Nat) (f : Ctx → Ctx) (m : Part) : (onCtx c f m).mclk = m.mclk := rfl
@[simp] theorem onCtx_chain (c : Nat) (f : Ctx → Ctx) (m : Part) : (onCtx c f m).chain = m.chain := rfl
@[simp] theorem onCtx_power (c : Nat) (f : Ctx → Ctx) (m : Part) : (onCtx c f m).power = m.power := rfl
@[simp] theorem onCtx_boot (c : Nat) (f : Ctx → Ctx) (m : Part) : (onCtx c f m).boot = m.boot := rfl
@[simp] theorem onCtx_oasis (c : Nat) (f : Ctx → Ctx) (m : Part) : (onCtx c f m).oasis = m.oasis := rfl
@[simp] theorem onCtx_flash (c : Nat) (f : Ctx → Ctx) (m : Part) : (onCtx c f m).flash = m.flash := rfl
@[simp] theorem onCtx_regs (c : Nat) (f : Ctx → Ctx) (m : Part) : (onCtx c f m).regs = m.regs := rfl
@[simp] theorem onCtx_sec (c : Nat) (f : Ctx → Ctx) (m : Part) : (onCtx c f m).sec = m.sec := rfl
@[simp] theorem onCtx_dbg (c : Nat) (f : Ctx → Ctx) (m : Part) : (onCtx c f m).dbg = m.dbg := rfl
@[simp] theorem onCtx_host (c : Nat) (f : Ctx → Ctx) (m : Part) : (onCtx c f m).host = m.host := rfl
@[simp] theorem onCtx_free (c : Nat) (f : Ctx → Ctx) (m : Part) : (onCtx c f m).free = m.free := rfl

/-! ## onCpl -/

@[simp] theorem onCpl_ident (n : Nat) (f : CplRing → CplRing) (m : Part) : (onCpl n f m).ident = m.ident := rfl
@[simp] theorem onCpl_clock (n : Nat) (f : CplRing → CplRing) (m : Part) : (onCpl n f m).clock = m.clock := rfl
@[simp] theorem onCpl_pps (n : Nat) (f : CplRing → CplRing) (m : Part) : (onCpl n f m).pps = m.pps := rfl
@[simp] theorem onCpl_syncin (n : Nat) (f : CplRing → CplRing) (m : Part) : (onCpl n f m).syncin = m.syncin := rfl
@[simp] theorem onCpl_spll (n : Nat) (f : CplRing → CplRing) (m : Part) : (onCpl n f m).spll = m.spll := rfl
@[simp] theorem onCpl_ksyn (n : Nat) (f : CplRing → CplRing) (m : Part) : (onCpl n f m).ksyn = m.ksyn := rfl
@[simp] theorem onCpl_pins (n : Nat) (f : CplRing → CplRing) (m : Part) : (onCpl n f m).pins = m.pins := rfl
@[simp] theorem onCpl_sched (n : Nat) (f : CplRing → CplRing) (m : Part) : (onCpl n f m).sched = m.sched := rfl
@[simp] theorem onCpl_tiles (n : Nat) (f : CplRing → CplRing) (m : Part) : (onCpl n f m).tiles = m.tiles := rfl
@[simp] theorem onCpl_halves (n : Nat) (f : CplRing → CplRing) (m : Part) : (onCpl n f m).halves = m.halves := rfl
@[simp] theorem onCpl_ctxs (n : Nat) (f : CplRing → CplRing) (m : Part) : (onCpl n f m).ctxs = m.ctxs := rfl
@[simp] theorem onCpl_calCommands (n : Nat) (f : CplRing → CplRing) (m : Part) : (onCpl n f m).calCommands = m.calCommands := rfl
@[simp] theorem onCpl_kiteCal (n : Nat) (f : CplRing → CplRing) (m : Part) : (onCpl n f m).kiteCal = m.kiteCal := rfl
@[simp] theorem onCpl_gpio (n : Nat) (f : CplRing → CplRing) (m : Part) : (onCpl n f m).gpio = m.gpio := rfl
@[simp] theorem onCpl_i2c (n : Nat) (f : CplRing → CplRing) (m : Part) : (onCpl n f m).i2c = m.i2c := rfl
@[simp] theorem onCpl_plans (n : Nat) (f : CplRing → CplRing) (m : Part) : (onCpl n f m).plans = m.plans := rfl
@[simp] theorem onCpl_planHolds (n : Nat) (f : CplRing → CplRing) (m : Part) : (onCpl n f m).planHolds = m.planHolds := rfl
@[simp] theorem onCpl_blocks (n : Nat) (f : CplRing → CplRing) (m : Part) : (onCpl n f m).blocks = m.blocks := rfl
@[simp] theorem onCpl_sets (n : Nat) (f : CplRing → CplRing) (m : Part) : (onCpl n f m).sets = m.sets := rfl
@[simp] theorem onCpl_service (n : Nat) (f : CplRing → CplRing) (m : Part) : (onCpl n f m).service = m.service := rfl
@[simp] theorem onCpl_flows (n : Nat) (f : CplRing → CplRing) (m : Part) : (onCpl n f m).flows = m.flows := rfl
@[simp] theorem onCpl_egress (n : Nat) (f : CplRing → CplRing) (m : Part) : (onCpl n f m).egress = m.egress := rfl
@[simp] theorem onCpl_captures (n : Nat) (f : CplRing → CplRing) (m : Part) : (onCpl n f m).captures = m.captures := rfl
@[simp] theorem onCpl_dram (n : Nat) (f : CplRing → CplRing) (m : Part) : (onCpl n f m).dram = m.dram := rfl
@[simp] theorem onCpl_kite (n : Nat) (f : CplRing → CplRing) (m : Part) : (onCpl n f m).kite = m.kite := rfl
@[simp] theorem onCpl_ports (n : Nat) (f : CplRing → CplRing) (m : Part) : (onCpl n f m).ports = m.ports := rfl
@[simp] theorem onCpl_mclk (n : Nat) (f : CplRing → CplRing) (m : Part) : (onCpl n f m).mclk = m.mclk := rfl
@[simp] theorem onCpl_chain (n : Nat) (f : CplRing → CplRing) (m : Part) : (onCpl n f m).chain = m.chain := rfl
@[simp] theorem onCpl_power (n : Nat) (f : CplRing → CplRing) (m : Part) : (onCpl n f m).power = m.power := rfl
@[simp] theorem onCpl_boot (n : Nat) (f : CplRing → CplRing) (m : Part) : (onCpl n f m).boot = m.boot := rfl
@[simp] theorem onCpl_oasis (n : Nat) (f : CplRing → CplRing) (m : Part) : (onCpl n f m).oasis = m.oasis := rfl
@[simp] theorem onCpl_flash (n : Nat) (f : CplRing → CplRing) (m : Part) : (onCpl n f m).flash = m.flash := rfl
@[simp] theorem onCpl_regs (n : Nat) (f : CplRing → CplRing) (m : Part) : (onCpl n f m).regs = m.regs := rfl
@[simp] theorem onCpl_sec (n : Nat) (f : CplRing → CplRing) (m : Part) : (onCpl n f m).sec = m.sec := rfl
@[simp] theorem onCpl_dbg (n : Nat) (f : CplRing → CplRing) (m : Part) : (onCpl n f m).dbg = m.dbg := rfl
@[simp] theorem onCpl_host (n : Nat) (f : CplRing → CplRing) (m : Part) : (onCpl n f m).host = m.host := rfl
@[simp] theorem onCpl_free (n : Nat) (f : CplRing → CplRing) (m : Part) : (onCpl n f m).free = m.free := rfl

end Sys2Proof.Machine
end

