-- ==== Sys2Proof/Laws/Accept.lean ====
section
/-! SUPPORT. What the acceptance of a command from a ring can do: one lemma for an ordered list of checks, one for reading a descriptor, one
for a command that executes at once. -/

namespace Sys2Proof.Laws

open Sys2Proof.Machine Sys2Proof.Safety

/-! ## Ordered checks -/

@[simp] theorem firstStatus_nil : firstStatus [] = stOk := rfl

/-- A list of checks passes when its first check does and the rest passes. -/
@[simp] theorem firstStatus_cons (b : Bool) (st : Nat) (l : List (Bool × Nat)) :
    firstStatus ((b, st) :: l) = if b then st else firstStatus l := rfl

/-- The same, for a status that is not ST_OK. -/
theorem firstStatus_ok {b : Bool} {st : Nat} {l : List (Bool × Nat)} (h : st ≠ stOk) :
    firstStatus ((b, st) :: l) = stOk ↔ b = false ∧ firstStatus l = stOk := by
  cases b <;> simp [h]

/-! ## Reading a descriptor -/

/-- Reading a descriptor moves its ring's indices, tells the host so (R320) and does nothing else. -/
theorem readDesc_some {d : Desc} {m m' : Part} (h : readDesc d m = some m') :
    ∃ q w, m' = { m with hif := { m.hif with cmdq := q }, host := { m.host with writes := w } } := by
  unfold readDesc at h
  split at h
  · cases h
  · split at h
    · injection h with h
      exact ⟨_, _, h.symm.trans (writeShadow_frame _ _ _ _).choose_spec⟩
    · cases h

/-- The part after the reading differs in the indices of the command rings and in what was written to host memory. -/
theorem readPart_frame (d : Desc) (m : Part) : ∃ q w,
    readPart d m = { m with hif := { m.hif with cmdq := q }, host := { m.host with writes := w } } := by
  unfold readPart
  cases h : readDesc d m with
  | none => exact ⟨_, _, rfl⟩
  | some m' => exact readDesc_some h

@[simp] theorem readPart_ident (d : Desc) (m : Part) : (readPart d m).ident = m.ident := by
  obtain ⟨_, _, e⟩ := readPart_frame d m; rw [e]
@[simp] theorem readPart_clock (d : Desc) (m : Part) : (readPart d m).clock = m.clock := by
  obtain ⟨_, _, e⟩ := readPart_frame d m; rw [e]
@[simp] theorem readPart_pps (d : Desc) (m : Part) : (readPart d m).pps = m.pps := by
  obtain ⟨_, _, e⟩ := readPart_frame d m; rw [e]
@[simp] theorem readPart_syncin (d : Desc) (m : Part) : (readPart d m).syncin = m.syncin := by
  obtain ⟨_, _, e⟩ := readPart_frame d m; rw [e]
@[simp] theorem readPart_spll (d : Desc) (m : Part) : (readPart d m).spll = m.spll := by
  obtain ⟨_, _, e⟩ := readPart_frame d m; rw [e]
@[simp] theorem readPart_ksyn (d : Desc) (m : Part) : (readPart d m).ksyn = m.ksyn := by
  obtain ⟨_, _, e⟩ := readPart_frame d m; rw [e]
@[simp] theorem readPart_pins (d : Desc) (m : Part) : (readPart d m).pins = m.pins := by
  obtain ⟨_, _, e⟩ := readPart_frame d m; rw [e]
@[simp] theorem readPart_sched (d : Desc) (m : Part) : (readPart d m).sched = m.sched := by
  obtain ⟨_, _, e⟩ := readPart_frame d m; rw [e]
@[simp] theorem readPart_tiles (d : Desc) (m : Part) : (readPart d m).tiles = m.tiles := by
  obtain ⟨_, _, e⟩ := readPart_frame d m; rw [e]
@[simp] theorem readPart_halves (d : Desc) (m : Part) : (readPart d m).halves = m.halves := by
  obtain ⟨_, _, e⟩ := readPart_frame d m; rw [e]
@[simp] theorem readPart_ctxs (d : Desc) (m : Part) : (readPart d m).ctxs = m.ctxs := by
  obtain ⟨_, _, e⟩ := readPart_frame d m; rw [e]
@[simp] theorem readPart_calCommands (d : Desc) (m : Part) : (readPart d m).calCommands = m.calCommands := by
  obtain ⟨_, _, e⟩ := readPart_frame d m; rw [e]
@[simp] theorem readPart_kiteCal (d : Desc) (m : Part) : (readPart d m).kiteCal = m.kiteCal := by
  obtain ⟨_, _, e⟩ := readPart_frame d m; rw [e]
@[simp] theorem readPart_gpio (d : Desc) (m : Part) : (readPart d m).gpio = m.gpio := by
  obtain ⟨_, _, e⟩ := readPart_frame d m; rw [e]
@[simp] theorem readPart_i2c (d : Desc) (m : Part) : (readPart d m).i2c = m.i2c := by
  obtain ⟨_, _, e⟩ := readPart_frame d m; rw [e]
@[simp] theorem readPart_plans (d : Desc) (m : Part) : (readPart d m).plans = m.plans := by
  obtain ⟨_, _, e⟩ := readPart_frame d m; rw [e]
@[simp] theorem readPart_planHolds (d : Desc) (m : Part) : (readPart d m).planHolds = m.planHolds := by
  obtain ⟨_, _, e⟩ := readPart_frame d m; rw [e]
@[simp] theorem readPart_blocks (d : Desc) (m : Part) : (readPart d m).blocks = m.blocks := by
  obtain ⟨_, _, e⟩ := readPart_frame d m; rw [e]
@[simp] theorem readPart_sets (d : Desc) (m : Part) : (readPart d m).sets = m.sets := by
  obtain ⟨_, _, e⟩ := readPart_frame d m; rw [e]
@[simp] theorem readPart_service (d : Desc) (m : Part) : (readPart d m).service = m.service := by
  obtain ⟨_, _, e⟩ := readPart_frame d m; rw [e]
@[simp] theorem readPart_flows (d : Desc) (m : Part) : (readPart d m).flows = m.flows := by
  obtain ⟨_, _, e⟩ := readPart_frame d m; rw [e]
@[simp] theorem readPart_egress (d : Desc) (m : Part) : (readPart d m).egress = m.egress := by
  obtain ⟨_, _, e⟩ := readPart_frame d m; rw [e]
@[simp] theorem readPart_captures (d : Desc) (m : Part) : (readPart d m).captures = m.captures := by
  obtain ⟨_, _, e⟩ := readPart_frame d m; rw [e]
@[simp] theorem readPart_dram (d : Desc) (m : Part) : (readPart d m).dram = m.dram := by
  obtain ⟨_, _, e⟩ := readPart_frame d m; rw [e]
@[simp] theorem readPart_kite (d : Desc) (m : Part) : (readPart d m).kite = m.kite := by
  obtain ⟨_, _, e⟩ := readPart_frame d m; rw [e]
@[simp] theorem readPart_ports (d : Desc) (m : Part) : (readPart d m).ports = m.ports := by
  obtain ⟨_, _, e⟩ := readPart_frame d m; rw [e]
@[simp] theorem readPart_mclk (d : Desc) (m : Part) : (readPart d m).mclk = m.mclk := by
  obtain ⟨_, _, e⟩ := readPart_frame d m; rw [e]
@[simp] theorem readPart_chain (d : Desc) (m : Part) : (readPart d m).chain = m.chain := by
  obtain ⟨_, _, e⟩ := readPart_frame d m; rw [e]
@[simp] theorem readPart_power (d : Desc) (m : Part) : (readPart d m).power = m.power := by
  obtain ⟨_, _, e⟩ := readPart_frame d m; rw [e]
@[simp] theorem readPart_boot (d : Desc) (m : Part) : (readPart d m).boot = m.boot := by
  obtain ⟨_, _, e⟩ := readPart_frame d m; rw [e]
@[simp] theorem readPart_oasis (d : Desc) (m : Part) : (readPart d m).oasis = m.oasis := by
  obtain ⟨_, _, e⟩ := readPart_frame d m; rw [e]
@[simp] theorem readPart_flash (d : Desc) (m : Part) : (readPart d m).flash = m.flash := by
  obtain ⟨_, _, e⟩ := readPart_frame d m; rw [e]
@[simp] theorem readPart_regs (d : Desc) (m : Part) : (readPart d m).regs = m.regs := by
  obtain ⟨_, _, e⟩ := readPart_frame d m; rw [e]
@[simp] theorem readPart_sec (d : Desc) (m : Part) : (readPart d m).sec = m.sec := by
  obtain ⟨_, _, e⟩ := readPart_frame d m; rw [e]
@[simp] theorem readPart_dbg (d : Desc) (m : Part) : (readPart d m).dbg = m.dbg := by
  obtain ⟨_, _, e⟩ := readPart_frame d m; rw [e]
@[simp] theorem readPart_host_completions (d : Desc) (m : Part) : (readPart d m).host.completions = m.host.completions := by
  obtain ⟨_, _, e⟩ := readPart_frame d m; rw [e]
@[simp] theorem readPart_host_events (d : Desc) (m : Part) : (readPart d m).host.events = m.host.events := by
  obtain ⟨_, _, e⟩ := readPart_frame d m; rw [e]
@[simp] theorem readPart_host_records (d : Desc) (m : Part) : (readPart d m).host.records = m.host.records := by
  obtain ⟨_, _, e⟩ := readPart_frame d m; rw [e]
@[simp] theorem readPart_host_buffers (d : Desc) (m : Part) : (readPart d m).host.buffers = m.host.buffers := by
  obtain ⟨_, _, e⟩ := readPart_frame d m; rw [e]
@[simp] theorem readPart_host_messages (d : Desc) (m : Part) : (readPart d m).host.messages = m.host.messages := by
  obtain ⟨_, _, e⟩ := readPart_frame d m; rw [e]
@[simp] theorem readPart_host_slots (d : Desc) (m : Part) : (readPart d m).host.slots = m.host.slots := by
  obtain ⟨_, _, e⟩ := readPart_frame d m; rw [e]
@[simp] theorem readPart_free (d : Desc) (m : Part) : (readPart d m).free = m.free := by
  obtain ⟨_, _, e⟩ := readPart_frame d m; rw [e]

/-! ## Acceptance -/

/-- What follows once a command is executed by the part that read it. -/
theorem accept_admitted {d : Desc} {c : HostCmd} {own : Part → Nat} {perform : Perform} {m : Part} (h : Admitted d c m) :
    accept d c own perform m = acceptHere d .ring false c (own (readPart d m)) perform (readPart d m) := by
  obtain ⟨m', e⟩ := Option.isSome_iff_exists.mp h.read
  obtain ⟨q, w, f⟩ := readDesc_some e
  have g : readPart d m = m' := by rw [readPart, e]; rfl
  have hs : (secondary m' && !(secondaryAllows c && decide (d.dest = ownAddr m'))) = false := by
    have hh : isHead m' = isHead m := by rw [f]; rfl
    have ha : ownAddr m' = ownAddr m := by rw [f]; rfl
    rw [secondary, hh, ha, h.here]
    rcases h.primary with h1 | h1 <;> simp [h1]
  have ho : d.dest = ownAddr m' := by rw [h.here, f]; rfl
  unfold accept
  rw [e, g]
  dsimp only
  rw [if_neg (by rw [hs]; decide), if_neg (by simp [h.clean, h.readable, ho]), if_pos ho]

/-- What follows once a command passes every check: it is performed and answered at once. CAL_RUN and AUDIO_PORT_START wait for the
first tick of their lead. -/
theorem accept_executes {d : Desc} {c : HostCmd} {perform : Perform} {m : Part} (h : Executes d c m)
    (hc : ∀ k, c ≠ .calRun k) (hp : ∀ p, c ≠ .audioPortStart p) :
    accept d c (checkCmd d c) perform m = performNow d .ring c perform (readPart d m) := by
  rw [accept_admitted h.toAdmitted]
  have hq : (readPart d m).chain.quarantined = false := by rw [readPart_chain]; exact h.trusted
  have hb : ¬(needsBlock c = true ∧ ((!d.res) = true ∨ d.resSize = 0)) := by
    rintro ⟨h1, h2⟩
    have h3 := h.block h1
    simp_all
  unfold acceptHere
  dsimp only
  rw [if_neg (by rw [hq]; decide), if_neg (by simp [h.atOnce]), if_neg hb, if_neg (by simp [h.passed]), if_neg (by simp [h.unlocked]),
    if_pos h.atOnce]
  split
  · exact absurd rfl (hc _)
  · exact absurd rfl (hp _)
  · rfl

/-- CAL_RUN that passes every check, with at = 0, takes a queue entry for the first tick of its lead. -/
theorem accept_calRun {d : Desc} {k : Nat} {perform : Perform} {m : Part} (h : Executes d (.calRun k) m)
    (hq : (readPart d m).sched.queue.length < 1024) :
    accept d (.calRun k) (checkCmd d (.calRun k)) perform m
      = enqueue ((readPart d m).clock.ht + 2048) false d .ring (.calRun k) (readPart d m) := by
  rw [accept_admitted h.toAdmitted]
  have ht : (readPart d m).chain.quarantined = false := by rw [readPart_chain]; exact h.trusted
  unfold acceptHere
  dsimp only
  rw [if_neg (by rw [ht]; decide), if_neg (by simp [h.atOnce]), if_neg (by simp [needsBlock]), if_neg (by simp [h.passed]),
    if_neg (by simp [h.unlocked]), if_pos h.atOnce]
  exact if_neg (Nat.not_le.mpr hq)

/-- AUDIO_PORT_START that passes every check, with at = 0, takes a queue entry for the first tick of its lead on the port's grid. -/
theorem accept_portStart {d : Desc} {p : Nat} {perform : Perform} {m : Part} (h : Executes d (.audioPortStart p) m)
    (hq : (readPart d m).sched.queue.length < 1024) :
    accept d (.audioPortStart p) (checkCmd d (.audioPortStart p)) perform m
      = enqueue (portTick (.audioPortStart p) ((readPart d m).clock.ht + leadOf (.audioPortStart p) (readPart d m)) (readPart d m)) false d
          .ring (.audioPortStart p) (readPart d m) := by
  rw [accept_admitted h.toAdmitted]
  have ht : (readPart d m).chain.quarantined = false := by rw [readPart_chain]; exact h.trusted
  unfold acceptHere
  dsimp only
  rw [if_neg (by rw [ht]; decide), if_neg (by simp [h.atOnce]), if_neg (by simp [needsBlock]), if_neg (by simp [h.passed]),
    if_neg (by simp [h.unlocked]), if_pos h.atOnce]
  exact if_neg (Nat.not_le.mpr hq)

/-- The reply of a command that is performed at once. -/
theorem performNow_some {d : Desc} {o : Origin} {c : HostCmd} {perform : Perform} {m m' : Part} {r : Reply}
    (h : perform d o m = (m', some r)) : performNow d o c perform m = finish d o (opcodeOf c) r m' := by
  unfold performNow
  rw [h]

/-- A command whose work ends later is not answered yet. -/
theorem performNow_none {d : Desc} {o : Origin} {c : HostCmd} {perform : Perform} {m m' : Part}
    (h : perform d o m = (m', none)) : performNow d o c perform m = m' := by
  unfold performNow
  rw [h]

/-- A meaning that performs its command at once and answers it. -/
theorem run_answered {d : Desc} {c : HostCmd} {r : Reply} {perform : Perform} {s : State} {m' : Part} (h : Executes d c s.part)
    (hc : ∀ k, c ≠ .calRun k) (hp : ∀ p, c ≠ .audioPortStart p) (e : perform d .ring (readPart d s.part) = (m', some r)) :
    s.run (accept d c (checkCmd d c) perform) = .next (answered d c r m' s) := by
  rw [State.run, accept_executes h hc hp, performNow_some e]
  rfl

/-- A meaning that performs its command at once; the answer comes when its work ends. -/
theorem run_unanswered {d : Desc} {c : HostCmd} {perform : Perform} {s : State} {m' : Part} (h : Executes d c s.part)
    (hc : ∀ k, c ≠ .calRun k) (hp : ∀ p, c ≠ .audioPortStart p) (e : perform d .ring (readPart d s.part) = (m', none)) :
    s.run (accept d c (checkCmd d c) perform) = .next { s with part := m' } := by
  rw [State.run, accept_executes h hc hp, performNow_none e]

/-! ## Commands from a ring -/

/-- The meaning of a command from a ring is its acceptance; CAL_RUN then fixes the runs of what it has just queued (R134). -/
theorem exec_of_source {i : Instr} {d : Desc} {c : HostCmd} {s : State} (h : i.source = .inl (d, c)) :
    (exec i s = s.run (accept d c (checkCmd d c) (performAtOnce c)) ∧ ∀ k, c ≠ .calRun k) ∨
    (∃ k, c = .calRun k ∧
      exec i s = s.run fun m => fixAccepted m.sched.nextOrder (accept d c (checkCmd d c) (fun _ _ m => (m, none)) m)) := by
  cases i <;> try cases h
  all_goals first | exact .inl ⟨rfl, by intro k e; cases e⟩ | exact .inr ⟨_, rfl, rfl⟩

/-- A part to which nothing has been queued since has no runs to fix. -/
theorem fixAccepted_same {n : Nat} {m : Part} (h : m.sched.nextOrder = n) : fixAccepted n m = m := if_pos h

/-- A command that acceptance answers `r`, whatever it would perform, ends in that answer. -/
theorem exec_answered {i : Instr} {d : Desc} {c : HostCmd} {s : State} (h : i.source = .inl (d, c)) (r : Reply)
    (k : ∀ p, accept d c (checkCmd d c) p s.part = finish d .ring (opcodeOf c) r (readPart d s.part)) :
    exec i s = .next (answered d c r (readPart d s.part) s) := by
  obtain ⟨q, w, f⟩ := readPart_frame d s.part
  rcases exec_of_source (s := s) h with ⟨e, _⟩ | ⟨_, _, e⟩
  · rw [e, State.run, k]; rfl
  · rw [e, State.run, k, fixAccepted_same (by rw [finish_sched, f])]; rfl

/-! ## Rows that happen by themselves -/

theorem run_onTick {t : Nat} {f : Part → Part} {s : State} {m m' : Part} (ha : advance t s.part = m) (h : f m = m') :
    s.run (onTick t f) = .next (withPart s m') := by
  rw [← h, ← ha]
  rfl

theorem runIf_onTick {b : Bool} {t : Nat} {f : Part → Part} {s : State} {m m' : Part} (hb : b = true) (ha : advance t s.part = m)
    (h : f m = m') : s.runIf b (onTick t f) = .next (withPart s m') := by
  rw [← h, ← ha, hb]
  rfl

end Sys2Proof.Laws
end

