-- ==== Sys2Proof/Laws/Clock.lean ====
section
/-! SUPPORT. What a change of HT state, of the SPLL's state or of the master leaves of the part. -/

namespace Sys2Proof.Laws

open Sys2Proof.Machine

/-- `b` is `a` but for the HT state, the SPLL's state and DCO word, the elected master, transfers, and what events touch. -/
def HtOnly (a b : Part) : Prop :=
  b = { a with
    hif := b.hif, host := b.host
    oasis := { a.oasis with log := b.oasis.log, logHead := b.oasis.logHead }
    chain := { a.chain with
      transfers := b.chain.transfers, nextSeq := b.chain.nextSeq, master := b.chain.master, masterLocked := b.chain.masterLocked }
    clock := { a.clock with state := b.clock.state, aligned := b.clock.aligned }
    spll := { a.spll with state := b.spll.state, entered := b.spll.entered, dco := b.spll.dco } }

theorem HtOnly.refl (a : Part) : HtOnly a a := rfl

theorem HtOnly.trans {a b c : Part} (h : HtOnly a b) (k : HtOnly b c) : HtOnly a c := by
  unfold HtOnly at *
  rw [k, h]

theorem HtOnly.ite {p : Prop} [Decidable p] {a b c : Part} (h : HtOnly a b) (k : HtOnly a c) : HtOnly a (if p then b else c) := by
  split <;> assumption

theorem raise_ht (s c : Nat) (p : List Field) (m : Part) : HtOnly m (raise s c p m) := by
  obtain ⟨_, _, _, _, _, _, _, _, _, e⟩ := raise_frame s c p m
  rw [e]
  rfl

theorem send_ht (a : Nat) (i : TransferItem) (m : Part) : HtOnly m (send a i m) := rfl

theorem flood_ht (m : Part) : HtOnly m (flood m) := .ite (.refl m) (send_ht _ _ _)

theorem setHt_ht (aligned : Bool) (m : Part) : HtOnly m (setHt aligned m) := by
  unfold setHt
  refine .ite (.refl m) ?_
  have h : ∀ c, HtOnly m (raise 0 0x01 c { m with clock := { m.clock with
      state := htStateOf m, aligned := aligned && decide (htStateOf m ≠ .free) && decide (effSource m ≠ .chain ∨ htStateOf m = .follow) } }) :=
    fun c => HtOnly.trans (b := { m with clock := { m.clock with
      state := htStateOf m, aligned := aligned && decide (htStateOf m ≠ .free) && decide (effSource m ≠ .chain ∨ htStateOf m = .follow) } })
      rfl (raise_ht _ _ _ _)
  exact .ite ((h _).trans (flood_ht _)) (h _)

theorem refreshHt_ht (m : Part) : HtOnly m (refreshHt m) := setHt_ht _ _

theorem refLoss_ht (cause : Nat) (m : Part) : HtOnly m (refLoss cause m) := raise_ht _ _ _ _

theorem spll_ht (st : SpllState) (e : Nat) (d : Int) (m : Part) :
    HtOnly m { m with spll := { m.spll with state := st, entered := e, dco := d } } := rfl

/-- A change of the SPLL's state that changes no more of it than the DCO word. -/
theorem enterSpll_ht {st : SpllState} {f : Spll → Spll} {m : Part} (h : ∃ d, f m.spll = { m.spll with dco := d }) :
    HtOnly m (enterSpll st f m) := by
  obtain ⟨d, e⟩ := h
  unfold enterSpll
  rw [e]
  exact (spll_ht st m.clock.elapsed d m).trans (refreshHt_ht _)

theorem holdover_ht (cause : Nat) (m : Part) : HtOnly m (holdover cause m) := by
  unfold holdover
  refine (refLoss_ht cause m).trans ?_
  generalize refLoss cause m = x
  refine enterSpll_ht ?_
  dsimp only
  split
  · exact ⟨x.spll.dco, rfl⟩
  · exact ⟨x.spll.held, rfl⟩

theorem relock_ht (m : Part) : HtOnly m (enterSpll .relock id m) := enterSpll_ht ⟨_, rfl⟩

theorem newReference_ht (m : Part) : HtOnly m (newReference m) := by
  unfold newReference
  lift_lets
  intro x st
  have hx : HtOnly m x := .ite (refLoss_ht _ _) (.refl m)
  exact hx.trans ((spll_ht st x.clock.elapsed x.spll.dco x).trans (setHt_ht _ _))

/-- Electing a master. -/
theorem elect_ht (before m : Part) : HtOnly m (elect before m) := by
  unfold elect
  lift_lets
  intro word old new_ lock was c x y
  have hx : HtOnly m x := rfl
  have hy : HtOnly m y := .ite (hx.trans (raise_ht _ _ _ _)) (.ite (hx.trans (raise_ht _ _ _ _)) hx)
  exact hy.trans (.ite (newReference_ht _) (.ite (holdover_ht _ _) (.ite (relock_ht _) (refreshHt_ht _))))

theorem topology_ht (cause near far port us : Nat) (m : Part) : HtOnly m (topology cause near far port us m) := raise_ht _ _ _ _

theorem sendConfigs_ht (l : List Nat) (m : Part) : HtOnly m (sendConfigs l m) := by
  induction l generalizing m with
  | nil => exact .refl m
  | cons a l ih => exact (send_ht _ _ _).trans (ih _)

end Sys2Proof.Laws
end

