-- ==== Sys2Proof/Laws/Lists.lean ====
section
/-! SUPPORT. Changing one element of a list: when two changes are one, and what is read afterwards; the same for a half, and for a row
that first settles the Kite transmissions. -/

namespace Sys2Proof.Laws

open Sys2Proof.Machine Sys2Proof.Safety

/-- Two changes of an element that agree on it are the same change. -/
theorem modify_congr {α : Type} {l : List α} {k : Nat} {f g : α → α} (d : α) (h : f (l.getD k d) = g (l.getD k d)) :
    l.modify k f = l.modify k g := by
  apply List.ext_getElem?
  intro i
  simp only [List.getElem?_modify]
  by_cases hi : k = i
  · subst hi
    rw [List.getD_eq_getElem?_getD] at h
    cases hx : l[k]? with
    | none => rfl
    | some y => rw [hx] at h; simp at h; simp [h]
  · simp [hi]

/-- Two changes of an element, one after the other. -/
theorem modify_twice {α : Type} {l : List α} {k : Nat} {f g : α → α} : (l.modify k f).modify k g = l.modify k (fun x => g (f x)) := by
  apply List.ext_getElem?
  intro i
  simp only [List.getElem?_modify]
  by_cases hi : k = i
  · subst hi; cases l[k]? <;> simp
  · simp [hi]

/-- Reading the element that has been changed. -/
theorem getD_modified {α : Type} {l : List α} {k : Nat} {f : α → α} (d : α) (h : k < l.length) :
    (l.modify k f).getD k d = f (l.getD k d) := by
  simp [List.getD_eq_getElem?_getD, List.getElem?_eq_getElem h]

theorem onHalf_congr {h : Nat} {f g : Half → Half} {m : Part} (e : f (half h m) = g (half h m)) : onHalf h f m = onHalf h g m := by
  unfold onHalf; rw [modify_congr {} e]

theorem onHalf_onHalf {h : Nat} {f g : Half → Half} {m : Part} : onHalf h g (onHalf h f m) = onHalf h (fun x => g (f x)) m := by
  simp only [onHalf, modify_twice]

/-- No part has more than sixteen halves (Table SCO-1). -/
theorem halvesFitted_le (m : Part) : halvesFitted m ≤ 16 := by
  unfold halvesFitted tilesFitted; cases m.ident.variant <;> decide

theorem run_kiteTick {t : Nat} {f : Part → Part} {s : State} {m k x : Part} (ha : advance t s.part = m) (hk : settleTx m = k)
    (h : f k = x) : s.run (kiteTick t f) = .next (withPart s x) := by
  subst h; subst hk; subst ha; rfl

theorem runIf_kiteTick {b : Bool} {t : Nat} {f : Part → Part} {s : State} {m k x : Part} (hb : b = true) (ha : advance t s.part = m)
    (hk : settleTx m = k) (h : f k = x) : s.runIf b (kiteTick t f) = .next (withPart s x) := by
  subst h; subst hk; subst ha; subst hb; rfl

end Sys2Proof.Laws
end

