-- ==== Sys2Proof/Laws/PerInstr.lean ====
section
/-! SUPPORT. What is the same for every row as syntax, one lemma per constructor: a well-formed command has a descriptor and parameters
that fit their fields, and a well-formed event's HT tick fits the 64 bits of HT (R38). -/

namespace Sys2Proof.Laws

/-- A well-formed row is a host command whose descriptor and parameters fit, or an event on a tick that HT can name. -/
def Syntactic.Statement (i : Instr) : Prop :=
  i.wf = true → match i.source with
    | .inl (d, c) => d.wf = true ∧ c.wf = true
    | .inr t => t < 2 ^ 64

/-- The left factor of a test. -/
theorem test_left {a b : Bool} (h : (a && b) = true) : a = true := (Bool.and_eq_true_iff.mp h).1

/-- A value that passes the test of eight bytes is below 2^64. -/
theorem tick_fits {t : Nat} (h : u64 t = true) : t < 2 ^ 64 := of_decide_eq_true h

theorem Syntactic.nop (d : Desc) : Syntactic.Statement (.nop d) :=
  fun h => ⟨h, rfl⟩

theorem Syntactic.identify (d : Desc) : Syntactic.Statement (.identify d) :=
  fun h => ⟨h, rfl⟩

theorem Syntactic.halfSetupMode (d : Desc) (half mode input : Nat) : Syntactic.Statement (.halfSetupMode d half mode input) :=
  fun h => Bool.and_eq_true_iff.mp h

theorem Syntactic.halfSetupLeveller (d : Desc) (half : Nat) (p : LevellerParams) : Syntactic.Statement (.halfSetupLeveller d half p) :=
  fun h => Bool.and_eq_true_iff.mp h

theorem Syntactic.halfSetupAntpwr (d : Desc) (half setting : Nat) : Syntactic.Statement (.halfSetupAntpwr d half setting) :=
  fun h => Bool.and_eq_true_iff.mp h

theorem Syntactic.halfSetupExtGain (d : Desc) (half : Nat) (gain : Int) : Syntactic.Statement (.halfSetupExtGain d half gain) :=
  fun h => Bool.and_eq_true_iff.mp h

theorem Syntactic.accGpio (d : Desc) (half : Nat) (p : GpioParams) : Syntactic.Statement (.accGpio d half p) :=
  fun h => Bool.and_eq_true_iff.mp h

theorem Syntactic.accI2c (d : Desc) (half : Nat) (p : I2cParams) : Syntactic.Statement (.accI2c d half p) :=
  fun h => Bool.and_eq_true_iff.mp h

theorem Syntactic.planPrepare (d : Desc) (plan : Nat) (entries : List PlanEntry) : Syntactic.Statement (.planPrepare d plan entries) :=
  fun h => Bool.and_eq_true_iff.mp h

theorem Syntactic.planCommit (d : Desc) (plan : Nat) : Syntactic.Statement (.planCommit d plan) :=
  fun h => Bool.and_eq_true_iff.mp h

theorem Syntactic.planAbort (d : Desc) (plan : Nat) : Syntactic.Statement (.planAbort d plan) :=
  fun h => Bool.and_eq_true_iff.mp h

theorem Syntactic.ctxOpen (d : Desc) (p : CtxParams) : Syntactic.Statement (.ctxOpen d p) :=
  fun h => Bool.and_eq_true_iff.mp h

theorem Syntactic.ctxRetune (d : Desc) (p : CtxParams) : Syntactic.Statement (.ctxRetune d p) :=
  fun h => Bool.and_eq_true_iff.mp h

theorem Syntactic.ctxClose (d : Desc) (ctx : Nat) : Syntactic.Statement (.ctxClose d ctx) :=
  fun h => Bool.and_eq_true_iff.mp h

theorem Syntactic.ctxQuery (d : Desc) (ctx : Nat) : Syntactic.Statement (.ctxQuery d ctx) :=
  fun h => Bool.and_eq_true_iff.mp h

theorem Syntactic.ctxWatch (d : Desc) (p : CtxParams) : Syntactic.Statement (.ctxWatch d p) :=
  fun h => Bool.and_eq_true_iff.mp h

theorem Syntactic.coefLoad (d : Desc) (ctx count scale : Nat) (words : List Nat) : Syntactic.Statement (.coefLoad d ctx count scale words) :=
  fun h => Bool.and_eq_true_iff.mp h

theorem Syntactic.coefSwap (d : Desc) (ctx xfade : Nat) : Syntactic.Statement (.coefSwap d ctx xfade) :=
  fun h => Bool.and_eq_true_iff.mp h

theorem Syntactic.syncArmJoin (d : Desc) (group ctx : Nat) : Syntactic.Statement (.syncArmJoin d group ctx) :=
  fun h => Bool.and_eq_true_iff.mp h

theorem Syntactic.syncArmLeave (d : Desc) (ctx : Nat) : Syntactic.Statement (.syncArmLeave d ctx) :=
  fun h => Bool.and_eq_true_iff.mp h

theorem Syntactic.syncArmReset (d : Desc) (group syncout phase : Nat) : Syntactic.Statement (.syncArmReset d group syncout phase) :=
  fun h => Bool.and_eq_true_iff.mp h

theorem Syntactic.armSyncin (d : Desc) (group every syncout phase : Nat) : Syntactic.Statement (.armSyncin d group every syncout phase) :=
  fun h => Bool.and_eq_true_iff.mp h

theorem Syntactic.disarm (d : Desc) (group : Nat) : Syntactic.Statement (.disarm d group) :=
  fun h => Bool.and_eq_true_iff.mp h

theorem Syntactic.svcSelect (d : Desc) (p : SelParams) : Syntactic.Statement (.svcSelect d p) :=
  fun h => Bool.and_eq_true_iff.mp h

theorem Syntactic.svcDeselect (d : Desc) (p : SelParams) : Syntactic.Statement (.svcDeselect d p) :=
  fun h => Bool.and_eq_true_iff.mp h

theorem Syntactic.svcLinkCreate (d : Desc) (set : Nat) (sources : List LinkSource) (p : SetParams) : Syntactic.Statement (.svcLinkCreate d set sources p) :=
  fun h => Bool.and_eq_true_iff.mp h

theorem Syntactic.svcLinkAdd (d : Desc) (set : Nat) (source : LinkSource) : Syntactic.Statement (.svcLinkAdd d set source) :=
  fun h => Bool.and_eq_true_iff.mp h

theorem Syntactic.svcLinkRemove (d : Desc) (set ctx sel : Nat) : Syntactic.Statement (.svcLinkRemove d set ctx sel) :=
  fun h => Bool.and_eq_true_iff.mp h

theorem Syntactic.svcLinkDelete (d : Desc) (set : Nat) : Syntactic.Statement (.svcLinkDelete d set) :=
  fun h => Bool.and_eq_true_iff.mp h

theorem Syntactic.svcLinkQuery (d : Desc) (set : Nat) : Syntactic.Statement (.svcLinkQuery d set) :=
  fun h => Bool.and_eq_true_iff.mp h

theorem Syntactic.svcFollowSet (d : Desc) (p : FollowParams) : Syntactic.Statement (.svcFollowSet d p) :=
  fun h => Bool.and_eq_true_iff.mp h

theorem Syntactic.svcFollowClear (d : Desc) (set : Nat) : Syntactic.Statement (.svcFollowClear d set) :=
  fun h => Bool.and_eq_true_iff.mp h

theorem Syntactic.dbConfig (d : Desc) (age luKeep annMask : Nat) : Syntactic.Statement (.dbConfig d age luKeep annMask) :=
  fun h => Bool.and_eq_true_iff.mp h

theorem Syntactic.dbDump (d : Desc) : Syntactic.Statement (.dbDump d) :=
  fun h => ⟨h, rfl⟩

theorem Syntactic.scan (d : Desc) (p : ScanParams) : Syntactic.Statement (.scan d p) :=
  fun h => Bool.and_eq_true_iff.mp h

theorem Syntactic.flowCreate (d : Desc) (p : FlowParams) : Syntactic.Statement (.flowCreate d p) :=
  fun h => Bool.and_eq_true_iff.mp h

theorem Syntactic.flowBind (d : Desc) (flow : Nat) (p : BindParams) : Syntactic.Statement (.flowBind d flow p) :=
  fun h => Bool.and_eq_true_iff.mp h

theorem Syntactic.flowShape (d : Desc) (flow weight rate burst : Nat) : Syntactic.Statement (.flowShape d flow weight rate burst) :=
  fun h => Bool.and_eq_true_iff.mp h

theorem Syntactic.flowDelete (d : Desc) (flow : Nat) : Syntactic.Statement (.flowDelete d flow) :=
  fun h => Bool.and_eq_true_iff.mp h

theorem Syntactic.timeshiftSet (d : Desc) (flow window delay : Nat) : Syntactic.Statement (.timeshiftSet d flow window delay) :=
  fun h => Bool.and_eq_true_iff.mp h

theorem Syntactic.captureStart (d : Desc) (mask mode flow bytes : Nat) : Syntactic.Statement (.captureStart d mask mode flow bytes) :=
  fun h => Bool.and_eq_true_iff.mp h

theorem Syntactic.captureStop (d : Desc) (mask : Nat) : Syntactic.Statement (.captureStop d mask) :=
  fun h => Bool.and_eq_true_iff.mp h

theorem Syntactic.kiteConfig (d : Desc) (count : Nat) (block : KiteBlock) : Syntactic.Statement (.kiteConfig d count block) :=
  fun h => Bool.and_eq_true_iff.mp h

theorem Syntactic.kiteSessionOpen (d : Desc) (session key peer channel : Nat) : Syntactic.Statement (.kiteSessionOpen d session key peer channel) :=
  fun h => Bool.and_eq_true_iff.mp h

theorem Syntactic.kiteSessionClose (d : Desc) (session : Nat) : Syntactic.Statement (.kiteSessionClose d session) :=
  fun h => Bool.and_eq_true_iff.mp h

theorem Syntactic.kiteSessionUpdate (d : Desc) (session key channel : Nat) : Syntactic.Statement (.kiteSessionUpdate d session key channel) :=
  fun h => Bool.and_eq_true_iff.mp h

theorem Syntactic.kiteSessionFlush (d : Desc) (session : Nat) : Syntactic.Statement (.kiteSessionFlush d session) :=
  fun h => Bool.and_eq_true_iff.mp h

theorem Syntactic.kiteSend (d : Desc) (session cls length : Nat) (payload : List Nat) : Syntactic.Statement (.kiteSend d session cls length payload) :=
  fun h => Bool.and_eq_true_iff.mp h

theorem Syntactic.kiteBudget (d : Desc) (subBand cls rate burst : Nat) : Syntactic.Statement (.kiteBudget d subBand cls rate burst) :=
  fun h => Bool.and_eq_true_iff.mp h

theorem Syntactic.audioPortConfig (d : Desc) (p : PortParams) : Syntactic.Statement (.audioPortConfig d p) :=
  fun h => Bool.and_eq_true_iff.mp h

theorem Syntactic.audioPortStart (d : Desc) (port : Nat) : Syntactic.Statement (.audioPortStart d port) :=
  fun h => Bool.and_eq_true_iff.mp h

theorem Syntactic.audioPortStop (d : Desc) (port : Nat) : Syntactic.Statement (.audioPortStop d port) :=
  fun h => Bool.and_eq_true_iff.mp h

theorem Syntactic.calPolicy (d : Desc) (half auto deltaT : Nat) (windows : List CalWindow) : Syntactic.Statement (.calPolicy d half auto deltaT windows) :=
  fun h => Bool.and_eq_true_iff.mp h

theorem Syntactic.calRun (d : Desc) (half : Nat) : Syntactic.Statement (.calRun d half) :=
  fun h => Bool.and_eq_true_iff.mp h

theorem Syntactic.clockConfig (d : Desc) (p : ClockParams) : Syntactic.Statement (.clockConfig d p) :=
  fun h => Bool.and_eq_true_iff.mp h

theorem Syntactic.chainEnumerate (d : Desc) (options : Nat) (walk : WalkResult) : Syntactic.Statement (.chainEnumerate d options walk) :=
  fun h => Bool.and_eq_true_iff.mp h

theorem Syntactic.chainRollcall (d : Desc) : Syntactic.Statement (.chainRollcall d) :=
  fun h => ⟨h, rfl⟩

theorem Syntactic.chainSend (d : Desc) (dest : Nat) (message : List Nat) : Syntactic.Statement (.chainSend d dest message) :=
  fun h => Bool.and_eq_true_iff.mp h

theorem Syntactic.eventRouteSources (d : Desc) (first last toRing vector : Nat) : Syntactic.Statement (.eventRouteSources d first last toRing vector) :=
  fun h => Bool.and_eq_true_iff.mp h

theorem Syntactic.eventRouteVector (d : Desc) (vector holdoff count : Nat) : Syntactic.Statement (.eventRouteVector d vector holdoff count) :=
  fun h => Bool.and_eq_true_iff.mp h

theorem Syntactic.fwLoadStage (d : Desc) (length : Nat) (image : ImageOffer) : Syntactic.Statement (.fwLoadStage d length image) :=
  fun h => Bool.and_eq_true_iff.mp h

theorem Syntactic.fwLoadActivate (d : Desc) : Syntactic.Statement (.fwLoadActivate d) :=
  fun h => ⟨h, rfl⟩

theorem Syntactic.doorbellFetch (t : Nat) (page : DoorbellPage) : Syntactic.Statement (.doorbellFetch t page) :=
  fun h => tick_fits h

theorem Syntactic.scheduledActionExecute (t : Nat) : Syntactic.Statement (.scheduledActionExecute t) :=
  fun h => tick_fits h

theorem Syntactic.tileSwitchReturn (t tile : Nat) : Syntactic.Statement (.tileSwitchReturn t tile) :=
  fun h => tick_fits (test_left h)

theorem Syntactic.htSecondsBoundary (t : Nat) : Syntactic.Statement (.htSecondsBoundary t) :=
  fun h => tick_fits h

theorem Syntactic.ppsinEdge (t sub : Nat) : Syntactic.Statement (.ppsinEdge t sub) :=
  fun h => tick_fits (test_left h)

theorem Syntactic.ppsMissing (t : Nat) : Syntactic.Statement (.ppsMissing t) :=
  fun h => tick_fits h

theorem Syntactic.htSlewDone (t : Nat) : Syntactic.Statement (.htSlewDone t) :=
  fun h => tick_fits h

theorem Syntactic.htStep (t : Nat) : Syntactic.Statement (.htStep t) :=
  fun h => tick_fits h

theorem Syntactic.syncinEdge (t : Nat) : Syntactic.Statement (.syncinEdge t) :=
  fun h => tick_fits h

theorem Syntactic.syncinReset (t : Nat) : Syntactic.Statement (.syncinReset t) :=
  fun h => tick_fits h

theorem Syntactic.spllWindowEnd (t : Nat) (w : RefWindow) : Syntactic.Statement (.spllWindowEnd t w) :=
  fun h => tick_fits h

theorem Syntactic.refinMissingEdge (t : Nat) : Syntactic.Statement (.refinMissingEdge t) :=
  fun h => tick_fits h

theorem Syntactic.spllPhaseLock (t : Nat) : Syntactic.Statement (.spllPhaseLock t) :=
  fun h => tick_fits h

theorem Syntactic.spllAcquireTimeout (t : Nat) : Syntactic.Statement (.spllAcquireTimeout t) :=
  fun h => tick_fits h

theorem Syntactic.tsynUnlock (t tile : Nat) : Syntactic.Statement (.tsynUnlock t tile) :=
  fun h => tick_fits (test_left h)

theorem Syntactic.tsynRelockRetry (t tile : Nat) : Syntactic.Statement (.tsynRelockRetry t tile) :=
  fun h => tick_fits (test_left h)

theorem Syntactic.ksynUnlock (t : Nat) : Syntactic.Statement (.ksynUnlock t) :=
  fun h => tick_fits h

theorem Syntactic.detectorPeriodEnd (t half : Nat) (r : DetectorPeriod) : Syntactic.Statement (.detectorPeriodEnd t half r) :=
  fun h => tick_fits (test_left (test_left h))

theorem Syntactic.levellerDwellExpiry (t half band : Nat) : Syntactic.Statement (.levellerDwellExpiry t half band) :=
  fun h => tick_fits (test_left (test_left h))

theorem Syntactic.levellerStepLanding (t half band : Nat) : Syntactic.Statement (.levellerStepLanding t half band) :=
  fun h => tick_fits (test_left (test_left h))

theorem Syntactic.adcClip (t half samples : Nat) : Syntactic.Statement (.adcClip t half samples) :=
  fun h => tick_fits (test_left (test_left h))

theorem Syntactic.antpwrCurrentLimit (t half current : Nat) : Syntactic.Statement (.antpwrCurrentLimit t half current) :=
  fun h => tick_fits (test_left (test_left h))

theorem Syntactic.antpwrOpen (t half current : Nat) : Syntactic.Statement (.antpwrOpen t half current) :=
  fun h => tick_fits (test_left (test_left h))

theorem Syntactic.gpioEdge (t pin level : Nat) : Syntactic.Statement (.gpioEdge t pin level) :=
  fun h => tick_fits (test_left (test_left h))

theorem Syntactic.i2cTransactionStart (t : Nat) : Syntactic.Statement (.i2cTransactionStart t) :=
  fun h => tick_fits h

theorem Syntactic.i2cTransactionDone (t : Nat) (r : I2cResult) : Syntactic.Statement (.i2cTransactionDone t r) :=
  fun h => tick_fits h

theorem Syntactic.i2cClockHeld (t : Nat) : Syntactic.Statement (.i2cClockHeld t) :=
  fun h => tick_fits h

theorem Syntactic.tempSensorRead (t sensor : Nat) (reading : Int) : Syntactic.Statement (.tempSensorRead t sensor reading) :=
  fun h => tick_fits (test_left h)

theorem Syntactic.calRunStart (t half : Nat) : Syntactic.Statement (.calRunStart t half) :=
  fun h => tick_fits (test_left h)

theorem Syntactic.calPhaseEnd (t half : Nat) : Syntactic.Statement (.calPhaseEnd t half) :=
  fun h => tick_fits (test_left h)

theorem Syntactic.calRunEnd (t half : Nat) (r : CalResult) : Syntactic.Statement (.calRunEnd t half r) :=
  fun h => tick_fits (test_left h)

theorem Syntactic.calRampIncrement (t half : Nat) : Syntactic.Statement (.calRampIncrement t half) :=
  fun h => tick_fits (test_left h)

theorem Syntactic.bgConverged (t : Nat) (e : BgEstimate) : Syntactic.Statement (.bgConverged t e) :=
  fun h => tick_fits (test_left h)

theorem Syntactic.bgHeld (t half : Nat) : Syntactic.Statement (.bgHeld t half) :=
  fun h => tick_fits (test_left h)

theorem Syntactic.kiteCalRun (t : Nat) : Syntactic.Statement (.kiteCalRun t) :=
  fun h => tick_fits h

theorem Syntactic.kiteCalDone (t : Nat) (image leakage : Int) : Syntactic.Statement (.kiteCalDone t image leakage) :=
  fun h => tick_fits h

theorem Syntactic.ctxPresencePass (t ctx : Nat) (p : PresenceTest) : Syntactic.Statement (.ctxPresencePass t ctx p) :=
  fun h => tick_fits (test_left h)

theorem Syntactic.ctxDetection (t ctx : Nat) (d : DetectTest) : Syntactic.Statement (.ctxDetection t ctx d) :=
  fun h => tick_fits (test_left h)

theorem Syntactic.ctxConfirmation (t ctx : Nat) (copy : Copy) : Syntactic.Statement (.ctxConfirmation t ctx copy) :=
  fun h => tick_fits (test_left h)

theorem Syntactic.ctxLoss (t ctx : Nat) (copy : Copy) : Syntactic.Statement (.ctxLoss t ctx copy) :=
  fun h => tick_fits (test_left h)

theorem Syntactic.acquireTimeout (t ctx : Nat) (copy : Copy) : Syntactic.Statement (.acquireTimeout t ctx copy) :=
  fun h => tick_fits (test_left h)

theorem Syntactic.confirmTimeout (t ctx : Nat) (copy : Copy) : Syntactic.Statement (.confirmTimeout t ctx copy) :=
  fun h => tick_fits (test_left h)

theorem Syntactic.lostTimeout (t ctx : Nat) (copy : Copy) : Syntactic.Statement (.lostTimeout t ctx copy) :=
  fun h => tick_fits (test_left h)

theorem Syntactic.holdEnd (t half : Nat) : Syntactic.Statement (.holdEnd t half) :=
  fun h => tick_fits (test_left h)

theorem Syntactic.qualityWindowEnd (t ctx : Nat) (q : QualityMeasure) : Syntactic.Statement (.qualityWindowEnd t ctx q) :=
  fun h => tick_fits (test_left h)

theorem Syntactic.amFmBlock (t ctx : Nat) (b : BlockMeasure) : Syntactic.Statement (.amFmBlock t ctx b) :=
  fun h => tick_fits (test_left h)

theorem Syntactic.xfadeDone (t ctx : Nat) : Syntactic.Statement (.xfadeDone t ctx) :=
  fun h => tick_fits (test_left h)

theorem Syntactic.pilotAbsent (t ctx : Nat) : Syntactic.Statement (.pilotAbsent t ctx) :=
  fun h => tick_fits (test_left h)

theorem Syntactic.pilotLock (t ctx : Nat) : Syntactic.Statement (.pilotLock t ctx) :=
  fun h => tick_fits (test_left h)

theorem Syntactic.pilotLost (t ctx : Nat) : Syntactic.Statement (.pilotLost t ctx) :=
  fun h => tick_fits (test_left h)

theorem Syntactic.rdsBlock (t ctx : Nat) (b : RdsBlock) : Syntactic.Statement (.rdsBlock t ctx b) :=
  fun h => tick_fits (test_left h)

theorem Syntactic.dabFrame (t ctx : Nat) (f : DabFrame) : Syntactic.Statement (.dabFrame t ctx f) :=
  fun h => tick_fits (test_left h)

theorem Syntactic.selectionAbsent (t ctx sel : Nat) : Syntactic.Statement (.selectionAbsent t ctx sel) :=
  fun h => tick_fits (test_left (test_left h))

theorem Syntactic.dabplusSuperframe (t ctx sel : Nat) (f : PlusFrame) : Syntactic.Statement (.dabplusSuperframe t ctx sel f) :=
  fun h => tick_fits (test_left (test_left h))

theorem Syntactic.l2Frame (t ctx sel : Nat) (f : L2Frame) : Syntactic.Statement (.l2Frame t ctx sel f) :=
  fun h => tick_fits (test_left (test_left h))

theorem Syntactic.drmFrame (t ctx : Nat) (f : DrmFrame) : Syntactic.Statement (.drmFrame t ctx f) :=
  fun h => tick_fits (test_left h)

theorem Syntactic.muxReconf (t ctx : Nat) (r : Reconf) : Syntactic.Statement (.muxReconf t ctx r) :=
  fun h => tick_fits (test_left h)

theorem Syntactic.blockDeadline (t ctx sel : Nat) (r : BlockResult) : Syntactic.Statement (.blockDeadline t ctx sel r) :=
  fun h => tick_fits (test_left (test_left h))

theorem Syntactic.poolSaturated (t half : Nat) : Syntactic.Statement (.poolSaturated t half) :=
  fun h => tick_fits (test_left h)

theorem Syntactic.poolClear (t half : Nat) : Syntactic.Statement (.poolClear t half) :=
  fun h => tick_fits (test_left h)

theorem Syntactic.linkMatchWindow (t set ctx sel : Nat) (w : MatchWindow) : Syntactic.Statement (.linkMatchWindow t set ctx sel w) :=
  fun h => tick_fits (test_left (test_left (test_left h)))

theorem Syntactic.linkUnitMatch (t set ctx sel : Nat) (u : UnitMatch) : Syntactic.Statement (.linkUnitMatch t set ctx sel u) :=
  fun h => tick_fits (test_left (test_left (test_left h)))

theorem Syntactic.linkNoMatch (t set ctx sel : Nat) : Syntactic.Statement (.linkNoMatch t set ctx sel) :=
  fun h => tick_fits (test_left (test_left (test_left h)))

theorem Syntactic.linkBlend (t set : Nat) : Syntactic.Statement (.linkBlend t set) :=
  fun h => tick_fits (test_left h)

theorem Syntactic.followEvaluation (t : Nat) : Syntactic.Statement (.followEvaluation t) :=
  fun h => tick_fits h

theorem Syntactic.followActionExecute (t : Nat) : Syntactic.Statement (.followActionExecute t) :=
  fun h => tick_fits h

theorem Syntactic.scanDwellEnd (t : Nat) : Syntactic.Statement (.scanDwellEnd t) :=
  fun h => tick_fits h

theorem Syntactic.dbEntryAged (t : Nat) : Syntactic.Statement (.dbEntryAged t) :=
  fun h => tick_fits h

theorem Syntactic.motObjectTimeout (t ctx sel transportId : Nat) : Syntactic.Statement (.motObjectTimeout t ctx sel transportId) :=
  fun h => tick_fits (test_left (test_left (test_left h)))

theorem Syntactic.recordCloseTimeout (t flow : Nat) : Syntactic.Statement (.recordCloseTimeout t flow) :=
  fun h => tick_fits (test_left h)

theorem Syntactic.egressRecordStart (t link : Nat) : Syntactic.Statement (.egressRecordStart t link) :=
  fun h => tick_fits (test_left h)

theorem Syntactic.bufferFlush (t ring : Nat) : Syntactic.Statement (.bufferFlush t ring) :=
  fun h => tick_fits (test_left h)

theorem Syntactic.memberUnderrun (t flow span : Nat) : Syntactic.Statement (.memberUnderrun t flow span) :=
  fun h => tick_fits (test_left (test_left h))

theorem Syntactic.dramCorrected (t line channel : Nat) : Syntactic.Statement (.dramCorrected t line channel) :=
  fun h => tick_fits (test_left (test_left h))

theorem Syntactic.dramUncorrectable (t line channel : Nat) (owner : DramOwner) : Syntactic.Statement (.dramUncorrectable t line channel owner) :=
  fun h => tick_fits (test_left (test_left h))

theorem Syntactic.msixHoldoffExpiry (t vector : Nat) : Syntactic.Statement (.msixHoldoffExpiry t vector) :=
  fun h => tick_fits (test_left h)

theorem Syntactic.msixUnmask (t vector : Nat) : Syntactic.Statement (.msixUnmask t vector) :=
  fun h => tick_fits (test_left h)

theorem Syntactic.kiteConfigApply (t : Nat) : Syntactic.Statement (.kiteConfigApply t) :=
  fun h => tick_fits h

theorem Syntactic.kiteDecision (t : Nat) : Syntactic.Statement (.kiteDecision t) :=
  fun h => tick_fits h

theorem Syntactic.kiteTxEnd (t : Nat) : Syntactic.Statement (.kiteTxEnd t) :=
  fun h => tick_fits h

theorem Syntactic.kiteWindowBoundary (t : Nat) : Syntactic.Statement (.kiteWindowBoundary t) :=
  fun h => tick_fits h

theorem Syntactic.kiteDetection (t : Nat) (p : KiteDetect) : Syntactic.Statement (.kiteDetection t p) :=
  fun h => tick_fits h

theorem Syntactic.kiteSyncDone (t demod shift : Nat) (pilots : List KitePilot) :
    Syntactic.Statement (.kiteSyncDone t demod shift pilots) :=
  fun h => tick_fits (test_left (test_left h))

theorem Syntactic.kiteSyncTimeout (t demod : Nat) : Syntactic.Statement (.kiteSyncTimeout t demod) :=
  fun h => tick_fits (test_left h)

theorem Syntactic.kiteHeaderDone (t demod : Nat) (h : KiteHeader) : Syntactic.Statement (.kiteHeaderDone t demod h) :=
  fun h => tick_fits (test_left h)

theorem Syntactic.kitePayloadDone (t demod : Nat) (r : KitePayload) : Syntactic.Statement (.kitePayloadDone t demod r) :=
  fun h => tick_fits (test_left h)

theorem Syntactic.audioClockStart (t port : Nat) : Syntactic.Statement (.audioClockStart t port) :=
  fun h => tick_fits (test_left h)

theorem Syntactic.audioFirstFrame (t port : Nat) : Syntactic.Statement (.audioFirstFrame t port) :=
  fun h => tick_fits (test_left h)

theorem Syntactic.audioTrailEnd (t port : Nat) : Syntactic.Statement (.audioTrailEnd t port) :=
  fun h => tick_fits (test_left h)

theorem Syntactic.audioFsEdge (t port bclks : Nat) (edge : Bool) : Syntactic.Statement (.audioFsEdge t port bclks edge) :=
  fun h => tick_fits (test_left (test_left h))

theorem Syntactic.audioSlip (t port fill : Nat) (dir : PortDir) : Syntactic.Statement (.audioSlip t port fill dir) :=
  fun h => tick_fits (test_left (test_left h))

theorem Syntactic.audioXrun (t port : Nat) (dir : PortDir) (overrun : Bool) (cause : Nat) : Syntactic.Statement (.audioXrun t port dir overrun cause) :=
  fun h => tick_fits (test_left (test_left h))

theorem Syntactic.audioStall (t port : Nat) : Syntactic.Statement (.audioStall t port) :=
  fun h => tick_fits (test_left h)

theorem Syntactic.audioResume (t port : Nat) (aligned : Bool) : Syntactic.Statement (.audioResume t port aligned) :=
  fun h => tick_fits (test_left h)

theorem Syntactic.tetherLinkDown (t : Nat) (port : TetherPort) (topology : TopologyChange) : Syntactic.Statement (.tetherLinkDown t port topology) :=
  fun h => tick_fits h

theorem Syntactic.tetherLinkUp (t : Nat) (port : TetherPort) (up : LinkAnnounce) : Syntactic.Statement (.tetherLinkUp t port up) :=
  fun h => tick_fits h

theorem Syntactic.rollCall (t : Nat) (p : RollPoll) : Syntactic.Statement (.rollCall t p) :=
  fun h => tick_fits h

theorem Syntactic.rollCallAnswer (t addr : Nat) (a : RollAnswer) : Syntactic.Statement (.rollCallAnswer t addr a) :=
  fun h => tick_fits (test_left h)

theorem Syntactic.masterClaim (t addr : Nat) (c : Claim) : Syntactic.Statement (.masterClaim t addr c) :=
  fun h => tick_fits (test_left h)

theorem Syntactic.stepNotice (t : Nat) (steps grid : Int) : Syntactic.Statement (.stepNotice t steps grid) :=
  fun h => tick_fits h

theorem Syntactic.chainTransferAck (t seq : Nat) (status : Nat) : Syntactic.Statement (.chainTransferAck t seq status) :=
  fun h => tick_fits (test_left (test_left h))

theorem Syntactic.chainMsgDelivery (t src seq : Nat) (message : List Nat) : Syntactic.Statement (.chainMsgDelivery t src seq message) :=
  fun h => tick_fits (test_left (test_left h))

theorem Syntactic.chainCommandArrival (t src seq : Nat) (late : Bool) (d : Desc) (c : HostCmd) : Syntactic.Statement (.chainCommandArrival t src seq late d c) :=
  fun h => tick_fits (test_left (test_left (test_left (test_left h))))

theorem Syntactic.tetherDcFault (t : Nat) (port : TetherPort) : Syntactic.Statement (.tetherDcFault t port) :=
  fun h => tick_fits h

theorem Syntactic.tetherDcRetry (t : Nat) (port : TetherPort) (limited : Bool) : Syntactic.Statement (.tetherDcRetry t port limited) :=
  fun h => tick_fits h

theorem Syntactic.vinStart (t vin : Nat) : Syntactic.Statement (.vinStart t vin) :=
  fun h => tick_fits (test_left h)

theorem Syntactic.braceEntry (t vin : Nat) : Syntactic.Statement (.braceEntry t vin) :=
  fun h => tick_fits (test_left h)

theorem Syntactic.braceExit (t vin vinMin : Nat) : Syntactic.Statement (.braceExit t vin vinMin) :=
  fun h => tick_fits (test_left (test_left h))

theorem Syntactic.braceVinLow (t : Nat) : Syntactic.Statement (.braceVinLow t) :=
  fun h => tick_fits h

theorem Syntactic.vinReset (t vin : Nat) (dcPresent : Bool) : Syntactic.Statement (.vinReset t vin dcPresent) :=
  fun h => tick_fits (test_left h)

theorem Syntactic.vinOverVoltage (t vin : Nat) : Syntactic.Statement (.vinOverVoltage t vin) :=
  fun h => tick_fits (test_left h)

theorem Syntactic.powerReset (t : Nat) : Syntactic.Statement (.powerReset t) :=
  fun h => tick_fits h

theorem Syntactic.railTrip (t group value : Nat) (overCurrent : Bool) : Syntactic.Statement (.railTrip t group value overCurrent) :=
  fun h => tick_fits (test_left (test_left h))

theorem Syntactic.watchdogExpiry (t cpu : Nat) : Syntactic.Statement (.watchdogExpiry t cpu) :=
  fun h => tick_fits (test_left h)

theorem Syntactic.porstN (t : Nat) : Syntactic.Statement (.porstN t) :=
  fun h => tick_fits h

theorem Syntactic.hostReset (t : Nat) : Syntactic.Statement (.hostReset t) :=
  fun h => tick_fits h

theorem Syntactic.bootImageSearch (t : Nat) (b : BootOutcome) : Syntactic.Statement (.bootImageSearch t b) :=
  fun h => tick_fits h

theorem Syntactic.bootWaitTimeout (t : Nat) : Syntactic.Statement (.bootWaitTimeout t) :=
  fun h => tick_fits h

theorem Syntactic.firstLight (t : Nat) : Syntactic.Statement (.firstLight t) :=
  fun h => tick_fits h

theorem Syntactic.partFull (t : Nat) : Syntactic.Statement (.partFull t) :=
  fun h => tick_fits h

theorem Syntactic.quarantineReboot (t : Nat) : Syntactic.Statement (.quarantineReboot t) :=
  fun h => tick_fits h

theorem Syntactic.chainBootTimeout (t : Nat) : Syntactic.Statement (.chainBootTimeout t) :=
  fun h => tick_fits h

theorem Syntactic.fwActivateReset (t : Nat) : Syntactic.Statement (.fwActivateReset t) :=
  fun h => tick_fits h

theorem Syntactic.tileLinkFault (t tile detail : Nat) : Syntactic.Statement (.tileLinkFault t tile detail) :=
  fun h => tick_fits (test_left (test_left h))

theorem Syntactic.memoryFault (t half detail : Nat) : Syntactic.Statement (.memoryFault t half detail) :=
  fun h => tick_fits (test_left (test_left h))

theorem Syntactic.converterStuck (t half : Nat) : Syntactic.Statement (.converterStuck t half) :=
  fun h => tick_fits (test_left h)

theorem Syntactic.tileResetDone (t tile : Nat) (r : TileResetResult) : Syntactic.Statement (.tileResetDone t tile r) :=
  fun h => tick_fits (test_left h)

theorem Syntactic.hifEnable (t : Nat) : Syntactic.Statement (.hifEnable t) :=
  fun h => tick_fits h

theorem Syntactic.hifDisable (t : Nat) : Syntactic.Statement (.hifDisable t) :=
  fun h => tick_fits h

theorem Syntactic.hifLock (t : Nat) : Syntactic.Statement (.hifLock t) :=
  fun h => tick_fits h

theorem Syntactic.hifQuiesced (t : Nat) : Syntactic.Statement (.hifQuiesced t) :=
  fun h => tick_fits h

theorem Syntactic.hifNudge (t value : Nat) : Syntactic.Statement (.hifNudge t value) :=
  fun h => tick_fits (test_left h)

theorem Syntactic.pmuVinWarn (t value : Nat) : Syntactic.Statement (.pmuVinWarn t value) :=
  fun h => tick_fits (test_left h)

theorem Syntactic.tetTimeDisagree (t value : Nat) : Syntactic.Statement (.tetTimeDisagree t value) :=
  fun h => tick_fits (test_left h)

theorem Syntactic.secKeyWrite (t slot : Nat) : Syntactic.Statement (.secKeyWrite t slot) :=
  fun h => tick_fits (test_left h)

theorem Syntactic.secKeyErase (t slot : Nat) : Syntactic.Statement (.secKeyErase t slot) :=
  fun h => tick_fits (test_left h)

theorem Syntactic.secHbootGo (t : Nat) (image : ImageOffer) : Syntactic.Statement (.secHbootGo t image) :=
  fun h => tick_fits h

theorem Syntactic.dbgLockTest (t target : Nat) : Syntactic.Statement (.dbgLockTest t target) :=
  fun h => tick_fits (test_left h)

theorem Syntactic.dbgLockTestDone (t longest : Nat) : Syntactic.Statement (.dbgLockTestDone t longest) :=
  fun h => tick_fits (test_left h)

theorem Syntactic.dbgTileReset (t tile : Nat) : Syntactic.Statement (.dbgTileReset t tile) :=
  fun h => tick_fits (test_left h)

theorem Syntactic.registerWrite (t offset width value : Nat) : Syntactic.Statement (.registerWrite t offset width value) :=
  fun h => tick_fits (test_left (test_left (test_left h)))

theorem Syntactic.muteLead (t half : Nat) : Syntactic.Statement (.muteLead t half) :=
  fun h => tick_fits (test_left h)

theorem Syntactic.muteTrail (t pin : Nat) : Syntactic.Statement (.muteTrail t pin) :=
  fun h => tick_fits (test_left h)

theorem Syntactic.ksynRelock (t : Nat) : Syntactic.Statement (.ksynRelock t) :=
  fun h => tick_fits h

theorem Syntactic.vinOverVoltageRelease (t vin : Nat) : Syntactic.Statement (.vinOverVoltageRelease t vin) :=
  fun h => tick_fits (test_left h)

theorem Syntactic.fwLoadStageDone (t : Nat) (verified : Bool) : Syntactic.Statement (.fwLoadStageDone t verified) :=
  fun h => tick_fits h

theorem Syntactic.chainCompletionArrival (t src seq : Nat) (c : RemoteCompletion) : Syntactic.Statement (.chainCompletionArrival t src seq c) :=
  fun h => tick_fits (test_left (test_left h))

theorem Syntactic.chainEventArrival (t src seq : Nat) (e : RemoteEvent) : Syntactic.Statement (.chainEventArrival t src seq e) :=
  fun h => tick_fits (test_left (test_left h))

theorem Syntactic.chainRecordArrival (t src : Nat) (r : RemoteRecord) : Syntactic.Statement (.chainRecordArrival t src r) :=
  fun h => tick_fits (test_left h)

theorem Syntactic.chainConfigArrival (t : Nat) (c : ChainConfig) : Syntactic.Statement (.chainConfigArrival t c) :=
  fun h => tick_fits h

theorem Syntactic.chainRouteUpdate (t : Nat) (r : RouteUpdate) : Syntactic.Statement (.chainRouteUpdate t r) :=
  fun h => tick_fits h

theorem Syntactic.chainEnumerationWalk (t addr chainId epoch : Nat) : Syntactic.Statement (.chainEnumerationWalk t addr chainId epoch) :=
  fun h => tick_fits (test_left (test_left (test_left h)))

theorem Syntactic.masterSecondsMarker (t sub : Nat) (delayNs : Nat) : Syntactic.Statement (.masterSecondsMarker t sub delayNs) :=
  fun h => tick_fits (test_left (test_left h))

theorem Syntactic.audioPortFrame (t : Nat) (f : PortFrame) : Syntactic.Statement (.audioPortFrame t f) :=
  fun h => tick_fits (test_left (test_left h))

end Sys2Proof.Laws
end

