-- ==== Sys2Proof/Laws/Records.lean ====
section
/-! SUPPORT. What filling, closing and staging a record leaves of the part: only flows, slot pairs, and what events touch, can change. -/

namespace Sys2Proof.Laws

open Sys2Proof.Machine

/-- `m'` is `m` but for its flows, its ports and what raising an event touches. -/
def RecordsOnly (m m' : Part) : Prop :=
  m' = { m with
    flows := m'.flows, ports := m'.ports, hif := m'.hif, host := m'.host, chain := m'.chain, oasis := m'.oasis }

theorem RecordsOnly.refl (m : Part) : RecordsOnly m m := rfl

theorem RecordsOnly.trans {a b c : Part} (h : RecordsOnly a b) (k : RecordsOnly b c) : RecordsOnly a c := by
  unfold RecordsOnly at *
  rw [k, h]

theorem RecordsOnly.of_raise {a b : Part} (s c : Nat) (p : List Field) (h : RecordsOnly a b) : RecordsOnly a (raise s c p b) := by
  obtain ⟨_, _, _, _, _, _, _, _, _, e⟩ := raise_frame s c p b
  refine h.trans ?_
  rw [e]
  rfl

theorem RecordsOnly.of_onFlow {a b : Part} (n : Nat) (f : Flow → Flow) (h : RecordsOnly a b) : RecordsOnly a (onFlow n f b) :=
  h.trans rfl

theorem RecordsOnly.service {a b : Part} (h : RecordsOnly a b) : b.service = a.service := by rw [h]
theorem RecordsOnly.ctxs {a b : Part} (h : RecordsOnly a b) : b.ctxs = a.ctxs := by rw [h]
theorem RecordsOnly.halves {a b : Part} (h : RecordsOnly a b) : b.halves = a.halves := by rw [h]
theorem RecordsOnly.tiles {a b : Part} (h : RecordsOnly a b) : b.tiles = a.tiles := by rw [h]
theorem RecordsOnly.clock {a b : Part} (h : RecordsOnly a b) : b.clock = a.clock := by rw [h]
theorem RecordsOnly.sched {a b : Part} (h : RecordsOnly a b) : b.sched = a.sched := by rw [h]
theorem RecordsOnly.sets {a b : Part} (h : RecordsOnly a b) : b.sets = a.sets := by rw [h]

theorem overflowEvent_records (n cause : Nat) (m : Part) : RecordsOnly m (overflowEvent n cause m) := by
  unfold overflowEvent
  split
  · exact .refl m
  · split
    · exact .of_raise _ _ _ (.of_onFlow _ _ (.refl m))
    · exact .refl m

theorem dropRecord_records (n cause length : Nat) (m : Part) : RecordsOnly m (dropRecord n cause length m) :=
  (RecordsOnly.of_onFlow _ _ (.refl m)).trans (overflowEvent_records _ _ _)

theorem countLate_records (n bytes : Nat) (m : Part) : RecordsOnly m (countLate n bytes m) :=
  (RecordsOnly.of_onFlow _ _ (.refl m)).trans (overflowEvent_records _ _ _)

theorem stageRecord_records (n : Nat) (o : OpenRecord) (m : Part) : RecordsOnly m (stageRecord n o m) := by
  unfold stageRecord
  split
  · exact .refl m
  · split
    · exact dropRecord_records _ _ _ _
    · split
      · exact dropRecord_records _ _ _ _
      · exact (RecordsOnly.of_onFlow _ _ (.refl m)).trans rfl

theorem closeRecord_records (n : Nat) (m : Part) : RecordsOnly m (closeRecord n m) := by
  unfold closeRecord
  split
  · exact .refl m
  · split
    · exact .refl m
    · dsimp only
      refine (RecordsOnly.of_onFlow n (fun f => { f with opened := none }) (.refl m)).trans ?_
      split
      · exact countLate_records _ _ _
      · refine RecordsOnly.trans ?_ (stageRecord_records _ _ _)
        split
        · exact countLate_records _ _ _
        · exact .refl _

theorem RecordsOnly.ite {p : Prop} [Decidable p] {a b c : Part} (h : RecordsOnly a b) (k : RecordsOnly a c) :
    RecordsOnly a (if p then b else c) := by
  split <;> assumption

theorem appendItem_records (n ht : Nat) (t : Int) (flags : Nat) (it : Item) (m : Part) :
    RecordsOnly m (appendItem n ht t flags it m) := by
  unfold appendItem
  split
  · exact .refl m
  · refine .ite (.refl m) ?_
    lift_lets
    intro full x o o' y
    have hx : RecordsOnly m x := .ite (closeRecord_records _ _) (.refl m)
    have hy : RecordsOnly m y := .of_onFlow _ _ hx
    exact .ite (hy.trans (closeRecord_records _ _)) hy

theorem appendSide_records (ht flags : Nat) (b : SideBody) (n : Nat) (m : Part) : RecordsOnly m (appendSide ht flags b n m) := by
  unfold appendSide
  split
  · exact .refl m
  · exact .of_onFlow _ _ (appendItem_records _ _ _ _ _ _)

theorem appendSides_records (ht flags : Nat) (b : SideBody) (l : List Nat) (m : Part) : RecordsOnly m (appendSides ht flags b l m) := by
  unfold appendSides
  induction l generalizing m with
  | nil => exact .refl m
  | cons n l ih => exact (appendSide_records ht flags b n m).trans (ih _)

theorem dbItem_records (b : SideBody) (m : Part) : RecordsOnly m (dbItem b m) := appendSides_records _ _ _ _ _

end Sys2Proof.Laws
end

