-- ==== Sys2Proof/Laws/SoundOps.lean ====
section
/-! SUPPORT. Each operation of Machine/Ops.lean keeps `Safety.Sound`: one lemma per operation, by the lemmas of the operations it
calls. -/

namespace Sys2Proof.Laws

open Sys2Proof Sys2Proof.Machine Sys2Proof.Safety

set_option linter.all false

variable {v : Fused} {m : Part}
theorem sound_of_eq1 {α : Type} {p : Part × α} {a : Part} {b : α} (e : p = (a, b)) (h : Sound v p.1) : Sound v a := by
  rw [e] at h; exact h
theorem sound_of_eq2 {α : Type} {p : α × Part} {a : α} {b : Part} (e : p = (a, b)) (h : Sound v p.2) : Sound v b := by
  rw [e] at h; exact h
def SoundOut (v : Fused) (o : Host.Outcome State Fault Refusal) : Prop := ∀ t, o = .next t → Sound v t.part
theorem soundOut_run {f : Part → Part} {s : State} (h : Sound v (f s.part)) : SoundOut v (s.run f) := by
  intro t e; cases e; exact h
theorem soundOut_runIf {b : Bool} {f : Part → Part} {s : State} (h : Sound v (f s.part)) : SoundOut v (s.runIf b f) := by
  intro t e; unfold State.runIf at e; split at e
  · exact soundOut_run h t e
  · cases e
theorem soundOut_stop {f : Fault} : SoundOut v (.fault f) := by
  intro t e; cases e
theorem sound_fst {α : Type} {a : Part} {b : α} (h : Sound v a) : Sound v (a, b).1 := h
theorem sound_ite {p : Prop} [Decidable p] {a b : Part} (ha : Sound v a) (hb : Sound v b) : Sound v (if p then a else b) := by
  split <;> assumption
theorem sound_foldl {α : Type} (l : List α) (g : Part → α → Part) (hg : ∀ a x, Sound v x → Sound v (g x a)) {m : Part}
    (h : Sound v m) : Sound v (l.foldl g m) := by
  induction l generalizing m with
  | nil => exact h
  | cons a l ih => exact ih (hg a m h)
theorem sound_elim {α : Type} (o : Option α) (g : α → Part) {m : Part} (h : Sound v m) (hg : ∀ a, Sound v (g a)) :
    Sound v (o.elim m g) := by
  cases o with
  | none => exact h
  | some a => exact hg a
theorem sound_advance (t : ℕ) {m : Part} (hm : Sound v m) : Sound v (advance t m) := by
  unfold advance
  repeat' first
    | (refine Sound.mk ?_ ?_ ?_ ?_ <;> cases_type* Sound <;> first | assumption | (simp_all [Arrays, EventsSound]; done) | (simp_all [Arrays, EventsSound]; omega))

theorem sound_onTick (t : ℕ) (f : Part → Part) {m : Part} (hf : ∀ m, Sound v m → Sound v (f m)) (hm : Sound v m) : Sound v (onTick t f m) := by
  unfold onTick
  repeat' first
    | (with_reducible apply sound_advance)
    | (with_reducible apply_assumption -exfalso -symm)

theorem sound_onHalf (h : ℕ) (f : Half → Half) {m : Part} (hm : Sound v m) : Sound v (onHalf h f m) := by
  unfold onHalf
  repeat' first
    | (refine Sound.mk ?_ ?_ ?_ ?_ <;> cases_type* Sound <;> first | assumption | (simp_all [Arrays, EventsSound]; done) | (simp_all [Arrays, EventsSound]; omega))

theorem sound_onTile (t : ℕ) (f : Tile → Tile) {m : Part} (hm : Sound v m) : Sound v (onTile t f m) := by
  unfold onTile
  repeat' first
    | (refine Sound.mk ?_ ?_ ?_ ?_ <;> cases_type* Sound <;> first | assumption | (simp_all [Arrays, EventsSound]; done) | (simp_all [Arrays, EventsSound]; omega))

theorem sound_onCtx (c : ℕ) (f : Ctx → Ctx) {m : Part} (hm : Sound v m) : Sound v (onCtx c f m) := by
  unfold onCtx
  repeat' first
    | (refine Sound.mk ?_ ?_ ?_ ?_ <;> cases_type* Sound <;> first | assumption | (simp_all [Arrays, EventsSound]; done) | (simp_all [Arrays, EventsSound]; omega))

theorem sound_writeHost (addr : ℕ) (bytes : List Byte) {m : Part} (hm : Sound v m) : Sound v (writeHost addr bytes m) := by
  unfold writeHost
  repeat' first
    | (refine Sound.mk ?_ ?_ ?_ ?_ <;> cases_type* Sound <;> first | assumption | (simp_all [Arrays, EventsSound]; done) | (simp_all [Arrays, EventsSound]; omega))

theorem sound_writeShadow (off : ℕ) (size : ℕ) (x2 : ℕ) {m : Part} (hm : Sound v m) : Sound v (writeShadow off size x2 m) := by
  unfold writeShadow
  repeat' first
    | with_reducible assumption
    | (with_reducible apply sound_writeHost)

theorem sound_setVector (x0 : ℕ) (x : Vector) {m : Part} (hm : Sound v m) : Sound v (setVector x0 x m) := by
  unfold setVector
  repeat' first
    | (refine Sound.mk ?_ ?_ ?_ ?_ <;> cases_type* Sound <;> first | assumption | (simp_all [Arrays, EventsSound]; done) | (simp_all [Arrays, EventsSound]; omega))

theorem sound_sendMsix (x0 : ℕ) {m : Part} (hm : Sound v m) : Sound v (sendMsix x0 m) := by
  unfold sendMsix
  repeat' first
    | (refine Sound.mk ?_ ?_ ?_ ?_ <;> cases_type* Sound <;> first | assumption | (simp_all [Arrays, EventsSound]; done) | (simp_all [Arrays, EventsSound]; omega))

theorem sound_sendVector (x0 : ℕ) {m : Part} (hm : Sound v m) : Sound v (sendVector x0 m) := by
  unfold sendVector
  repeat' first
    | with_reducible assumption
    | ((try lift_lets -underBinder); intro x; first
        | (refine (fun hx : Sound v x => ?_) ?_; (on_goal 1 => clear_value x); (on_goal 2 => (simp -zeta only [x]; clear x)))
        | subst x)
    | (with_reducible apply sound_setVector)
    | (with_reducible apply sound_sendMsix)
    | split

theorem sound_trigger (x0 : ℕ) {m : Part} (hm : Sound v m) : Sound v (trigger x0 m) := by
  unfold trigger
  repeat' first
    | with_reducible assumption
    | ((try lift_lets -underBinder); intro x; first
        | (refine (fun hx : Sound v x => ?_) ?_; (on_goal 1 => clear_value x); (on_goal 2 => (simp -zeta only [x]; clear x)))
        | subst x)
    | (with_reducible apply sound_setVector)
    | (with_reducible apply sound_sendVector)
    | split

theorem sound_send (dest : ℕ) (item : TransferItem) {m : Part} (hm : Sound v m) : Sound v (send dest item m) := by
  unfold send
  repeat' first
    | (refine Sound.mk ?_ ?_ ?_ ?_ <;> cases_type* Sound <;> first | assumption | (simp_all [Arrays, EventsSound]; done) | (simp_all [Arrays, EventsSound]; omega))

theorem sound_writeEvent (e : Event) (vec : ℕ) {m : Part} (hm : Sound v m) : Sound v (writeEvent e vec m) := by
  unfold writeEvent
  repeat' first
    | (with_reducible apply sound_trigger)
    | (refine Sound.mk ?_ ?_ ?_ ?_ <;> cases_type* Sound <;> first | assumption | (simp_all [Arrays, EventsSound]; done) | (simp_all [Arrays, EventsSound]; omega))

theorem sound_postEvent (e : Event) (vec : ℕ) {m : Part} (hm : Sound v m) : Sound v (postEvent e vec m) := by
  unfold postEvent
  repeat' first
    | (with_reducible apply sound_writeEvent)
    | split
    | (refine Sound.mk ?_ ?_ ?_ ?_ <;> cases_type* Sound <;> first | assumption | (simp_all [Arrays, EventsSound]; done) | (simp_all [Arrays, EventsSound]; omega))

theorem sound_logEvent (e : Event) {m : Part} (hm : Sound v m) : Sound v (logEvent e m) := by
  unfold logEvent
  repeat' first
    | split
    | (refine Sound.mk ?_ ?_ ?_ ?_ <;> cases_type* Sound <;> first | assumption | (simp_all [Arrays, EventsSound]; done) | (simp_all [Arrays, EventsSound]; omega))

theorem sound_raiseAt (stamp : ℕ) (source : ℕ) (code : ℕ) (payload : List Field) {m : Part} (hm : Sound v m) : Sound v (raiseAt stamp source code payload m) := by
  unfold raiseAt
  repeat' first
    | ((try lift_lets -underBinder); intro x; first
        | (refine (fun hx : Sound v x => ?_) ?_; (on_goal 1 => clear_value x); (on_goal 2 => (simp -zeta only [x]; clear x)))
        | subst x)
    | (with_reducible apply sound_logEvent)
    | (with_reducible apply sound_postEvent)
    | split
    | (refine Sound.mk ?_ ?_ ?_ ?_ <;> cases_type* Sound <;> first | assumption | (simp_all [Arrays, EventsSound]; done) | (simp_all [Arrays, EventsSound]; omega))

theorem sound_raise (source : ℕ) (code : ℕ) (payload : List Field) {m : Part} (hm : Sound v m) : Sound v (raise source code payload m) := by
  unfold raise
  repeat' first
    | with_reducible assumption
    | (with_reducible apply sound_raiseAt)

theorem sound_drainEvents (x0 : ℕ) {m : Part} : Sound v m → Sound v (drainEvents x0 m) := by
  fun_induction drainEvents x0 m <;> intros
  all_goals repeat' first
    | (with_reducible apply sound_writeEvent)
    | (with_reducible apply sound_raise)
    | (with_reducible apply_assumption -exfalso -symm)
    | (refine Sound.mk ?_ ?_ ?_ ?_ <;> cases_type* Sound <;> first | assumption | (simp_all [Arrays, EventsSound]; done) | (simp_all [Arrays, EventsSound]; omega))

theorem sound_onCpl (n : ℕ) (f : CplRing → CplRing) {m : Part} (hm : Sound v m) : Sound v (onCpl n f m) := by
  unfold onCpl
  repeat' first
    | (refine Sound.mk ?_ ?_ ?_ ?_ <;> cases_type* Sound <;> first | assumption | (simp_all [Arrays, EventsSound]; done) | (simp_all [Arrays, EventsSound]; omega))

theorem sound_writeCompletion (c : Completion) {m : Part} (hm : Sound v m) : Sound v (writeCompletion c m) := by
  unfold writeCompletion
  repeat' first
    | ((try lift_lets -underBinder); intro x; first
        | (refine (fun hx : Sound v x => ?_) ?_; (on_goal 1 => clear_value x); (on_goal 2 => (simp -zeta only [x]; clear x)))
        | subst x)
    | (with_reducible apply sound_onCpl)
    | (with_reducible apply sound_trigger)
    | (with_reducible refine sound_elim _ _ ?_ (fun a => ?_); (on_goal 2 => beta_reduce))
    | (refine Sound.mk ?_ ?_ ?_ ?_ <;> cases_type* Sound <;> first | assumption | (simp_all [Arrays, EventsSound]; done) | (simp_all [Arrays, EventsSound]; omega))

theorem sound_postCompletion (c : Completion) {m : Part} (hm : Sound v m) : Sound v (postCompletion c m) := by
  unfold postCompletion
  repeat' first
    | with_reducible assumption
    | ((try lift_lets -underBinder); intro x; first
        | (refine (fun hx : Sound v x => ?_) ?_; (on_goal 1 => clear_value x); (on_goal 2 => (simp -zeta only [x]; clear x)))
        | subst x)
    | (with_reducible apply sound_writeCompletion)
    | (with_reducible apply sound_onCpl)
    | split

theorem sound_drainCompletions (n : ℕ) (x1 : ℕ) {m : Part} : Sound v m → Sound v (drainCompletions n x1 m) := by
  fun_induction drainCompletions n x1 m <;> intros
  all_goals repeat' first
    | (with_reducible apply sound_writeCompletion)
    | (with_reducible apply sound_onCpl)
    | (with_reducible apply_assumption -exfalso -symm)

theorem sound_finish (d : Desc) (origin : Origin) (opcode : ℕ) (r : Reply) {m : Part} (hm : Sound v m) : Sound v (finish d origin opcode r m) := by
  unfold finish
  repeat' first
    | with_reducible assumption
    | (with_reducible apply sound_send)
    | (with_reducible apply sound_postCompletion)
    | split

theorem sound_enqueue {due : Nat} {late : Bool} {d : Desc} {origin : Origin} {c : HostCmd} {m : Part} (h : Sound v m)
    (hq : ¬ 1024 ≤ m.sched.queue.length) : Sound v (enqueue due late d origin c m) := by
  obtain ⟨h1, h2, h3, h4⟩ := h
  unfold enqueue
  dsimp only
  split
  · apply sound_raise
    refine ⟨h1, h2, ?_, h4⟩
    simp_all [SchedSound]; omega
  · rename_i hc
    refine ⟨h1, h2, ?_, h4⟩
    simp_all [SchedSound]
    cases hh : m.sched.high <;> simp_all <;> omega

theorem sound_keepQueue {p : Action → Bool} {m : Part} (h : Sound v m) : Sound v (keepQueue p m) := by
  obtain ⟨h1, h2, h3, h4⟩ := h
  refine ⟨h1, h2, ?_, h4⟩
  have hl := List.length_filter_le p m.sched.queue
  simp only [SchedSound, keepQueue] at h3 ⊢
  cases hh : m.sched.high <;> simp_all <;> omega

theorem sound_finishAll (status : ℕ) (x1 : List Action) {m : Part} : Sound v m → Sound v (finishAll status x1 m) := by
  fun_induction finishAll status x1 m <;> intros
  all_goals repeat' first
    | (with_reducible apply sound_finish)
    | (with_reducible apply_assumption -exfalso -symm)

theorem sound_withdraw (p : Action → Bool) (status : ℕ) {m : Part} (hm : Sound v m) : Sound v (withdraw p status m) := by
  unfold withdraw
  repeat' first
    | with_reducible assumption
    | (with_reducible apply sound_finishAll)
    | (with_reducible apply sound_keepQueue)

theorem sound_performNow (d : Desc) (origin : Origin) (c : HostCmd) (perform : Perform) {m : Part} (hperform : ∀ d o m, Sound v m → Sound v (perform d o m).1) (hm : Sound v m) : Sound v (performNow d origin c perform m) := by
  unfold performNow
  repeat' first
    | (with_reducible apply sound_finish)
    | (with_reducible apply_assumption -exfalso -symm)
    | split
    | (refine sound_of_eq1 (by assumption) ?_)

theorem sound_acceptHere (d : Desc) (origin : Origin) (late : Bool) (c : HostCmd) (own : ℕ) (perform : Perform) {m : Part} (hperform : ∀ d o m, Sound v m → Sound v (perform d o m).1) (hm : Sound v m) : Sound v (acceptHere d origin late c own perform m) := by
  unfold acceptHere
  repeat' first
    | with_reducible assumption
    | ((try lift_lets -underBinder); intro x; first
        | (refine (fun hx : Sound v x => ?_) ?_; (on_goal 1 => clear_value x); (on_goal 2 => (simp -zeta only [x]; clear x)))
        | subst x)
    | (with_reducible apply sound_finish)
    | (with_reducible apply sound_enqueue)
    | (with_reducible apply sound_performNow)
    | split

theorem sound_forward (d : Desc) (c : HostCmd) {m : Part} (hm : Sound v m) : Sound v (forward d c m) := by
  unfold forward
  repeat' first
    | (refine Sound.mk ?_ ?_ ?_ ?_ <;> cases_type* Sound <;> first | assumption | (simp_all [Arrays, EventsSound]; done) | (simp_all [Arrays, EventsSound]; omega))

theorem sound_readDesc {d : Desc} {m m' : Part} (h : Sound v m) (e : readDesc d m = some m') : Sound v m' := by
  unfold readDesc at e
  split at e
  · cases e
  · split at e
    · injection e with e
      subst e
      refine sound_writeShadow _ _ _ ⟨h.1, ?_, h.3, h.4⟩
      have := h.2
      simp_all [Arrays]
    · cases e

theorem sound_accept {d : Desc} {c : HostCmd} {own : Part → Nat} {perform : Perform} {m : Part}
    (hp : ∀ d o m, Sound v m → Sound v (perform d o m).1) (h : Sound v m) : Sound v (accept d c own perform m) := by
  unfold accept
  split
  · exact h
  · rename_i e
    have := sound_readDesc h e
    split
    · exact sound_finish _ _ _ _ this
    · split
      · exact sound_finish _ _ _ _ this
      · split
        · exact sound_acceptHere _ _ _ _ _ _ hp this
        · split
          · exact sound_forward _ _ this
          · exact sound_finish _ _ _ _ this

theorem sound_fresh {m : Part} (hm : Sound v m) : Sound v (fresh m).2 := by
  unfold fresh
  repeat' first
    | (refine Sound.mk ?_ ?_ ?_ ?_ <;> cases_type* Sound <;> first | assumption | (simp_all [Arrays, EventsSound]; done) | (simp_all [Arrays, EventsSound]; omega))

end Sys2Proof.Laws
end

