-- ==== Sys2Proof/Laws/SoundRecords.lean ====
section
/-! SUPPORT. Each operation of Machine/Records.lean keeps `Safety.Sound`: one lemma per operation, by the lemmas of the operations it
calls. -/

namespace Sys2Proof.Laws

open Sys2Proof Sys2Proof.Machine Sys2Proof.Safety

set_option linter.all false

variable {v : Fused} {m : Part}
theorem sound_onFlow (f : ℕ) (g : Flow → Flow) {m : Part} (hm : Sound v m) : Sound v (onFlow f g m) := by
  unfold onFlow
  repeat' first
    | (refine Sound.mk ?_ ?_ ?_ ?_ <;> cases_type* Sound <;> first | assumption | (simp_all [Arrays, EventsSound]; done) | (simp_all [Arrays, EventsSound]; omega))

theorem sound_overflowEvent (n : ℕ) (cause : ℕ) {m : Part} (hm : Sound v m) : Sound v (overflowEvent n cause m) := by
  unfold overflowEvent
  repeat' first
    | with_reducible assumption
    | (with_reducible apply sound_raise)
    | (with_reducible apply sound_onFlow)
    | split

theorem sound_dropRecord (n : ℕ) (cause : ℕ) (length : ℕ) {m : Part} (hm : Sound v m) : Sound v (dropRecord n cause length m) := by
  unfold dropRecord
  repeat' first
    | with_reducible assumption
    | (with_reducible apply sound_overflowEvent)
    | (with_reducible apply sound_onFlow)

theorem sound_countLate (n : ℕ) (bytes : ℕ) {m : Part} (hm : Sound v m) : Sound v (countLate n bytes m) := by
  unfold countLate
  repeat' first
    | with_reducible assumption
    | (with_reducible apply sound_overflowEvent)
    | (with_reducible apply sound_onFlow)

theorem sound_fixDelay (n : ℕ) (stamp : ℤ) {m : Part} (hm : Sound v m) : Sound v (fixDelay n stamp m) := by
  unfold fixDelay
  repeat' first
    | (refine Sound.mk ?_ ?_ ?_ ?_ <;> cases_type* Sound <;> first | assumption | (simp_all [Arrays, EventsSound]; done) | (simp_all [Arrays, EventsSound]; omega))

theorem sound_stageRecord (n : ℕ) (o : OpenRecord) {m : Part} (hm : Sound v m) : Sound v (stageRecord n o m) := by
  unfold stageRecord
  repeat' first
    | with_reducible assumption
    | (with_reducible apply sound_dropRecord)
    | (with_reducible apply sound_fixDelay)
    | (with_reducible apply sound_onFlow)
    | split

theorem sound_closeRecord (n : ℕ) {m : Part} (hm : Sound v m) : Sound v (closeRecord n m) := by
  unfold closeRecord
  repeat' first
    | with_reducible assumption
    | ((try lift_lets -underBinder); intro x; first
        | (refine (fun hx : Sound v x => ?_) ?_; (on_goal 1 => clear_value x); (on_goal 2 => (simp -zeta only [x]; clear x)))
        | subst x)
    | (with_reducible apply sound_onFlow)
    | (with_reducible apply sound_countLate)
    | (with_reducible apply sound_stageRecord)
    | split

theorem sound_breakFlow (n : ℕ) {m : Part} (hm : Sound v m) : Sound v (breakFlow n m) := by
  unfold breakFlow
  repeat' first
    | with_reducible assumption
    | (with_reducible apply sound_onFlow)
    | (with_reducible apply sound_closeRecord)

theorem sound_breakFlows (x0 : List ℕ) {m : Part} : Sound v m → Sound v (breakFlows x0 m) := by
  fun_induction breakFlows x0 m <;> intros
  all_goals repeat' first
    | (with_reducible apply sound_breakFlow)
    | (with_reducible apply_assumption -exfalso -symm)

theorem sound_appendFixed {n fuel : Nat} {c : Content} {m : Part} (h : Sound v m) : Sound v (appendFixed n fuel c m) := by
  induction fuel generalizing c m with
  | zero => exact h
  | succ fuel ih =>
    unfold appendFixed
    split
    · exact h
    · split
      · exact h
      · dsimp only
        apply ih
        split
        · exact sound_closeRecord _ (sound_onFlow _ _ h)
        · exact sound_onFlow _ _ h

theorem sound_appendItem (n : ℕ) (ht : ℕ) (t : ℤ) (flags : ℕ) (it : Item) {m : Part} (hm : Sound v m) : Sound v (appendItem n ht t flags it m) := by
  unfold appendItem
  repeat' first
    | with_reducible assumption
    | ((try lift_lets -underBinder); intro x; first
        | (refine (fun hx : Sound v x => ?_) ?_; (on_goal 1 => clear_value x); (on_goal 2 => (simp -zeta only [x]; clear x)))
        | subst x)
    | (with_reducible apply sound_closeRecord)
    | (with_reducible apply sound_onFlow)
    | split

theorem sound_appendItems (ht : ℕ) (t : ℤ) (flags : ℕ) (it : Item) (x4 : List ℕ) {m : Part} : Sound v m → Sound v (appendItems ht t flags it x4 m) := by
  fun_induction appendItems ht t flags it x4 m <;> intros
  all_goals repeat' first
    | (with_reducible apply sound_appendItem)
    | (with_reducible apply_assumption -exfalso -symm)

theorem sound_breakCtx (c : ℕ) {m : Part} (hm : Sound v m) : Sound v (breakCtx c m) := by
  unfold breakCtx
  repeat' first
    | with_reducible assumption
    | (with_reducible apply sound_breakFlows)

theorem sound_closeFlows (x0 : List ℕ) {m : Part} : Sound v m → Sound v (closeFlows x0 m) := by
  fun_induction closeFlows x0 m <;> intros
  all_goals repeat' first
    | (with_reducible apply sound_closeRecord)
    | (with_reducible apply_assumption -exfalso -symm)

end Sys2Proof.Laws
end

