-- ==== Sys2Proof/Laws/SoundMembers.lean ====
section
/-! SUPPORT. Each operation of Machine/Members.lean keeps `Safety.Sound`: one lemma per operation, by the lemmas of the operations it
calls. -/

namespace Sys2Proof.Laws

open Sys2Proof Sys2Proof.Machine Sys2Proof.Safety

set_option linter.all false

variable {v : Fused} {m : Part}
theorem sound_memberEvent (set : ℕ) (mem : Member) (new : MemberState) (cause : LinkCause) {m : Part} (hm : Sound v m) : Sound v (memberEvent set mem new cause m) := by
  unfold memberEvent
  repeat' first
    | with_reducible assumption
    | (with_reducible apply sound_raise)

theorem sound_onSet (n : ℕ) (f : SourceSet → SourceSet) {m : Part} (hm : Sound v m) : Sound v (onSet n f m) := by
  unfold onSet
  repeat' first
    | (refine Sound.mk ?_ ?_ ?_ ?_ <;> cases_type* Sound <;> first | assumption | (simp_all [Arrays, EventsSound]; done) | (simp_all [Arrays, EventsSound]; omega))

theorem sound_onMember (n : ℕ) (i : ℕ) (f : Member → Member) {m : Part} (hm : Sound v m) : Sound v (onMember n i f m) := by
  unfold onMember
  repeat' first
    | with_reducible assumption
    | (with_reducible apply sound_onSet)

theorem sound_moveMember (n : ℕ) (i : ℕ) (new : MemberState) (cause : LinkCause) {m : Part} (hm : Sound v m) : Sound v (moveMember n i new cause m) := by
  unfold moveMember
  repeat' first
    | with_reducible assumption
    | (with_reducible apply sound_onMember)
    | (with_reducible apply sound_memberEvent)
    | split

theorem sound_joinReference (n : ℕ) {m : Part} (hm : Sound v m) : Sound v (joinReference n m) := by
  unfold joinReference
  repeat' first
    | with_reducible assumption
    | (with_reducible apply sound_moveMember)
    | split

theorem sound_takeReference (n : ℕ) (i : ℕ) {m : Part} (hm : Sound v m) : Sound v (takeReference n i m) := by
  unfold takeReference
  repeat' first
    | with_reducible assumption
    | (with_reducible apply sound_joinReference)
    | (with_reducible apply sound_onSet)

theorem sound_passReference (n : ℕ) {m : Part} (hm : Sound v m) : Sound v (passReference n m) := by
  unfold passReference
  repeat' first
    | with_reducible assumption
    | (with_reducible apply sound_takeReference)
    | split

theorem sound_rebranch (n : ℕ) (i : ℕ) {m : Part} (hm : Sound v m) : Sound v (rebranch n i m) := by
  unfold rebranch
  repeat' first
    | with_reducible assumption
    | ((try lift_lets -underBinder); intro x; first
        | (refine (fun hx : Sound v x => ?_) ?_; (on_goal 1 => clear_value x); (on_goal 2 => (simp -zeta only [x]; clear x)))
        | subst x)
    | (with_reducible apply sound_onSet)
    | split

theorem sound_refreshMember (n : ℕ) (i : ℕ) {m : Part} (hm : Sound v m) : Sound v (refreshMember n i m) := by
  unfold refreshMember
  repeat' first
    | with_reducible assumption
    | (with_reducible apply sound_moveMember)
    | (with_reducible apply sound_rebranch)
    | split

theorem sound_refreshSet (n : ℕ) {m : Part} (hm : Sound v m) : Sound v (refreshSet n m) := by
  unfold refreshSet
  repeat' first
    | with_reducible assumption
    | (with_reducible apply sound_passReference)
    | (with_reducible apply sound_refreshMember)
    | (with_reducible refine sound_foldl _ _ (fun a y hy => ?_) ?_; (on_goal 1 => beta_reduce))

theorem sound_refreshCtx (c : ℕ) {m : Part} (hm : Sound v m) : Sound v (refreshCtx c m) := by
  unfold refreshCtx
  repeat' first
    | with_reducible assumption
    | (with_reducible apply sound_refreshSet)
    | (with_reducible refine sound_foldl _ _ (fun a y hy => ?_) ?_; (on_goal 1 => beta_reduce))

theorem sound_endSet (n : ℕ) {m : Part} (hm : Sound v m) : Sound v (endSet n m) := by
  unfold endSet
  repeat' first
    | (refine Sound.mk ?_ ?_ ?_ ?_ <;> cases_type* Sound <;> first | assumption | (simp_all [Arrays, EventsSound]; done) | (simp_all [Arrays, EventsSound]; omega))

theorem sound_removeMember (n : ℕ) (i : ℕ) {m : Part} (hm : Sound v m) : Sound v (removeMember n i m) := by
  unfold removeMember
  repeat' first
    | with_reducible assumption
    | ((try lift_lets -underBinder); intro x; first
        | (refine (fun hx : Sound v x => ?_) ?_; (on_goal 1 => clear_value x); (on_goal 2 => (simp -zeta only [x]; clear x)))
        | subst x)
    | (with_reducible apply sound_memberEvent)
    | (with_reducible apply sound_onSet)
    | (with_reducible apply sound_takeReference)
    | (with_reducible apply sound_passReference)
    | split

theorem sound_dropFromSet (c : ℕ) (n : ℕ) {m : Part} (hm : Sound v m) : Sound v (dropFromSet c n m) := by
  unfold dropFromSet
  repeat' first
    | with_reducible assumption
    | (with_reducible apply sound_raise)
    | (with_reducible apply sound_endSet)
    | (with_reducible apply sound_removeMember)
    | (with_reducible refine sound_foldl _ _ (fun a y hy => ?_) ?_; (on_goal 1 => beta_reduce))
    | split

theorem sound_dropFromSets (c : ℕ) {m : Part} (hm : Sound v m) : Sound v (dropFromSets c m) := by
  unfold dropFromSets
  repeat' first
    | with_reducible assumption
    | (with_reducible apply sound_dropFromSet)
    | (with_reducible refine sound_foldl _ _ (fun a y hy => ?_) ?_; (on_goal 1 => beta_reduce))

end Sys2Proof.Laws
end

