-- ==== Sys2Proof/Laws/SoundOutput.lean ====
section
/-! SUPPORT. Each operation of Machine/Output.lean keeps `Safety.Sound`: one lemma per operation, by the lemmas of the operations it
calls. -/

namespace Sys2Proof.Laws

open Sys2Proof Sys2Proof.Machine Sys2Proof.Safety

set_option linter.all false

variable {v : Fused} {m : Part}
theorem sound_iqSpan (n : ℕ) (x : Ctx) (lo : ℕ) (hi : ℕ) (flags : ℕ) (blank : Bool) {m : Part} (hm : Sound v m) : Sound v (iqSpan n x lo hi flags blank m) := by
  unfold iqSpan
  repeat' first
    | with_reducible assumption
    | (with_reducible apply sound_appendFixed)

theorem sound_iqSpans (n : ℕ) (x : Ctx) (blank : Bool) (lo : ℕ) (hi : ℕ) (x5 : List ℕ) {m : Part} : Sound v m → Sound v (iqSpans n x blank lo hi x5 m) := by
  fun_induction iqSpans n x blank lo hi x5 m <;> intros
  all_goals repeat' first
    | (with_reducible apply sound_iqSpan)
    | (with_reducible apply_assumption -exfalso -symm)

theorem sound_catchIq (hi : ℕ) (n : ℕ) (x : Ctx) {m : Part} (hm : Sound v m) : Sound v (catchIq hi n x m) := by
  unfold catchIq
  repeat' first
    | with_reducible assumption
    | (with_reducible apply sound_iqSpans)
    | (with_reducible apply sound_onFlow)
    | split

theorem sound_pcmSpan (n : ℕ) (g : PcmGrid) (words : ℕ → ℕ → ℕ → List ℤ) (silent : Bool) (lo : ℕ) (hi : ℕ) (flags : ℕ) {m : Part} (hm : Sound v m) : Sound v (pcmSpan n g words silent lo hi flags m) := by
  unfold pcmSpan
  repeat' first
    | with_reducible assumption
    | (with_reducible apply sound_appendFixed)

theorem sound_pcmSpans (n : ℕ) (g : PcmGrid) (words : ℕ → ℕ → ℕ → List ℤ) (silent : ℕ → Bool) (flags : ℕ → ℕ) (lo : ℕ) (hi : ℕ) (x7 : List ℕ) {m : Part} : Sound v m → Sound v (pcmSpans n g words silent flags lo hi x7 m) := by
  fun_induction pcmSpans n g words silent flags lo hi x7 m <;> intros
  all_goals repeat' first
    | (with_reducible apply sound_pcmSpan)
    | (with_reducible apply_assumption -exfalso -symm)

theorem sound_noteSet (n : ℕ) {m : Part} (hm : Sound v m) : Sound v (noteSet n m) := by
  unfold noteSet
  repeat' first
    | with_reducible assumption
    | (with_reducible apply sound_onSet)

theorem sound_catchPcm (c : ℕ) (x : Ctx) (hi : ℕ) (n : ℕ) {m : Part} (hm : Sound v m) : Sound v (catchPcm c x hi n m) := by
  unfold catchPcm
  repeat' first
    | with_reducible assumption
    | (with_reducible apply sound_onFlow)
    | (with_reducible apply sound_pcmSpans)
    | split

theorem sound_catchPcmAll (c : ℕ) (x : Ctx) (hi : ℕ) (x3 : List ℕ) {m : Part} : Sound v m → Sound v (catchPcmAll c x hi x3 m) := by
  fun_induction catchPcmAll c x hi x3 m <;> intros
  all_goals repeat' first
    | (with_reducible apply sound_catchPcm)
    | (with_reducible apply_assumption -exfalso -symm)

theorem sound_catchAll (hi : ℕ) (x : Ctx) (x2 : List ℕ) {m : Part} : Sound v m → Sound v (catchAll hi x x2 m) := by
  fun_induction catchAll hi x x2 m <;> intros
  all_goals repeat' first
    | (with_reducible apply sound_catchIq)
    | (with_reducible apply_assumption -exfalso -symm)

theorem sound_catchTo (c : ℕ) (hi : ℕ) (iq : Ctx → Part → ℕ) {m : Part} (hm : Sound v m) : Sound v (catchTo c hi iq m) := by
  unfold catchTo
  repeat' first
    | with_reducible assumption
    | (with_reducible apply sound_catchAll)
    | (with_reducible apply sound_catchPcmAll)
    | split

theorem sound_noteSets (c : ℕ) {m : Part} (hm : Sound v m) : Sound v (noteSets c m) := by
  unfold noteSets
  repeat' first
    | with_reducible assumption
    | (with_reducible apply sound_noteSet)
    | (with_reducible refine sound_foldl _ _ (fun a y hy => ?_) ?_; (on_goal 1 => beta_reduce))

theorem sound_catchUp (c : ℕ) {m : Part} (hm : Sound v m) : Sound v (catchUp c m) := by
  unfold catchUp
  repeat' first
    | with_reducible assumption
    | (with_reducible apply sound_catchTo)
    | (with_reducible apply sound_noteSets)

theorem sound_flushUp (c : ℕ) {m : Part} (hm : Sound v m) : Sound v (flushUp c m) := by
  unfold flushUp
  repeat' first
    | with_reducible assumption
    | (with_reducible apply sound_catchTo)
    | (with_reducible apply sound_noteSets)

theorem sound_blockPcm (c : ℕ) {m : Part} (hm : Sound v m) : Sound v (blockPcm c m) := by
  unfold blockPcm
  repeat' first
    | with_reducible assumption
    | (with_reducible apply sound_catchPcmAll)
    | (with_reducible apply sound_onCtx)
    | split

theorem sound_fadeOut (c : ℕ) {m : Part} (hm : Sound v m) : Sound v (fadeOut c m) := by
  unfold fadeOut
  repeat' first
    | with_reducible assumption
    | (with_reducible apply sound_onCtx)

theorem sound_selSpan (c : ℕ) (sel : ℕ) (x : Ctx) (own : ℕ) (silent : ℕ → Bool) (words : ℕ → ℕ → ℕ → List ℤ) (lo : ℕ) (hi : ℕ) (shift : ℤ) (pts : List ℕ) (n : ℕ) {m : Part} (hm : Sound v m) : Sound v (selSpan c sel x own silent words lo hi shift pts n m) := by
  unfold selSpan
  repeat' first
    | with_reducible assumption
    | (with_reducible apply sound_onFlow)
    | (with_reducible apply sound_pcmSpans)

theorem sound_selFill (c : ℕ) (sel : ℕ) (x : Ctx) (own : ℕ) (silent : Bool) (hi : ℕ) (n : ℕ) {m : Part} (hm : Sound v m) : Sound v (selFill c sel x own silent hi n m) := by
  unfold selFill
  repeat' first
    | with_reducible assumption
    | (with_reducible apply sound_selSpan)
    | split

theorem sound_selUnit (c : ℕ) (sel : ℕ) (x : Ctx) (frame : ℕ) (own : ℕ) (first : Bool) (w : UnitFade) (pcm : List ℤ) (frames : ℕ) (at_ : ℕ) (n : ℕ) {m : Part} (hm : Sound v m) : Sound v (selUnit c sel x frame own first w pcm frames at_ n m) := by
  unfold selUnit
  repeat' first
    | with_reducible assumption
    | ((try lift_lets -underBinder); intro x; first
        | (refine (fun hx : Sound v x => ?_) ?_; (on_goal 1 => clear_value x); (on_goal 2 => (simp -zeta only [x]; clear x)))
        | subst x)
    | (with_reducible apply sound_selSpan)
    | split

theorem sound_selFillAll (c : ℕ) (sel : ℕ) (x : Ctx) (own : ℕ) (silent : Bool) (hi : ℕ) {m : Part} (hm : Sound v m) : Sound v (selFillAll c sel x own silent hi m) := by
  unfold selFillAll
  repeat' first
    | with_reducible assumption
    | (with_reducible apply sound_selFill)
    | (with_reducible refine sound_foldl _ _ (fun a y hy => ?_) ?_; (on_goal 1 => beta_reduce))

theorem sound_selUnitAll (c : ℕ) (sel : ℕ) (x : Ctx) (frame : ℕ) (own : ℕ) (first : Bool) (w : UnitFade) (pcm : List ℤ) (frames : ℕ) (at_ : ℕ) {m : Part} (hm : Sound v m) : Sound v (selUnitAll c sel x frame own first w pcm frames at_ m) := by
  unfold selUnitAll
  repeat' first
    | with_reducible assumption
    | (with_reducible apply sound_selUnit)
    | (with_reducible refine sound_foldl _ _ (fun a y hy => ?_) ?_; (on_goal 1 => beta_reduce))

end Sys2Proof.Laws
end

