-- ==== Sys2Proof/Laws/SoundLifeCycle.lean ====
section
/-! SUPPORT. Each operation of Machine/LifeCycle.lean keeps `Safety.Sound`: one lemma per operation, by the lemmas of the operations it
calls. -/

namespace Sys2Proof.Laws

open Sys2Proof Sys2Proof.Machine Sys2Proof.Safety

set_option linter.all false

variable {v : Fused} {m : Part}
theorem sound_settlePair (c : ℕ) {m : Part} (hm : Sound v m) : Sound v (settlePair c m) := by
  unfold settlePair
  repeat' first
    | with_reducible assumption
    | (with_reducible apply sound_onCtx)

theorem sound_pilotEvent (c : ℕ) (locked : Bool) {m : Part} (hm : Sound v m) : Sound v (pilotEvent c locked m) := by
  unfold pilotEvent
  repeat' first
    | with_reducible assumption
    | (with_reducible apply sound_raise)

theorem sound_notePilot (c : ℕ) (before : Pilot) {m : Part} (hm : Sound v m) : Sound v (notePilot c before m) := by
  unfold notePilot
  repeat' first
    | with_reducible assumption
    | ((try lift_lets -underBinder); intro x; first
        | (refine (fun hx : Sound v x => ?_) ?_; (on_goal 1 => clear_value x); (on_goal 2 => (simp -zeta only [x]; clear x)))
        | subst x)
    | (with_reducible apply sound_pilotEvent)
    | split

theorem sound_changeCtx (c : ℕ) (cause : ℕ) (f : Ctx → Ctx) {m : Part} (hm : Sound v m) : Sound v (changeCtx c cause f m) := by
  unfold changeCtx
  repeat' first
    | with_reducible assumption
    | ((try lift_lets -underBinder); intro x; first
        | (refine (fun hx : Sound v x => ?_) ?_; (on_goal 1 => clear_value x); (on_goal 2 => (simp -zeta only [x]; clear x)))
        | subst x)
    | (with_reducible apply sound_settlePair)
    | (with_reducible apply sound_onCtx)
    | (with_reducible apply sound_raise)
    | (with_reducible apply sound_refreshCtx)
    | (with_reducible apply sound_notePilot)
    | split

theorem sound_holdOn (h : ℕ) (cause : HoldCause) (evCause : ℕ) (c : ℕ) {m : Part} (hm : Sound v m) : Sound v (holdOn h cause evCause c m) := by
  unfold holdOn
  repeat' first
    | with_reducible assumption
    | (with_reducible apply sound_changeCtx)
    | (with_reducible apply sound_catchUp)

theorem sound_releaseOn (h : ℕ) (cause : HoldCause) (c : ℕ) {m : Part} (hm : Sound v m) : Sound v (releaseOn h cause c m) := by
  unfold releaseOn
  repeat' first
    | with_reducible assumption
    | (with_reducible apply sound_changeCtx)
    | (with_reducible apply sound_catchUp)

theorem sound_holdCtx (cause : HoldCause) (evCause : ℕ) (c : ℕ) {m : Part} (hm : Sound v m) : Sound v (holdCtx cause evCause c m) := by
  unfold holdCtx
  repeat' first
    | with_reducible assumption
    | (with_reducible apply sound_changeCtx)
    | (with_reducible apply sound_catchUp)

theorem sound_releaseCtx (cause : HoldCause) (c : ℕ) {m : Part} (hm : Sound v m) : Sound v (releaseCtx cause c m) := by
  unfold releaseCtx
  repeat' first
    | with_reducible assumption
    | (with_reducible apply sound_changeCtx)
    | (with_reducible apply sound_catchUp)

theorem sound_endFade (c : ℕ) (stamp : ℕ) {m : Part} (hm : Sound v m) : Sound v (endFade c stamp m) := by
  unfold endFade
  repeat' first
    | with_reducible assumption
    | (with_reducible apply sound_raiseAt)
    | (with_reducible apply sound_onCtx)

theorem sound_settleFade (c : ℕ) {m : Part} (hm : Sound v m) : Sound v (settleFade c m) := by
  unfold settleFade
  repeat' first
    | with_reducible assumption
    | (with_reducible apply sound_endFade)
    | split

theorem sound_completeFade (c : ℕ) {m : Part} (hm : Sound v m) : Sound v (completeFade c m) := by
  unfold completeFade
  repeat' first
    | with_reducible assumption
    | ((try lift_lets -underBinder); intro x; first
        | (refine (fun hx : Sound v x => ?_) ?_; (on_goal 1 => clear_value x); (on_goal 2 => (simp -zeta only [x]; clear x)))
        | subst x)
    | (with_reducible apply sound_settleFade)
    | (with_reducible apply sound_endFade)
    | split

theorem sound_zeroChain (c : ℕ) (phase : ℕ) {m : Part} (hm : Sound v m) : Sound v (zeroChain c phase m) := by
  unfold zeroChain
  repeat' first
    | with_reducible assumption
    | (with_reducible apply sound_completeFade)
    | (with_reducible apply sound_catchUp)
    | (with_reducible apply sound_onCtx)

theorem sound_settleNow (c : ℕ) {m : Part} (hm : Sound v m) : Sound v (settleNow c m) := by
  unfold settleNow
  repeat' first
    | with_reducible assumption
    | (with_reducible apply sound_catchUp)
    | (with_reducible apply sound_onCtx)

theorem sound_settleCopy (h : ℕ) (c : ℕ) {m : Part} (hm : Sound v m) : Sound v (settleCopy h c m) := by
  unfold settleCopy
  repeat' first
    | with_reducible assumption
    | (with_reducible apply sound_onCtx)

theorem sound_restartChain (plan : ℕ) (c : ℕ) {m : Part} (hm : Sound v m) : Sound v (restartChain plan c m) := by
  unfold restartChain
  repeat' first
    | with_reducible assumption
    | (with_reducible apply sound_zeroChain)
    | (with_reducible apply sound_onCtx)
    | split

theorem sound_countErrors (c : ℕ) (pre : ℕ) (preN : ℕ) (post : ℕ) (postN : ℕ) {m : Part} (hm : Sound v m) : Sound v (countErrors c pre preN post postN m) := by
  unfold countErrors
  repeat' first
    | with_reducible assumption
    | (with_reducible apply sound_onCtx)

theorem sound_deliverReport (c : ℕ) (r : Report) {m : Part} (hm : Sound v m) : Sound v (deliverReport c r m) := by
  unfold deliverReport
  repeat' first
    | with_reducible assumption
    | (with_reducible apply sound_appendItems)

theorem sound_cutWindow (c : ℕ) (state : CtxState) {m : Part} (hm : Sound v m) : Sound v (cutWindow c state m) := by
  unfold cutWindow
  repeat' first
    | (with_reducible apply sound_deliverReport)
    | split
    | (refine Sound.mk ?_ ?_ ?_ ?_ <;> cases_type* Sound <;> first | assumption | (simp_all [Arrays, EventsSound]; done) | (simp_all [Arrays, EventsSound]; omega))

theorem sound_moveCopy (c : ℕ) (k : Copy) (s : CtxState) (cause : ℕ) (also : Ctx → Ctx) {m : Part} (hm : Sound v m) : Sound v (moveCopy c k s cause also m) := by
  unfold moveCopy
  repeat' first
    | with_reducible assumption
    | (with_reducible apply sound_changeCtx)
    | (with_reducible apply sound_catchUp)

end Sys2Proof.Laws
end

