-- ==== Sys2Proof/Laws/SoundClosing.lean ====
section
/-! SUPPORT. Each operation of Machine/Closing.lean keeps `Safety.Sound`: one lemma per operation, by the lemmas of the operations it
calls. -/

namespace Sys2Proof.Laws

open Sys2Proof Sys2Proof.Machine Sys2Proof.Safety

set_option linter.all false

variable {v : Fused} {m : Part}
theorem sound_onSels (c : ℕ) (f : List Selection → List Selection) {m : Part} (hm : Sound v m) : Sound v (onSels c f m) := by
  unfold onSels
  repeat' first
    | with_reducible assumption
    | (with_reducible apply sound_onCtx)

theorem sound_onSel (c : ℕ) (sel : ℕ) (f : Selection → Selection) {m : Part} (hm : Sound v m) : Sound v (onSel c sel f m) := by
  unfold onSel
  repeat' first
    | with_reducible assumption
    | (with_reducible apply sound_onSels)

theorem sound_dropSelWork (c : ℕ) (sel : ℕ) {m : Part} (hm : Sound v m) : Sound v (dropSelWork c sel m) := by
  unfold dropSelWork
  repeat' first
    | (refine Sound.mk ?_ ?_ ?_ ?_ <;> cases_type* Sound <;> first | assumption | (simp_all [Arrays, EventsSound]; done) | (simp_all [Arrays, EventsSound]; omega))

theorem sound_endSelection (c : ℕ) (s : Selection) (cause : Option ℕ) {m : Part} (hm : Sound v m) : Sound v (endSelection c s cause m) := by
  unfold endSelection
  repeat' first
    | with_reducible assumption
    | (with_reducible apply sound_dropSelWork)
    | (with_reducible apply sound_breakFlows)
    | (with_reducible apply sound_onSels)
    | (with_reducible apply sound_raise)
    | (with_reducible apply sound_refreshCtx)
    | split

theorem sound_endSelections (c : ℕ) (cause : ℕ) (x2 : List Selection) {m : Part} : Sound v m → Sound v (endSelections c cause x2 m) := by
  fun_induction endSelections c cause x2 m <;> intros
  all_goals repeat' first
    | (with_reducible apply sound_endSelection)
    | (with_reducible apply_assumption -exfalso -symm)

theorem sound_dropCtx (c : ℕ) (state : CtxState) (cause : ℕ) {m : Part} (hm : Sound v m) : Sound v (dropCtx c state cause m) := by
  unfold dropCtx
  repeat' first
    | ((try lift_lets -underBinder); intro x; first
        | (refine (fun hx : Sound v x => ?_) ?_; (on_goal 1 => clear_value x); (on_goal 2 => (simp -zeta only [x]; clear x)))
        | subst x)
    | (with_reducible apply sound_breakCtx)
    | (with_reducible apply sound_cutWindow)
    | (with_reducible apply sound_flushUp)
    | (with_reducible apply sound_raise)
    | (with_reducible apply sound_dropFromSets)
    | split
    | (refine Sound.mk ?_ ?_ ?_ ?_ <;> cases_type* Sound <;> first | assumption | (simp_all [Arrays, EventsSound]; done) | (simp_all [Arrays, EventsSound]; omega))

theorem sound_followEvent (set : ℕ) (c : ℕ) (kHz : ℕ) (state : CandState) (cause : ℕ) (old : ℕ) {m : Part} (hm : Sound v m) : Sound v (followEvent set c kHz state cause old m) := by
  unfold followEvent
  repeat' first
    | with_reducible assumption
    | (with_reducible apply sound_raise)

theorem sound_onPolicy (set : ℕ) (f : Follow → Follow) {m : Part} (hm : Sound v m) : Sound v (onPolicy set f m) := by
  unfold onPolicy
  repeat' first
    | (refine Sound.mk ?_ ?_ ?_ ?_ <;> cases_type* Sound <;> first | assumption | (simp_all [Arrays, EventsSound]; done) | (simp_all [Arrays, EventsSound]; omega))

theorem sound_closePolicyCtxs (set : ℕ) (x1 : List ℕ) {m : Part} : Sound v m → Sound v (closePolicyCtxs set x1 m) := by
  fun_induction closePolicyCtxs set x1 m <;> intros
  all_goals repeat' first
    | (with_reducible apply sound_followEvent)
    | (with_reducible apply sound_dropCtx)
    | (with_reducible apply_assumption -exfalso -symm)

theorem sound_endPolicy (set : ℕ) {m : Part} (hm : Sound v m) : Sound v (endPolicy set m) := by
  unfold endPolicy
  repeat' first
    | ((try lift_lets -underBinder); intro x; first
        | (refine (fun hx : Sound v x => ?_) ?_; (on_goal 1 => clear_value x); (on_goal 2 => (simp -zeta only [x]; clear x)))
        | subst x)
    | (with_reducible apply sound_flushUp)
    | (with_reducible apply sound_endSet)
    | (with_reducible apply sound_closePolicyCtxs)
    | (with_reducible refine sound_elim _ _ ?_ (fun a => ?_); (on_goal 2 => beta_reduce))
    | (refine Sound.mk ?_ ?_ ?_ ?_ <;> cases_type* Sound <;> first | assumption | (simp_all [Arrays, EventsSound]; done) | (simp_all [Arrays, EventsSound]; omega))

theorem sound_endPolicies (home : ℕ) (kHz : ℕ) (x2 : List ℕ) {m : Part} : Sound v m → Sound v (endPolicies home kHz x2 m) := by
  fun_induction endPolicies home kHz x2 m <;> intros
  all_goals repeat' first
    | (with_reducible apply sound_followEvent)
    | (with_reducible apply sound_endPolicy)
    | (with_reducible apply_assumption -exfalso -symm)

theorem sound_forgetWatch (c : ℕ) {m : Part} (hm : Sound v m) : Sound v (forgetWatch c m) := by
  unfold forgetWatch
  repeat' first
    | (refine Sound.mk ?_ ?_ ?_ ?_ <;> cases_type* Sound <;> first | assumption | (simp_all [Arrays, EventsSound]; done) | (simp_all [Arrays, EventsSound]; omega))

theorem sound_closeCtx (c : ℕ) (state : CtxState) (cause : ℕ) {m : Part} (hm : Sound v m) : Sound v (closeCtx c state cause m) := by
  unfold closeCtx
  repeat' first
    | with_reducible assumption
    | (with_reducible apply sound_forgetWatch)
    | (with_reducible apply sound_dropCtx)
    | (with_reducible apply sound_followEvent)
    | (with_reducible apply sound_endPolicies)
    | (with_reducible refine sound_elim _ _ ?_ (fun a => ?_); (on_goal 2 => beta_reduce))
    | split

theorem sound_closeCtxs (state : CtxState) (cause : ℕ) (x2 : List ℕ) {m : Part} : Sound v m → Sound v (closeCtxs state cause x2 m) := by
  fun_induction closeCtxs state cause x2 m <;> intros
  all_goals repeat' first
    | (with_reducible apply sound_closeCtx)
    | (with_reducible apply_assumption -exfalso -symm)

theorem sound_closeNow (c : ℕ) {m : Part} (hm : Sound v m) : Sound v (closeNow c m) := by
  unfold closeNow
  repeat' first
    | with_reducible assumption
    | (with_reducible apply sound_withdraw)
    | (with_reducible apply sound_closeCtx)

end Sys2Proof.Laws
end

