-- ==== Sys2Proof/Laws/SoundContexts.lean ====
section
/-! SUPPORT. Each operation of Machine/Contexts.lean keeps `Safety.Sound`: one lemma per operation, by the lemmas of the operations it
calls. -/

namespace Sys2Proof.Laws

open Sys2Proof Sys2Proof.Machine Sys2Proof.Safety

set_option linter.all false

variable {v : Fused} {m : Part}
theorem sound_joinHolds (c : ℕ) (h : ℕ) {m : Part} (hm : Sound v m) : Sound v (joinHolds c h m) := by
  unfold joinHolds
  repeat' first
    | with_reducible assumption
    | ((try lift_lets -underBinder); intro x; first
        | (refine (fun hx : Sound v x => ?_) ?_; (on_goal 1 => clear_value x); (on_goal 2 => (simp -zeta only [x]; clear x)))
        | subst x)
    | (with_reducible apply sound_holdOn)
    | split

theorem sound_startIq (c : ℕ) {m : Part} (hm : Sound v m) : Sound v (startIq c m) := by
  unfold startIq
  repeat' first
    | (refine Sound.mk ?_ ?_ ?_ ?_ <;> cases_type* Sound <;> first | assumption | (simp_all [Arrays, EventsSound]; done) | (simp_all [Arrays, EventsSound]; omega))

theorem sound_openCtx (slot : ℕ) (cfg : CtxCfg) {m : Part} (hm : Sound v m) : Sound v (openCtx slot cfg m) := by
  unfold openCtx
  repeat' first
    | with_reducible assumption
    | (with_reducible apply sound_raise)
    | (with_reducible apply sound_joinHolds)
    | (with_reducible refine sound_foldl _ _ (fun a y hy => ?_) ?_; (on_goal 1 => beta_reduce))
    | (refine Sound.mk ?_ ?_ ?_ ?_ <;> cases_type* Sound <;> first | assumption | (simp_all [Arrays, EventsSound]; done) | (simp_all [Arrays, EventsSound]; omega))

theorem sound_performOpen (watch : Bool) (p : CtxParams) (x2 : Desc) (x3 : Origin) {m : Part} (hm : Sound v m) : Sound v (performOpen watch p x2 x3 m).1 := by
  unfold performOpen
  repeat' first
    | with_reducible assumption
    | (with_reducible apply sound_openCtx)
    | split

theorem sound_execCtxOpen (d : Desc) (p : CtxParams) (s : State) (hs : Sound v s.part) : SoundOut v (execCtxOpen d p s) := by
  unfold execCtxOpen
  repeat' first
    | with_reducible assumption
    | (with_reducible apply soundOut_run)
    | (with_reducible apply sound_accept)
    | (with_reducible apply sound_performOpen)

theorem sound_execCtxWatch (d : Desc) (p : CtxParams) (s : State) (hs : Sound v s.part) : SoundOut v (execCtxWatch d p s) := by
  unfold execCtxWatch
  repeat' first
    | with_reducible assumption
    | (with_reducible apply soundOut_run)
    | (with_reducible apply sound_accept)
    | (with_reducible apply sound_performOpen)

theorem sound_performClose (c : ℕ) (x1 : Desc) (x2 : Origin) {m : Part} (hm : Sound v m) : Sound v (performClose c x1 x2 m).1 := by
  unfold performClose
  repeat' first
    | with_reducible assumption
    | (with_reducible apply sound_closeNow)
    | split

theorem sound_execCtxClose (d : Desc) (ctx : ℕ) (s : State) (hs : Sound v s.part) : SoundOut v (execCtxClose d ctx s) := by
  unfold execCtxClose
  repeat' first
    | with_reducible assumption
    | (with_reducible apply soundOut_run)
    | (with_reducible apply sound_accept)
    | (with_reducible apply sound_performClose)

theorem sound_refitFlows (c : ℕ) (old : ℕ) (new : ℕ) {m : Part} (hm : Sound v m) : Sound v (refitFlows c old new m) := by
  unfold refitFlows
  repeat' first
    | with_reducible assumption
    | (with_reducible apply sound_breakFlows)
    | (with_reducible apply sound_closeFlows)

theorem sound_retuneCtx (slot : ℕ) (cause : ℕ) (new : CtxCfg) {m : Part} (hm : Sound v m) : Sound v (retuneCtx slot cause new m) := by
  unfold retuneCtx
  repeat' first
    | with_reducible assumption
    | (with_reducible apply sound_refitFlows)
    | (with_reducible apply sound_flushUp)
    | (with_reducible apply sound_changeCtx)
    | (with_reducible apply sound_settleNow)
    | (with_reducible apply sound_catchUp)
    | (with_reducible apply sound_completeFade)
    | (with_reducible apply sound_settleFade)
    | (with_reducible apply sound_endSelections)
    | split

theorem sound_performRetune (p : CtxParams) (x1 : Desc) (x2 : Origin) {m : Part} (hm : Sound v m) : Sound v (performRetune p x1 x2 m).1 := by
  unfold performRetune
  repeat' first
    | with_reducible assumption
    | (with_reducible apply sound_retuneCtx)
    | split

theorem sound_execCtxRetune (d : Desc) (p : CtxParams) (s : State) (hs : Sound v s.part) : SoundOut v (execCtxRetune d p s) := by
  unfold execCtxRetune
  repeat' first
    | with_reducible assumption
    | (with_reducible apply soundOut_run)
    | (with_reducible apply sound_accept)
    | (with_reducible apply sound_performRetune)

theorem sound_performQuery (c : ℕ) (x1 : Desc) (x2 : Origin) {m : Part} (hm : Sound v m) : Sound v (performQuery c x1 x2 m).1 := by
  unfold performQuery
  repeat' first
    | with_reducible assumption
    | split

theorem sound_execCtxQuery (d : Desc) (ctx : ℕ) (s : State) (hs : Sound v s.part) : SoundOut v (execCtxQuery d ctx s) := by
  unfold execCtxQuery
  repeat' first
    | with_reducible assumption
    | (with_reducible apply soundOut_run)
    | (with_reducible apply sound_accept)
    | (with_reducible apply sound_performQuery)

theorem sound_performCoefLoad (c : ℕ) (count : ℕ) (scale : ℕ) (words : List ℕ) (x4 : Desc) (x5 : Origin) {m : Part} (hm : Sound v m) : Sound v (performCoefLoad c count scale words x4 x5 m).1 := by
  unfold performCoefLoad
  repeat' first
    | with_reducible assumption
    | ((try lift_lets -underBinder); intro x; first
        | (refine (fun hx : Sound v x => ?_) ?_; (on_goal 1 => clear_value x); (on_goal 2 => (simp -zeta only [x]; clear x)))
        | subst x)
    | (with_reducible apply sound_settleFade)
    | (with_reducible apply sound_onCtx)
    | split

theorem sound_execCoefLoad (d : Desc) (ctx : ℕ) (count : ℕ) (scale : ℕ) (words : List ℕ) (s : State) (hs : Sound v s.part) : SoundOut v (execCoefLoad d ctx count scale words s) := by
  unfold execCoefLoad
  repeat' first
    | with_reducible assumption
    | (with_reducible apply soundOut_run)
    | (with_reducible apply sound_accept)
    | (with_reducible apply sound_performCoefLoad)

theorem sound_performCoefSwap (c : ℕ) (xfade : ℕ) (x2 : Desc) (x3 : Origin) {m : Part} (hm : Sound v m) : Sound v (performCoefSwap c xfade x2 x3 m).1 := by
  unfold performCoefSwap
  repeat' first
    | with_reducible assumption
    | ((try lift_lets -underBinder); intro x; first
        | (refine (fun hx : Sound v x => ?_) ?_; (on_goal 1 => clear_value x); (on_goal 2 => (simp -zeta only [x]; clear x)))
        | subst x)
    | (with_reducible apply sound_settleFade)
    | (with_reducible apply sound_onCtx)
    | split

theorem sound_execCoefSwap (d : Desc) (ctx : ℕ) (xfade : ℕ) (s : State) (hs : Sound v s.part) : SoundOut v (execCoefSwap d ctx xfade s) := by
  unfold execCoefSwap
  repeat' first
    | with_reducible assumption
    | (with_reducible apply soundOut_run)
    | (with_reducible apply sound_accept)
    | (with_reducible apply sound_performCoefSwap)

theorem sound_execXfadeDone (t : ℕ) (ctx : ℕ) (s : State) (hs : Sound v s.part) : SoundOut v (execXfadeDone t ctx s) := by
  unfold execXfadeDone
  repeat' first
    | with_reducible assumption
    | (with_reducible apply soundOut_run)
    | (with_reducible apply sound_onTick)
    | (with_reducible apply sound_settleFade)

theorem sound_performGroup (c : ℕ) (g : Option ℕ) (x2 : Desc) (x3 : Origin) {m : Part} (hm : Sound v m) : Sound v (performGroup c g x2 x3 m).1 := by
  unfold performGroup
  repeat' first
    | with_reducible assumption
    | (with_reducible apply sound_onCtx)
    | split

theorem sound_execSyncArmJoin (d : Desc) (group : ℕ) (ctx : ℕ) (s : State) (hs : Sound v s.part) : SoundOut v (execSyncArmJoin d group ctx s) := by
  unfold execSyncArmJoin
  repeat' first
    | with_reducible assumption
    | (with_reducible apply soundOut_run)
    | (with_reducible apply sound_accept)
    | (with_reducible apply sound_performGroup)

theorem sound_execSyncArmLeave (d : Desc) (ctx : ℕ) (s : State) (hs : Sound v s.part) : SoundOut v (execSyncArmLeave d ctx s) := by
  unfold execSyncArmLeave
  repeat' first
    | with_reducible assumption
    | (with_reducible apply soundOut_run)
    | (with_reducible apply sound_accept)
    | (with_reducible apply sound_performGroup)

theorem sound_zeroChains (phase : ℕ) (x1 : List ℕ) {m : Part} : Sound v m → Sound v (zeroChains phase x1 m) := by
  fun_induction zeroChains phase x1 m <;> intros
  all_goals repeat' first
    | (with_reducible apply sound_zeroChain)
    | (with_reducible apply_assumption -exfalso -symm)

theorem sound_pulseSyncout {m : Part} (hm : Sound v m) : Sound v (pulseSyncout m) := by
  unfold pulseSyncout
  repeat' first
    | (refine Sound.mk ?_ ?_ ?_ ?_ <;> cases_type* Sound <;> first | assumption | (simp_all [Arrays, EventsSound]; done) | (simp_all [Arrays, EventsSound]; omega))

theorem sound_resetGroup (g : ℕ) (phase : ℕ) (syncout : Bool) {m : Part} (hm : Sound v m) : Sound v (resetGroup g phase syncout m) := by
  unfold resetGroup
  repeat' first
    | ((try lift_lets -underBinder); intro x; first
        | (refine (fun hx : Sound v x => ?_) ?_; (on_goal 1 => clear_value x); (on_goal 2 => (simp -zeta only [x]; clear x)))
        | subst x)
    | (with_reducible apply sound_raise)
    | (with_reducible apply sound_zeroChains)
    | split
    | (refine Sound.mk ?_ ?_ ?_ ?_ <;> cases_type* Sound <;> first | assumption | (simp_all [Arrays, EventsSound]; done) | (simp_all [Arrays, EventsSound]; omega))

theorem sound_loseMembers (cs : List ℕ) {m : Part} (hm : Sound v m) : Sound v (loseMembers cs m) := by
  unfold loseMembers
  repeat' first
    | (refine Sound.mk ?_ ?_ ?_ ?_ <;> cases_type* Sound <;> first | assumption | (simp_all [Arrays, EventsSound]; done) | (simp_all [Arrays, EventsSound]; omega))

theorem sound_performReset (order : Option ℕ) (g : ℕ) (syncout : ℕ) (phase : ℕ) (x4 : Desc) (x5 : Origin) {m : Part} (hm : Sound v m) : Sound v (performReset order g syncout phase x4 x5 m).1 := by
  unfold performReset
  repeat' first
    | with_reducible assumption
    | (with_reducible apply sound_resetGroup)

theorem sound_execSyncArmReset (d : Desc) (group : ℕ) (syncout : ℕ) (phase : ℕ) (s : State) (hs : Sound v s.part) : SoundOut v (execSyncArmReset d group syncout phase s) := by
  unfold execSyncArmReset
  repeat' first
    | with_reducible assumption
    | (with_reducible apply soundOut_run)
    | (with_reducible apply sound_accept)
    | (with_reducible apply sound_performReset)

theorem sound_performArm (g : ℕ) (every : ℕ) (syncout : ℕ) (phase : ℕ) (x4 : Desc) (x5 : Origin) {m : Part} (hm : Sound v m) : Sound v (performArm g every syncout phase x4 x5 m).1 := by
  unfold performArm
  repeat' first
    | (refine Sound.mk ?_ ?_ ?_ ?_ <;> cases_type* Sound <;> first | assumption | (simp_all [Arrays, EventsSound]; done) | (simp_all [Arrays, EventsSound]; omega))

theorem sound_execArmSyncin (d : Desc) (group : ℕ) (every : ℕ) (syncout : ℕ) (phase : ℕ) (s : State) (hs : Sound v s.part) : SoundOut v (execArmSyncin d group every syncout phase s) := by
  unfold execArmSyncin
  repeat' first
    | with_reducible assumption
    | (with_reducible apply soundOut_run)
    | (with_reducible apply sound_accept)
    | (with_reducible apply sound_performArm)

theorem sound_performDisarm (g : ℕ) (x1 : Desc) (x2 : Origin) {m : Part} (hm : Sound v m) : Sound v (performDisarm g x1 x2 m).1 := by
  unfold performDisarm
  repeat' first
    | (refine Sound.mk ?_ ?_ ?_ ?_ <;> cases_type* Sound <;> first | assumption | (simp_all [Arrays, EventsSound]; done) | (simp_all [Arrays, EventsSound]; omega))

theorem sound_execDisarm (d : Desc) (group : ℕ) (s : State) (hs : Sound v s.part) : SoundOut v (execDisarm d group s) := by
  unfold execDisarm
  repeat' first
    | with_reducible assumption
    | (with_reducible apply soundOut_run)
    | (with_reducible apply sound_accept)
    | (with_reducible apply sound_performDisarm)

end Sys2Proof.Laws
end

