-- ==== Sys2Proof/Laws/SoundLifeEvents.lean ====
section
/-! SUPPORT. Each operation of Machine/LifeEvents.lean keeps `Safety.Sound`: one lemma per operation, by the lemmas of the operations it
calls. -/

namespace Sys2Proof.Laws

open Sys2Proof Sys2Proof.Machine Sys2Proof.Safety

set_option linter.all false

variable {v : Fused} {m : Part}
theorem sound_execCtxPresencePass (t : ℕ) (ctx : ℕ) (p : PresenceTest) (s : State) (hs : Sound v s.part) : SoundOut v (execCtxPresencePass t ctx p s) := by
  unfold execCtxPresencePass
  repeat' first
    | with_reducible assumption
    | (intro y; intro (hy : Sound v _); (try beta_reduce))
    | ((try lift_lets -underBinder); intro x; first
        | (refine (fun hx : Sound v x => ?_) ?_; (on_goal 1 => clear_value x); (on_goal 2 => (simp -zeta only [x]; clear x)))
        | subst x)
    | (with_reducible apply soundOut_run)
    | (with_reducible apply sound_onTick)
    | (with_reducible apply sound_moveCopy)
    | split

theorem sound_execCtxDetection (t : ℕ) (ctx : ℕ) (d : DetectTest) (s : State) (hs : Sound v s.part) : SoundOut v (execCtxDetection t ctx d s) := by
  unfold execCtxDetection
  repeat' first
    | with_reducible assumption
    | (intro y; intro (hy : Sound v _); (try beta_reduce))
    | (with_reducible apply soundOut_run)
    | (with_reducible apply sound_onTick)
    | (with_reducible apply sound_onCtx)
    | (with_reducible apply sound_moveCopy)
    | split

theorem sound_execCtxConfirmation (t : ℕ) (ctx : ℕ) (copy : Copy) (s : State) (hs : Sound v s.part) : SoundOut v (execCtxConfirmation t ctx copy s) := by
  unfold execCtxConfirmation
  repeat' first
    | with_reducible assumption
    | (intro y; intro (hy : Sound v _); (try beta_reduce))
    | (with_reducible apply soundOut_run)
    | (with_reducible apply sound_onTick)
    | (with_reducible apply sound_moveCopy)
    | split

theorem sound_execCtxLoss (t : ℕ) (ctx : ℕ) (copy : Copy) (s : State) (hs : Sound v s.part) : SoundOut v (execCtxLoss t ctx copy s) := by
  unfold execCtxLoss
  repeat' first
    | with_reducible assumption
    | (intro y; intro (hy : Sound v _); (try beta_reduce))
    | (with_reducible apply soundOut_run)
    | (with_reducible apply sound_onTick)
    | (with_reducible apply sound_moveCopy)
    | split

theorem sound_execAcquireTimeout (t : ℕ) (ctx : ℕ) (copy : Copy) (s : State) (hs : Sound v s.part) : SoundOut v (execAcquireTimeout t ctx copy s) := by
  unfold execAcquireTimeout
  repeat' first
    | with_reducible assumption
    | (intro y; intro (hy : Sound v _); (try beta_reduce))
    | (with_reducible apply soundOut_run)
    | (with_reducible apply sound_onTick)
    | (with_reducible apply sound_moveCopy)
    | split

theorem sound_execConfirmTimeout (t : ℕ) (ctx : ℕ) (copy : Copy) (s : State) (hs : Sound v s.part) : SoundOut v (execConfirmTimeout t ctx copy s) := by
  unfold execConfirmTimeout
  repeat' first
    | with_reducible assumption
    | (intro y; intro (hy : Sound v _); (try beta_reduce))
    | (with_reducible apply soundOut_run)
    | (with_reducible apply sound_onTick)
    | (with_reducible apply sound_moveCopy)
    | split

theorem sound_execLostTimeout (t : ℕ) (ctx : ℕ) (copy : Copy) (s : State) (hs : Sound v s.part) : SoundOut v (execLostTimeout t ctx copy s) := by
  unfold execLostTimeout
  repeat' first
    | with_reducible assumption
    | (intro y; intro (hy : Sound v _); (try beta_reduce))
    | (with_reducible apply soundOut_run)
    | (with_reducible apply sound_onTick)
    | (with_reducible apply sound_moveCopy)
    | split

theorem sound_endCalHold (h : ℕ) (c : ℕ) {m : Part} (hm : Sound v m) : Sound v (endCalHold h c m) := by
  unfold endCalHold
  repeat' first
    | with_reducible assumption
    | ((try lift_lets -underBinder); intro x; first
        | (refine (fun hx : Sound v x => ?_) ?_; (on_goal 1 => clear_value x); (on_goal 2 => (simp -zeta only [x]; clear x)))
        | subst x)
    | (with_reducible apply sound_releaseOn)
    | (with_reducible apply sound_settleCopy)
    | (with_reducible apply sound_settleNow)
    | split

theorem sound_endHolds (h : ℕ) {m : Part} (hm : Sound v m) : Sound v (endHolds h m) := by
  unfold endHolds
  repeat' first
    | with_reducible assumption
    | ((try lift_lets -underBinder); intro x; first
        | (refine (fun hx : Sound v x => ?_) ?_; (on_goal 1 => clear_value x); (on_goal 2 => (simp -zeta only [x]; clear x)))
        | subst x)
    | (with_reducible apply sound_endCalHold)
    | (with_reducible apply sound_releaseOn)
    | (with_reducible apply sound_releaseCtx)
    | (with_reducible refine sound_foldl _ _ (fun a y hy => ?_) ?_; (on_goal 1 => beta_reduce))
    | split

theorem sound_execHoldEnd (t : ℕ) (half : ℕ) (s : State) (hs : Sound v s.part) : SoundOut v (execHoldEnd t half s) := by
  unfold execHoldEnd
  repeat' first
    | with_reducible assumption
    | (with_reducible apply soundOut_runIf)
    | (with_reducible apply sound_onTick)
    | (with_reducible apply sound_endHolds)

theorem sound_agcStep (c : ℕ) (step : ℤ) (errA : ℤ) (errB : ℤ) {m : Part} (hm : Sound v m) : Sound v (agcStep c step errA errB m) := by
  unfold agcStep
  repeat' first
    | with_reducible assumption
    | (with_reducible apply sound_onCtx)

theorem sound_deliver (c : ℕ) (qa : ℤ) (qb : ℤ) (delay : ℤ) {m : Part} (hm : Sound v m) : Sound v (deliver c qa qb delay m) := by
  unfold deliver
  repeat' first
    | with_reducible assumption
    | (with_reducible apply sound_onCtx)

theorem sound_fillSilence (c : ℕ) {m : Part} (hm : Sound v m) : Sound v (fillSilence c m) := by
  unfold fillSilence
  repeat' first
    | with_reducible assumption
    | (with_reducible apply sound_selFillAll)
    | (with_reducible refine sound_foldl _ _ (fun a y hy => ?_) ?_; (on_goal 1 => beta_reduce))
    | split

theorem sound_endWindow (c : ℕ) (q : QualityMeasure) {m : Part} (hm : Sound v m) : Sound v (endWindow c q m) := by
  unfold endWindow
  repeat' first
    | with_reducible assumption
    | ((try lift_lets -underBinder); intro x; first
        | (refine (fun hx : Sound v x => ?_) ?_; (on_goal 1 => clear_value x); (on_goal 2 => (simp -zeta only [x]; clear x)))
        | subst x)
    | (with_reducible apply sound_settlePair)
    | (with_reducible apply sound_deliverReport)
    | (with_reducible apply sound_onCtx)
    | split

theorem sound_execQualityWindowEnd (t : ℕ) (ctx : ℕ) (q : QualityMeasure) (s : State) (hs : Sound v s.part) : SoundOut v (execQualityWindowEnd t ctx q s) := by
  unfold execQualityWindowEnd
  repeat' first
    | with_reducible assumption
    | (intro y; intro (hy : Sound v _); (try beta_reduce))
    | (with_reducible apply soundOut_run)
    | (with_reducible apply sound_onTick)
    | (with_reducible apply sound_endWindow)
    | (with_reducible apply sound_fillSilence)

theorem sound_countBlock (h : ℕ) (short : Bool) {m : Part} (hm : Sound v m) : Sound v (countBlock h short m) := by
  unfold countBlock
  repeat' first
    | with_reducible assumption
    | (with_reducible apply sound_onHalf)

theorem sound_execPoolSaturated (t : ℕ) (half : ℕ) (s : State) (hs : Sound v s.part) : SoundOut v (execPoolSaturated t half s) := by
  unfold execPoolSaturated
  repeat' first
    | with_reducible assumption
    | (intro y; intro (hy : Sound v _); (try beta_reduce))
    | ((try lift_lets -underBinder); intro x; first
        | (refine (fun hx : Sound v x => ?_) ?_; (on_goal 1 => clear_value x); (on_goal 2 => (simp -zeta only [x]; clear x)))
        | subst x)
    | (with_reducible apply soundOut_runIf)
    | (with_reducible apply sound_onTick)
    | (with_reducible apply sound_raise)
    | (with_reducible apply sound_onHalf)
    | split

theorem sound_execPoolClear (t : ℕ) (half : ℕ) (s : State) (hs : Sound v s.part) : SoundOut v (execPoolClear t half s) := by
  unfold execPoolClear
  repeat' first
    | with_reducible assumption
    | (intro y; intro (hy : Sound v _); (try beta_reduce))
    | ((try lift_lets -underBinder); intro x; first
        | (refine (fun hx : Sound v x => ?_) ?_; (on_goal 1 => clear_value x); (on_goal 2 => (simp -zeta only [x]; clear x)))
        | subst x)
    | (with_reducible apply soundOut_runIf)
    | (with_reducible apply sound_onTick)
    | (with_reducible apply sound_raise)
    | (with_reducible apply sound_onHalf)
    | split

end Sys2Proof.Laws
end

