-- ==== Sys2Proof/Laws/SoundDatabase.lean ====
section
/-! SUPPORT. Each operation of Machine/Database.lean keeps `Safety.Sound`: one lemma per operation, by the lemmas of the operations it
calls. -/

namespace Sys2Proof.Laws

open Sys2Proof Sys2Proof.Machine Sys2Proof.Safety

set_option linter.all false

variable {v : Fused} {m : Part}
theorem sound_appendSide (ht : ℕ) (flags : ℕ) (b : SideBody) (n : ℕ) {m : Part} (hm : Sound v m) : Sound v (appendSide ht flags b n m) := by
  unfold appendSide
  repeat' first
    | with_reducible assumption
    | (with_reducible apply sound_onFlow)
    | (with_reducible apply sound_appendItem)
    | split

theorem sound_appendSides (ht : ℕ) (flags : ℕ) (b : SideBody) (l : List ℕ) {m : Part} (hm : Sound v m) : Sound v (appendSides ht flags b l m) := by
  unfold appendSides
  repeat' first
    | with_reducible assumption
    | (with_reducible apply sound_appendSide)
    | (with_reducible refine sound_foldl _ _ (fun a y hy => ?_) ?_; (on_goal 1 => beta_reduce))

theorem sound_dbItem (b : SideBody) {m : Part} (hm : Sound v m) : Sound v (dbItem b m) := by
  unfold dbItem
  repeat' first
    | with_reducible assumption
    | (with_reducible apply sound_appendSides)

theorem sound_onDb (f : Database → Database) {m : Part} (hm : Sound v m) : Sound v (onDb f m) := by
  unfold onDb
  repeat' first
    | (refine Sound.mk ?_ ?_ ?_ ?_ <;> cases_type* Sound <;> first | assumption | (simp_all [Arrays, EventsSound]; done) | (simp_all [Arrays, EventsSound]; omega))

theorem sound_dbFull (table : ℕ) {m : Part} (hm : Sound v m) : Sound v (dbFull table m) := by
  unfold dbFull
  repeat' first
    | with_reducible assumption
    | ((try lift_lets -underBinder); intro x; first
        | (refine (fun hx : Sound v x => ?_) ?_; (on_goal 1 => clear_value x); (on_goal 2 => (simp -zeta only [x]; clear x)))
        | subst x)
    | (with_reducible apply sound_onDb)
    | (with_reducible apply sound_raise)
    | split

theorem sound_learnService (e : DbService) {m : Part} (hm : Sound v m) : Sound v (learnService e m) := by
  unfold learnService
  repeat' first
    | with_reducible assumption
    | ((try lift_lets -underBinder); intro x; first
        | (refine (fun hx : Sound v x => ?_) ?_; (on_goal 1 => clear_value x); (on_goal 2 => (simp -zeta only [x]; clear x)))
        | subst x)
    | (with_reducible apply sound_onDb)
    | (with_reducible apply sound_dbItem)
    | (with_reducible apply sound_dbFull)
    | split

theorem sound_refineService (key : ServiceKey) (heard : Bool) (f : DbService → DbService) {m : Part} (hm : Sound v m) : Sound v (refineService key heard f m) := by
  unfold refineService
  repeat' first
    | with_reducible assumption
    | (with_reducible apply sound_learnService)

theorem sound_learnFreq (e : DbFreq) {m : Part} (hm : Sound v m) : Sound v (learnFreq e m) := by
  unfold learnFreq
  repeat' first
    | with_reducible assumption
    | ((try lift_lets -underBinder); intro x; first
        | (refine (fun hx : Sound v x => ?_) ?_; (on_goal 1 => clear_value x); (on_goal 2 => (simp -zeta only [x]; clear x)))
        | subst x)
    | (with_reducible apply sound_onDb)
    | (with_reducible apply sound_dbItem)
    | (with_reducible apply sound_dbFull)
    | split

theorem sound_hearService (key : ServiceKey) (standard : ℕ) (kHz : ℕ) {m : Part} (hm : Sound v m) : Sound v (hearService key standard kHz m) := by
  unfold hearService
  repeat' first
    | with_reducible assumption
    | (with_reducible apply sound_refineService)
    | (with_reducible apply sound_learnFreq)
    | (with_reducible refine sound_foldl _ _ (fun a y hy => ?_) ?_; (on_goal 1 => beta_reduce))

theorem sound_learnLink (e : DbLink) {m : Part} (hm : Sound v m) : Sound v (learnLink e m) := by
  unfold learnLink
  repeat' first
    | with_reducible assumption
    | ((try lift_lets -underBinder); intro x; first
        | (refine (fun hx : Sound v x => ?_) ?_; (on_goal 1 => clear_value x); (on_goal 2 => (simp -zeta only [x]; clear x)))
        | subst x)
    | (with_reducible apply sound_onDb)
    | (with_reducible apply sound_dbItem)
    | (with_reducible apply sound_dbFull)
    | split

theorem sound_announce (c : ℕ) (sel : ℕ) (a : Announcement) {m : Part} (hm : Sound v m) : Sound v (announce c sel a m) := by
  unfold announce
  repeat' first
    | with_reducible assumption
    | ((try lift_lets -underBinder); intro x; first
        | (refine (fun hx : Sound v x => ?_) ?_; (on_goal 1 => clear_value x); (on_goal 2 => (simp -zeta only [x]; clear x)))
        | subst x)
    | (with_reducible apply sound_raise)
    | (with_reducible apply sound_dbItem)
    | split

theorem sound_signalAnnounce (c : ℕ) (sel : ℕ) (a : Announcement) {m : Part} (hm : Sound v m) : Sound v (signalAnnounce c sel a m) := by
  unfold signalAnnounce
  repeat' first
    | with_reducible assumption
    | ((try lift_lets -underBinder); intro x; first
        | (refine (fun hx : Sound v x => ?_) ?_; (on_goal 1 => clear_value x); (on_goal 2 => (simp -zeta only [x]; clear x)))
        | subst x)
    | (with_reducible apply sound_announce)
    | (with_reducible apply sound_onDb)
    | split

theorem sound_alarmEvent (c : ℕ) (standard : ℕ) (start : Bool) (test : Bool) (key : ServiceKey) (kHz : ℕ) {m : Part} (hm : Sound v m) : Sound v (alarmEvent c standard start test key kHz m) := by
  unfold alarmEvent
  repeat' first
    | with_reducible assumption
    | (with_reducible apply sound_raise)

theorem sound_performDbConfig (age : ℕ) (luKeep : ℕ) (annMask : ℕ) (x3 : Desc) (x4 : Origin) {m : Part} (hm : Sound v m) : Sound v (performDbConfig age luKeep annMask x3 x4 m).1 := by
  unfold performDbConfig
  repeat' first
    | with_reducible assumption
    | (with_reducible apply sound_onDb)

theorem sound_execDbConfig (d : Desc) (age : ℕ) (luKeep : ℕ) (annMask : ℕ) (s : State) (hs : Sound v s.part) : SoundOut v (execDbConfig d age luKeep annMask s) := by
  unfold execDbConfig
  repeat' first
    | with_reducible assumption
    | (with_reducible apply soundOut_run)
    | (with_reducible apply sound_accept)
    | (with_reducible apply sound_performDbConfig)

theorem sound_performDbDump (x0 : Desc) (x1 : Origin) {m : Part} (hm : Sound v m) : Sound v (performDbDump x0 x1 m).1 := by
  unfold performDbDump
  repeat' first
    | with_reducible assumption
    | (with_reducible apply sound_dbItem)
    | (with_reducible refine sound_foldl _ _ (fun a y hy => ?_) ?_; (on_goal 1 => beta_reduce))

theorem sound_execDbDump (d : Desc) (s : State) (hs : Sound v s.part) : SoundOut v (execDbDump d s) := by
  unfold execDbDump
  repeat' first
    | with_reducible assumption
    | (with_reducible apply soundOut_run)
    | (with_reducible apply sound_accept)
    | (with_reducible apply sound_performDbDump)

theorem sound_execDbEntryAged (t : ℕ) (s : State) (hs : Sound v s.part) : SoundOut v (execDbEntryAged t s) := by
  unfold execDbEntryAged
  repeat' first
    | with_reducible assumption
    | (intro y; intro (hy : Sound v _); (try beta_reduce))
    | (with_reducible apply soundOut_run)
    | (with_reducible apply sound_onTick)
    | (with_reducible apply sound_onDb)
    | (with_reducible apply sound_dbItem)
    | (with_reducible refine sound_foldl _ _ (fun a y hy => ?_) ?_; (on_goal 1 => beta_reduce))

end Sys2Proof.Laws
end

