-- ==== Sys2Proof/Laws/SoundText.lean ====
section
/-! SUPPORT. Each operation of Machine/Text.lean keeps `Safety.Sound`: one lemma per operation, by the lemmas of the operations it
calls. -/

namespace Sys2Proof.Laws

open Sys2Proof Sys2Proof.Machine Sys2Proof.Safety

set_option linter.all false

variable {v : Fused} {m : Part}
theorem sound_hearOwn (c : ℕ) (key : ServiceKey) {m : Part} (hm : Sound v m) : Sound v (hearOwn c key m) := by
  unfold hearOwn
  repeat' first
    | with_reducible assumption
    | (with_reducible apply sound_hearService)
    | split

theorem sound_learn (c : ℕ) (it : DbItem) {m : Part} (hm : Sound v m) : Sound v (learn c it m) := by
  unfold learn
  repeat' first
    | with_reducible assumption
    | (with_reducible apply sound_hearOwn)
    | (with_reducible apply sound_refineService)
    | (with_reducible apply sound_learnFreq)
    | (with_reducible apply sound_learnLink)
    | (with_reducible apply sound_signalAnnounce)
    | (with_reducible refine sound_foldl _ _ (fun a y hy => ?_) ?_; (on_goal 1 => beta_reduce))
    | split

theorem sound_learnAll (c : ℕ) (l : List DbItem) {m : Part} (hm : Sound v m) : Sound v (learnAll c l m) := by
  unfold learnAll
  repeat' first
    | with_reducible assumption
    | (with_reducible apply sound_learn)
    | (with_reducible refine sound_foldl _ _ (fun a y hy => ?_) ?_; (on_goal 1 => beta_reduce))

theorem sound_onRds (c : ℕ) (f : Rds → Rds) {m : Part} (hm : Sound v m) : Sound v (onRds c f m) := by
  unfold onRds
  repeat' first
    | with_reducible assumption
    | (with_reducible apply sound_onCtx)

theorem sound_onText (c : ℕ) (f : RdsText → RdsText) {m : Part} (hm : Sound v m) : Sound v (onText c f m) := by
  unfold onText
  repeat' first
    | with_reducible assumption
    | (with_reducible apply sound_onRds)

theorem sound_twice (c : ℕ) (key : ℕ) (x2 : ℕ) {m : Part} (hm : Sound v m) : Sound v (twice c key x2 m).1 := by
  unfold twice
  repeat' first
    | with_reducible assumption
    | (with_reducible apply sound_onText)

theorem sound_rdsItem (c : ℕ) (type : ℕ) (bytes : ℕ) (fields : List Field) (raw : List Byte) {m : Part} (hm : Sound v m) : Sound v (rdsItem c type bytes fields raw m) := by
  unfold rdsItem
  repeat' first
    | with_reducible assumption
    | (with_reducible apply sound_appendSides)

theorem sound_ownService (c : ℕ) (f : DbService → DbService) {m : Part} (hm : Sound v m) : Sound v (ownService c f m) := by
  unfold ownService
  repeat' first
    | with_reducible assumption
    | (with_reducible apply sound_refineService)
    | split

theorem sound_rdsPs (c : ℕ) (address : ℕ) (word : ℕ) {m : Part} (hm : Sound v m) : Sound v (rdsPs c address word m) := by
  unfold rdsPs
  repeat' first
    | with_reducible assumption
    | ((try lift_lets -underBinder); intro x; first
        | (refine (fun hx : Sound v x => ?_) ?_; (on_goal 1 => clear_value x); (on_goal 2 => (simp -zeta only [x]; clear x)))
        | subst x)
    | (with_reducible apply sound_twice)
    | (with_reducible apply sound_onText)
    | (with_reducible apply sound_ownService)
    | (with_reducible apply sound_rdsItem)
    | split
    | (refine sound_of_eq1 (by assumption) ?_)

theorem sound_rdsPlus (c : ℕ) {m : Part} (hm : Sound v m) : Sound v (rdsPlus c m) := by
  unfold rdsPlus
  repeat' first
    | with_reducible assumption
    | ((try lift_lets -underBinder); intro x; first
        | (refine (fun hx : Sound v x => ?_) ?_; (on_goal 1 => clear_value x); (on_goal 2 => (simp -zeta only [x]; clear x)))
        | subst x)
    | (with_reducible apply sound_onText)
    | (with_reducible apply sound_rdsItem)
    | split

theorem sound_rdsRt (c : ℕ) (address : ℕ) (kind : ℕ) (words : List ℕ) {m : Part} (hm : Sound v m) : Sound v (rdsRt c address kind words m) := by
  unfold rdsRt
  repeat' first
    | with_reducible assumption
    | ((try lift_lets -underBinder); intro x; first
        | (refine (fun hx : Sound v x => ?_) ?_; (on_goal 1 => clear_value x); (on_goal 2 => (simp -zeta only [x]; clear x)))
        | subst x)
    | (with_reducible apply sound_twice)
    | (with_reducible apply sound_onText)
    | (with_reducible apply sound_rdsPlus)
    | (with_reducible apply sound_rdsItem)
    | split
    | (refine sound_of_eq1 (by assumption) ?_)

theorem sound_rdsTags (c : ℕ) (b : ℕ) (w : ℕ) (d : ℕ) {m : Part} (hm : Sound v m) : Sound v (rdsTags c b w d m) := by
  unfold rdsTags
  repeat' first
    | with_reducible assumption
    | (with_reducible apply sound_twice)
    | (with_reducible apply sound_rdsPlus)
    | (with_reducible apply sound_onText)
    | split
    | (refine sound_of_eq1 (by assumption) ?_)

theorem sound_rdsFlag (c : ℕ) (key : ℕ) (x2 : ℕ) {m : Part} (hm : Sound v m) : Sound v (rdsFlag c key x2 m) := by
  unfold rdsFlag
  repeat' first
    | with_reducible assumption
    | (with_reducible apply sound_twice)
    | (with_reducible apply sound_onText)
    | split
    | (refine sound_of_eq1 (by assumption) ?_)

theorem sound_rdsFlags (c : ℕ) {m : Part} (hm : Sound v m) : Sound v (rdsFlags c m) := by
  unfold rdsFlags
  repeat' first
    | with_reducible assumption
    | ((try lift_lets -underBinder); intro x; first
        | (refine (fun hx : Sound v x => ?_) ?_; (on_goal 1 => clear_value x); (on_goal 2 => (simp -zeta only [x]; clear x)))
        | subst x)
    | (with_reducible apply sound_rdsItem)
    | (with_reducible apply sound_onText)
    | split

theorem sound_trafficNotice (c : ℕ) (kHz : ℕ) (key : ServiceKey) (on_ : Bool) {m : Part} (hm : Sound v m) : Sound v (trafficNotice c kHz key on_ m) := by
  unfold trafficNotice
  repeat' first
    | with_reducible assumption
    | (with_reducible apply sound_signalAnnounce)

theorem sound_rdsTraffic (c : ℕ) {m : Part} (hm : Sound v m) : Sound v (rdsTraffic c m) := by
  unfold rdsTraffic
  repeat' first
    | with_reducible assumption
    | (with_reducible apply sound_trafficNotice)
    | (with_reducible apply sound_ownService)
    | split

theorem sound_rdsCt (c : ℕ) (b : ℕ) (w : ℕ) (d : ℕ) {m : Part} (hm : Sound v m) : Sound v (rdsCt c b w d m) := by
  unfold rdsCt
  repeat' first
    | with_reducible assumption
    | ((try lift_lets -underBinder); intro x; first
        | (refine (fun hx : Sound v x => ?_) ?_; (on_goal 1 => clear_value x); (on_goal 2 => (simp -zeta only [x]; clear x)))
        | subst x)
    | (with_reducible apply sound_rdsItem)
    | split

theorem sound_learnAfs (c : ℕ) (key : ServiceKey) (eon : Bool) (l : List (ℕ × ℕ)) {m : Part} (hm : Sound v m) : Sound v (learnAfs c key eon l m) := by
  unfold learnAfs
  repeat' first
    | with_reducible assumption
    | (with_reducible apply sound_learnFreq)
    | (with_reducible refine sound_foldl _ _ (fun a y hy => ?_) ?_; (on_goal 1 => beta_reduce))

theorem sound_rdsAf (c : ℕ) (key : ServiceKey) (eon : Bool) (word : ℕ) {m : Part} (hm : Sound v m) : Sound v (rdsAf c key eon word m) := by
  unfold rdsAf
  repeat' first
    | with_reducible assumption
    | ((try lift_lets -underBinder); intro x; first
        | (refine (fun hx : Sound v x => ?_) ?_; (on_goal 1 => clear_value x); (on_goal 2 => (simp -zeta only [x]; clear x)))
        | subst x)
    | (with_reducible apply sound_onText)
    | (with_reducible apply sound_learnAfs)
    | split

theorem sound_eonTraffic (c : ℕ) (pi : ℕ) (tp : ℕ) (ta : ℕ) {m : Part} (hm : Sound v m) : Sound v (eonTraffic c pi tp ta m) := by
  unfold eonTraffic
  repeat' first
    | with_reducible assumption
    | (with_reducible apply sound_trafficNotice)

theorem sound_rdsEonA (c : ℕ) (b : ℕ) (w : ℕ) (pi : ℕ) {m : Part} (hm : Sound v m) : Sound v (rdsEonA c b w pi m) := by
  unfold rdsEonA
  repeat' first
    | with_reducible assumption
    | ((try lift_lets -underBinder); intro x; first
        | (refine (fun hx : Sound v x => ?_) ?_; (on_goal 1 => clear_value x); (on_goal 2 => (simp -zeta only [x]; clear x)))
        | subst x)
    | (with_reducible apply sound_rdsAf)
    | (with_reducible apply sound_twice)
    | (with_reducible apply sound_onText)
    | (with_reducible apply sound_refineService)
    | (with_reducible apply sound_learnFreq)
    | (with_reducible apply sound_eonTraffic)
    | (with_reducible refine sound_elim _ _ ?_ (fun a => ?_); (on_goal 2 => beta_reduce))
    | split
    | (refine sound_of_eq1 (by assumption) ?_)

theorem sound_rdsEonB (c : ℕ) (b : ℕ) (pi : ℕ) {m : Part} (hm : Sound v m) : Sound v (rdsEonB c b pi m) := by
  unfold rdsEonB
  repeat' first
    | with_reducible assumption
    | (with_reducible apply sound_twice)
    | (with_reducible apply sound_eonTraffic)
    | split
    | (refine sound_of_eq1 (by assumption) ?_)

theorem sound_rdsBasic (c : ℕ) (kind : ℕ) (b : ℕ) (w : Option ℕ) (d : Option ℕ) {m : Part} (hm : Sound v m) : Sound v (rdsBasic c kind b w d m) := by
  unfold rdsBasic
  repeat' first
    | with_reducible assumption
    | ((try lift_lets -underBinder); intro x; first
        | (refine (fun hx : Sound v x => ?_) ?_; (on_goal 1 => clear_value x); (on_goal 2 => (simp -zeta only [x]; clear x)))
        | subst x)
    | (with_reducible apply sound_rdsFlag)
    | (with_reducible apply sound_rdsPs)
    | (with_reducible apply sound_rdsAf)
    | (with_reducible refine sound_elim _ _ ?_ (fun a => ?_); (on_goal 2 => beta_reduce))
    | split

theorem sound_rdsOda (c : ℕ) (kind : ℕ) (b : ℕ) (w : Option ℕ) (d : Option ℕ) {m : Part} (hm : Sound v m) : Sound v (rdsOda c kind b w d m) := by
  unfold rdsOda
  repeat' first
    | with_reducible assumption
    | (with_reducible apply sound_rdsTags)
    | split

theorem sound_rdsGroup (c : ℕ) (g : List (ℕ × ℕ × ℕ)) {m : Part} (hm : Sound v m) : Sound v (rdsGroup c g m) := by
  unfold rdsGroup
  repeat' first
    | with_reducible assumption
    | ((try lift_lets -underBinder); intro x; first
        | (refine (fun hx : Sound v x => ?_) ?_; (on_goal 1 => clear_value x); (on_goal 2 => (simp -zeta only [x]; clear x)))
        | subst x)
    | (with_reducible apply sound_twice)
    | (with_reducible apply sound_rdsFlag)
    | (with_reducible apply sound_rdsBasic)
    | (with_reducible apply sound_ownService)
    | (with_reducible apply sound_rdsRt)
    | (with_reducible apply sound_onText)
    | (with_reducible apply sound_rdsCt)
    | (with_reducible apply sound_rdsEonA)
    | (with_reducible apply sound_rdsEonB)
    | (with_reducible apply sound_rdsOda)
    | (with_reducible apply sound_rdsTraffic)
    | (with_reducible apply sound_rdsFlags)
    | (with_reducible refine sound_elim _ _ ?_ (fun a => ?_); (on_goal 2 => beta_reduce))
    | split

end Sys2Proof.Laws
end

