-- ==== Sys2Proof/Laws/SoundFront.lean ====
section
/-! SUPPORT. Each operation of Machine/Front.lean keeps `Safety.Sound`: one lemma per operation, by the lemmas of the operations it
calls. -/

namespace Sys2Proof.Laws

open Sys2Proof Sys2Proof.Machine Sys2Proof.Safety

set_option linter.all false

variable {v : Fused} {m : Part}
theorem sound_onBand (h : ℕ) (b : ℕ) (f : Band → Band) {m : Part} (hm : Sound v m) : Sound v (onBand h b f m) := by
  unfold onBand
  repeat' first
    | with_reducible assumption
    | (with_reducible apply sound_onHalf)

theorem sound_announceStep (h : ℕ) (b : ℕ) (atten : ℕ) (wanted : ℕ) {m : Part} (hm : Sound v m) : Sound v (announceStep h b atten wanted m) := by
  unfold announceStep
  repeat' first
    | with_reducible assumption
    | (with_reducible apply sound_onBand)
    | (with_reducible refine sound_foldl _ _ (fun a y hy => ?_) ?_; (on_goal 1 => beta_reduce))

theorem sound_followShared (h : ℕ) {m : Part} (hm : Sound v m) : Sound v (followShared h m) := by
  unfold followShared
  repeat' first
    | with_reducible assumption
    | (with_reducible apply sound_onHalf)
    | split

theorem sound_freezeBands (h : ℕ) {m : Part} (hm : Sound v m) : Sound v (freezeBands h m) := by
  unfold freezeBands
  repeat' first
    | with_reducible assumption
    | ((try lift_lets -underBinder); intro x; first
        | (refine (fun hx : Sound v x => ?_) ?_; (on_goal 1 => clear_value x); (on_goal 2 => (simp -zeta only [x]; clear x)))
        | subst x)
    | (with_reducible apply sound_onHalf)
    | split

theorem sound_unfreezeBands (h : ℕ) {m : Part} (hm : Sound v m) : Sound v (unfreezeBands h m) := by
  unfold unfreezeBands
  repeat' first
    | with_reducible assumption
    | (with_reducible apply sound_onHalf)
    | (with_reducible apply sound_followShared)
    | split

theorem sound_unfreezeTile (t : ℕ) {m : Part} (hm : Sound v m) : Sound v (unfreezeTile t m) := by
  unfold unfreezeTile
  repeat' first
    | with_reducible assumption
    | (with_reducible apply sound_unfreezeBands)

theorem sound_landSteps {m : Part} (hm : Sound v m) : Sound v (landSteps m) := by
  unfold landSteps
  repeat' first
    | (refine Sound.mk ?_ ?_ ?_ ?_ <;> cases_type* Sound <;> first | assumption | (simp_all [Arrays, EventsSound]; done) | (simp_all [Arrays, EventsSound]; omega))

theorem sound_performLeveller (h : ℕ) (p : LevellerParams) (x2 : Desc) (x3 : Origin) {m : Part} (hm : Sound v m) : Sound v (performLeveller h p x2 x3 m).1 := by
  unfold performLeveller
  repeat' first
    | with_reducible assumption
    | ((try lift_lets -underBinder); intro x; first
        | (refine (fun hx : Sound v x => ?_) ?_; (on_goal 1 => clear_value x); (on_goal 2 => (simp -zeta only [x]; clear x)))
        | subst x)
    | (with_reducible apply sound_onBand)
    | (with_reducible apply sound_announceStep)
    | split

theorem sound_levellerNow (h : ℕ) (p : LevellerParams) (x2 : Desc) (x3 : Origin) {m : Part} (hm : Sound v m) : Sound v (levellerNow h p x2 x3 m).1 := by
  unfold levellerNow
  repeat' first
    | with_reducible assumption
    | (with_reducible apply sound_performLeveller)
    | (with_reducible apply sound_landSteps)

theorem sound_execHalfSetupLeveller (d : Desc) (half : ℕ) (p : LevellerParams) (s : State) (hs : Sound v s.part) : SoundOut v (execHalfSetupLeveller d half p s) := by
  unfold execHalfSetupLeveller
  repeat' first
    | with_reducible assumption
    | (with_reducible apply soundOut_run)
    | (with_reducible apply sound_accept)
    | (with_reducible apply sound_levellerNow)

theorem sound_performAntpwr (h : ℕ) (setting : ℕ) (x2 : Desc) (x3 : Origin) {m : Part} (hm : Sound v m) : Sound v (performAntpwr h setting x2 x3 m).1 := by
  unfold performAntpwr
  repeat' first
    | with_reducible assumption
    | (with_reducible apply sound_onHalf)
    | split

theorem sound_execHalfSetupAntpwr (d : Desc) (half : ℕ) (setting : ℕ) (s : State) (hs : Sound v s.part) : SoundOut v (execHalfSetupAntpwr d half setting s) := by
  unfold execHalfSetupAntpwr
  repeat' first
    | with_reducible assumption
    | (with_reducible apply soundOut_run)
    | (with_reducible apply sound_accept)
    | (with_reducible apply sound_performAntpwr)

theorem sound_performExtGain (h : ℕ) (gain : ℤ) (x2 : Desc) (x3 : Origin) {m : Part} (hm : Sound v m) : Sound v (performExtGain h gain x2 x3 m).1 := by
  unfold performExtGain
  repeat' first
    | with_reducible assumption
    | (with_reducible apply sound_onHalf)
    | split

theorem sound_execHalfSetupExtGain (d : Desc) (half : ℕ) (gain : ℤ) (s : State) (hs : Sound v s.part) : SoundOut v (execHalfSetupExtGain d half gain s) := by
  unfold execHalfSetupExtGain
  repeat' first
    | with_reducible assumption
    | (with_reducible apply soundOut_run)
    | (with_reducible apply sound_accept)
    | (with_reducible apply sound_performExtGain)

theorem sound_raiseLimit (h : ℕ) (b : ℕ) {m : Part} (hm : Sound v m) : Sound v (raiseLimit h b m) := by
  unfold raiseLimit
  repeat' first
    | with_reducible assumption
    | ((try lift_lets -underBinder); intro x; first
        | (refine (fun hx : Sound v x => ?_) ?_; (on_goal 1 => clear_value x); (on_goal 2 => (simp -zeta only [x]; clear x)))
        | subst x)
    | (with_reducible apply sound_raise)
    | (with_reducible apply sound_onBand)
    | split

theorem sound_judgeBand (h : ℕ) (b : ℕ) {m : Part} (hm : Sound v m) : Sound v (judgeBand h b m) := by
  unfold judgeBand
  repeat' first
    | with_reducible assumption
    | ((try lift_lets -underBinder); intro x; first
        | (refine (fun hx : Sound v x => ?_) ?_; (on_goal 1 => clear_value x); (on_goal 2 => (simp -zeta only [x]; clear x)))
        | subst x)
    | (with_reducible apply sound_onBand)
    | (with_reducible apply sound_raiseLimit)
    | (with_reducible apply sound_announceStep)
    | split

theorem sound_judgeClip (h : ℕ) {m : Part} (hm : Sound v m) : Sound v (judgeClip h m) := by
  unfold judgeClip
  repeat' first
    | with_reducible assumption
    | ((try lift_lets -underBinder); intro x; first
        | (refine (fun hx : Sound v x => ?_) ?_; (on_goal 1 => clear_value x); (on_goal 2 => (simp -zeta only [x]; clear x)))
        | subst x)
    | (with_reducible apply sound_announceStep)
    | (with_reducible refine sound_foldl _ _ (fun a y hy => ?_) ?_; (on_goal 1 => beta_reduce))
    | split

theorem sound_takeReadings (h : ℕ) (r : DetectorPeriod) {m : Part} (hm : Sound v m) : Sound v (takeReadings h r m) := by
  unfold takeReadings
  repeat' first
    | with_reducible assumption
    | (with_reducible apply sound_onHalf)

theorem sound_watchHeld (h : ℕ) (r : DetectorPeriod) {m : Part} (hm : Sound v m) : Sound v (watchHeld h r m) := by
  unfold watchHeld
  repeat' first
    | with_reducible assumption
    | (with_reducible apply sound_onHalf)
    | split

theorem sound_endPeriod (h : ℕ) (r : DetectorPeriod) {m : Part} (hm : Sound v m) : Sound v (endPeriod h r m) := by
  unfold endPeriod
  repeat' first
    | with_reducible assumption
    | (with_reducible apply sound_watchHeld)
    | (with_reducible apply sound_takeReadings)
    | (with_reducible apply sound_judgeClip)
    | (with_reducible apply sound_judgeBand)
    | (with_reducible refine sound_foldl _ _ (fun a y hy => ?_) ?_; (on_goal 1 => beta_reduce))
    | split

theorem sound_execLevellerDwellExpiry (t : ℕ) (half : ℕ) (band : ℕ) (s : State) (hs : Sound v s.part) : SoundOut v (execLevellerDwellExpiry t half band s) := by
  unfold execLevellerDwellExpiry
  repeat' first
    | with_reducible assumption
    | (intro y; intro (hy : Sound v _); (try beta_reduce))
    | ((try lift_lets -underBinder); intro x; first
        | (refine (fun hx : Sound v x => ?_) ?_; (on_goal 1 => clear_value x); (on_goal 2 => (simp -zeta only [x]; clear x)))
        | subst x)
    | (with_reducible apply soundOut_runIf)
    | (with_reducible apply sound_onTick)
    | (with_reducible apply sound_announceStep)
    | split

theorem sound_execAdcClip (t : ℕ) (half : ℕ) (samples : ℕ) (s : State) (hs : Sound v s.part) : SoundOut v (execAdcClip t half samples s) := by
  unfold execAdcClip
  repeat' first
    | with_reducible assumption
    | (intro y; intro (hy : Sound v _); (try beta_reduce))
    | ((try lift_lets -underBinder); intro x; first
        | (refine (fun hx : Sound v x => ?_) ?_; (on_goal 1 => clear_value x); (on_goal 2 => (simp -zeta only [x]; clear x)))
        | subst x)
    | (with_reducible apply soundOut_runIf)
    | (with_reducible apply sound_onTick)
    | (with_reducible apply sound_onHalf)
    | (with_reducible apply sound_raise)
    | split

theorem sound_execAntpwrCurrentLimit (t : ℕ) (half : ℕ) (current : ℕ) (s : State) (hs : Sound v s.part) : SoundOut v (execAntpwrCurrentLimit t half current s) := by
  unfold execAntpwrCurrentLimit
  repeat' first
    | with_reducible assumption
    | (intro y; intro (hy : Sound v _); (try beta_reduce))
    | (with_reducible apply soundOut_runIf)
    | (with_reducible apply sound_onTick)
    | (with_reducible apply sound_raise)
    | (with_reducible apply sound_onHalf)
    | split

theorem sound_execAntpwrOpen (t : ℕ) (half : ℕ) (current : ℕ) (s : State) (hs : Sound v s.part) : SoundOut v (execAntpwrOpen t half current s) := by
  unfold execAntpwrOpen
  repeat' first
    | with_reducible assumption
    | (intro y; intro (hy : Sound v _); (try beta_reduce))
    | ((try lift_lets -underBinder); intro x; first
        | (refine (fun hx : Sound v x => ?_) ?_; (on_goal 1 => clear_value x); (on_goal 2 => (simp -zeta only [x]; clear x)))
        | subst x)
    | (with_reducible apply soundOut_runIf)
    | (with_reducible apply sound_onTick)
    | (with_reducible apply sound_onHalf)
    | (with_reducible apply sound_raise)
    | split

theorem sound_assertPins (h : ℕ) {m : Part} (hm : Sound v m) : Sound v (assertPins h m) := by
  unfold assertPins
  repeat' first
    | (refine Sound.mk ?_ ?_ ?_ ?_ <;> cases_type* Sound <;> first | assumption | (simp_all [Arrays, EventsSound]; done) | (simp_all [Arrays, EventsSound]; omega))

theorem sound_openIso (h : ℕ) {m : Part} (hm : Sound v m) : Sound v (openIso h m) := by
  unfold openIso
  repeat' first
    | with_reducible assumption
    | (with_reducible apply sound_assertPins)
    | (with_reducible apply sound_onHalf)

theorem sound_closeIso (h : ℕ) {m : Part} (hm : Sound v m) : Sound v (closeIso h m) := by
  unfold closeIso
  repeat' first
    | ((try lift_lets -underBinder); intro x; first
        | (refine (fun hx : Sound v x => ?_) ?_; (on_goal 1 => clear_value x); (on_goal 2 => (simp -zeta only [x]; clear x)))
        | subst x)
    | (with_reducible apply sound_onHalf)
    | (refine Sound.mk ?_ ?_ ?_ ?_ <;> cases_type* Sound <;> first | assumption | (simp_all [Arrays, EventsSound]; done) | (simp_all [Arrays, EventsSound]; omega))

theorem sound_releasePins (h : ℕ) {m : Part} (hm : Sound v m) : Sound v (releasePins h m) := by
  unfold releasePins
  repeat' first
    | (refine Sound.mk ?_ ?_ ?_ ?_ <;> cases_type* Sound <;> first | assumption | (simp_all [Arrays, EventsSound]; done) | (simp_all [Arrays, EventsSound]; omega))

theorem sound_tidyPins {m : Part} (hm : Sound v m) : Sound v (tidyPins m) :=
  sound_foldl _ _ (fun a _ hy => sound_releasePins a hy) hm

theorem sound_performGpio (p : GpioParams) (x1 : Desc) (x2 : Origin) {m : Part} (hm : Sound v m) : Sound v (performGpio p x1 x2 m).1 := by
  unfold performGpio
  repeat' first
    | split
    | (refine Sound.mk ?_ ?_ ?_ ?_ <;> cases_type* Sound <;> first | assumption | (simp_all [Arrays, EventsSound]; done) | (simp_all [Arrays, EventsSound]; omega))

theorem sound_execAccGpio (d : Desc) (half : ℕ) (p : GpioParams) (s : State) (hs : Sound v s.part) : SoundOut v (execAccGpio d half p s) := by
  unfold execAccGpio
  repeat' first
    | with_reducible assumption
    | (with_reducible apply soundOut_run)
    | (with_reducible apply sound_accept)
    | (with_reducible apply sound_performGpio)

theorem sound_execGpioEdge (t : ℕ) (pin : ℕ) (level : ℕ) (s : State) (hs : Sound v s.part) : SoundOut v (execGpioEdge t pin level s) := by
  unfold execGpioEdge
  repeat' first
    | (intro y; intro (hy : Sound v _); (try beta_reduce))
    | ((try lift_lets -underBinder); intro x; first
        | (refine (fun hx : Sound v x => ?_) ?_; (on_goal 1 => clear_value x); (on_goal 2 => (simp -zeta only [x]; clear x)))
        | subst x)
    | (with_reducible apply soundOut_runIf)
    | (with_reducible apply sound_onTick)
    | (with_reducible apply sound_raise)
    | split
    | (refine Sound.mk ?_ ?_ ?_ ?_ <;> cases_type* Sound <;> first | assumption | (simp_all [Arrays, EventsSound]; done) | (simp_all [Arrays, EventsSound]; omega))

theorem sound_performI2c (p : I2cParams) (x1 : Desc) (x2 : Origin) {m : Part} (hm : Sound v m) : Sound v (performI2c p x1 x2 m).1 := by
  unfold performI2c
  repeat' first
    | (refine Sound.mk ?_ ?_ ?_ ?_ <;> cases_type* Sound <;> first | assumption | (simp_all [Arrays, EventsSound]; done) | (simp_all [Arrays, EventsSound]; omega))

theorem sound_execAccI2c (d : Desc) (half : ℕ) (p : I2cParams) (s : State) (hs : Sound v s.part) : SoundOut v (execAccI2c d half p s) := by
  unfold execAccI2c
  repeat' first
    | with_reducible assumption
    | (with_reducible apply soundOut_run)
    | (with_reducible apply sound_accept)
    | (with_reducible apply sound_performI2c)

theorem sound_execI2cTransactionStart (t : ℕ) (s : State) (hs : Sound v s.part) : SoundOut v (execI2cTransactionStart t s) := by
  unfold execI2cTransactionStart
  repeat' first
    | (intro y; intro (hy : Sound v _); (try beta_reduce))
    | (with_reducible apply soundOut_run)
    | (with_reducible apply sound_onTick)
    | split
    | (refine Sound.mk ?_ ?_ ?_ ?_ <;> cases_type* Sound <;> first | assumption | (simp_all [Arrays, EventsSound]; done) | (simp_all [Arrays, EventsSound]; omega))

theorem sound_finishI2c (f : I2cJob → Reply) {m : Part} (hm : Sound v m) : Sound v (finishI2c f m) := by
  unfold finishI2c
  repeat' first
    | (with_reducible apply sound_finish)
    | split
    | (refine Sound.mk ?_ ?_ ?_ ?_ <;> cases_type* Sound <;> first | assumption | (simp_all [Arrays, EventsSound]; done) | (simp_all [Arrays, EventsSound]; omega))

theorem sound_execI2cTransactionDone (t : ℕ) (r : I2cResult) (s : State) (hs : Sound v s.part) : SoundOut v (execI2cTransactionDone t r s) := by
  unfold execI2cTransactionDone
  repeat' first
    | with_reducible assumption
    | (with_reducible apply soundOut_run)
    | (with_reducible apply sound_onTick)
    | (with_reducible apply sound_finishI2c)

theorem sound_execI2cClockHeld (t : ℕ) (s : State) (hs : Sound v s.part) : SoundOut v (execI2cClockHeld t s) := by
  unfold execI2cClockHeld
  repeat' first
    | with_reducible assumption
    | (with_reducible apply soundOut_run)
    | (with_reducible apply sound_onTick)
    | (with_reducible apply sound_finishI2c)

end Sys2Proof.Laws
end

