-- ==== Sys2Proof/Laws/SoundCapture.lean ====
section
/-! SUPPORT. Each operation of Machine/Capture.lean keeps `Safety.Sound`: one lemma per operation, by the lemmas of the operations it
calls. -/

namespace Sys2Proof.Laws

open Sys2Proof Sys2Proof.Machine Sys2Proof.Safety

set_option linter.all false

variable {v : Fused} {m : Part}
theorem sound_closeCapture (c : Capture) {m : Part} (hm : Sound v m) : Sound v (closeCapture c m).2 := by
  unfold closeCapture
  repeat' first
    | with_reducible assumption
    | (with_reducible apply sound_closeRecord)
    | (with_reducible apply sound_onFlow)

theorem sound_fillGroups (c : Capture) (s : CapSpan) (n : ℕ) (flags : ℕ) {m : Part} (hm : Sound v m) : Sound v (fillGroups c s n flags m).2 := by
  unfold fillGroups
  repeat' first
    | with_reducible assumption
    | (with_reducible apply sound_onFlow)
    | (with_reducible apply sound_appendFixed)

theorem sound_deliverSpan (c : Capture) (s : CapSpan) {m : Part} (hm : Sound v m) : Sound v (deliverSpan c s m).2 := by
  unfold deliverSpan
  repeat' first
    | with_reducible assumption
    | (with_reducible apply sound_closeCapture)
    | (with_reducible apply sound_fillGroups)
    | split

theorem sound_deliverSpans (x0 : List CapSpan) (x1 : Capture) {m : Part} : Sound v m → Sound v (deliverSpans x0 x1 m).2 := by
  fun_induction deliverSpans x0 x1 m <;> intros
  all_goals repeat' first
    | (with_reducible apply sound_deliverSpan)
    | (with_reducible apply_assumption -exfalso -symm)
    | (refine sound_of_eq2 (by assumption) ?_)

theorem sound_releaseCapture (c : Capture) {m : Part} (hm : Sound v m) : Sound v (releaseCapture c m).2 := by
  unfold releaseCapture
  repeat' first
    | with_reducible assumption
    | (with_reducible apply sound_deliverSpans)
    | (with_reducible apply sound_closeCapture)
    | (dsimp -zeta only)
    | split

theorem sound_catchCapture (c : Capture) {m : Part} (hm : Sound v m) : Sound v (catchCapture c m).2 := by
  unfold catchCapture
  repeat' first
    | with_reducible assumption
    | (with_reducible apply sound_releaseCapture)
    | split

theorem sound_catchWhere (p : Capture → Bool) (f : Capture → Capture) (x2 : List Capture) (x3 : List Capture) {m : Part} : Sound v m → Sound v (catchWhere p f x2 x3 m) := by
  fun_induction catchWhere p f x2 x3 m <;> intros
  all_goals repeat' first
    | (with_reducible apply sound_catchCapture)
    | (with_reducible apply sound_releaseCapture)
    | (with_reducible apply_assumption -exfalso -symm)
    | split
    | (refine Sound.mk ?_ ?_ ?_ ?_ <;> cases_type* Sound <;> first | assumption | (simp_all [Arrays, EventsSound]; done) | (simp_all [Arrays, EventsSound]; omega))
    | (refine sound_of_eq2 (by assumption) ?_)

theorem sound_catchHalf (h : ℕ) {m : Part} (hm : Sound v m) : Sound v (catchHalf h m) := by
  unfold catchHalf
  repeat' first
    | with_reducible assumption
    | (with_reducible apply sound_catchWhere)

theorem sound_catchCaptures {m : Part} (hm : Sound v m) : Sound v (catchCaptures m) := by
  unfold catchCaptures
  repeat' first
    | with_reducible assumption
    | (with_reducible apply sound_catchWhere)

theorem sound_cutCaptures (x0 : List Capture) (x1 : List Capture) {m : Part} : Sound v m → Sound v (cutCaptures x0 x1 m) := by
  fun_induction cutCaptures x0 x1 m <;> intros
  all_goals repeat' first
    | (with_reducible apply sound_closeCapture)
    | (with_reducible apply_assumption -exfalso -symm)
    | (refine Sound.mk ?_ ?_ ?_ ?_ <;> cases_type* Sound <;> first | assumption | (simp_all [Arrays, EventsSound]; done) | (simp_all [Arrays, EventsSound]; omega))
    | (refine sound_of_eq2 (by assumption) ?_)

theorem sound_captureSamples (h : ℕ) (k : ℕ) (l : List ℤ) {m : Part} (hm : Sound v m) : Sound v (captureSamples h k l m) := by
  unfold captureSamples
  repeat' first
    | (with_reducible apply sound_catchHalf)
    | (refine Sound.mk ?_ ?_ ?_ ?_ <;> cases_type* Sound <;> first | assumption | (simp_all [Arrays, EventsSound]; done) | (simp_all [Arrays, EventsSound]; omega))

theorem sound_stopCapture (h : ℕ) {m : Part} (hm : Sound v m) : Sound v (stopCapture h m) := by
  unfold stopCapture
  repeat' first
    | with_reducible assumption
    | (with_reducible apply sound_catchWhere)

theorem sound_resumeCapture (h : ℕ) {m : Part} (hm : Sound v m) : Sound v (resumeCapture h m) := by
  unfold resumeCapture
  repeat' first
    | with_reducible assumption
    | (with_reducible apply sound_catchWhere)

end Sys2Proof.Laws
end

