-- ==== Sys2Proof/Laws/SoundCalibration.lean ====
section
/-! SUPPORT. Each operation of Machine/Calibration.lean keeps `Safety.Sound`: one lemma per operation, by the lemmas of the operations it
calls. -/

namespace Sys2Proof.Laws

open Sys2Proof Sys2Proof.Machine Sys2Proof.Safety

set_option linter.all false

variable {v : Fused} {m : Part}
theorem sound_onCal (h : ℕ) (f : HalfCal → HalfCal) {m : Part} (hm : Sound v m) : Sound v (onCal h f m) := by
  unfold onCal
  repeat' first
    | with_reducible assumption
    | (with_reducible apply sound_onHalf)

theorem sound_placeRun (h : ℕ) (start : ℕ) (cause : CalCause) (command : Option ℕ) {m : Part} (hm : Sound v m) : Sound v (placeRun h start cause command m) := by
  unfold placeRun
  repeat' first
    | with_reducible assumption
    | (with_reducible apply sound_onCal)

theorem sound_placeWanted (h : ℕ) {m : Part} (hm : Sound v m) : Sound v (placeWanted h m) := by
  unfold placeWanted
  repeat' first
    | with_reducible assumption
    | ((try lift_lets -underBinder); intro x; first
        | (refine (fun hx : Sound v x => ?_) ?_; (on_goal 1 => clear_value x); (on_goal 2 => (simp -zeta only [x]; clear x)))
        | subst x)
    | (with_reducible apply sound_placeRun)
    | split

theorem sound_wantRun (h : ℕ) {m : Part} (hm : Sound v m) : Sound v (wantRun h m) := by
  unfold wantRun
  repeat' first
    | with_reducible assumption
    | ((try lift_lets -underBinder); intro x; first
        | (refine (fun hx : Sound v x => ?_) ?_; (on_goal 1 => clear_value x); (on_goal 2 => (simp -zeta only [x]; clear x)))
        | subst x)
    | (with_reducible apply sound_placeWanted)
    | (with_reducible apply sound_onCal)
    | split

theorem sound_judgeDue (h : ℕ) {m : Part} (hm : Sound v m) : Sound v (judgeDue h m) := by
  unfold judgeDue
  repeat' first
    | with_reducible assumption
    | (with_reducible apply sound_onCal)
    | (with_reducible apply sound_raise)
    | (with_reducible apply sound_wantRun)
    | split

theorem sound_performCalPolicy (h : ℕ) (auto : ℕ) (deltaT : ℕ) (ws : List CalWindow) (x4 : Desc) (x5 : Origin) {m : Part} (hm : Sound v m) : Sound v (performCalPolicy h auto deltaT ws x4 x5 m).1 := by
  unfold performCalPolicy
  repeat' first
    | with_reducible assumption
    | (with_reducible apply sound_wantRun)
    | (with_reducible apply sound_onCal)
    | (with_reducible refine sound_foldl _ _ (fun a y hy => ?_) ?_; (on_goal 1 => beta_reduce))

theorem sound_execCalPolicy (d : Desc) (half : ℕ) (auto : ℕ) (deltaT : ℕ) (windows : List CalWindow) (s : State) (hs : Sound v s.part) : SoundOut v (execCalPolicy d half auto deltaT windows s) := by
  unfold execCalPolicy
  repeat' first
    | with_reducible assumption
    | (with_reducible apply soundOut_run)
    | (with_reducible apply sound_accept)
    | (with_reducible apply sound_performCalPolicy)

theorem sound_settleCal (id : ℕ) {m : Part} (hm : Sound v m) : Sound v (settleCal id m) := by
  unfold settleCal
  repeat' first
    | (with_reducible apply sound_finish)
    | split
    | (refine Sound.mk ?_ ?_ ?_ ?_ <;> cases_type* Sound <;> first | assumption | (simp_all [Arrays, EventsSound]; done) | (simp_all [Arrays, EventsSound]; omega))

theorem sound_endTarget (command : Option ℕ) (h : ℕ) (status : ℕ) {m : Part} (hm : Sound v m) : Sound v (endTarget command h status m) := by
  unfold endTarget
  repeat' first
    | (with_reducible apply sound_settleCal)
    | split
    | (refine Sound.mk ?_ ?_ ?_ ?_ <;> cases_type* Sound <;> first | assumption | (simp_all [Arrays, EventsSound]; done) | (simp_all [Arrays, EventsSound]; omega))

theorem sound_beginCalHold (h : ℕ) {m : Part} (hm : Sound v m) : Sound v (beginCalHold h m) := by
  unfold beginCalHold
  repeat' first
    | with_reducible assumption
    | (with_reducible apply sound_holdOn)
    | (with_reducible apply sound_fadeOut)
    | (with_reducible refine sound_foldl _ _ (fun a y hy => ?_) ?_; (on_goal 1 => beta_reduce))
    | split

theorem sound_dropPlaced (h : ℕ) (p : PlacedRun) (status : ℕ) {m : Part} (hm : Sound v m) : Sound v (dropPlaced h p status m) := by
  unfold dropPlaced
  repeat' first
    | with_reducible assumption
    | (with_reducible apply sound_onCal)
    | (with_reducible apply sound_endTarget)
    | (with_reducible apply sound_endHolds)
    | (with_reducible apply sound_releasePins)

theorem sound_dropAllPlaced (h : ℕ) (status : ℕ) {m : Part} (hm : Sound v m) : Sound v (dropAllPlaced h status m) := by
  unfold dropAllPlaced
  repeat' first
    | with_reducible assumption
    | (with_reducible apply sound_dropPlaced)
    | (with_reducible refine sound_foldl _ _ (fun a y hy => ?_) ?_; (on_goal 1 => beta_reduce))

theorem sound_fixRuns (order : ℕ) (h : ℕ) (at0 : ℕ) {m : Part} (hm : Sound v m) : Sound v (fixRuns order h at0 m) := by
  unfold fixRuns
  repeat' first
    | with_reducible assumption
    | (with_reducible apply sound_placeRun)
    | (with_reducible refine sound_foldl _ _ (fun a y hy => ?_) ?_; (on_goal 1 => beta_reduce))
    | split

theorem sound_fixAccepted (first : ℕ) {m : Part} (hm : Sound v m) : Sound v (fixAccepted first m) := by
  unfold fixAccepted
  repeat' first
    | with_reducible assumption
    | (with_reducible apply sound_fixRuns)
    | (with_reducible refine sound_foldl _ _ (fun a y hy => ?_) ?_; (on_goal 1 => beta_reduce))
    | split

theorem sound_performCalRun (order : ℕ) (h : ℕ) (x2 : Desc) (x3 : Origin) {m : Part} (hm : Sound v m) : Sound v (performCalRun order h x2 x3 m).1 := by
  unfold performCalRun
  repeat' first
    | with_reducible assumption
    | (with_reducible apply sound_placeRun)
    | (with_reducible apply sound_dropPlaced)
    | (with_reducible apply sound_settleCal)
    | (with_reducible refine sound_foldl _ _ (fun a y hy => ?_) ?_; (on_goal 1 => beta_reduce))
    | split
    | (refine Sound.mk ?_ ?_ ?_ ?_ <;> cases_type* Sound <;> first | assumption | (simp_all [Arrays, EventsSound]; done) | (simp_all [Arrays, EventsSound]; omega))

theorem sound_execCalRun (d : Desc) (half : ℕ) (s : State) (hs : Sound v s.part) : SoundOut v (execCalRun d half s) := by
  unfold execCalRun
  repeat' first
    | with_reducible assumption
    | (intro _ _ y; intro (hy : Sound v _); (try beta_reduce))
    | (with_reducible apply soundOut_run)
    | (with_reducible apply sound_fixAccepted)
    | (with_reducible apply sound_accept)

theorem sound_forgetRuns {m : Part} (hm : Sound v m) : Sound v (forgetRuns m) := by
  unfold forgetRuns
  repeat' first
    | (refine Sound.mk ?_ ?_ ?_ ?_ <;> cases_type* Sound <;> first | assumption | (simp_all [Arrays, EventsSound]; done) | (simp_all [Arrays, EventsSound]; omega))

theorem sound_refixRuns {m : Part} (hm : Sound v m) : Sound v (refixRuns m) := by
  unfold refixRuns
  repeat' first
    | with_reducible assumption
    | (with_reducible apply sound_fixAccepted)
    | (with_reducible apply sound_endHolds)
    | (with_reducible apply sound_releasePins)
    | (with_reducible refine sound_foldl _ _ (fun a y hy => ?_) ?_; (on_goal 1 => beta_reduce))

theorem sound_dropOrphans {m : Part} (hm : Sound v m) : Sound v (dropOrphans m) := by
  unfold dropOrphans
  repeat' first
    | with_reducible assumption
    | (with_reducible apply sound_dropPlaced)
    | (with_reducible refine sound_foldl _ _ (fun a y hy => ?_) ?_; (on_goal 1 => beta_reduce))

theorem sound_startRun (h : ℕ) (cause : CalCause) (command : Option ℕ) {m : Part} (hm : Sound v m) : Sound v (startRun h cause command m) := by
  unfold startRun
  repeat' first
    | ((try lift_lets -underBinder); intro x; first
        | (refine (fun hx : Sound v x => ?_) ?_; (on_goal 1 => clear_value x); (on_goal 2 => (simp -zeta only [x]; clear x)))
        | subst x)
    | (with_reducible apply sound_catchHalf)
    | (with_reducible apply sound_onCal)
    | (with_reducible apply sound_beginCalHold)
    | (with_reducible apply sound_freezeBands)
    | (with_reducible apply sound_openIso)
    | (refine Sound.mk ?_ ?_ ?_ ?_ <;> cases_type* Sound <;> first | assumption | (simp_all [Arrays, EventsSound]; done) | (simp_all [Arrays, EventsSound]; omega))

theorem sound_startPlaced (h : ℕ) {m : Part} (hm : Sound v m) : Sound v (startPlaced h m) := by
  unfold startPlaced
  repeat' first
    | with_reducible assumption
    | (with_reducible apply sound_dropPlaced)
    | (with_reducible apply sound_startRun)
    | (with_reducible apply sound_onCal)
    | (with_reducible apply sound_beginCalHold)
    | split

theorem sound_setPhase (h : ℕ) (pass : ℕ) (ph : CalPhase) {m : Part} (hm : Sound v m) : Sound v (setPhase h pass ph m) := by
  unfold setPhase
  repeat' first
    | with_reducible assumption
    | (with_reducible apply sound_onHalf)

theorem sound_execCalPhaseEnd (t : ℕ) (half : ℕ) (s : State) (hs : Sound v s.part) : SoundOut v (execCalPhaseEnd t half s) := by
  unfold execCalPhaseEnd
  repeat' first
    | with_reducible assumption
    | (intro y; intro (hy : Sound v _); (try beta_reduce))
    | ((try lift_lets -underBinder); intro x; first
        | (refine (fun hx : Sound v x => ?_) ?_; (on_goal 1 => clear_value x); (on_goal 2 => (simp -zeta only [x]; clear x)))
        | subst x)
    | (with_reducible apply soundOut_runIf)
    | (with_reducible apply sound_onTick)
    | (with_reducible apply sound_setPhase)
    | (with_reducible apply sound_closeIso)
    | (with_reducible apply sound_openIso)
    | split

theorem sound_closeIfLive (h : ℕ) {m : Part} (hm : Sound v m) : Sound v (closeIfLive h m) := by
  unfold closeIfLive
  repeat' first
    | with_reducible assumption
    | (with_reducible apply sound_closeIso)
    | split

theorem sound_abandonRun (h : ℕ) {m : Part} (hm : Sound v m) : Sound v (abandonRun h m) := by
  unfold abandonRun
  repeat' first
    | with_reducible assumption
    | (with_reducible apply sound_closeIfLive)
    | (with_reducible apply sound_onHalf)
    | (with_reducible apply sound_catchHalf)
    | (with_reducible apply sound_endTarget)
    | (with_reducible apply sound_endHolds)
    | (with_reducible apply sound_unfreezeBands)
    | split

theorem sound_pauseRamp (h : ℕ) {m : Part} (hm : Sound v m) : Sound v (pauseRamp h m) := by
  unfold pauseRamp
  repeat' first
    | with_reducible assumption
    | (with_reducible apply sound_onCal)

theorem sound_resumeRamp (h : ℕ) {m : Part} (hm : Sound v m) : Sound v (resumeRamp h m) := by
  unfold resumeRamp
  repeat' first
    | with_reducible assumption
    | (with_reducible apply sound_onCal)
    | split

theorem sound_resumeHalf (h : ℕ) {m : Part} (hm : Sound v m) : Sound v (resumeHalf h m) := by
  unfold resumeHalf
  repeat' first
    | with_reducible assumption
    | (with_reducible apply sound_wantRun)
    | (with_reducible apply sound_resumeRamp)
    | (with_reducible apply sound_unfreezeBands)

theorem sound_rewriteEntry (t : ℕ) {m : Part} (hm : Sound v m) : Sound v (rewriteEntry t m) := by
  unfold rewriteEntry
  repeat' first
    | (with_reducible apply sound_onTile)
    | (refine Sound.mk ?_ ?_ ?_ ?_ <;> cases_type* Sound <;> first | assumption | (simp_all [Arrays, EventsSound]; done) | (simp_all [Arrays, EventsSound]; omega))

theorem sound_endRun (h : ℕ) (residual : ℤ) (r : CalRunning) {m : Part} (hm : Sound v m) : Sound v (endRun h residual r m) := by
  unfold endRun
  repeat' first
    | (with_reducible apply sound_closeIfLive)
    | (with_reducible apply sound_catchHalf)
    | (with_reducible apply sound_onHalf)
    | (with_reducible apply sound_unfreezeBands)
    | (with_reducible apply sound_rewriteEntry)
    | (with_reducible apply sound_raiseAt)
    | (with_reducible apply sound_endTarget)
    | (with_reducible apply sound_endHolds)
    | (refine Sound.mk ?_ ?_ ?_ ?_ <;> cases_type* Sound <;> first | assumption | (simp_all [Arrays, EventsSound]; done) | (simp_all [Arrays, EventsSound]; omega))

theorem sound_execCalRunEnd (t : ℕ) (half : ℕ) (r : CalResult) (s : State) (hs : Sound v s.part) : SoundOut v (execCalRunEnd t half r s) := by
  unfold execCalRunEnd
  repeat' first
    | with_reducible assumption
    | (intro y; intro (hy : Sound v _); (try beta_reduce))
    | (with_reducible apply soundOut_runIf)
    | (with_reducible apply sound_onTick)
    | (with_reducible apply sound_endRun)
    | split

theorem sound_execCalRampIncrement (t : ℕ) (half : ℕ) (s : State) (hs : Sound v s.part) : SoundOut v (execCalRampIncrement t half s) := by
  unfold execCalRampIncrement
  repeat' first
    | with_reducible assumption
    | (intro y; intro (hy : Sound v _); (try beta_reduce))
    | (with_reducible apply soundOut_runIf)
    | (with_reducible apply sound_onTick)
    | (with_reducible apply sound_onCal)

theorem sound_execMuteLead (t : ℕ) (half : ℕ) (s : State) (hs : Sound v s.part) : SoundOut v (execMuteLead t half s) := by
  unfold execMuteLead
  repeat' first
    | with_reducible assumption
    | (intro y; intro (hy : Sound v _); (try beta_reduce))
    | (with_reducible apply soundOut_runIf)
    | (with_reducible apply sound_onTick)
    | (with_reducible apply sound_assertPins)
    | (with_reducible apply sound_onCal)
    | (with_reducible apply sound_beginCalHold)

theorem sound_execMuteTrail (t : ℕ) (pin : ℕ) (s : State) (hs : Sound v s.part) : SoundOut v (execMuteTrail t pin s) := by
  unfold execMuteTrail
  repeat' first
    | (intro y; intro (hy : Sound v _); (try beta_reduce))
    | (with_reducible apply soundOut_runIf)
    | (with_reducible apply sound_onTick)
    | (refine Sound.mk ?_ ?_ ?_ ?_ <;> cases_type* Sound <;> first | assumption | (simp_all [Arrays, EventsSound]; done) | (simp_all [Arrays, EventsSound]; omega))

theorem sound_execBgConverged (t : ℕ) (e : BgEstimate) (s : State) (hs : Sound v s.part) : SoundOut v (execBgConverged t e s) := by
  unfold execBgConverged
  repeat' first
    | with_reducible assumption
    | (intro y; intro (hy : Sound v _); (try beta_reduce))
    | (with_reducible apply soundOut_runIf)
    | (with_reducible apply sound_onTick)
    | (with_reducible apply sound_onHalf)
    | split

theorem sound_execBgHeld (t : ℕ) (half : ℕ) (s : State) (hs : Sound v s.part) : SoundOut v (execBgHeld t half s) := by
  unfold execBgHeld
  repeat' first
    | with_reducible assumption
    | (intro y; intro (hy : Sound v _); (try beta_reduce))
    | ((try lift_lets -underBinder); intro x; first
        | (refine (fun hx : Sound v x => ?_) ?_; (on_goal 1 => clear_value x); (on_goal 2 => (simp -zeta only [x]; clear x)))
        | subst x)
    | (with_reducible apply soundOut_runIf)
    | (with_reducible apply sound_onTick)
    | (with_reducible apply sound_onHalf)
    | split

end Sys2Proof.Laws
end

