-- ==== Sys2Proof/Laws/SoundSampling.lean ====
section
/-! SUPPORT. Each operation of Machine/Sampling.lean keeps `Safety.Sound`: one lemma per operation, by the lemmas of the operations it
calls. -/

namespace Sys2Proof.Laws

open Sys2Proof Sys2Proof.Machine Sys2Proof.Safety

set_option linter.all false

variable {v : Fused} {m : Part}
theorem sound_feedHalf (h : ℕ) (samples : List ℤ) {m : Part} (hm : Sound v m) : Sound v (feedHalf h samples m) := by
  have hc : ∀ m c, Sound v m → Sound v { m with ctxs := c } := fun _ _ h => ⟨h.1, h.2, h.3, h.4⟩
  refine sound_ite hm ?_
  exact sound_foldl _ _ (fun a _ hy => sound_catchUp a hy) (sound_foldl _ _ (fun a _ hy => hc _ _ hy)
    (sound_onHalf _ _ (sound_captureSamples _ _ _ hm)))

theorem sound_execDetectorPeriodEnd (t : ℕ) (half : ℕ) (r : DetectorPeriod) (s : State) (hs : Sound v s.part) : SoundOut v (execDetectorPeriodEnd t half r s) := by
  unfold execDetectorPeriodEnd
  repeat' first
    | with_reducible assumption
    | (intro y; intro (hy : Sound v _); (try beta_reduce))
    | (with_reducible apply soundOut_runIf)
    | (with_reducible apply sound_onTick)
    | (with_reducible apply sound_endPeriod)
    | (with_reducible apply sound_feedHalf)
    | split

end Sys2Proof.Laws
end

