-- ==== Sys2Proof/Laws/SoundAnalogue.lean ====
section
/-! SUPPORT. Each operation of Machine/Analogue.lean keeps `Safety.Sound`: one lemma per operation, by the lemmas of the operations it
calls. -/

namespace Sys2Proof.Laws

open Sys2Proof Sys2Proof.Machine Sys2Proof.Safety

set_option linter.all false

variable {v : Fused} {m : Part}
theorem sound_noteResets (c : ℕ) (resets : ℕ) {m : Part} (hm : Sound v m) : Sound v (noteResets c resets m) := by
  unfold noteResets
  repeat' first
    | with_reducible assumption
    | ((try lift_lets -underBinder); intro x; first
        | (refine (fun hx : Sound v x => ?_) ?_; (on_goal 1 => clear_value x); (on_goal 2 => (simp -zeta only [x]; clear x)))
        | subst x)
    | (with_reducible apply sound_onCtx)
    | (with_reducible apply sound_raise)
    | split

theorem sound_judgeAnalogue (c : ℕ) {m : Part} (hm : Sound v m) : Sound v (judgeAnalogue c m) := by
  unfold judgeAnalogue
  repeat' first
    | with_reducible assumption
    | (with_reducible apply sound_onSet)
    | (with_reducible refine sound_foldl _ _ (fun a y hy => ?_) ?_; (on_goal 1 => beta_reduce))
    | split

theorem sound_amFmBlock (c : ℕ) (b : BlockMeasure) {m : Part} (hm : Sound v m) : Sound v (amFmBlock c b m) := by
  unfold amFmBlock
  repeat' first
    | with_reducible assumption
    | (with_reducible apply sound_agcStep)
    | (with_reducible apply sound_onCtx)
    | (with_reducible apply sound_notePilot)
    | (with_reducible apply sound_deliver)
    | (with_reducible apply sound_judgeAnalogue)
    | (with_reducible apply sound_noteResets)
    | (with_reducible apply sound_blockPcm)
    | split

theorem sound_execAmFmBlock (t : ℕ) (ctx : ℕ) (b : BlockMeasure) (s : State) (hs : Sound v s.part) : SoundOut v (execAmFmBlock t ctx b s) := by
  unfold execAmFmBlock
  repeat' first
    | with_reducible assumption
    | (with_reducible apply soundOut_run)
    | (with_reducible apply sound_onTick)
    | (with_reducible apply sound_amFmBlock)

theorem sound_setPilots (c : ℕ) (p : Pilot) (test : CopyState → Bool) {m : Part} (hm : Sound v m) : Sound v (setPilots c p test m) := by
  unfold setPilots
  repeat' first
    | with_reducible assumption
    | (with_reducible apply sound_notePilot)
    | (with_reducible apply sound_onCtx)
    | split

theorem sound_execPilotAbsent (t : ℕ) (ctx : ℕ) (s : State) (hs : Sound v s.part) : SoundOut v (execPilotAbsent t ctx s) := by
  unfold execPilotAbsent
  repeat' first
    | with_reducible assumption
    | (intro y; intro (hy : Sound v _); (try beta_reduce))
    | (with_reducible apply soundOut_run)
    | (with_reducible apply sound_onTick)
    | (with_reducible apply sound_setPilots)
    | split

theorem sound_execPilotLock (t : ℕ) (ctx : ℕ) (s : State) (hs : Sound v s.part) : SoundOut v (execPilotLock t ctx s) := by
  unfold execPilotLock
  repeat' first
    | with_reducible assumption
    | (intro y; intro (hy : Sound v _); (try beta_reduce))
    | (with_reducible apply soundOut_run)
    | (with_reducible apply sound_onTick)
    | (with_reducible apply sound_setPilots)
    | split

theorem sound_execPilotLost (t : ℕ) (ctx : ℕ) (s : State) (hs : Sound v s.part) : SoundOut v (execPilotLost t ctx s) := by
  unfold execPilotLost
  repeat' first
    | with_reducible assumption
    | (intro y; intro (hy : Sound v _); (try beta_reduce))
    | (with_reducible apply soundOut_run)
    | (with_reducible apply sound_onTick)
    | (with_reducible apply sound_setPilots)
    | split

theorem sound_rdsSyncEvent (c : ℕ) (state : ℕ) {m : Part} (hm : Sound v m) : Sound v (rdsSyncEvent c state m) := by
  unfold rdsSyncEvent
  repeat' first
    | with_reducible assumption
    | (with_reducible apply sound_raise)

theorem sound_deliverGroup (c : ℕ) (g : List (ℕ × ℕ × ℕ)) (erased : Bool) {m : Part} (hm : Sound v m) : Sound v (deliverGroup c g erased m) := by
  unfold deliverGroup
  repeat' first
    | with_reducible assumption
    | (with_reducible apply sound_appendSides)

theorem sound_scanHeard (c : ℕ) (kHz : ℕ) (key : ServiceKey) (fresh_ : Bool) {m : Part} (hm : Sound v m) : Sound v (scanHeard c kHz key fresh_ m) := by
  unfold scanHeard
  repeat' first
    | ((try lift_lets -underBinder); intro x; first
        | (refine (fun hx : Sound v x => ?_) ?_; (on_goal 1 => clear_value x); (on_goal 2 => (simp -zeta only [x]; clear x)))
        | subst x)
    | (with_reducible apply sound_learnFreq)
    | split
    | (refine Sound.mk ?_ ?_ ?_ ?_ <;> cases_type* Sound <;> first | assumption | (simp_all [Arrays, EventsSound]; done) | (simp_all [Arrays, EventsSound]; omega))

theorem sound_rdsPi (c : ℕ) (pi : ℕ) (back : ℕ) (low : Bool) {m : Part} (hm : Sound v m) : Sound v (rdsPi c pi back low m) := by
  unfold rdsPi
  repeat' first
    | with_reducible assumption
    | (with_reducible apply sound_onRds)
    | (with_reducible apply sound_appendSides)
    | (with_reducible apply sound_scanHeard)
    | (with_reducible apply sound_hearService)
    | split

theorem sound_rdsPty (c : ℕ) (info : ℕ) {m : Part} (hm : Sound v m) : Sound v (rdsPty c info m) := by
  unfold rdsPty
  repeat' first
    | with_reducible assumption
    | ((try lift_lets -underBinder); intro x; first
        | (refine (fun hx : Sound v x => ?_) ?_; (on_goal 1 => clear_value x); (on_goal 2 => (simp -zeta only [x]; clear x)))
        | subst x)
    | (with_reducible apply sound_alarmEvent)
    | (with_reducible apply sound_onRds)
    | split

theorem sound_rdsDecode (c : ℕ) (type : ℕ) (status : ℕ) (offset : ℕ) (b : RdsBlock) {m : Part} (hm : Sound v m) : Sound v (rdsDecode c type status offset b m) := by
  unfold rdsDecode
  repeat' first
    | with_reducible assumption
    | (with_reducible apply sound_rdsPi)
    | (with_reducible apply sound_rdsPty)
    | split

theorem sound_rdsSynced (c : ℕ) (x : Ctx) (b : RdsBlock) {m : Part} (hm : Sound v m) : Sound v (rdsSynced c x b m) := by
  unfold rdsSynced
  repeat' first
    | with_reducible assumption
    | ((try lift_lets -underBinder); intro x; first
        | (refine (fun hx : Sound v x => ?_) ?_; (on_goal 1 => clear_value x); (on_goal 2 => (simp -zeta only [x]; clear x)))
        | subst x)
    | (with_reducible apply sound_onRds)
    | (with_reducible apply sound_countErrors)
    | (with_reducible apply sound_deliverGroup)
    | (with_reducible apply sound_rdsDecode)
    | (with_reducible apply sound_rdsGroup)
    | (with_reducible apply sound_rdsSyncEvent)
    | split

theorem sound_rdsSearch (c : ℕ) (x : Ctx) (b : RdsBlock) {m : Part} (hm : Sound v m) : Sound v (rdsSearch c x b m) := by
  unfold rdsSearch
  extract_lets clean
  generalize clean = o
  split
  · split
    · exact sound_rdsDecode _ _ _ _ _ (sound_rdsSyncEvent _ _ (sound_onRds _ _ hm))
    · exact sound_onRds _ _ hm
  · exact sound_onRds _ _ hm
  · split
    · exact hm
    · exact sound_onRds _ _ hm
  · exact sound_onRds _ _ hm

theorem sound_execRdsBlock (t : ℕ) (ctx : ℕ) (b : RdsBlock) (s : State) (hs : Sound v s.part) : SoundOut v (execRdsBlock t ctx b s) := by
  unfold execRdsBlock
  repeat' first
    | with_reducible assumption
    | (intro y; intro (hy : Sound v _); (try beta_reduce))
    | (with_reducible apply soundOut_run)
    | (with_reducible apply sound_onTick)
    | (with_reducible apply sound_rdsSynced)
    | (with_reducible apply sound_rdsSearch)
    | split

end Sys2Proof.Laws
end

