-- ==== Sys2Proof/Laws/SoundEgress.lean ====
section
/-! SUPPORT. Each operation of Machine/Egress.lean keeps `Safety.Sound`: one lemma per operation, by the lemmas of the operations it
calls. -/

namespace Sys2Proof.Laws

open Sys2Proof Sys2Proof.Machine Sys2Proof.Safety

set_option linter.all false

variable {v : Fused} {m : Part}
theorem sound_setVirtualTime (link : ℕ) (x1 : ℕ) {m : Part} (hm : Sound v m) : Sound v (setVirtualTime link x1 m) := by
  unfold setVirtualTime
  repeat' first
    | (refine Sound.mk ?_ ?_ ?_ ?_ <;> cases_type* Sound <;> first | assumption | (simp_all [Arrays, EventsSound]; done) | (simp_all [Arrays, EventsSound]; omega))

theorem sound_refreshTags {m : Part} (hm : Sound v m) : Sound v (refreshTags m) := by
  unfold refreshTags
  repeat' first
    | (refine Sound.mk ?_ ?_ ?_ ?_ <;> cases_type* Sound <;> first | assumption | (simp_all [Arrays, EventsSound]; done) | (simp_all [Arrays, EventsSound]; omega))

end Sys2Proof.Laws
end

