-- ==== Sys2Proof/Laws/SoundHost.lean ====
section
/-! SUPPORT. Each operation of Machine/Host.lean keeps `Safety.Sound`: one lemma per operation, by the lemmas of the operations it
calls. -/

namespace Sys2Proof.Laws

open Sys2Proof Sys2Proof.Machine Sys2Proof.Safety

set_option linter.all false

variable {v : Fused} {m : Part}
theorem sound_performNop (x0 : Desc) (x1 : Origin) {m : Part} (hm : Sound v m) : Sound v (performNop x0 x1 m).1 := by
  unfold performNop
  repeat' first
    | with_reducible assumption

theorem sound_execNop (d : Desc) (s : State) (hs : Sound v s.part) : SoundOut v (execNop d s) := by
  unfold execNop
  repeat' first
    | with_reducible assumption
    | (with_reducible apply soundOut_run)
    | (with_reducible apply sound_accept)
    | (with_reducible apply sound_performNop)

theorem sound_performIdentify (x0 : Desc) (x1 : Origin) {m : Part} (hm : Sound v m) : Sound v (performIdentify x0 x1 m).1 := by
  unfold performIdentify
  repeat' first
    | with_reducible assumption

theorem sound_execIdentify (d : Desc) (s : State) (hs : Sound v s.part) : SoundOut v (execIdentify d s) := by
  unfold execIdentify
  repeat' first
    | with_reducible assumption
    | (with_reducible apply soundOut_run)
    | (with_reducible apply sound_accept)
    | (with_reducible apply sound_performIdentify)

theorem sound_performRouteSources (first : ℕ) (last : ℕ) (toRing : ℕ) (vec : ℕ) (x4 : Desc) (x5 : Origin) {m : Part} (hm : Sound v m) : Sound v (performRouteSources first last toRing vec x4 x5 m).1 := by
  unfold performRouteSources
  repeat' first
    | (refine Sound.mk ?_ ?_ ?_ ?_ <;> cases_type* Sound <;> first | assumption | (simp_all [Arrays, EventsSound]; done) | (simp_all [Arrays, EventsSound]; omega))

theorem sound_execEventRouteSources (d : Desc) (first : ℕ) (last : ℕ) (toRing : ℕ) (vector : ℕ) (s : State) (hs : Sound v s.part) : SoundOut v (execEventRouteSources d first last toRing vector s) := by
  unfold execEventRouteSources
  repeat' first
    | with_reducible assumption
    | (with_reducible apply soundOut_run)
    | (with_reducible apply sound_accept)
    | (with_reducible apply sound_performRouteSources)

theorem sound_performRouteVector (vec : ℕ) (holdoff : ℕ) (count : ℕ) (x3 : Desc) (x4 : Origin) {m : Part} (hm : Sound v m) : Sound v (performRouteVector vec holdoff count x3 x4 m).1 := by
  unfold performRouteVector
  repeat' first
    | with_reducible assumption
    | ((try lift_lets -underBinder); intro x; first
        | (refine (fun hx : Sound v x => ?_) ?_; (on_goal 1 => clear_value x); (on_goal 2 => (simp -zeta only [x]; clear x)))
        | subst x)
    | (with_reducible apply sound_setVector)
    | (with_reducible apply sound_sendVector)
    | split

theorem sound_execEventRouteVector (d : Desc) (vector : ℕ) (holdoff : ℕ) (count : ℕ) (s : State) (hs : Sound v s.part) : SoundOut v (execEventRouteVector d vector holdoff count s) := by
  unfold execEventRouteVector
  repeat' first
    | with_reducible assumption
    | (with_reducible apply soundOut_run)
    | (with_reducible apply sound_accept)
    | (with_reducible apply sound_performRouteVector)

theorem sound_ringError (kind : ℕ) (cause : ℕ) (ring : ℕ) (seen : ℕ) {m : Part} (hm : Sound v m) : Sound v (ringError kind cause ring seen m) := by
  unfold ringError
  repeat' first
    | with_reducible assumption
    | (with_reducible apply sound_raise)

theorem sound_stopRing (kind : ℕ) (cause : ℕ) (ring : ℕ) (seen : ℕ) {m : Part} (hm : Sound v m) : Sound v (stopRing kind cause ring seen m) := by
  unfold stopRing
  repeat' first
    | with_reducible assumption
    | (with_reducible apply sound_ringError)
    | (with_reducible apply sound_writeShadow)

theorem sound_onCmd (n : ℕ) (f : CmdRing → CmdRing) {m : Part} (hm : Sound v m) : Sound v (onCmd n f m) := by
  unfold onCmd
  repeat' first
    | (refine Sound.mk ?_ ?_ ?_ ?_ <;> cases_type* Sound <;> first | assumption | (simp_all [Arrays, EventsSound]; done) | (simp_all [Arrays, EventsSound]; omega))

theorem sound_fetchCmd (n : ℕ) (prod : ℕ) {m : Part} (hm : Sound v m) : Sound v (fetchCmd n prod m) := by
  unfold fetchCmd
  repeat' first
    | with_reducible assumption
    | ((try lift_lets -underBinder); intro x; first
        | (refine (fun hx : Sound v x => ?_) ?_; (on_goal 1 => clear_value x); (on_goal 2 => (simp -zeta only [x]; clear x)))
        | subst x)
    | (with_reducible apply sound_stopRing)
    | (with_reducible apply sound_onCmd)
    | split

theorem sound_fetchCpl (n : ℕ) (cons : ℕ) {m : Part} (hm : Sound v m) : Sound v (fetchCpl n cons m) := by
  unfold fetchCpl
  repeat' first
    | with_reducible assumption
    | ((try lift_lets -underBinder); intro x; first
        | (refine (fun hx : Sound v x => ?_) ?_; (on_goal 1 => clear_value x); (on_goal 2 => (simp -zeta only [x]; clear x)))
        | subst x)
    | (with_reducible apply sound_stopRing)
    | (with_reducible apply sound_onCpl)
    | split

theorem sound_fetchEvt (cons : ℕ) {m : Part} (hm : Sound v m) : Sound v (fetchEvt cons m) := by
  unfold fetchEvt
  repeat' first
    | ((try lift_lets -underBinder); intro x; first
        | (refine (fun hx : Sound v x => ?_) ?_; (on_goal 1 => clear_value x); (on_goal 2 => (simp -zeta only [x]; clear x)))
        | subst x)
    | (with_reducible apply sound_stopRing)
    | split
    | (refine Sound.mk ?_ ?_ ?_ ?_ <;> cases_type* Sound <;> first | assumption | (simp_all [Arrays, EventsSound]; done) | (simp_all [Arrays, EventsSound]; omega))

theorem sound_onRing (r : ℕ) (f : FlowRing → FlowRing) {m : Part} (hm : Sound v m) : Sound v (onRing r f m) := by
  unfold onRing
  repeat' first
    | (refine Sound.mk ?_ ?_ ?_ ?_ <;> cases_type* Sound <;> first | assumption | (simp_all [Arrays, EventsSound]; done) | (simp_all [Arrays, EventsSound]; omega))

theorem sound_fetchFlow (x : FlowDoorbell) {m : Part} (hm : Sound v m) : Sound v (fetchFlow x m) := by
  unfold fetchFlow
  repeat' first
    | with_reducible assumption
    | (with_reducible apply sound_stopRing)
    | (with_reducible apply sound_onRing)
    | split

theorem sound_fetchList {f : Nat → Nat → Part → Part} {n : Nat} {l : List Nat} {m : Part}
    (hf : ∀ a b m, Sound v m → Sound v (f a b m)) (h : Sound v m) : Sound v (fetchList f n l m) := by
  induction l generalizing n m with
  | nil => exact h
  | cons a l ih => exact ih (hf n a m h)

theorem sound_fetchFlows (x0 : List FlowDoorbell) {m : Part} : Sound v m → Sound v (fetchFlows x0 m) := by
  fun_induction fetchFlows x0 m <;> intros
  all_goals repeat' first
    | (with_reducible apply sound_fetchFlow)
    | (with_reducible apply_assumption -exfalso -symm)

theorem sound_drainHeld {m : Part} (hm : Sound v m) : Sound v (drainHeld m) := by
  unfold drainHeld
  repeat' first
    | with_reducible assumption
    | (with_reducible apply sound_drainCompletions)
    | (with_reducible apply sound_drainEvents)

theorem sound_dmaError {m : Part} (e : ℕ × ℕ) (hm : Sound v m) : Sound v (dmaError m e) := by
  unfold dmaError
  repeat' first
    | ((try lift_lets -underBinder); intro x; first
        | (refine (fun hx : Sound v x => ?_) ?_; (on_goal 1 => clear_value x); (on_goal 2 => (simp -zeta only [x]; clear x)))
        | subst x)
    | (with_reducible apply sound_stopRing)
    | (with_reducible apply sound_onCmd)
    | (with_reducible apply sound_onCpl)
    | split
    | (refine Sound.mk ?_ ?_ ?_ ?_ <;> cases_type* Sound <;> first | assumption | (simp_all [Arrays, EventsSound]; done) | (simp_all [Arrays, EventsSound]; omega))

theorem sound_fetchDoorbell (p : DoorbellPage) {m : Part} (hm : Sound v m) : Sound v (fetchDoorbell p m) := by
  unfold fetchDoorbell
  repeat' first
    | with_reducible assumption
    | ((try lift_lets -underBinder); intro x; first
        | (refine (fun hx : Sound v x => ?_) ?_; (on_goal 1 => clear_value x); (on_goal 2 => (simp -zeta only [x]; clear x)))
        | subst x)
    | (with_reducible apply sound_ringError)
    | (with_reducible apply sound_fetchList)
    | (with_reducible apply sound_fetchCmd)
    | (with_reducible apply sound_fetchCpl)
    | (with_reducible apply sound_fetchFlows)
    | (with_reducible apply sound_fetchEvt)
    | (with_reducible apply sound_refreshTags)
    | (with_reducible apply sound_drainHeld)
    | (with_reducible apply sound_dmaError)
    | (with_reducible refine sound_foldl _ _ (fun a y hy => ?_) ?_; (on_goal 1 => beta_reduce))
    | split
    | (refine Sound.mk ?_ ?_ ?_ ?_ <;> cases_type* Sound <;> first | assumption | (simp_all [Arrays, EventsSound]; done) | (simp_all [Arrays, EventsSound]; omega))

theorem sound_execDoorbellFetch (t : ℕ) (page : DoorbellPage) (s : State) (hs : Sound v s.part) : SoundOut v (execDoorbellFetch t page s) := by
  unfold execDoorbellFetch
  repeat' first
    | with_reducible assumption
    | (with_reducible apply soundOut_run)
    | (with_reducible apply sound_onTick)
    | (with_reducible apply sound_fetchDoorbell)
    | (with_reducible refine sound_elim _ _ ?_ (fun a => ?_); (on_goal 2 => beta_reduce))
    | split

theorem sound_restartRings {m : Part} (hm : Sound v m) : Sound v (restartRings m) := by
  unfold restartRings
  repeat' first
    | (refine Sound.mk ?_ ?_ ?_ ?_ <;> cases_type* Sound <;> first | assumption | (simp_all [Arrays, EventsSound]; done) | (simp_all [Arrays, EventsSound]; omega))

theorem sound_enableHif {m : Part} (hm : Sound v m) : Sound v (enableHif m) := by
  unfold enableHif
  repeat' first
    | ((try lift_lets -underBinder); intro x; first
        | (refine (fun hx : Sound v x => ?_) ?_; (on_goal 1 => clear_value x); (on_goal 2 => (simp -zeta only [x]; clear x)))
        | subst x)
    | (with_reducible apply sound_restartRings)
    | (with_reducible apply sound_refreshTags)
    | (with_reducible apply sound_drainHeld)
    | split
    | (refine Sound.mk ?_ ?_ ?_ ?_ <;> cases_type* Sound <;> first | assumption | (simp_all [Arrays, EventsSound]; done) | (simp_all [Arrays, EventsSound]; omega))

theorem sound_disableHif {m : Part} (hm : Sound v m) : Sound v (disableHif m) := by
  unfold disableHif
  repeat' first
    | split
    | (refine Sound.mk ?_ ?_ ?_ ?_ <;> cases_type* Sound <;> first | assumption | (simp_all [Arrays, EventsSound]; done) | (simp_all [Arrays, EventsSound]; omega))

theorem sound_execHifEnable (t : ℕ) (s : State) (hs : Sound v s.part) : SoundOut v (execHifEnable t s) := by
  unfold execHifEnable
  repeat' first
    | with_reducible assumption
    | (with_reducible apply soundOut_run)
    | (with_reducible apply soundOut_runIf)
    | (with_reducible apply soundOut_stop)
    | (with_reducible apply sound_onTick)
    | (with_reducible apply sound_enableHif)

theorem sound_execHifDisable (t : ℕ) (s : State) (hs : Sound v s.part) : SoundOut v (execHifDisable t s) := by
  unfold execHifDisable
  repeat' first
    | with_reducible assumption
    | (with_reducible apply soundOut_run)
    | (with_reducible apply sound_onTick)
    | (with_reducible apply sound_disableHif)

theorem sound_execHifLock (t : ℕ) (s : State) (hs : Sound v s.part) : SoundOut v (execHifLock t s) := by
  unfold execHifLock
  repeat' first
    | (with_reducible apply soundOut_run)
    | (refine Sound.mk ?_ ?_ ?_ ?_ <;> cases_type* Sound <;> first | assumption | (simp_all [Arrays, EventsSound]; done) | (simp_all [Arrays, EventsSound]; omega))

theorem sound_execHifQuiesced (t : ℕ) (s : State) (hs : Sound v s.part) : SoundOut v (execHifQuiesced t s) := by
  unfold execHifQuiesced
  repeat' first
    | (intro y; intro (hy : Sound v _); (try beta_reduce))
    | (with_reducible apply soundOut_run)
    | (with_reducible apply sound_onTick)
    | split
    | (refine Sound.mk ?_ ?_ ?_ ?_ <;> cases_type* Sound <;> first | assumption | (simp_all [Arrays, EventsSound]; done) | (simp_all [Arrays, EventsSound]; omega))

theorem sound_nudge {m : Part} (hm : Sound v m) : Sound v (nudge m) := by
  unfold nudge
  repeat' first
    | split
    | (refine Sound.mk ?_ ?_ ?_ ?_ <;> cases_type* Sound <;> first | assumption | (simp_all [Arrays, EventsSound]; done) | (simp_all [Arrays, EventsSound]; omega))

theorem sound_execHifNudge (t : ℕ) (_value : ℕ) (s : State) (hs : Sound v s.part) : SoundOut v (execHifNudge t _value s) := by
  unfold execHifNudge
  repeat' first
    | with_reducible assumption
    | (with_reducible apply soundOut_run)
    | (with_reducible apply sound_onTick)
    | (with_reducible apply sound_nudge)

theorem sound_execMsixHoldoffExpiry (t : ℕ) (vector : ℕ) (s : State) (hs : Sound v s.part) : SoundOut v (execMsixHoldoffExpiry t vector s) := by
  unfold execMsixHoldoffExpiry
  repeat' first
    | with_reducible assumption
    | (intro y; intro (hy : Sound v _); (try beta_reduce))
    | ((try lift_lets -underBinder); intro x; first
        | (refine (fun hx : Sound v x => ?_) ?_; (on_goal 1 => clear_value x); (on_goal 2 => (simp -zeta only [x]; clear x)))
        | subst x)
    | (with_reducible apply soundOut_runIf)
    | (with_reducible apply sound_onTick)
    | (with_reducible apply sound_sendVector)
    | split

theorem sound_setMask (x0 : ℕ) (masked : Bool) {m : Part} (hm : Sound v m) : Sound v (setMask x0 masked m) := by
  unfold setMask
  repeat' first
    | with_reducible assumption
    | ((try lift_lets -underBinder); intro x; first
        | (refine (fun hx : Sound v x => ?_) ?_; (on_goal 1 => clear_value x); (on_goal 2 => (simp -zeta only [x]; clear x)))
        | subst x)
    | (with_reducible apply sound_setVector)
    | (with_reducible apply sound_sendMsix)
    | split

theorem sound_execMsixUnmask (t : ℕ) (vector : ℕ) (s : State) (hs : Sound v s.part) : SoundOut v (execMsixUnmask t vector s) := by
  unfold execMsixUnmask
  repeat' first
    | with_reducible assumption
    | (with_reducible apply soundOut_runIf)
    | (with_reducible apply sound_onTick)
    | (with_reducible apply sound_setMask)

end Sys2Proof.Laws
end

