-- ==== Sys2Proof/Laws/SoundHalves.lean ====
section
/-! SUPPORT. Each operation of Machine/Halves.lean keeps `Safety.Sound`: one lemma per operation, by the lemmas of the operations it
calls. -/

namespace Sys2Proof.Laws

open Sys2Proof Sys2Proof.Machine Sys2Proof.Safety

set_option linter.all false

variable {v : Fused} {m : Part}
theorem sound_parkHalf (h : ℕ) {m : Part} (hm : Sound v m) : Sound v (parkHalf h m) := by
  unfold parkHalf
  repeat' first
    | with_reducible assumption
    | (with_reducible apply sound_stopCapture)
    | (with_reducible apply sound_abandonRun)
    | (with_reducible apply sound_dropAllPlaced)
    | (with_reducible apply sound_onHalf)
    | (with_reducible apply sound_openIso)
    | (with_reducible apply sound_freezeBands)
    | split

theorem sound_liveHalf (h : ℕ) (mode : HalfMode) {m : Part} (hm : Sound v m) : Sound v (liveHalf h mode m) := by
  unfold liveHalf
  repeat' first
    | with_reducible assumption
    | (with_reducible apply sound_judgeDue)
    | (with_reducible apply sound_unfreezeBands)
    | (with_reducible apply sound_closeIso)
    | (with_reducible apply sound_onHalf)
    | split

theorem sound_liveUnlessFenced (h : ℕ) (mode : HalfMode) {m : Part} (hm : Sound v m) : Sound v (liveUnlessFenced h mode m) := by
  unfold liveUnlessFenced
  repeat' first
    | with_reducible assumption
    | (with_reducible apply sound_liveHalf)
    | split

theorem sound_noteDue (h : ℕ) {m : Part} (hm : Sound v m) : Sound v (noteDue h m) := by
  unfold noteDue
  repeat' first
    | with_reducible assumption
    | (with_reducible apply sound_onCtx)
    | (with_reducible refine sound_foldl _ _ (fun a y hy => ?_) ?_; (on_goal 1 => beta_reduce))

theorem sound_setPair (h : ℕ) (mode : HalfMode) (diversity : Bool) {m : Part} (hm : Sound v m) : Sound v (setPair h mode diversity m) := by
  unfold setPair
  repeat' first
    | with_reducible assumption
    | ((try lift_lets -underBinder); intro x; first
        | (refine (fun hx : Sound v x => ?_) ?_; (on_goal 1 => clear_value x); (on_goal 2 => (simp -zeta only [x]; clear x)))
        | subst x)
    | (with_reducible apply sound_onHalf)
    | (with_reducible apply sound_liveUnlessFenced)
    | (with_reducible apply sound_liveHalf)
    | (with_reducible apply sound_followShared)
    | (with_reducible apply sound_noteDue)
    | split

theorem sound_setAlone (h : ℕ) (mode : HalfMode) {m : Part} (hm : Sound v m) : Sound v (setAlone h mode m) := by
  unfold setAlone
  repeat' first
    | with_reducible assumption
    | ((try lift_lets -underBinder); intro x; first
        | (refine (fun hx : Sound v x => ?_) ?_; (on_goal 1 => clear_value x); (on_goal 2 => (simp -zeta only [x]; clear x)))
        | subst x)
    | (with_reducible apply sound_onHalf)
    | (with_reducible apply sound_parkHalf)
    | (with_reducible apply sound_liveHalf)
    | (with_reducible apply sound_liveUnlessFenced)
    | split

theorem sound_applyMode (h : ℕ) (mode : ℕ) (input : ℕ) {m : Part} (hm : Sound v m) : Sound v (applyMode h mode input m).1 := by
  unfold applyMode
  repeat' first
    | with_reducible assumption
    | (with_reducible apply sound_setPair)
    | (with_reducible apply sound_setAlone)
    | split

theorem sound_performMode (h : ℕ) (mode : ℕ) (input : ℕ) (x3 : Desc) (x4 : Origin) {m : Part} (hm : Sound v m) : Sound v (performMode h mode input x3 x4 m).1 := by
  unfold performMode
  repeat' first
    | with_reducible assumption
    | ((try lift_lets -underBinder); intro x; first
        | (refine (fun hx : Sound v x => ?_) ?_; (on_goal 1 => clear_value x); (on_goal 2 => (simp -zeta only [x]; clear x)))
        | subst x)
    | (with_reducible apply sound_applyMode)
    | split

theorem sound_execHalfSetupMode (d : Desc) (half : ℕ) (mode : ℕ) (input : ℕ) (s : State) (hs : Sound v s.part) : SoundOut v (execHalfSetupMode d half mode input s) := by
  unfold execHalfSetupMode
  repeat' first
    | with_reducible assumption
    | (with_reducible apply soundOut_run)
    | (with_reducible apply sound_accept)
    | (with_reducible apply sound_performMode)

theorem sound_fenceCopy (h : ℕ) (c : ℕ) {m : Part} (hm : Sound v m) : Sound v (fenceCopy h c m) := by
  unfold fenceCopy
  repeat' first
    | with_reducible assumption
    | (with_reducible apply sound_changeCtx)
    | (with_reducible apply sound_catchUp)

theorem sound_withdrawHalf (h : ℕ) (cause : ℕ) {m : Part} (hm : Sound v m) : Sound v (withdrawHalf h cause m) := by
  unfold withdrawHalf
  repeat' first
    | with_reducible assumption
    | (with_reducible apply sound_stopCapture)
    | (with_reducible apply sound_abandonRun)
    | (with_reducible apply sound_dropAllPlaced)
    | (with_reducible apply sound_onHalf)
    | (with_reducible apply sound_openIso)
    | (with_reducible apply sound_freezeBands)

theorem sound_fenceHalf (h : ℕ) (cause : ℕ) (scope : ℕ) (detail : ℕ) {m : Part} (hm : Sound v m) : Sound v (fenceHalf h cause scope detail m) := by
  unfold fenceHalf
  repeat' first
    | with_reducible assumption
    | (with_reducible apply sound_fenceCopy)
    | (with_reducible apply sound_closeCtxs)
    | (with_reducible apply sound_loseMembers)
    | (with_reducible apply sound_withdrawHalf)
    | (with_reducible apply sound_tidyPins)
    | (with_reducible apply sound_dropOrphans)
    | (with_reducible apply sound_withdraw)
    | (with_reducible apply sound_raise)
    | (with_reducible refine sound_foldl _ _ (fun a y hy => ?_) ?_; (on_goal 1 => beta_reduce))
    | split

theorem sound_fenceTile (t : ℕ) (cause : ℕ) (detail : ℕ) {m : Part} (hm : Sound v m) : Sound v (fenceTile t cause detail m) := by
  unfold fenceTile
  repeat' first
    | with_reducible assumption
    | (with_reducible apply sound_fenceHalf)

theorem sound_execTileLinkFault (t : ℕ) (tile : ℕ) (detail : ℕ) (s : State) (hs : Sound v s.part) : SoundOut v (execTileLinkFault t tile detail s) := by
  unfold execTileLinkFault
  repeat' first
    | with_reducible assumption
    | (with_reducible apply soundOut_runIf)
    | (with_reducible apply sound_onTick)
    | (with_reducible apply sound_fenceTile)

theorem sound_execMemoryFault (t : ℕ) (half : ℕ) (detail : ℕ) (s : State) (hs : Sound v s.part) : SoundOut v (execMemoryFault t half detail s) := by
  unfold execMemoryFault
  repeat' first
    | with_reducible assumption
    | (with_reducible apply soundOut_runIf)
    | (with_reducible apply sound_onTick)
    | (with_reducible apply sound_fenceHalf)

theorem sound_execConverterStuck (t : ℕ) (half : ℕ) (s : State) (hs : Sound v s.part) : SoundOut v (execConverterStuck t half s) := by
  unfold execConverterStuck
  repeat' first
    | with_reducible assumption
    | (intro y; intro (hy : Sound v _); (try beta_reduce))
    | (with_reducible apply soundOut_runIf)
    | (with_reducible apply sound_onTick)
    | (with_reducible apply sound_fenceHalf)
    | split

end Sys2Proof.Laws
end

