-- ==== Sys2Proof/Laws/SoundFlows.lean ====
section
/-! SUPPORT. Each operation of Machine/Flows.lean keeps `Safety.Sound`: one lemma per operation, by the lemmas of the operations it
calls. -/

namespace Sys2Proof.Laws

open Sys2Proof Sys2Proof.Machine Sys2Proof.Safety

set_option linter.all false

variable {v : Fused} {m : Part}
theorem sound_performFlowCreate (p : FlowParams) (x1 : Desc) (x2 : Origin) {m : Part} (hm : Sound v m) : Sound v (performFlowCreate p x1 x2 m).1 := by
  unfold performFlowCreate
  repeat' first
    | (refine Sound.mk ?_ ?_ ?_ ?_ <;> cases_type* Sound <;> first | assumption | (simp_all [Arrays, EventsSound]; done) | (simp_all [Arrays, EventsSound]; omega))

theorem sound_execFlowCreate (d : Desc) (p : FlowParams) (s : State) (hs : Sound v s.part) : SoundOut v (execFlowCreate d p s) := by
  unfold execFlowCreate
  repeat' first
    | with_reducible assumption
    | (with_reducible apply soundOut_run)
    | (with_reducible apply sound_accept)
    | (with_reducible apply sound_performFlowCreate)

theorem sound_returnBuffer (r : ℕ) (b : ReturnedBuffer) {m : Part} (hm : Sound v m) : Sound v (returnBuffer r b m) := by
  unfold returnBuffer
  repeat' first
    | (with_reducible apply sound_trigger)
    | split
    | (refine Sound.mk ?_ ?_ ?_ ?_ <;> cases_type* Sound <;> first | assumption | (simp_all [Arrays, EventsSound]; done) | (simp_all [Arrays, EventsSound]; omega))

theorem sound_closeBuffer (r : ℕ) (flushed : Bool) {m : Part} (hm : Sound v m) : Sound v (closeBuffer r flushed m) := by
  unfold closeBuffer
  repeat' first
    | with_reducible assumption
    | (with_reducible apply sound_returnBuffer)
    | (with_reducible apply sound_onRing)
    | split

theorem sound_emptyBuffers (r : ℕ) (x1 : List BufferDesc) {m : Part} : Sound v m → Sound v (emptyBuffers r x1 m) := by
  fun_induction emptyBuffers r x1 m <;> intros
  all_goals repeat' first
    | (with_reducible apply sound_returnBuffer)
    | (with_reducible apply_assumption -exfalso -symm)

theorem sound_releaseRing (r : ℕ) {m : Part} (hm : Sound v m) : Sound v (releaseRing r m) := by
  unfold releaseRing
  repeat' first
    | with_reducible assumption
    | (with_reducible apply sound_closeBuffer)
    | (with_reducible apply sound_emptyBuffers)
    | (with_reducible apply sound_onRing)
    | split

theorem sound_bindPair (n : ℕ) (t : FlowTarget) {m : Part} (hm : Sound v m) : Sound v (bindPair n t m) := by
  unfold bindPair
  repeat' first
    | split
    | (refine Sound.mk ?_ ?_ ?_ ?_ <;> cases_type* Sound <;> first | assumption | (simp_all [Arrays, EventsSound]; done) | (simp_all [Arrays, EventsSound]; omega))

theorem sound_freeCaptures {m : Part} (hm : Sound v m) : Sound v (freeCaptures m) := by
  unfold freeCaptures
  repeat' first
    | (refine Sound.mk ?_ ?_ ?_ ?_ <;> cases_type* Sound <;> first | assumption | (simp_all [Arrays, EventsSound]; done) | (simp_all [Arrays, EventsSound]; omega))

theorem sound_catchFlow (f : Flow) {m : Part} (hm : Sound v m) : Sound v (catchFlow f m) := by
  unfold catchFlow
  repeat' first
    | with_reducible assumption
    | (with_reducible apply sound_catchUp)
    | split

theorem sound_retarget (n : ℕ) (t : FlowTarget) {m : Part} (hm : Sound v m) : Sound v (retarget n t m) := by
  unfold retarget
  repeat' first
    | with_reducible assumption
    | (with_reducible apply sound_catchFlow)
    | (with_reducible apply sound_onFlow)
    | (with_reducible apply sound_bindPair)
    | (with_reducible apply sound_releaseRing)
    | (with_reducible apply sound_refreshTags)
    | (with_reducible apply sound_freeCaptures)
    | (with_reducible apply sound_catchWhere)
    | split

theorem sound_takeRing (r : ℕ) (e : RingEntry) {m : Part} (hm : Sound v m) : Sound v (takeRing r e m) := by
  unfold takeRing
  repeat' first
    | split
    | (refine Sound.mk ?_ ?_ ?_ ?_ <;> cases_type* Sound <;> first | assumption | (simp_all [Arrays, EventsSound]; done) | (simp_all [Arrays, EventsSound]; omega))

theorem sound_performFlowBind (n : ℕ) (p : BindParams) (x2 : Desc) (x3 : Origin) {m : Part} (hm : Sound v m) : Sound v (performFlowBind n p x2 x3 m).1 := by
  unfold performFlowBind
  repeat' first
    | with_reducible assumption
    | (with_reducible apply sound_takeRing)
    | (with_reducible apply sound_retarget)
    | split

theorem sound_execFlowBind (d : Desc) (flow : ℕ) (p : BindParams) (s : State) (hs : Sound v s.part) : SoundOut v (execFlowBind d flow p s) := by
  unfold execFlowBind
  repeat' first
    | with_reducible assumption
    | (with_reducible apply soundOut_run)
    | (with_reducible apply sound_accept)
    | (with_reducible apply sound_performFlowBind)

theorem sound_performFlowShape (n : ℕ) (weight : ℕ) (rate : ℕ) (burst : ℕ) (x4 : Desc) (x5 : Origin) {m : Part} (hm : Sound v m) : Sound v (performFlowShape n weight rate burst x4 x5 m).1 := by
  unfold performFlowShape
  repeat' first
    | with_reducible assumption
    | (with_reducible apply sound_onFlow)
    | (with_reducible apply sound_refreshTags)
    | split

theorem sound_execFlowShape (d : Desc) (flow : ℕ) (weight : ℕ) (rate : ℕ) (burst : ℕ) (s : State) (hs : Sound v s.part) : SoundOut v (execFlowShape d flow weight rate burst s) := by
  unfold execFlowShape
  repeat' first
    | with_reducible assumption
    | (with_reducible apply soundOut_run)
    | (with_reducible apply sound_accept)
    | (with_reducible apply sound_performFlowShape)

theorem sound_performFlowDelete (n : ℕ) (x1 : Desc) (x2 : Origin) {m : Part} (hm : Sound v m) : Sound v (performFlowDelete n x1 x2 m).1 := by
  unfold performFlowDelete
  repeat' first
    | ((try lift_lets -underBinder); intro x; first
        | (refine (fun hx : Sound v x => ?_) ?_; (on_goal 1 => clear_value x); (on_goal 2 => (simp -zeta only [x]; clear x)))
        | subst x)
    | (with_reducible apply sound_retarget)
    | (refine Sound.mk ?_ ?_ ?_ ?_ <;> cases_type* Sound <;> first | assumption | (simp_all [Arrays, EventsSound]; done) | (simp_all [Arrays, EventsSound]; omega))

theorem sound_execFlowDelete (d : Desc) (flow : ℕ) (s : State) (hs : Sound v s.part) : SoundOut v (execFlowDelete d flow s) := by
  unfold execFlowDelete
  repeat' first
    | with_reducible assumption
    | (with_reducible apply soundOut_run)
    | (with_reducible apply sound_accept)
    | (with_reducible apply sound_performFlowDelete)

theorem sound_performTimeshift (n : ℕ) (w : ℕ) (d : ℕ) (x3 : Desc) (x4 : Origin) {m : Part} (hm : Sound v m) : Sound v (performTimeshift n w d x3 x4 m).1 := by
  unfold performTimeshift
  repeat' first
    | with_reducible assumption
    | (with_reducible apply sound_refreshTags)
    | (with_reducible apply sound_onFlow)
    | split

theorem sound_execTimeshiftSet (d : Desc) (flow : ℕ) (window : ℕ) (delay : ℕ) (s : State) (hs : Sound v s.part) : SoundOut v (execTimeshiftSet d flow window delay s) := by
  unfold execTimeshiftSet
  repeat' first
    | with_reducible assumption
    | (with_reducible apply soundOut_run)
    | (with_reducible apply sound_accept)
    | (with_reducible apply sound_performTimeshift)

theorem sound_performCaptureStart (mask : ℕ) (mode : ℕ) (n : ℕ) (bytes : ℕ) (x4 : Desc) (x5 : Origin) {m : Part} (hm : Sound v m) : Sound v (performCaptureStart mask mode n bytes x4 x5 m).1 := by
  unfold performCaptureStart
  repeat' first
    | ((try lift_lets -underBinder); intro x; first
        | (refine (fun hx : Sound v x => ?_) ?_; (on_goal 1 => clear_value x); (on_goal 2 => (simp -zeta only [x]; clear x)))
        | subst x)
    | split
    | (refine Sound.mk ?_ ?_ ?_ ?_ <;> cases_type* Sound <;> first | assumption | (simp_all [Arrays, EventsSound]; done) | (simp_all [Arrays, EventsSound]; omega))

theorem sound_execCaptureStart (d : Desc) (mask : ℕ) (mode : ℕ) (flow : ℕ) (bytes : ℕ) (s : State) (hs : Sound v s.part) : SoundOut v (execCaptureStart d mask mode flow bytes s) := by
  unfold execCaptureStart
  repeat' first
    | with_reducible assumption
    | (with_reducible apply soundOut_run)
    | (with_reducible apply sound_accept)
    | (with_reducible apply sound_performCaptureStart)

theorem sound_performCaptureStop (mask : ℕ) (x1 : Desc) (x2 : Origin) {m : Part} (hm : Sound v m) : Sound v (performCaptureStop mask x1 x2 m).1 := by
  unfold performCaptureStop
  repeat' first
    | with_reducible assumption
    | (with_reducible apply sound_freeCaptures)
    | (with_reducible apply sound_stopCapture)
    | (with_reducible refine sound_foldl _ _ (fun a y hy => ?_) ?_; (on_goal 1 => beta_reduce))

theorem sound_execCaptureStop (d : Desc) (mask : ℕ) (s : State) (hs : Sound v s.part) : SoundOut v (execCaptureStop d mask s) := by
  unfold execCaptureStop
  repeat' first
    | with_reducible assumption
    | (with_reducible apply soundOut_run)
    | (with_reducible apply sound_accept)
    | (with_reducible apply sound_performCaptureStop)

theorem sound_execRecordCloseTimeout (t : ℕ) (flow : ℕ) (s : State) (hs : Sound v s.part) : SoundOut v (execRecordCloseTimeout t flow s) := by
  unfold execRecordCloseTimeout
  repeat' first
    | with_reducible assumption
    | (intro y; intro (hy : Sound v _); (try beta_reduce))
    | (with_reducible apply soundOut_run)
    | (with_reducible apply sound_onTick)
    | (with_reducible apply sound_closeRecord)
    | split

theorem sound_unstage (n : ℕ) {m : Part} (hm : Sound v m) : Sound v (unstage n m) := by
  unfold unstage
  repeat' first
    | with_reducible assumption
    | (with_reducible apply sound_onFlow)

theorem sound_markLost (n : ℕ) {m : Part} (hm : Sound v m) : Sound v (markLost n m) := by
  unfold markLost
  repeat' first
    | with_reducible assumption
    | (with_reducible apply sound_onFlow)

theorem sound_dropTooSmall (r : ℕ) (n : ℕ) (bytes : ℕ) {m : Part} (hm : Sound v m) : Sound v (dropTooSmall r n bytes m) := by
  unfold dropTooSmall
  repeat' first
    | with_reducible assumption
    | ((try lift_lets -underBinder); intro x; first
        | (refine (fun hx : Sound v x => ?_) ?_; (on_goal 1 => clear_value x); (on_goal 2 => (simp -zeta only [x]; clear x)))
        | subst x)
    | (with_reducible apply sound_markLost)
    | (with_reducible apply sound_unstage)
    | (with_reducible apply sound_onFlow)
    | (with_reducible apply sound_onRing)
    | (with_reducible apply sound_raise)
    | split

theorem sound_writePieces (base : ℕ) (l : List (ℕ × List Byte)) {m : Part} (hm : Sound v m) : Sound v (writePieces base l m) := by
  unfold writePieces
  repeat' first
    | with_reducible assumption
    | (with_reducible apply sound_writeHost)
    | (with_reducible refine sound_foldl _ _ (fun a y hy => ?_) ?_; (on_goal 1 => beta_reduce))

theorem sound_fillBuffer (r : ℕ) (x : Record) {m : Part} (hm : Sound v m) : Sound v (fillBuffer r x m) := by
  unfold fillBuffer
  repeat' first
    | ((try lift_lets -underBinder); intro x; first
        | (refine (fun hx : Sound v x => ?_) ?_; (on_goal 1 => clear_value x); (on_goal 2 => (simp -zeta only [x]; clear x)))
        | subst x)
    | (with_reducible apply sound_writePieces)
    | (refine Sound.mk ?_ ?_ ?_ ?_ <;> cases_type* Sound <;> first | assumption | (simp_all [Arrays, EventsSound]; done) | (simp_all [Arrays, EventsSound]; omega))

theorem sound_chargeFlow (n : ℕ) (link : ℕ) (x : Record) {m : Part} (hm : Sound v m) : Sound v (chargeFlow n link x m) := by
  unfold chargeFlow
  repeat' first
    | with_reducible assumption
    | (with_reducible apply sound_setVirtualTime)
    | (with_reducible apply sound_onFlow)
    | split

theorem sound_sendToRing (r : ℕ) (n : ℕ) (x : Record) {m : Part} (hm : Sound v m) : Sound v (sendToRing r n x m) := by
  unfold sendToRing
  repeat' first
    | with_reducible assumption
    | ((try lift_lets -underBinder); intro x; first
        | (refine (fun hx : Sound v x => ?_) ?_; (on_goal 1 => clear_value x); (on_goal 2 => (simp -zeta only [x]; clear x)))
        | subst x)
    | (with_reducible apply sound_chargeFlow)
    | (with_reducible apply sound_fillBuffer)
    | (with_reducible apply sound_onRing)
    | (with_reducible apply sound_closeBuffer)
    | (with_reducible apply sound_dropTooSmall)
    | split

theorem sound_startRecord (link : ℕ) {m : Part} (hm : Sound v m) : Sound v (startRecord link m) := by
  unfold startRecord
  repeat' first
    | with_reducible assumption
    | ((try lift_lets -underBinder); intro x; first
        | (refine (fun hx : Sound v x => ?_) ?_; (on_goal 1 => clear_value x); (on_goal 2 => (simp -zeta only [x]; clear x)))
        | subst x)
    | (with_reducible apply sound_refreshTags)
    | (with_reducible apply sound_sendToRing)
    | (with_reducible apply sound_chargeFlow)
    | (with_reducible apply sound_send)
    | (with_reducible apply sound_freeCaptures)
    | split

theorem sound_execEgressRecordStart (t : ℕ) (link : ℕ) (s : State) (hs : Sound v s.part) : SoundOut v (execEgressRecordStart t link s) := by
  unfold execEgressRecordStart
  repeat' first
    | with_reducible assumption
    | (with_reducible apply soundOut_runIf)
    | (with_reducible apply sound_onTick)
    | (with_reducible apply sound_startRecord)

theorem sound_execBufferFlush (t : ℕ) (ring : ℕ) (s : State) (hs : Sound v s.part) : SoundOut v (execBufferFlush t ring s) := by
  unfold execBufferFlush
  repeat' first
    | with_reducible assumption
    | (intro y; intro (hy : Sound v _); (try beta_reduce))
    | (with_reducible apply soundOut_run)
    | (with_reducible apply sound_onTick)
    | (with_reducible apply sound_refreshTags)
    | (with_reducible apply sound_closeBuffer)
    | split

theorem sound_fillMember (n : ℕ) (span : ℕ) {m : Part} (hm : Sound v m) : Sound v (fillMember n span m) := by
  unfold fillMember
  repeat' first
    | with_reducible assumption
    | ((try lift_lets -underBinder); intro x; first
        | (refine (fun hx : Sound v x => ?_) ?_; (on_goal 1 => clear_value x); (on_goal 2 => (simp -zeta only [x]; clear x)))
        | subst x)
    | (with_reducible apply sound_onFlow)
    | split

theorem sound_execMemberUnderrun (t : ℕ) (flow : ℕ) (span : ℕ) (s : State) (hs : Sound v s.part) : SoundOut v (execMemberUnderrun t flow span s) := by
  unfold execMemberUnderrun
  repeat' first
    | with_reducible assumption
    | (intro y; intro (hy : Sound v _); (try beta_reduce))
    | (with_reducible apply soundOut_run)
    | (with_reducible apply sound_onTick)
    | (with_reducible apply sound_refreshTags)
    | (with_reducible apply sound_fillMember)

end Sys2Proof.Laws
end

