-- ==== Sys2Proof/Laws/SoundAudio.lean ====
section
/-! SUPPORT. Each operation of Machine/Audio.lean keeps `Safety.Sound`: one lemma per operation, by the lemmas of the operations it
calls. -/

namespace Sys2Proof.Laws

open Sys2Proof Sys2Proof.Machine Sys2Proof.Safety

set_option linter.all false

variable {v : Fused} {m : Part}
theorem sound_onPort (p : ℕ) (f : Port → Port) {m : Part} (hm : Sound v m) : Sound v (onPort p f m) := by
  unfold onPort
  repeat' first
    | (refine Sound.mk ?_ ?_ ?_ ?_ <;> cases_type* Sound <;> first | assumption | (simp_all [Arrays, EventsSound]; done) | (simp_all [Arrays, EventsSound]; omega))

theorem sound_settleMclk {m : Part} (hm : Sound v m) : Sound v (settleMclk m) := by
  unfold settleMclk
  repeat' first
    | (refine Sound.mk ?_ ?_ ?_ ?_ <;> cases_type* Sound <;> first | assumption | (simp_all [Arrays, EventsSound]; done) | (simp_all [Arrays, EventsSound]; omega))

theorem sound_performPortConfig (p : PortParams) (x1 : Desc) (x2 : Origin) {m : Part} (hm : Sound v m) : Sound v (performPortConfig p x1 x2 m).1 := by
  unfold performPortConfig
  repeat' first
    | with_reducible assumption
    | (with_reducible apply sound_settleMclk)
    | (with_reducible apply sound_onPort)

theorem sound_execAudioPortConfig (d : Desc) (p : PortParams) (s : State) (hs : Sound v s.part) : SoundOut v (execAudioPortConfig d p s) := by
  unfold execAudioPortConfig
  repeat' first
    | with_reducible assumption
    | (with_reducible apply soundOut_run)
    | (with_reducible apply sound_accept)
    | (with_reducible apply sound_performPortConfig)

theorem sound_settleTrail (p : ℕ) {m : Part} (hm : Sound v m) : Sound v (settleTrail p m) := by
  unfold settleTrail
  repeat' first
    | with_reducible assumption
    | (with_reducible apply sound_onPort)
    | split

theorem sound_clockStart (p : ℕ) (due : ℕ) {m : Part} (hm : Sound v m) : Sound v (clockStart p due m) := by
  unfold clockStart
  repeat' first
    | with_reducible assumption
    | ((try lift_lets -underBinder); intro x; first
        | (refine (fun hx : Sound v x => ?_) ?_; (on_goal 1 => clear_value x); (on_goal 2 => (simp -zeta only [x]; clear x)))
        | subst x)
    | (with_reducible apply sound_settleTrail)
    | (with_reducible apply sound_onPort)
    | split

theorem sound_execAudioClockStart (t : ℕ) (port : ℕ) (s : State) (hs : Sound v s.part) : SoundOut v (execAudioClockStart t port s) := by
  unfold execAudioClockStart
  repeat' first
    | with_reducible assumption
    | (intro y; intro (hy : Sound v _); (try beta_reduce))
    | ((try lift_lets -underBinder); intro x; first
        | (refine (fun hx : Sound v x => ?_) ?_; (on_goal 1 => clear_value x); (on_goal 2 => (simp -zeta only [x]; clear x)))
        | subst x)
    | (with_reducible apply soundOut_runIf)
    | (with_reducible apply sound_onTick)
    | (with_reducible apply sound_clockStart)
    | split

theorem sound_performPortStart (p : ℕ) (x1 : Desc) (x2 : Origin) {m : Part} (hm : Sound v m) : Sound v (performPortStart p x1 x2 m).1 := by
  unfold performPortStart
  repeat' first
    | with_reducible assumption
    | ((try lift_lets -underBinder); intro x; first
        | (refine (fun hx : Sound v x => ?_) ?_; (on_goal 1 => clear_value x); (on_goal 2 => (simp -zeta only [x]; clear x)))
        | subst x)
    | (with_reducible apply sound_clockStart)
    | (with_reducible apply sound_onPort)
    | split

theorem sound_execAudioPortStart (d : Desc) (port : ℕ) (s : State) (hs : Sound v s.part) : SoundOut v (execAudioPortStart d port s) := by
  unfold execAudioPortStart
  repeat' first
    | with_reducible assumption
    | (with_reducible apply soundOut_run)
    | (with_reducible apply sound_accept)
    | (with_reducible apply sound_performPortStart)

theorem sound_takeStart (p : ℕ) {m : Part} (hm : Sound v m) : Sound v (takeStart p m) := by
  unfold takeStart
  repeat' first
    | with_reducible assumption
    | (with_reducible apply sound_onPort)
    | (with_reducible apply sound_keepQueue)
    | split

theorem sound_firstFrame (p : ℕ) {m : Part} (hm : Sound v m) : Sound v (firstFrame p m) := by
  unfold firstFrame
  repeat' first
    | with_reducible assumption
    | ((try lift_lets -underBinder); intro x; first
        | (refine (fun hx : Sound v x => ?_) ?_; (on_goal 1 => clear_value x); (on_goal 2 => (simp -zeta only [x]; clear x)))
        | subst x)
    | (with_reducible apply sound_takeStart)
    | (with_reducible apply sound_onPort)
    | (with_reducible apply sound_finish)
    | split

theorem sound_execAudioFirstFrame (t : ℕ) (port : ℕ) (s : State) (hs : Sound v s.part) : SoundOut v (execAudioFirstFrame t port s) := by
  unfold execAudioFirstFrame
  repeat' first
    | with_reducible assumption
    | (with_reducible apply soundOut_runIf)
    | (with_reducible apply sound_onTick)
    | (with_reducible apply sound_firstFrame)

theorem sound_inputFrames (p : ℕ) (n : ℕ) (ht : ℕ) (t : ℤ) (flags : ℕ) (words : List ℕ) {m : Part} (hm : Sound v m) : Sound v (inputFrames p n ht t flags words m) := by
  unfold inputFrames
  repeat' first
    | with_reducible assumption
    | (with_reducible apply sound_appendFixed)
    | (with_reducible refine sound_foldl _ _ (fun a y hy => ?_) ?_; (on_goal 1 => beta_reduce))
    | (with_reducible refine sound_elim _ _ ?_ (fun a => ?_); (on_goal 2 => beta_reduce))

theorem sound_countPort (p : ℕ) (i : ℕ) (n : ℕ) {m : Part} (hm : Sound v m) : Sound v (countPort p i n m) := by
  unfold countPort
  repeat' first
    | with_reducible assumption
    | (with_reducible apply sound_onPort)

theorem sound_followStall (p : ℕ) {m : Part} (hm : Sound v m) : Sound v (followStall p m) := by
  unfold followStall
  repeat' first
    | with_reducible assumption
    | ((try lift_lets -underBinder); intro x; first
        | (refine (fun hx : Sound v x => ?_) ?_; (on_goal 1 => clear_value x); (on_goal 2 => (simp -zeta only [x]; clear x)))
        | subst x)
    | (with_reducible apply sound_onPort)
    | (with_reducible apply sound_inputFrames)
    | (with_reducible apply sound_countPort)
    | split

theorem sound_execAudioStall (t : ℕ) (port : ℕ) (s : State) (hs : Sound v s.part) : SoundOut v (execAudioStall t port s) := by
  unfold execAudioStall
  repeat' first
    | with_reducible assumption
    | (intro y; intro (hy : Sound v _); (try beta_reduce))
    | ((try lift_lets -underBinder); intro x; first
        | (refine (fun hx : Sound v x => ?_) ?_; (on_goal 1 => clear_value x); (on_goal 2 => (simp -zeta only [x]; clear x)))
        | subst x)
    | (with_reducible apply soundOut_runIf)
    | (with_reducible apply sound_onTick)
    | (with_reducible apply sound_raise)
    | (with_reducible apply sound_onPort)
    | split

theorem sound_stopPort (p : ℕ) {m : Part} (hm : Sound v m) : Sound v (stopPort p m) := by
  unfold stopPort
  repeat' first
    | with_reducible assumption
    | ((try lift_lets -underBinder); intro x; first
        | (refine (fun hx : Sound v x => ?_) ?_; (on_goal 1 => clear_value x); (on_goal 2 => (simp -zeta only [x]; clear x)))
        | subst x)
    | (with_reducible apply sound_followStall)
    | (with_reducible apply sound_breakFlows)
    | (with_reducible apply sound_onPort)
    | (with_reducible apply sound_finish)
    | split

theorem sound_performPortStop (p : ℕ) (x1 : Desc) (x2 : Origin) {m : Part} (hm : Sound v m) : Sound v (performPortStop p x1 x2 m).1 := by
  unfold performPortStop
  repeat' first
    | with_reducible assumption
    | (with_reducible apply sound_stopPort)

theorem sound_execAudioPortStop (d : Desc) (port : ℕ) (s : State) (hs : Sound v s.part) : SoundOut v (execAudioPortStop d port s) := by
  unfold execAudioPortStop
  repeat' first
    | with_reducible assumption
    | (with_reducible apply soundOut_run)
    | (with_reducible apply sound_accept)
    | (with_reducible apply sound_performPortStop)

theorem sound_execAudioTrailEnd (t : ℕ) (port : ℕ) (s : State) (hs : Sound v s.part) : SoundOut v (execAudioTrailEnd t port s) := by
  unfold execAudioTrailEnd
  repeat' first
    | with_reducible assumption
    | (with_reducible apply soundOut_runIf)
    | (with_reducible apply sound_onTick)
    | (with_reducible apply sound_settleTrail)

theorem sound_shiftSlots (p : ℕ) (lost : Option ℕ) {m : Part} (hm : Sound v m) : Sound v (shiftSlots p lost m) := by
  unfold shiftSlots
  repeat' first
    | with_reducible assumption
    | (with_reducible apply sound_fresh)
    | (with_reducible apply sound_onPort)

theorem sound_portXrun (p : ℕ) (ovr : Bool) (cause : ℕ) (lost : Option ℕ) {m : Part} (hm : Sound v m) : Sound v (portXrun p ovr cause lost m) := by
  unfold portXrun
  repeat' first
    | with_reducible assumption
    | ((try lift_lets -underBinder); intro x; first
        | (refine (fun hx : Sound v x => ?_) ?_; (on_goal 1 => clear_value x); (on_goal 2 => (simp -zeta only [x]; clear x)))
        | subst x)
    | (with_reducible apply sound_countPort)
    | (with_reducible apply sound_shiftSlots)
    | (with_reducible apply sound_raise)
    | (with_reducible apply sound_onPort)
    | split

theorem sound_execAudioXrun (t : ℕ) (port : ℕ) (dir : PortDir) (overrun : Bool) (cause : ℕ) (s : State) (hs : Sound v s.part) : SoundOut v (execAudioXrun t port dir overrun cause s) := by
  unfold execAudioXrun
  repeat' first
    | with_reducible assumption
    | (intro y; intro (hy : Sound v _); (try beta_reduce))
    | (with_reducible apply soundOut_runIf)
    | (with_reducible apply sound_onTick)
    | (with_reducible apply sound_portXrun)
    | split

theorem sound_lockWord (p : ℕ) (bclks : ℕ) (edge : Bool) {m : Part} (hm : Sound v m) : Sound v (lockWord p bclks edge m) := by
  unfold lockWord
  repeat' first
    | with_reducible assumption
    | (with_reducible apply sound_onPort)

theorem sound_execAudioFsEdge (t : ℕ) (port : ℕ) (bclks : ℕ) (edge : Bool) (s : State) (hs : Sound v s.part) : SoundOut v (execAudioFsEdge t port bclks edge s) := by
  unfold execAudioFsEdge
  repeat' first
    | with_reducible assumption
    | (intro y; intro (hy : Sound v _); (try beta_reduce))
    | ((try lift_lets -underBinder); intro x; first
        | (refine (fun hx : Sound v x => ?_) ?_; (on_goal 1 => clear_value x); (on_goal 2 => (simp -zeta only [x]; clear x)))
        | subst x)
    | (with_reducible apply soundOut_runIf)
    | (with_reducible apply sound_onTick)
    | (with_reducible apply sound_lockWord)
    | (with_reducible apply sound_portXrun)
    | split

theorem sound_execAudioResume (t : ℕ) (port : ℕ) (aligned : Bool) (s : State) (hs : Sound v s.part) : SoundOut v (execAudioResume t port aligned s) := by
  unfold execAudioResume
  repeat' first
    | with_reducible assumption
    | (intro y; intro (hy : Sound v _); (try beta_reduce))
    | ((try lift_lets -underBinder); intro x; first
        | (refine (fun hx : Sound v x => ?_) ?_; (on_goal 1 => clear_value x); (on_goal 2 => (simp -zeta only [x]; clear x)))
        | subst x)
    | (with_reducible apply soundOut_runIf)
    | (with_reducible apply sound_onTick)
    | (with_reducible apply sound_followStall)
    | (with_reducible apply sound_raise)
    | (with_reducible apply sound_onPort)
    | (with_reducible apply sound_portXrun)
    | split

theorem sound_execAudioSlip (t : ℕ) (port : ℕ) (fill : ℕ) (dir : PortDir) (s : State) (hs : Sound v s.part) : SoundOut v (execAudioSlip t port fill dir s) := by
  unfold execAudioSlip
  repeat' first
    | with_reducible assumption
    | (intro y; intro (hy : Sound v _); (try beta_reduce))
    | ((try lift_lets -underBinder); intro x; first
        | (refine (fun hx : Sound v x => ?_) ?_; (on_goal 1 => clear_value x); (on_goal 2 => (simp -zeta only [x]; clear x)))
        | subst x)
    | (with_reducible apply soundOut_runIf)
    | (with_reducible apply sound_onTick)
    | (with_reducible apply sound_onPort)
    | (with_reducible apply sound_countPort)
    | split

theorem sound_contentUnderrun (p : ℕ) (k : ℕ) {m : Part} (hm : Sound v m) : Sound v (contentUnderrun p k m) := by
  unfold contentUnderrun
  repeat' first
    | with_reducible assumption
    | (with_reducible apply sound_countPort)

theorem sound_presentPair (p : ℕ) (q : SlotPair) {m : Part} (hm : Sound v m) : Sound v (presentPair p q m) := by
  unfold presentPair
  repeat' first
    | with_reducible assumption
    | ((try lift_lets -underBinder); intro x; first
        | (refine (fun hx : Sound v x => ?_) ?_; (on_goal 1 => clear_value x); (on_goal 2 => (simp -zeta only [x]; clear x)))
        | subst x)
    | (with_reducible apply sound_contentUnderrun)
    | (with_reducible apply sound_onFlow)
    | (with_reducible apply sound_onPort)
    | split

theorem sound_portFrame (p : ℕ) (sdi : List ℕ) {m : Part} (hm : Sound v m) : Sound v (portFrame p sdi m) := by
  unfold portFrame
  repeat' first
    | with_reducible assumption
    | ((try lift_lets -underBinder); intro x; first
        | (refine (fun hx : Sound v x => ?_) ?_; (on_goal 1 => clear_value x); (on_goal 2 => (simp -zeta only [x]; clear x)))
        | subst x)
    | (with_reducible apply sound_inputFrames)
    | (with_reducible apply sound_onPort)
    | (with_reducible apply sound_freeCaptures)
    | (with_reducible apply sound_presentPair)
    | (with_reducible refine sound_foldl _ _ (fun a y hy => ?_) ?_; (on_goal 1 => beta_reduce))
    | split

theorem sound_execAudioPortFrame (t : ℕ) (f : PortFrame) (s : State) (hs : Sound v s.part) : SoundOut v (execAudioPortFrame t f s) := by
  unfold execAudioPortFrame
  repeat' first
    | with_reducible assumption
    | (with_reducible apply soundOut_runIf)
    | (with_reducible apply sound_onTick)
    | (with_reducible apply sound_portFrame)

end Sys2Proof.Laws
end

