-- ==== Sys2Proof/Laws/SoundClocking.lean ====
section
/-! SUPPORT. Each operation of Machine/Clocking.lean keeps `Safety.Sound`: one lemma per operation, by the lemmas of the operations it
calls. -/

namespace Sys2Proof.Laws

open Sys2Proof Sys2Proof.Machine Sys2Proof.Safety

set_option linter.all false

variable {v : Fused} {m : Part}
theorem sound_flood {m : Part} (hm : Sound v m) : Sound v (flood m) := by
  unfold flood
  repeat' first
    | with_reducible assumption
    | (with_reducible apply sound_send)
    | split

theorem sound_setHt (aligned : Bool) {m : Part} (hm : Sound v m) : Sound v (setHt aligned m) := by
  unfold setHt
  repeat' first
    | ((try lift_lets -underBinder); intro x; first
        | (refine (fun hx : Sound v x => ?_) ?_; (on_goal 1 => clear_value x); (on_goal 2 => (simp -zeta only [x]; clear x)))
        | subst x)
    | (with_reducible apply sound_raise)
    | (with_reducible apply sound_flood)
    | split
    | (refine Sound.mk ?_ ?_ ?_ ?_ <;> cases_type* Sound <;> first | assumption | (simp_all [Arrays, EventsSound]; done) | (simp_all [Arrays, EventsSound]; omega))

theorem sound_refreshHt {m : Part} (hm : Sound v m) : Sound v (refreshHt m) := by
  unfold refreshHt
  repeat' first
    | with_reducible assumption
    | (with_reducible apply sound_setHt)

theorem sound_startPhase (e : ℤ) {m : Part} (hm : Sound v m) : Sound v (startPhase e m) := by
  unfold startPhase
  repeat' first
    | split
    | (refine Sound.mk ?_ ?_ ?_ ?_ <;> cases_type* Sound <;> first | assumption | (simp_all [Arrays, EventsSound]; done) | (simp_all [Arrays, EventsSound]; omega))

theorem sound_startSlew (e : ℤ) {m : Part} (hm : Sound v m) : Sound v (startSlew e m) := by
  unfold startSlew
  repeat' first
    | (with_reducible apply sound_startPhase)
    | (with_reducible apply sound_raise)
    | split
    | (refine Sound.mk ?_ ?_ ?_ ?_ <;> cases_type* Sound <;> first | assumption | (simp_all [Arrays, EventsSound]; done) | (simp_all [Arrays, EventsSound]; omega))

theorem sound_putStep (st : Step) {m : Part} (hm : Sound v m) : Sound v (putStep st m) := by
  unfold putStep
  repeat' first
    | (refine Sound.mk ?_ ?_ ?_ ?_ <;> cases_type* Sound <;> first | assumption | (simp_all [Arrays, EventsSound]; done) | (simp_all [Arrays, EventsSound]; omega))

theorem sound_stepBy (e : ℤ) (tick : Option ℕ) (edge : Bool) (grid : Option ℤ) {m : Part} (hm : Sound v m) : Sound v (stepBy e tick edge grid m) := by
  unfold stepBy
  repeat' first
    | with_reducible assumption
    | (with_reducible apply sound_putStep)
    | (with_reducible apply sound_startSlew)
    | split

theorem sound_resolveDemand (e : ℤ) (tick : Option ℕ) (edge : Bool) (grid : Option ℤ) {m : Part} (hm : Sound v m) : Sound v (resolveDemand e tick edge grid m) := by
  unfold resolveDemand
  repeat' first
    | (with_reducible apply sound_startSlew)
    | (with_reducible apply sound_stepBy)
    | split
    | (refine Sound.mk ?_ ?_ ?_ ?_ <;> cases_type* Sound <;> first | assumption | (simp_all [Arrays, EventsSound]; done) | (simp_all [Arrays, EventsSound]; omega))

theorem sound_closeForStep {m : Part} (hm : Sound v m) : Sound v (closeForStep m) := by
  unfold closeForStep
  repeat' first
    | with_reducible assumption
    | (with_reducible apply sound_flushUp)
    | (with_reducible apply sound_catchCaptures)
    | (with_reducible apply sound_cutCaptures)
    | (with_reducible apply sound_breakFlows)
    | (with_reducible refine sound_foldl _ _ (fun a y hy => ?_) ?_; (on_goal 1 => beta_reduce))

theorem sound_stepSlew (s : Step) {m : Part} (hm : Sound v m) : Sound v (stepSlew s m) := by
  unfold stepSlew
  repeat' first
    | with_reducible assumption
    | (with_reducible apply sound_startPhase)
    | (with_reducible apply sound_startSlew)
    | split

theorem sound_applyStep (s : Step) {m : Part} (hm : Sound v m) : Sound v (applyStep s m) := by
  unfold applyStep
  repeat' first
    | ((try lift_lets -underBinder); intro x; first
        | (refine (fun hx : Sound v x => ?_) ?_; (on_goal 1 => clear_value x); (on_goal 2 => (simp -zeta only [x]; clear x)))
        | subst x)
    | (with_reducible apply sound_closeForStep)
    | (with_reducible apply sound_stepSlew)
    | (with_reducible apply sound_raise)
    | (with_reducible apply sound_setHt)
    | split
    | (refine Sound.mk ?_ ?_ ?_ ?_ <;> cases_type* Sound <;> first | assumption | (simp_all [Arrays, EventsSound]; done) | (simp_all [Arrays, EventsSound]; omega))

theorem sound_execHtSlewDone (t : ℕ) (s : State) (hs : Sound v s.part) : SoundOut v (execHtSlewDone t s) := by
  unfold execHtSlewDone
  repeat' first
    | (intro y; intro (hy : Sound v _); (try beta_reduce))
    | (with_reducible apply soundOut_run)
    | (with_reducible apply sound_onTick)
    | (with_reducible apply sound_raise)
    | split
    | (refine Sound.mk ?_ ?_ ?_ ?_ <;> cases_type* Sound <;> first | assumption | (simp_all [Arrays, EventsSound]; done) | (simp_all [Arrays, EventsSound]; omega))

theorem sound_storeHt {m : Part} (hm : Sound v m) : Sound v (storeHt m) := by
  unfold storeHt
  repeat' first
    | (refine Sound.mk ?_ ?_ ?_ ?_ <;> cases_type* Sound <;> first | assumption | (simp_all [Arrays, EventsSound]; done) | (simp_all [Arrays, EventsSound]; omega))

theorem sound_execHtSecondsBoundary (t : ℕ) (s : State) (hs : Sound v s.part) : SoundOut v (execHtSecondsBoundary t s) := by
  unfold execHtSecondsBoundary
  repeat' first
    | (intro y; intro (hy : Sound v _); (try beta_reduce))
    | (with_reducible apply soundOut_run)
    | (with_reducible apply sound_onTick)
    | split
    | (refine Sound.mk ?_ ?_ ?_ ?_ <;> cases_type* Sound <;> first | assumption | (simp_all [Arrays, EventsSound]; done) | (simp_all [Arrays, EventsSound]; omega))

theorem sound_holdTile (t : ℕ) (planned : Bool) {m : Part} (hm : Sound v m) : Sound v (holdTile t planned m) := by
  unfold holdTile
  repeat' first
    | with_reducible assumption
    | (with_reducible apply sound_holdCtx)
    | (with_reducible apply sound_fadeOut)
    | (with_reducible refine sound_foldl _ _ (fun a y hy => ?_) ?_; (on_goal 1 => beta_reduce))
    | split

theorem sound_beginSwitch (t : ℕ) (kind : SwitchKind) (plan : ℕ) (byPlan : Option ℕ) {m : Part} (hm : Sound v m) : Sound v (beginSwitch t kind plan byPlan m) := by
  unfold beginSwitch
  repeat' first
    | with_reducible assumption
    | (with_reducible apply sound_catchHalf)
    | (with_reducible apply sound_holdTile)
    | (with_reducible apply sound_onTile)
    | (with_reducible apply sound_freezeBands)
    | (with_reducible apply sound_pauseRamp)
    | (with_reducible apply sound_abandonRun)

theorem sound_leavePlans (t : ℕ) {m : Part} (hm : Sound v m) : Sound v (leavePlans t m) := by
  unfold leavePlans
  repeat' first
    | with_reducible assumption
    | (with_reducible apply sound_releaseCtx)
    | (with_reducible apply sound_breakCtx)
    | (with_reducible apply sound_flushUp)
    | (with_reducible refine sound_foldl _ _ (fun a y hy => ?_) ?_; (on_goal 1 => beta_reduce))
    | split
    | (refine Sound.mk ?_ ?_ ?_ ?_ <;> cases_type* Sound <;> first | assumption | (simp_all [Arrays, EventsSound]; done) | (simp_all [Arrays, EventsSound]; omega))

theorem sound_returnTile (t : ℕ) (sw : TileSwitch) {m : Part} (hm : Sound v m) : Sound v (returnTile t sw m) := by
  unfold returnTile
  repeat' first
    | with_reducible assumption
    | ((try lift_lets -underBinder); intro x; first
        | (refine (fun hx : Sound v x => ?_) ?_; (on_goal 1 => clear_value x); (on_goal 2 => (simp -zeta only [x]; clear x)))
        | subst x)
    | (with_reducible apply sound_fresh)
    | (with_reducible apply sound_resumeCapture)
    | (with_reducible apply sound_onTile)
    | (with_reducible apply sound_onHalf)
    | (with_reducible apply sound_breakCtx)
    | (with_reducible apply sound_restartChain)
    | (with_reducible apply sound_flushUp)
    | (with_reducible apply sound_raise)
    | (with_reducible apply sound_endHolds)
    | (with_reducible apply sound_leavePlans)
    | (with_reducible apply sound_resumeHalf)
    | (with_reducible refine sound_foldl _ _ (fun a y hy => ?_) ?_; (on_goal 1 => beta_reduce))
    | split
    | (refine Sound.mk ?_ ?_ ?_ ?_ <;> cases_type* Sound <;> first | assumption | (simp_all [Arrays, EventsSound]; done) | (simp_all [Arrays, EventsSound]; omega))

theorem sound_onNextTick (f : Part → Part) {m : Part} (hf : ∀ m, Sound v m → Sound v (f m)) (hm : Sound v m) : Sound v (onNextTick f m) := by
  unfold onNextTick
  repeat' first
    | ((try lift_lets -underBinder); intro x; first
        | (refine (fun hx : Sound v x => ?_) ?_; (on_goal 1 => clear_value x); (on_goal 2 => (simp -zeta only [x]; clear x)))
        | subst x)
    | (with_reducible apply_assumption -exfalso -symm)
    | (refine Sound.mk ?_ ?_ ?_ ?_ <;> cases_type* Sound <;> first | assumption | (simp_all [Arrays, EventsSound]; done) | (simp_all [Arrays, EventsSound]; omega))

theorem sound_execTsynUnlock (t : ℕ) (tile : ℕ) (s : State) (hs : Sound v s.part) : SoundOut v (execTsynUnlock t tile s) := by
  unfold execTsynUnlock
  repeat' first
    | with_reducible assumption
    | (intro y; intro (hy : Sound v _); (try beta_reduce))
    | ((try lift_lets -underBinder); intro x; first
        | (refine (fun hx : Sound v x => ?_) ?_; (on_goal 1 => clear_value x); (on_goal 2 => (simp -zeta only [x]; clear x)))
        | subst x)
    | (with_reducible apply soundOut_runIf)
    | (with_reducible apply sound_onTick)
    | (with_reducible apply sound_onTile)
    | (with_reducible apply sound_raise)
    | (with_reducible apply sound_fenceTile)
    | (with_reducible apply sound_onNextTick)
    | (with_reducible apply sound_beginSwitch)
    | split

theorem sound_execTsynRelockRetry (t : ℕ) (tile : ℕ) (s : State) (hs : Sound v s.part) : SoundOut v (execTsynRelockRetry t tile s) := by
  unfold execTsynRelockRetry
  repeat' first
    | with_reducible assumption
    | (intro y; intro (hy : Sound v _); (try beta_reduce))
    | (with_reducible apply soundOut_runIf)
    | (with_reducible apply sound_onTick)
    | (with_reducible apply sound_onTile)

theorem sound_rePhase {m : Part} (hm : Sound v m) : Sound v (rePhase m) := by
  unfold rePhase
  repeat' first
    | with_reducible assumption
    | (with_reducible apply sound_breakFlows)
    | (with_reducible apply sound_flushUp)
    | (with_reducible apply sound_fadeOut)
    | (with_reducible apply sound_beginSwitch)
    | (with_reducible refine sound_foldl _ _ (fun a y hy => ?_) ?_; (on_goal 1 => beta_reduce))
    | split
    | (refine Sound.mk ?_ ?_ ?_ ?_ <;> cases_type* Sound <;> first | assumption | (simp_all [Arrays, EventsSound]; done) | (simp_all [Arrays, EventsSound]; omega))

theorem sound_ppsEvent (code : ℕ) (offset : ℤ) {m : Part} (hm : Sound v m) : Sound v (ppsEvent code offset m) := by
  unfold ppsEvent
  repeat' first
    | with_reducible assumption
    | (with_reducible apply sound_raise)

theorem sound_judgeOffset (o : ℤ) (rest : ℤ) (tick : ℕ) {m : Part} (hm : Sound v m) : Sound v (judgeOffset o rest tick m) := by
  unfold judgeOffset
  repeat' first
    | ((try lift_lets -underBinder); intro x; first
        | (refine (fun hx : Sound v x => ?_) ?_; (on_goal 1 => clear_value x); (on_goal 2 => (simp -zeta only [x]; clear x)))
        | subst x)
    | (with_reducible apply sound_setHt)
    | (with_reducible apply sound_startPhase)
    | (with_reducible apply sound_resolveDemand)
    | split
    | (refine Sound.mk ?_ ?_ ?_ ?_ <;> cases_type* Sound <;> first | assumption | (simp_all [Arrays, EventsSound]; done) | (simp_all [Arrays, EventsSound]; omega))

theorem sound_rePhaseEdge (o : ℤ) {m : Part} (hm : Sound v m) : Sound v (rePhaseEdge o m).1 := by
  unfold rePhaseEdge
  repeat' first
    | with_reducible assumption
    | (with_reducible apply sound_rePhase)
    | split

theorem sound_acceptEdge {instant : Nat} {o : Int} {tick : Nat} {m : Part} (h : Sound v m) :
    Sound v (acceptEdge instant o tick m) := by
  have hk : ∀ m k, Sound v m → Sound v { m with clock := k } := fun _ _ h => ⟨h.1, h.2, h.3, h.4⟩
  have hp : ∀ m p, Sound v m → Sound v { m with pps := p } := fun _ _ h => ⟨h.1, h.2, h.3, h.4⟩
  have key : ∀ p : Part × Int × Int, Sound v p.1 → Sound v (
      let m := { p.1 with pps := { p.1.pps with offsets := p.1.pps.offsets.map fun x => x + (p.2.1 - o) } }
      if m.clock.steps.any fun st => st.epoch.isSome && st.tick.isNone then
        startPhase p.2.2 { m with clock := { m.clock with steps := m.clock.steps.map fun st =>
          if st.epoch.isSome ∧ st.tick.isNone then { st with tick := some tick, edge := true } else st } }
      else judgeOffset p.2.1 p.2.2 tick m) := fun p hq =>
    sound_ite (sound_startPhase _ (hk _ _ (hp _ _ hq))) (sound_judgeOffset _ _ _ (hp _ _ hq))
  refine key (if effSource m = .loc then rePhaseEdge o { m with pps := { m.pps with accepted := some instant } } else
    ({ m with pps := { m.pps with accepted := some instant } }, o, 0)) ?_
  split
  · exact sound_rePhaseEdge _ (hp _ _ h)
  · exact hp _ _ h

theorem sound_ppsEdge {instant tick : Nat} {o : Int} {m : Part} (hm : Sound v m) : Sound v (ppsEdge instant o tick m) := by
  have hp : ∀ m p, Sound v m → Sound v { m with pps := p } := fun _ _ h => ⟨h.1, h.2, h.3, h.4⟩
  unfold ppsEdge
  lift_lets
  intro p m'
  have hm' : Sound v m' := hp _ _ hm
  clear_value m' p
  refine sound_ite ?_ (sound_ite (sound_acceptEdge hm') (sound_ppsEvent _ _ (hp _ _ hm')))
  split
  · exact hp _ _ hm'
  · refine sound_ite (sound_ppsEvent _ _ (hp _ _ hm')) (sound_ite (hp _ _ hm') (sound_acceptEdge (sound_ite ?_ (hp _ _ hm'))))
    exact sound_ppsEvent _ _ (hp _ _ hm')

theorem sound_execPpsinEdge (t : ℕ) (sub : ℕ) (s : State) (hs : Sound v s.part) : SoundOut v (execPpsinEdge t sub s) := by
  unfold execPpsinEdge
  repeat' first
    | with_reducible assumption
    | (intro y; intro (hy : Sound v _); (try beta_reduce))
    | (with_reducible apply soundOut_run)
    | (with_reducible apply sound_onTick)
    | (with_reducible apply sound_ppsEdge)

theorem sound_execPpsMissing (t : ℕ) (s : State) (hs : Sound v s.part) : SoundOut v (execPpsMissing t s) := by
  unfold execPpsMissing
  repeat' first
    | (intro y; intro (hy : Sound v _); (try beta_reduce))
    | ((try lift_lets -underBinder); intro x; first
        | (refine (fun hx : Sound v x => ?_) ?_; (on_goal 1 => clear_value x); (on_goal 2 => (simp -zeta only [x]; clear x)))
        | subst x)
    | (with_reducible apply soundOut_run)
    | (with_reducible apply sound_onTick)
    | (with_reducible apply sound_ppsEvent)
    | (with_reducible apply sound_setHt)
    | split
    | (refine Sound.mk ?_ ?_ ?_ ?_ <;> cases_type* Sound <;> first | assumption | (simp_all [Arrays, EventsSound]; done) | (simp_all [Arrays, EventsSound]; omega))

theorem sound_execSyncinEdge (t : ℕ) (s : State) (hs : Sound v s.part) : SoundOut v (execSyncinEdge t s) := by
  unfold execSyncinEdge
  repeat' first
    | (intro y; intro (hy : Sound v _); (try beta_reduce))
    | ((try lift_lets -underBinder); intro x; first
        | (refine (fun hx : Sound v x => ?_) ?_; (on_goal 1 => clear_value x); (on_goal 2 => (simp -zeta only [x]; clear x)))
        | subst x)
    | (with_reducible apply soundOut_run)
    | (with_reducible apply sound_onTick)
    | (with_reducible apply sound_raise)
    | split
    | (refine Sound.mk ?_ ?_ ?_ ?_ <;> cases_type* Sound <;> first | assumption | (simp_all [Arrays, EventsSound]; done) | (simp_all [Arrays, EventsSound]; omega))

theorem sound_syncinResets {m : Part} (hm : Sound v m) : Sound v (syncinResets m) := by
  unfold syncinResets
  repeat' first
    | with_reducible assumption
    | (with_reducible apply sound_resetGroup)
    | (with_reducible refine sound_foldl _ _ (fun a y hy => ?_) ?_; (on_goal 1 => beta_reduce))
    | (refine Sound.mk ?_ ?_ ?_ ?_ <;> cases_type* Sound <;> first | assumption | (simp_all [Arrays, EventsSound]; done) | (simp_all [Arrays, EventsSound]; omega))

theorem sound_enterSpll (st : SpllState) (f : Spll → Spll) {m : Part} (hm : Sound v m) : Sound v (enterSpll st f m) := by
  unfold enterSpll
  repeat' first
    | (with_reducible apply sound_refreshHt)
    | (refine Sound.mk ?_ ?_ ?_ ?_ <;> cases_type* Sound <;> first | assumption | (simp_all [Arrays, EventsSound]; done) | (simp_all [Arrays, EventsSound]; omega))

theorem sound_refLoss (cause : ℕ) {m : Part} (hm : Sound v m) : Sound v (refLoss cause m) := by
  unfold refLoss
  repeat' first
    | with_reducible assumption
    | (with_reducible apply sound_raise)

theorem sound_holdover (cause : ℕ) {m : Part} (hm : Sound v m) : Sound v (holdover cause m) := by
  unfold holdover
  repeat' first
    | with_reducible assumption
    | (with_reducible apply sound_enterSpll)
    | (with_reducible apply sound_refLoss)

theorem sound_nextWindow {m : Part} (hm : Sound v m) : Sound v (nextWindow m) := by
  unfold nextWindow
  repeat' first
    | (refine Sound.mk ?_ ?_ ?_ ?_ <;> cases_type* Sound <;> first | assumption | (simp_all [Arrays, EventsSound]; done) | (simp_all [Arrays, EventsSound]; omega))

theorem sound_execSpllWindowEnd (t : ℕ) (w : RefWindow) (s : State) (hs : Sound v s.part) : SoundOut v (execSpllWindowEnd t w s) := by
  unfold execSpllWindowEnd
  repeat' first
    | (intro y; intro (hy : Sound v _); (try beta_reduce))
    | ((try lift_lets -underBinder); intro x; first
        | (refine (fun hx : Sound v x => ?_) ?_; (on_goal 1 => clear_value x); (on_goal 2 => (simp -zeta only [x]; clear x)))
        | subst x)
    | (with_reducible apply soundOut_run)
    | (with_reducible apply sound_onTick)
    | (with_reducible apply sound_nextWindow)
    | (with_reducible apply sound_enterSpll)
    | (with_reducible apply sound_holdover)
    | split
    | (refine Sound.mk ?_ ?_ ?_ ?_ <;> cases_type* Sound <;> first | assumption | (simp_all [Arrays, EventsSound]; done) | (simp_all [Arrays, EventsSound]; omega))

theorem sound_execRefinMissingEdge (t : ℕ) (s : State) (hs : Sound v s.part) : SoundOut v (execRefinMissingEdge t s) := by
  unfold execRefinMissingEdge
  repeat' first
    | with_reducible assumption
    | (intro y; intro (hy : Sound v _); (try beta_reduce))
    | (with_reducible apply soundOut_run)
    | (with_reducible apply sound_onTick)
    | (with_reducible apply sound_enterSpll)
    | (with_reducible apply sound_holdover)
    | split

theorem sound_execSpllPhaseLock (t : ℕ) (s : State) (hs : Sound v s.part) : SoundOut v (execSpllPhaseLock t s) := by
  unfold execSpllPhaseLock
  repeat' first
    | with_reducible assumption
    | (intro y; intro (hy : Sound v _); (try beta_reduce))
    | (with_reducible apply soundOut_run)
    | (with_reducible apply sound_onTick)
    | (with_reducible apply sound_enterSpll)
    | split

theorem sound_execSpllAcquireTimeout (t : ℕ) (s : State) (hs : Sound v s.part) : SoundOut v (execSpllAcquireTimeout t s) := by
  unfold execSpllAcquireTimeout
  repeat' first
    | with_reducible assumption
    | (intro y; intro (hy : Sound v _); (try beta_reduce))
    | (with_reducible apply soundOut_run)
    | (with_reducible apply sound_onTick)
    | (with_reducible apply sound_enterSpll)
    | split

theorem sound_newReference {m : Part} (hm : Sound v m) : Sound v (newReference m) := by
  unfold newReference
  repeat' first
    | ((try lift_lets -underBinder); intro x; first
        | (refine (fun hx : Sound v x => ?_) ?_; (on_goal 1 => clear_value x); (on_goal 2 => (simp -zeta only [x]; clear x)))
        | subst x)
    | (with_reducible apply sound_refLoss)
    | (with_reducible apply sound_setHt)
    | split
    | (refine Sound.mk ?_ ?_ ?_ ?_ <;> cases_type* Sound <;> first | assumption | (simp_all [Arrays, EventsSound]; done) | (simp_all [Arrays, EventsSound]; omega))

theorem sound_elect {m : Part} {m1 : Part} (hm : Sound v m) (hm1 : Sound v m1) : Sound v (elect m m1) := by
  unfold elect
  repeat' first
    | ((try lift_lets -underBinder); intro x; first
        | (refine (fun hx : Sound v x => ?_) ?_; (on_goal 1 => clear_value x); (on_goal 2 => (simp -zeta only [x]; clear x)))
        | subst x)
    | (with_reducible apply sound_raise)
    | (with_reducible apply sound_newReference)
    | (with_reducible apply sound_holdover)
    | (with_reducible apply sound_enterSpll)
    | (with_reducible apply sound_refreshHt)
    | split
    | (refine Sound.mk ?_ ?_ ?_ ?_ <;> cases_type* Sound <;> first | assumption | (simp_all [Arrays, EventsSound]; done) | (simp_all [Arrays, EventsSound]; omega))

theorem sound_execMasterClaim (t : ℕ) (addr : ℕ) (c : Claim) (s : State) (hs : Sound v s.part) : SoundOut v (execMasterClaim t addr c s) := by
  unfold execMasterClaim
  repeat' first
    | (intro y; intro (hy : Sound v _); (try beta_reduce))
    | ((try lift_lets -underBinder); intro x; first
        | (refine (fun hx : Sound v x => ?_) ?_; (on_goal 1 => clear_value x); (on_goal 2 => (simp -zeta only [x]; clear x)))
        | subst x)
    | (with_reducible apply soundOut_run)
    | (with_reducible apply sound_onTick)
    | (with_reducible apply sound_elect)
    | split
    | (refine Sound.mk ?_ ?_ ?_ ?_ <;> cases_type* Sound <;> first | assumption | (simp_all [Arrays, EventsSound]; done) | (simp_all [Arrays, EventsSound]; omega))

theorem sound_execMasterSecondsMarker {t sub delayNs : Nat} {s : State} (hs : Sound v s.part) :
    SoundOut v (execMasterSecondsMarker t sub delayNs s) := by
  have hk : ∀ m k, Sound v m → Sound v { m with clock := k } := fun _ _ h => ⟨h.1, h.2, h.3, h.4⟩
  exact soundOut_run (sound_onTick _ _ (fun m hm => sound_ite hm
    (sound_startPhase _ (hk _ _ (sound_rePhaseEdge
      (offsetOf ((1024 * m.clock.ht + sub : Nat) - roundDiv (delayNs * 25165824) 1000000000)) hm)))) hs)

theorem sound_applyClock (p : ClockParams) {m : Part} (hm : Sound v m) : Sound v (applyClock p m) := by
  unfold applyClock
  repeat' first
    | (refine Sound.mk ?_ ?_ ?_ ?_ <;> cases_type* Sound <;> first | assumption | (simp_all [Arrays, EventsSound]; done) | (simp_all [Arrays, EventsSound]; omega))

theorem sound_changeSource (src : HtSource) (auto : Bool) (ref25 : Bool) {m : Part} (hm : Sound v m) : Sound v (changeSource src auto ref25 m) := by
  unfold changeSource
  repeat' first
    | ((try lift_lets -underBinder); intro x; first
        | (refine (fun hx : Sound v x => ?_) ?_; (on_goal 1 => clear_value x); (on_goal 2 => (simp -zeta only [x]; clear x)))
        | subst x)
    | (with_reducible apply sound_refLoss)
    | (with_reducible apply sound_setHt)
    | (with_reducible apply sound_flood)
    | split
    | (refine Sound.mk ?_ ?_ ?_ ?_ <;> cases_type* Sound <;> first | assumption | (simp_all [Arrays, EventsSound]; done) | (simp_all [Arrays, EventsSound]; omega))

theorem sound_performClock (p : ClockParams) (x1 : Desc) (x2 : Origin) {m : Part} (hm : Sound v m) : Sound v (performClock p x1 x2 m).1 := by
  unfold performClock
  repeat' first
    | ((try lift_lets -underBinder); intro x; first
        | (refine (fun hx : Sound v x => ?_) ?_; (on_goal 1 => clear_value x); (on_goal 2 => (simp -zeta only [x]; clear x)))
        | subst x)
    | (with_reducible apply sound_changeSource)
    | (with_reducible apply sound_elect)
    | split
    | (refine Sound.mk ?_ ?_ ?_ ?_ <;> cases_type* Sound <;> first | assumption | (simp_all [Arrays, EventsSound]; done) | (simp_all [Arrays, EventsSound]; omega))

theorem sound_execClockConfig (d : Desc) (p : ClockParams) (s : State) (hs : Sound v s.part) : SoundOut v (execClockConfig d p s) := by
  unfold execClockConfig
  repeat' first
    | with_reducible assumption
    | ((try lift_lets -underBinder); intro x; first
        | (refine (fun hx : Sound v x => ?_) ?_; (on_goal 1 => clear_value x); (on_goal 2 => (simp -zeta only [x]; clear x)))
        | subst x)
    | (with_reducible apply soundOut_run)
    | (with_reducible apply sound_accept)
    | (with_reducible apply sound_performClock)

end Sys2Proof.Laws
end

