-- ==== Sys2Proof/Laws/SoundKite.lean ====
section
/-! SUPPORT. Each operation of Machine/Kite.lean keeps `Safety.Sound`: one lemma per operation, by the lemmas of the operations it
calls. -/

namespace Sys2Proof.Laws

open Sys2Proof Sys2Proof.Machine Sys2Proof.Safety

set_option linter.all false

variable {v : Fused} {m : Part}
theorem sound_onKite {f : Kite → Kite} {m : Part} (hf : ∀ k, (f k).demods.length = k.demods.length) (h : Sound v m) :
    Sound v (onKite f m) := by
  refine ⟨h.1, ?_, h.3, h.4⟩
  have := h.2
  simp_all [Arrays, onKite]

theorem sound_onSession (n : ℕ) (f : KiteSession → KiteSession) {m : Part} (hm : Sound v m) : Sound v (onSession n f m) := by
  unfold onSession
  repeat' first
    | with_reducible assumption
    | (intro _; with_reducible refine (?_ : @Eq Nat _ _); first | exact rfl | (simp; done))
    | (with_reducible apply sound_onKite)

theorem sound_countKite (i : ℕ) (n : ℕ) {m : Part} (hm : Sound v m) : Sound v (countKite i n m) := by
  unfold countKite
  repeat' first
    | with_reducible assumption
    | (intro _; with_reducible refine (?_ : @Eq Nat _ _); first | exact rfl | (simp; done))
    | (with_reducible apply sound_onKite)

theorem sound_dropEvent {m : Part} (hm : Sound v m) : Sound v (dropEvent m) := by
  unfold dropEvent
  repeat' first
    | with_reducible assumption
    | (intro _; with_reducible refine (?_ : @Eq Nat _ _); first | exact rfl | (simp; done))
    | ((try lift_lets -underBinder); intro x; first
        | (refine (fun hx : Sound v x => ?_) ?_; (on_goal 1 => clear_value x); (on_goal 2 => (simp -zeta only [x]; clear x)))
        | subst x)
    | (with_reducible apply sound_raise)
    | (with_reducible apply sound_onKite)
    | split

theorem sound_appendKite (subtype : ℕ) (session : ℕ) (status : ℕ) (channel : ℕ) (cls : ℕ) (ht : ℕ) (fields : List Field) (bytes : ℕ) (body : List Byte) {m : Part} (hm : Sound v m) : Sound v (appendKite subtype session status channel cls ht fields bytes body m) := by
  unfold appendKite
  repeat' first
    | with_reducible assumption
    | (with_reducible apply sound_appendItem)
    | (with_reducible refine sound_foldl _ _ (fun a y hy => ?_) ?_; (on_goal 1 => beta_reduce))
    | split

theorem sound_reportTx (session : ℕ) (channel : ℕ) (sf : ℕ) (fr : KiteFrame) (status : ℕ) (used : ℕ) (ht : ℕ) {m : Part} (hm : Sound v m) : Sound v (reportTx session channel sf fr status used ht m) := by
  unfold reportTx
  repeat' first
    | with_reducible assumption
    | (with_reducible apply sound_appendKite)
    | (with_reducible apply sound_raiseAt)

theorem sound_discardFrames (session : ℕ) (channel : ℕ) (sf : ℕ) (status : ℕ) (x4 : List KiteFrame) {m : Part} : Sound v m → Sound v (discardFrames session channel sf status x4 m) := by
  fun_induction discardFrames session channel sf status x4 m <;> intros
  all_goals repeat' first
    | (with_reducible apply sound_reportTx)
    | (with_reducible apply_assumption -exfalso -symm)

theorem sound_discardWhere (n : ℕ) (status : ℕ) (p : KiteFrame → Bool) {m : Part} (hm : Sound v m) : Sound v (discardWhere n status p m) := by
  unfold discardWhere
  repeat' first
    | with_reducible assumption
    | (with_reducible apply sound_onSession)
    | (with_reducible apply sound_discardFrames)
    | split

theorem sound_sessionEvent (n : ℕ) (cause : ℕ) (x : KiteSession) {m : Part} (hm : Sound v m) : Sound v (sessionEvent n cause x m) := by
  unfold sessionEvent
  repeat' first
    | with_reducible assumption
    | (with_reducible apply sound_raise)

theorem sound_closeSession (n : ℕ) (cause : ℕ) (status : ℕ) {m : Part} (hm : Sound v m) : Sound v (closeSession n cause status m) := by
  unfold closeSession
  repeat' first
    | with_reducible assumption
    | (intro _; with_reducible refine (?_ : @Eq Nat _ _); first | exact rfl | (simp; done))
    | (with_reducible apply sound_discardWhere)
    | (with_reducible apply sound_sessionEvent)
    | (with_reducible apply sound_onKite)
    | split

theorem sound_setBucket (subBand : ℕ) (cls : ℕ) (b : Bucket) {m : Part} (hm : Sound v m) : Sound v (setBucket subBand cls b m) := by
  unfold setBucket
  repeat' first
    | with_reducible assumption
    | (intro _; with_reducible refine (?_ : @Eq Nat _ _); first | exact rfl | (simp; done))
    | (with_reducible apply sound_onKite)

theorem sound_chargeBucket (subBand : ℕ) (cls : ℕ) (air : ℤ) (e : ℕ) {m : Part} (hm : Sound v m) : Sound v (chargeBucket subBand cls air e m) := by
  unfold chargeBucket
  repeat' first
    | with_reducible assumption
    | (with_reducible apply sound_setBucket)

theorem sound_budgetEvent (subBand : ℕ) (cls : ℕ) (air : ℕ) {m : Part} (hm : Sound v m) : Sound v (budgetEvent subBand cls air m) := by
  unfold budgetEvent
  repeat' first
    | with_reducible assumption
    | ((try lift_lets -underBinder); intro x; first
        | (refine (fun hx : Sound v x => ?_) ?_; (on_goal 1 => clear_value x); (on_goal 2 => (simp -zeta only [x]; clear x)))
        | subst x)
    | (with_reducible apply sound_raise)
    | (with_reducible apply sound_setBucket)
    | split

theorem sound_freeDemods (cnt : ℕ) {m : Part} (hm : Sound v m) : Sound v (freeDemods cnt m) := by
  unfold freeDemods
  repeat' first
    | with_reducible assumption
    | (intro _; with_reducible refine (?_ : @Eq Nat _ _); first | exact rfl | (simp; done))
    | (with_reducible apply sound_countKite)
    | (with_reducible apply sound_onKite)

theorem sound_holdWord {m : Part} (hm : Sound v m) : Sound v (holdWord m) := by
  unfold holdWord
  repeat' first
    | (refine Sound.mk ?_ ?_ ?_ ?_ <;> cases_type* Sound <;> first | assumption | (simp_all [Arrays, EventsSound]; done) | (simp_all [Arrays, EventsSound]; omega))

theorem sound_tuneKsyn (ch : ℕ) {m : Part} (hm : Sound v m) : Sound v (tuneKsyn ch m) := by
  unfold tuneKsyn
  repeat' first
    | (refine Sound.mk ?_ ?_ ?_ ?_ <;> cases_type* Sound <;> first | assumption | (simp_all [Arrays, EventsSound]; done) | (simp_all [Arrays, EventsSound]; omega))

theorem sound_hopBack (h : ℕ) {m : Part} (hm : Sound v m) : Sound v (hopBack h m) := by
  unfold hopBack
  repeat' first
    | (with_reducible refine sound_elim _ _ ?_ (fun a => ?_); (on_goal 2 => beta_reduce))
    | split
    | (refine Sound.mk ?_ ?_ ?_ ?_ <;> cases_type* Sound <;> first | assumption | (simp_all [Arrays, EventsSound]; done) | (simp_all [Arrays, EventsSound]; omega))

theorem sound_settleTx {m : Part} (hm : Sound v m) : Sound v (settleTx m) := by
  unfold settleTx
  repeat' first
    | with_reducible assumption
    | ((try lift_lets -underBinder); intro x; first
        | (refine (fun hx : Sound v x => ?_) ?_; (on_goal 1 => clear_value x); (on_goal 2 => (simp -zeta only [x]; clear x)))
        | subst x)
    | (with_reducible apply sound_hopBack)
    | (with_reducible apply sound_freeDemods)
    | (with_reducible apply sound_chargeBucket)
    | (with_reducible apply sound_dropEvent)
    | (with_reducible refine sound_foldl _ _ (fun a y hy => ?_) ?_; (on_goal 1 => beta_reduce))
    | split
    | (refine Sound.mk ?_ ?_ ?_ ?_ <;> cases_type* Sound <;> first | assumption | (simp_all [Arrays, EventsSound]; done) | (simp_all [Arrays, EventsSound]; omega))

theorem sound_kiteTick (t : ℕ) (f : Part → Part) {m : Part} (hf : ∀ m, Sound v m → Sound v (f m)) (hm : Sound v m) : Sound v (kiteTick t f m) := by
  unfold kiteTick
  repeat' first
    | (intro y; intro (hy : Sound v _); (try beta_reduce))
    | ((try lift_lets -underBinder); intro x; first
        | (refine (fun hx : Sound v x => ?_) ?_; (on_goal 1 => clear_value x); (on_goal 2 => (simp -zeta only [x]; clear x)))
        | subst x)
    | (with_reducible apply sound_onTick)
    | (with_reducible apply sound_settleTx)
    | (with_reducible apply_assumption -exfalso -symm)

theorem sound_hopRx (w : ℕ) {m : Part} (hm : Sound v m) : Sound v (hopRx w m) := by
  unfold hopRx
  repeat' first
    | with_reducible assumption
    | (intro _; with_reducible refine (?_ : @Eq Nat _ _); first | exact rfl | (simp; done))
    | ((try lift_lets -underBinder); intro x; first
        | (refine (fun hx : Sound v x => ?_) ?_; (on_goal 1 => clear_value x); (on_goal 2 => (simp -zeta only [x]; clear x)))
        | subst x)
    | (with_reducible apply sound_freeDemods)
    | (with_reducible apply sound_onKite)
    | (with_reducible apply sound_tuneKsyn)
    | split

theorem sound_returnTxs (p : KiteTx → Bool) {m : Part} (hm : Sound v m) : Sound v (returnTxs p m) := by
  unfold returnTxs
  repeat' first
    | with_reducible assumption
    | (intro _; with_reducible refine (?_ : @Eq Nat _ _); first | exact rfl | (simp; done))
    | ((try lift_lets -underBinder); intro x; first
        | (refine (fun hx : Sound v x => ?_) ?_; (on_goal 1 => clear_value x); (on_goal 2 => (simp -zeta only [x]; clear x)))
        | subst x)
    | (with_reducible apply sound_onSession)
    | (with_reducible apply sound_reportTx)
    | (with_reducible apply sound_onKite)
    | (with_reducible refine sound_foldl _ _ (fun a y hy => ?_) ?_; (on_goal 1 => beta_reduce))
    | split

theorem sound_performKiteConfig (count : ℕ) (b : KiteBlock) (x2 : Desc) (x3 : Origin) {m : Part} (hm : Sound v m) : Sound v (performKiteConfig count b x2 x3 m).1 := by
  unfold performKiteConfig
  repeat' first
    | with_reducible assumption
    | (intro _; with_reducible refine (?_ : @Eq Nat _ _); first | exact rfl | (simp; done))
    | ((try lift_lets -underBinder); intro x; first
        | (refine (fun hx : Sound v x => ?_) ?_; (on_goal 1 => clear_value x); (on_goal 2 => (simp -zeta only [x]; clear x)))
        | subst x)
    | (with_reducible apply sound_returnTxs)
    | (with_reducible apply sound_freeDemods)
    | (with_reducible apply sound_settleTx)
    | (with_reducible apply sound_finish)
    | (with_reducible apply sound_onKite)
    | split

theorem sound_execKiteConfig (d : Desc) (count : ℕ) (block : KiteBlock) (s : State) (hs : Sound v s.part) : SoundOut v (execKiteConfig d count block s) := by
  unfold execKiteConfig
  repeat' first
    | with_reducible assumption
    | (with_reducible apply soundOut_run)
    | (with_reducible apply sound_accept)
    | (with_reducible apply sound_performKiteConfig)

theorem sound_refitSession (b : KiteBlock) (n : ℕ) {m : Part} (hm : Sound v m) : Sound v (refitSession b n m) := by
  unfold refitSession
  repeat' first
    | with_reducible assumption
    | (with_reducible apply sound_closeSession)
    | (with_reducible apply sound_discardWhere)
    | split

theorem sound_applyKite (p : KitePending) {m : Part} (hm : Sound v m) : Sound v (applyKite p m) := by
  unfold applyKite
  repeat' first
    | with_reducible assumption
    | ((try lift_lets -underBinder); intro x; first
        | (refine (fun hx : Sound v x => ?_) ?_; (on_goal 1 => clear_value x); (on_goal 2 => (simp -zeta only [x]; clear x)))
        | subst x)
    | (with_reducible apply sound_hopRx)
    | (with_reducible apply sound_refitSession)
    | (with_reducible apply sound_finish)
    | (with_reducible refine sound_foldl _ _ (fun a y hy => ?_) ?_; (on_goal 1 => beta_reduce))
    | (refine Sound.mk ?_ ?_ ?_ ?_ <;> cases_type* Sound <;> first | assumption | (simp_all [Arrays, EventsSound]; done) | (simp_all [Arrays, EventsSound]; omega))

theorem sound_execKiteConfigApply (t : ℕ) (s : State) (hs : Sound v s.part) : SoundOut v (execKiteConfigApply t s) := by
  unfold execKiteConfigApply
  repeat' first
    | with_reducible assumption
    | (intro y; intro (hy : Sound v _); (try beta_reduce))
    | (with_reducible apply soundOut_run)
    | (with_reducible apply sound_kiteTick)
    | (with_reducible apply sound_applyKite)
    | split

theorem sound_performSessionOpen (n : ℕ) (key : ℕ) (peer : ℕ) (ch : ℕ) (x4 : Desc) (x5 : Origin) {m : Part} (hm : Sound v m) : Sound v (performSessionOpen n key peer ch x4 x5 m).1 := by
  unfold performSessionOpen
  repeat' first
    | with_reducible assumption
    | (intro _; with_reducible refine (?_ : @Eq Nat _ _); first | exact rfl | (simp; done))
    | ((try lift_lets -underBinder); intro x; first
        | (refine (fun hx : Sound v x => ?_) ?_; (on_goal 1 => clear_value x); (on_goal 2 => (simp -zeta only [x]; clear x)))
        | subst x)
    | (with_reducible apply sound_sessionEvent)
    | (with_reducible apply sound_onKite)
    | split

theorem sound_execKiteSessionOpen (d : Desc) (session : ℕ) (key : ℕ) (peer : ℕ) (channel : ℕ) (s : State) (hs : Sound v s.part) : SoundOut v (execKiteSessionOpen d session key peer channel s) := by
  unfold execKiteSessionOpen
  repeat' first
    | with_reducible assumption
    | (with_reducible apply soundOut_run)
    | (with_reducible apply sound_accept)
    | (with_reducible apply sound_performSessionOpen)

theorem sound_performSessionClose (n : ℕ) (x1 : Desc) (x2 : Origin) {m : Part} (hm : Sound v m) : Sound v (performSessionClose n x1 x2 m).1 := by
  unfold performSessionClose
  repeat' first
    | with_reducible assumption
    | ((try lift_lets -underBinder); intro x; first
        | (refine (fun hx : Sound v x => ?_) ?_; (on_goal 1 => clear_value x); (on_goal 2 => (simp -zeta only [x]; clear x)))
        | subst x)
    | (with_reducible apply sound_closeSession)
    | split

theorem sound_execKiteSessionClose (d : Desc) (session : ℕ) (s : State) (hs : Sound v s.part) : SoundOut v (execKiteSessionClose d session s) := by
  unfold execKiteSessionClose
  repeat' first
    | with_reducible assumption
    | (with_reducible apply soundOut_run)
    | (with_reducible apply sound_accept)
    | (with_reducible apply sound_performSessionClose)

theorem sound_performSessionUpdate (n : ℕ) (key : ℕ) (ch : ℕ) (x3 : Desc) (x4 : Origin) {m : Part} (hm : Sound v m) : Sound v (performSessionUpdate n key ch x3 x4 m).1 := by
  unfold performSessionUpdate
  repeat' first
    | with_reducible assumption
    | ((try lift_lets -underBinder); intro x; first
        | (refine (fun hx : Sound v x => ?_) ?_; (on_goal 1 => clear_value x); (on_goal 2 => (simp -zeta only [x]; clear x)))
        | subst x)
    | (with_reducible apply sound_onSession)
    | (with_reducible apply sound_sessionEvent)
    | (with_reducible refine sound_elim _ _ ?_ (fun a => ?_); (on_goal 2 => beta_reduce))
    | split

theorem sound_execKiteSessionUpdate (d : Desc) (session : ℕ) (key : ℕ) (channel : ℕ) (s : State) (hs : Sound v s.part) : SoundOut v (execKiteSessionUpdate d session key channel s) := by
  unfold execKiteSessionUpdate
  repeat' first
    | with_reducible assumption
    | (with_reducible apply soundOut_run)
    | (with_reducible apply sound_accept)
    | (with_reducible apply sound_performSessionUpdate)

theorem sound_performSessionFlush (n : ℕ) (x1 : Desc) (x2 : Origin) {m : Part} (hm : Sound v m) : Sound v (performSessionFlush n x1 x2 m).1 := by
  unfold performSessionFlush
  repeat' first
    | with_reducible assumption
    | ((try lift_lets -underBinder); intro x; first
        | (refine (fun hx : Sound v x => ?_) ?_; (on_goal 1 => clear_value x); (on_goal 2 => (simp -zeta only [x]; clear x)))
        | subst x)
    | (with_reducible apply sound_discardWhere)
    | (with_reducible apply sound_sessionEvent)
    | (with_reducible refine sound_elim _ _ ?_ (fun a => ?_); (on_goal 2 => beta_reduce))
    | split

theorem sound_execKiteSessionFlush (d : Desc) (session : ℕ) (s : State) (hs : Sound v s.part) : SoundOut v (execKiteSessionFlush d session s) := by
  unfold execKiteSessionFlush
  repeat' first
    | with_reducible assumption
    | (with_reducible apply soundOut_run)
    | (with_reducible apply sound_accept)
    | (with_reducible apply sound_performSessionFlush)

theorem sound_performKiteSend (n : ℕ) (cls : ℕ) (len : ℕ) (payload : List ℕ) (x4 : Desc) (x5 : Origin) {m : Part} (hm : Sound v m) : Sound v (performKiteSend n cls len payload x4 x5 m).1 := by
  unfold performKiteSend
  repeat' first
    | with_reducible assumption
    | (with_reducible apply sound_sessionEvent)
    | (with_reducible apply sound_onSession)
    | split

theorem sound_execKiteSend (d : Desc) (session : ℕ) (cls : ℕ) (length : ℕ) (payload : List ℕ) (s : State) (hs : Sound v s.part) : SoundOut v (execKiteSend d session cls length payload s) := by
  unfold execKiteSend
  repeat' first
    | with_reducible assumption
    | (with_reducible apply soundOut_run)
    | (with_reducible apply sound_accept)
    | (with_reducible apply sound_performKiteSend)

theorem sound_performKiteBudget (subBand : ℕ) (cls : ℕ) (rate : ℕ) (burst : ℕ) (x4 : Desc) (x5 : Origin) {m : Part} (hm : Sound v m) : Sound v (performKiteBudget subBand cls rate burst x4 x5 m).1 := by
  unfold performKiteBudget
  repeat' first
    | with_reducible assumption
    | ((try lift_lets -underBinder); intro x; first
        | (refine (fun hx : Sound v x => ?_) ?_; (on_goal 1 => clear_value x); (on_goal 2 => (simp -zeta only [x]; clear x)))
        | subst x)
    | (with_reducible apply sound_settleTx)
    | (with_reducible apply sound_setBucket)

theorem sound_execKiteBudget (d : Desc) (subBand : ℕ) (cls : ℕ) (rate : ℕ) (burst : ℕ) (s : State) (hs : Sound v s.part) : SoundOut v (execKiteBudget d subBand cls rate burst s) := by
  unfold execKiteBudget
  repeat' first
    | with_reducible assumption
    | (with_reducible apply soundOut_run)
    | (with_reducible apply sound_accept)
    | (with_reducible apply sound_performKiteBudget)

theorem sound_considerSession (b : KiteBlock) (n : ℕ) {m : Part} (hm : Sound v m) : Sound v (considerSession b n m) := by
  unfold considerSession
  repeat' first
    | with_reducible assumption
    | (with_reducible apply sound_onSession)
    | (with_reducible apply sound_budgetEvent)
    | (with_reducible apply sound_countKite)
    | (with_reducible apply sound_raise)
    | split

theorem sound_decideStart (b : KiteBlock) (n : ℕ) (x : KiteSession) {m : Part} (hm : Sound v m) : Sound v (decideStart b n x m) := by
  unfold decideStart
  repeat' first
    | with_reducible assumption
    | (intro _; with_reducible refine (?_ : @Eq Nat _ _); first | exact rfl | (simp; done))
    | ((try lift_lets -underBinder); intro x; first
        | (refine (fun hx : Sound v x => ?_) ?_; (on_goal 1 => clear_value x); (on_goal 2 => (simp -zeta only [x]; clear x)))
        | subst x)
    | (with_reducible apply sound_onSession)
    | (with_reducible apply sound_onKite)
    | (with_reducible apply sound_tuneKsyn)
    | split

theorem sound_decideKite (b : KiteBlock) {m : Part} (hm : Sound v m) : Sound v (decideKite b m) := by
  unfold decideKite
  repeat' first
    | with_reducible assumption
    | ((try lift_lets -underBinder); intro x; first
        | (refine (fun hx : Sound v x => ?_) ?_; (on_goal 1 => clear_value x); (on_goal 2 => (simp -zeta only [x]; clear x)))
        | subst x)
    | (with_reducible apply sound_considerSession)
    | (with_reducible apply sound_decideStart)
    | (with_reducible refine sound_foldl _ _ (fun a y hy => ?_) ?_; (on_goal 1 => beta_reduce))
    | split

theorem sound_decideSlot {m : Part} (hm : Sound v m) : Sound v (decideSlot m) := by
  unfold decideSlot
  repeat' first
    | with_reducible assumption
    | (with_reducible apply sound_decideKite)
    | split

theorem sound_returnRx (e : ℕ) {m : Part} (hm : Sound v m) : Sound v (returnRx e m) := by
  unfold returnRx
  repeat' first
    | with_reducible assumption
    | (intro _; with_reducible refine (?_ : @Eq Nat _ _); first | exact rfl | (simp; done))
    | (with_reducible apply sound_tuneKsyn)
    | (with_reducible apply sound_onKite)
    | (with_reducible refine sound_elim _ _ ?_ (fun a => ?_); (on_goal 2 => beta_reduce))
    | split

theorem sound_execKiteTxEnd (t : ℕ) (s : State) (hs : Sound v s.part) : SoundOut v (execKiteTxEnd t s) := by
  unfold execKiteTxEnd
  repeat' first
    | with_reducible assumption
    | (intro _; with_reducible refine (?_ : @Eq Nat _ _); first | exact rfl | (simp; done))
    | (intro y; intro (hy : Sound v _); (try beta_reduce))
    | (with_reducible apply soundOut_run)
    | (with_reducible apply sound_kiteTick)
    | (with_reducible apply sound_returnRx)
    | (with_reducible apply sound_countKite)
    | (with_reducible apply sound_onKite)
    | (with_reducible apply sound_reportTx)
    | split

theorem sound_abortOne (status : ℕ) (ramp : ℕ) (x : KiteTx) {m : Part} (hm : Sound v m) : Sound v (abortOne status ramp x m) := by
  unfold abortOne
  repeat' first
    | with_reducible assumption
    | (with_reducible apply sound_chargeBucket)
    | (with_reducible apply sound_reportTx)
    | (with_reducible apply sound_countKite)
    | split

theorem sound_abortKite (status : ℕ) {m : Part} (hm : Sound v m) : Sound v (abortKite status m) := by
  unfold abortKite
  repeat' first
    | with_reducible assumption
    | (intro _; with_reducible refine (?_ : @Eq Nat _ _); first | exact rfl | (simp; done))
    | ((try lift_lets -underBinder); intro x; first
        | (refine (fun hx : Sound v x => ?_) ?_; (on_goal 1 => clear_value x); (on_goal 2 => (simp -zeta only [x]; clear x)))
        | subst x)
    | (with_reducible apply sound_settleTx)
    | (with_reducible apply sound_abortOne)
    | (with_reducible apply sound_onKite)
    | (with_reducible apply sound_returnRx)
    | (with_reducible refine sound_foldl _ _ (fun a y hy => ?_) ?_; (on_goal 1 => beta_reduce))
    | split

theorem sound_endSuperframe {m : Part} (hm : Sound v m) : Sound v (endSuperframe m) := by
  unfold endSuperframe
  repeat' first
    | with_reducible assumption
    | (intro _; with_reducible refine (?_ : @Eq Nat _ _); first | exact rfl | (simp; done))
    | (with_reducible apply sound_appendKite)
    | (with_reducible apply sound_onKite)

theorem sound_crossWindow {m : Part} (hm : Sound v m) : Sound v (crossWindow m) := by
  unfold crossWindow
  repeat' first
    | with_reducible assumption
    | ((try lift_lets -underBinder); intro x; first
        | (refine (fun hx : Sound v x => ?_) ?_; (on_goal 1 => clear_value x); (on_goal 2 => (simp -zeta only [x]; clear x)))
        | subst x)
    | (with_reducible apply sound_endSuperframe)
    | (with_reducible apply sound_hopRx)
    | split

theorem sound_kiteStep {m : Part} (hm : Sound v m) : Sound v (kiteStep m) := by
  unfold kiteStep
  repeat' first
    | with_reducible assumption
    | (intro _; with_reducible refine (?_ : @Eq Nat _ _); first | exact rfl | (simp; done))
    | ((try lift_lets -underBinder); intro x; first
        | (refine (fun hx : Sound v x => ?_) ?_; (on_goal 1 => clear_value x); (on_goal 2 => (simp -zeta only [x]; clear x)))
        | subst x)
    | (with_reducible apply sound_endSuperframe)
    | (with_reducible apply sound_settleTx)
    | (with_reducible apply sound_onKite)
    | (with_reducible apply sound_hopRx)
    | split

theorem sound_setDemod (i : ℕ) (d : Demod) {m : Part} (hm : Sound v m) : Sound v (setDemod i d m) := by
  unfold setDemod
  repeat' first
    | with_reducible assumption
    | (intro _; with_reducible refine (?_ : @Eq Nat _ _); first | exact rfl | (simp; done))
    | (with_reducible apply sound_onKite)

theorem sound_assign (i : ℕ) (p : KiteDetect) {m : Part} (hm : Sound v m) : Sound v (assign i p m) := by
  unfold assign
  repeat' first
    | with_reducible assumption
    | (with_reducible apply sound_setDemod)

theorem sound_applyPilots (l : List KitePilot) {m : Part} (hm : Sound v m) : Sound v (applyPilots l m) := by
  refine sound_onKite (fun k => ?_) hm
  suffices h : ∀ ds : List Demod, (l.foldl (fun ds p => ds.modify p.demod fun d =>
      if d.state = .header ∨ d.state = .payload then { d with level := p.level, freq := p.freq, timing := p.timing } else d)
      ds).length = ds.length from h k.demods
  induction l with
  | nil => exact fun _ => rfl
  | cons a l ih => exact fun ds => (ih _).trans (by simp)

theorem sound_arbitrateBusy (p : KiteDetect) {m : Part} (hm : Sound v m) : Sound v (arbitrateBusy p m) := by
  unfold arbitrateBusy
  repeat' first
    | with_reducible assumption
    | ((try lift_lets -underBinder); intro x; first
        | (refine (fun hx : Sound v x => ?_) ?_; (on_goal 1 => clear_value x); (on_goal 2 => (simp -zeta only [x]; clear x)))
        | subst x)
    | (with_reducible apply sound_assign)
    | (with_reducible apply sound_countKite)
    | split

theorem sound_arbitrate (p : KiteDetect) {m : Part} (hm : Sound v m) : Sound v (arbitrate p m) := by
  unfold arbitrate
  repeat' first
    | with_reducible assumption
    | (with_reducible apply sound_assign)
    | (with_reducible apply sound_countKite)
    | (with_reducible apply sound_arbitrateBusy)
    | split

theorem sound_execKiteDetection (t : ℕ) (p : KiteDetect) (s : State) (hs : Sound v s.part) : SoundOut v (execKiteDetection t p s) := by
  unfold execKiteDetection
  repeat' first
    | with_reducible assumption
    | (intro y; intro (hy : Sound v _); (try beta_reduce))
    | ((try lift_lets -underBinder); intro x; first
        | (refine (fun hx : Sound v x => ?_) ?_; (on_goal 1 => clear_value x); (on_goal 2 => (simp -zeta only [x]; clear x)))
        | subst x)
    | (with_reducible apply soundOut_runIf)
    | (with_reducible apply sound_kiteTick)
    | (with_reducible apply sound_applyPilots)
    | (with_reducible apply sound_dropEvent)
    | (with_reducible apply sound_arbitrate)
    | split

theorem sound_failDemod (i : ℕ) (cnt : ℕ) {m : Part} (hm : Sound v m) : Sound v (failDemod i cnt m) := by
  unfold failDemod
  repeat' first
    | with_reducible assumption
    | (with_reducible apply sound_dropEvent)
    | (with_reducible apply sound_countKite)
    | (with_reducible apply sound_setDemod)

theorem sound_execKiteSyncDone (t : ℕ) (demod : ℕ) (shift : ℕ) (pilots : List KitePilot) (s : State) (hs : Sound v s.part) : SoundOut v (execKiteSyncDone t demod shift pilots s) := by
  unfold execKiteSyncDone
  repeat' first
    | with_reducible assumption
    | (intro y; intro (hy : Sound v _); (try beta_reduce))
    | ((try lift_lets -underBinder); intro x; first
        | (refine (fun hx : Sound v x => ?_) ?_; (on_goal 1 => clear_value x); (on_goal 2 => (simp -zeta only [x]; clear x)))
        | subst x)
    | (with_reducible apply soundOut_runIf)
    | (with_reducible apply sound_kiteTick)
    | (with_reducible apply sound_applyPilots)
    | (with_reducible apply sound_setDemod)
    | (with_reducible apply sound_failDemod)
    | split

theorem sound_execKiteSyncTimeout (t : ℕ) (demod : ℕ) (s : State) (hs : Sound v s.part) : SoundOut v (execKiteSyncTimeout t demod s) := by
  unfold execKiteSyncTimeout
  repeat' first
    | with_reducible assumption
    | (intro y; intro (hy : Sound v _); (try beta_reduce))
    | (with_reducible apply soundOut_runIf)
    | (with_reducible apply sound_kiteTick)
    | (with_reducible apply sound_failDemod)
    | split

theorem sound_execKiteHeaderDone (t : ℕ) (demod : ℕ) (h : KiteHeader) (s : State) (hs : Sound v s.part) : SoundOut v (execKiteHeaderDone t demod h s) := by
  unfold execKiteHeaderDone
  repeat' first
    | with_reducible assumption
    | (intro y; intro (hy : Sound v _); (try beta_reduce))
    | ((try lift_lets -underBinder); intro x; first
        | (refine (fun hx : Sound v x => ?_) ?_; (on_goal 1 => clear_value x); (on_goal 2 => (simp -zeta only [x]; clear x)))
        | subst x)
    | (with_reducible apply soundOut_runIf)
    | (with_reducible apply sound_kiteTick)
    | (with_reducible apply sound_applyPilots)
    | (with_reducible apply sound_setDemod)
    | (with_reducible apply sound_failDemod)
    | split

theorem sound_deliverRx (h : KiteHeader) (d : Demod) (r : KitePayload) (counter : ℕ) {m : Part} (hm : Sound v m) : Sound v (deliverRx h d r counter m) := by
  unfold deliverRx
  repeat' first
    | with_reducible assumption
    | (with_reducible apply sound_appendKite)

theorem sound_checkFrame (h : KiteHeader) (d : Demod) (r : KitePayload) {m : Part} (hm : Sound v m) : Sound v (checkFrame h d r m) := by
  unfold checkFrame
  repeat' first
    | with_reducible assumption
    | ((try lift_lets -underBinder); intro x; first
        | (refine (fun hx : Sound v x => ?_) ?_; (on_goal 1 => clear_value x); (on_goal 2 => (simp -zeta only [x]; clear x)))
        | subst x)
    | (with_reducible apply sound_countKite)
    | (with_reducible apply sound_deliverRx)
    | (with_reducible apply sound_onSession)
    | (with_reducible apply sound_sessionEvent)
    | split

theorem sound_execKitePayloadDone (t : ℕ) (demod : ℕ) (r : KitePayload) (s : State) (hs : Sound v s.part) : SoundOut v (execKitePayloadDone t demod r s) := by
  unfold execKitePayloadDone
  repeat' first
    | with_reducible assumption
    | (intro y; intro (hy : Sound v _); (try beta_reduce))
    | ((try lift_lets -underBinder); intro x; first
        | (refine (fun hx : Sound v x => ?_) ?_; (on_goal 1 => clear_value x); (on_goal 2 => (simp -zeta only [x]; clear x)))
        | subst x)
    | (with_reducible apply soundOut_runIf)
    | (with_reducible apply sound_kiteTick)
    | (with_reducible apply sound_applyPilots)
    | (with_reducible apply sound_setDemod)
    | (with_reducible apply sound_dropEvent)
    | (with_reducible apply sound_checkFrame)
    | (with_reducible refine sound_elim _ _ ?_ (fun a => ?_); (on_goal 2 => beta_reduce))
    | split

theorem sound_execKsynUnlock {t : Nat} {s : State} (hs : Sound v s.part) : SoundOut v (execKsynUnlock t s) := by
  have hk : ∀ m k, Sound v m → Sound v { m with ksyn := k } := fun _ _ h => ⟨h.1, h.2, h.3, h.4⟩
  refine soundOut_run (sound_kiteTick _ _ (fun m hm => ?_) hs)
  split
  · exact sound_raise _ _ _ (sound_abortKite _ (hk _ _ (sound_holdWord hm)))
  · exact hm

theorem sound_execKsynRelock (t : ℕ) (s : State) (hs : Sound v s.part) : SoundOut v (execKsynRelock t s) := by
  unfold execKsynRelock
  repeat' first
    | (intro y; intro (hy : Sound v _); (try beta_reduce))
    | (with_reducible apply soundOut_run)
    | (with_reducible apply sound_kiteTick)
    | split
    | (refine Sound.mk ?_ ?_ ?_ ?_ <;> cases_type* Sound <;> first | assumption | (simp_all [Arrays, EventsSound]; done) | (simp_all [Arrays, EventsSound]; omega))

theorem sound_returnFrames {m : Part} (hm : Sound v m) : Sound v (returnFrames m) := by
  unfold returnFrames
  repeat' first
    | with_reducible assumption
    | (with_reducible apply sound_returnTxs)

theorem sound_startKiteRun (cause : CalCause) {m : Part} (hm : Sound v m) : Sound v (startKiteRun cause m) := by
  unfold startKiteRun
  repeat' first
    | ((try lift_lets -underBinder); intro x; first
        | (refine (fun hx : Sound v x => ?_) ?_; (on_goal 1 => clear_value x); (on_goal 2 => (simp -zeta only [x]; clear x)))
        | subst x)
    | (with_reducible apply sound_freeDemods)
    | (refine Sound.mk ?_ ?_ ?_ ?_ <;> cases_type* Sound <;> first | assumption | (simp_all [Arrays, EventsSound]; done) | (simp_all [Arrays, EventsSound]; omega))

theorem sound_runKite {m : Part} (hm : Sound v m) : Sound v (runKite m) := by
  unfold runKite
  repeat' first
    | with_reducible assumption
    | ((try lift_lets -underBinder); intro x; first
        | (refine (fun hx : Sound v x => ?_) ?_; (on_goal 1 => clear_value x); (on_goal 2 => (simp -zeta only [x]; clear x)))
        | subst x)
    | (with_reducible apply sound_returnFrames)
    | (with_reducible apply sound_startKiteRun)
    | split

theorem sound_execKiteCalDone (t : ℕ) (image : ℤ) (leakage : ℤ) (s : State) (hs : Sound v s.part) : SoundOut v (execKiteCalDone t image leakage s) := by
  unfold execKiteCalDone
  repeat' first
    | (intro y; intro (hy : Sound v _); (try beta_reduce))
    | ((try lift_lets -underBinder); intro x; first
        | (refine (fun hx : Sound v x => ?_) ?_; (on_goal 1 => clear_value x); (on_goal 2 => (simp -zeta only [x]; clear x)))
        | subst x)
    | (with_reducible apply soundOut_run)
    | (with_reducible apply sound_kiteTick)
    | (with_reducible apply sound_raise)
    | (with_reducible apply sound_settleTx)
    | (with_reducible apply sound_endTarget)
    | split
    | (refine Sound.mk ?_ ?_ ?_ ?_ <;> cases_type* Sound <;> first | assumption | (simp_all [Arrays, EventsSound]; done) | (simp_all [Arrays, EventsSound]; omega))

theorem sound_judgeKite {m : Part} (hm : Sound v m) : Sound v (judgeKite m) := by
  unfold judgeKite
  repeat' first
    | split
    | (refine Sound.mk ?_ ?_ ?_ ?_ <;> cases_type* Sound <;> first | assumption | (simp_all [Arrays, EventsSound]; done) | (simp_all [Arrays, EventsSound]; omega))

theorem sound_kiteOff {m : Part} (hm : Sound v m) : Sound v (kiteOff m) := by
  unfold kiteOff
  repeat' first
    | with_reducible assumption
    | ((try lift_lets -underBinder); intro x; first
        | (refine (fun hx : Sound v x => ?_) ?_; (on_goal 1 => clear_value x); (on_goal 2 => (simp -zeta only [x]; clear x)))
        | subst x)
    | (with_reducible apply sound_closeSession)
    | (with_reducible refine sound_foldl _ _ (fun a y hy => ?_) ?_; (on_goal 1 => beta_reduce))
    | (refine Sound.mk ?_ ?_ ?_ ?_ <;> cases_type* Sound <;> first | assumption | (simp_all [Arrays, EventsSound]; done) | (simp_all [Arrays, EventsSound]; omega))

end Sys2Proof.Laws
end

