-- ==== Sys2Proof/Laws/SoundIterate.lean ====
section
/-! SUPPORT. Each operation of Machine/Iterate.lean keeps `Safety.Sound`: one lemma per operation, by the lemmas of the operations it
calls. -/

namespace Sys2Proof.Laws

open Sys2Proof Sys2Proof.Machine Sys2Proof.Safety

set_option linter.all false

variable {v : Fused} {m : Part}
theorem sound_runPools {m : Part} (hm : Sound v m) : Sound v (runPools m) := by
  unfold runPools
  repeat' first
    | with_reducible assumption
    | ((try lift_lets -underBinder); intro x; first
        | (refine (fun hx : Sound v x => ?_) ?_; (on_goal 1 => clear_value x); (on_goal 2 => (simp -zeta only [x]; clear x)))
        | subst x)
    | (with_reducible apply sound_onHalf)
    | (with_reducible refine sound_foldl _ _ (fun a y hy => ?_) ?_; (on_goal 1 => beta_reduce))
    | split
    | (refine Sound.mk ?_ ?_ ?_ ?_ <;> cases_type* Sound <;> first | assumption | (simp_all [Arrays, EventsSound]; done) | (simp_all [Arrays, EventsSound]; omega))

theorem sound_addBlock (b : IterBlock) {m : Part} (hm : Sound v m) : Sound v (addBlock b m) := by
  unfold addBlock
  repeat' first
    | ((try lift_lets -underBinder); intro x; first
        | (refine (fun hx : Sound v x => ?_) ?_; (on_goal 1 => clear_value x); (on_goal 2 => (simp -zeta only [x]; clear x)))
        | subst x)
    | (with_reducible apply sound_runPools)
    | (with_reducible apply sound_onHalf)
    | split
    | (refine Sound.mk ?_ ?_ ?_ ?_ <;> cases_type* Sound <;> first | assumption | (simp_all [Arrays, EventsSound]; done) | (simp_all [Arrays, EventsSound]; omega))

theorem sound_feedBack (b : IterBlock) {m : Part} (hm : Sound v m) : Sound v (feedBack b m) := by
  unfold feedBack
  repeat' first
    | with_reducible assumption
    | (with_reducible apply sound_onCtx)

end Sys2Proof.Laws
end

