-- ==== Sys2Proof/Laws/SoundDigital.lean ====
section
/-! SUPPORT. Each operation of Machine/Digital.lean keeps `Safety.Sound`: one lemma per operation, by the lemmas of the operations it
calls. -/

namespace Sys2Proof.Laws

open Sys2Proof Sys2Proof.Machine Sys2Proof.Safety

set_option linter.all false

variable {v : Fused} {m : Part}
theorem sound_performSelect (p : SelParams) (x1 : Desc) (x2 : Origin) {m : Part} (hm : Sound v m) : Sound v (performSelect p x1 x2 m).1 := by
  unfold performSelect
  repeat' first
    | with_reducible assumption
    | (with_reducible apply sound_refreshCtx)
    | (with_reducible apply sound_onSels)
    | split

theorem sound_execSvcSelect (d : Desc) (p : SelParams) (s : State) (hs : Sound v s.part) : SoundOut v (execSvcSelect d p s) := by
  unfold execSvcSelect
  repeat' first
    | with_reducible assumption
    | (with_reducible apply soundOut_run)
    | (with_reducible apply sound_accept)
    | (with_reducible apply sound_performSelect)

theorem sound_performDeselect (p : SelParams) (x1 : Desc) (x2 : Origin) {m : Part} (hm : Sound v m) : Sound v (performDeselect p x1 x2 m).1 := by
  unfold performDeselect
  repeat' first
    | with_reducible assumption
    | (with_reducible apply sound_endSelection)
    | split

theorem sound_execSvcDeselect (d : Desc) (p : SelParams) (s : State) (hs : Sound v s.part) : SoundOut v (execSvcDeselect d p s) := by
  unfold execSvcDeselect
  repeat' first
    | with_reducible assumption
    | (with_reducible apply soundOut_run)
    | (with_reducible apply sound_accept)
    | (with_reducible apply sound_performDeselect)

theorem sound_onNamed (c : ℕ) (n : SelName) (f : Selection → Selection) {m : Part} (hm : Sound v m) : Sound v (onNamed c n f m) := by
  unfold onNamed
  repeat' first
    | with_reducible assumption
    | (with_reducible apply sound_onSels)

theorem sound_renumber (c : ℕ) (old : ℕ) (new : ℕ) {m : Part} (hm : Sound v m) : Sound v (renumber c old new m) := by
  unfold renumber
  repeat' first
    | split
    | (refine Sound.mk ?_ ?_ ?_ ?_ <;> cases_type* Sound <;> first | assumption | (simp_all [Arrays, EventsSound]; done) | (simp_all [Arrays, EventsSound]; omega))

theorem sound_moveBranch (c : ℕ) (sel : ℕ) {m : Part} (hm : Sound v m) : Sound v (moveBranch c sel m) := by
  unfold moveBranch
  repeat' first
    | with_reducible assumption
    | (with_reducible apply sound_rebranch)
    | (with_reducible apply sound_moveMember)
    | (with_reducible refine sound_foldl _ _ (fun a y hy => ?_) ?_; (on_goal 1 => beta_reduce))
    | split

theorem sound_reorganise (c : ℕ) (s : Selection) (coding : List ℕ) (start : ℕ) (size : ℕ) (rate : ℕ) (now : ℕ) {m : Part} (hm : Sound v m) : Sound v (reorganise c s coding start size rate now m) := by
  unfold reorganise
  repeat' first
    | with_reducible assumption
    | (with_reducible apply sound_moveBranch)
    | (with_reducible apply sound_onNamed)

theorem sound_frameSel (c : ℕ) (type : ℕ) (start : ℕ) (track : Bool) (org : List SubDesc) (s : Selection) {m : Part} (hm : Sound v m) : Sound v (frameSel c type start track org s m) := by
  unfold frameSel
  repeat' first
    | with_reducible assumption
    | (with_reducible apply sound_endSelection)
    | (with_reducible apply sound_moveBranch)
    | (with_reducible apply sound_onNamed)
    | (with_reducible apply sound_renumber)
    | (with_reducible apply sound_reorganise)
    | split

theorem sound_frameSels (c : ℕ) (type : ℕ) (start : ℕ) (track : Bool) (org : List SubDesc) {m : Part} (hm : Sound v m) : Sound v (frameSels c type start track org m) := by
  unfold frameSels
  repeat' first
    | with_reducible assumption
    | (with_reducible apply sound_frameSel)
    | (with_reducible refine sound_foldl _ _ (fun a y hy => ?_) ?_; (on_goal 1 => beta_reduce))

theorem sound_frameBoundary (c : ℕ) (merA : ℤ) (merB : ℤ) (agcErrA : ℤ) (agcErrB : ℤ) (delayNs : ℤ) {m : Part} (hm : Sound v m) : Sound v (frameBoundary c merA merB agcErrA agcErrB delayNs m) := by
  unfold frameBoundary
  repeat' first
    | with_reducible assumption
    | (with_reducible apply sound_deliver)
    | (with_reducible apply sound_agcStep)

theorem sound_onDig (c : ℕ) (f : Digital → Digital) {m : Part} (hm : Sound v m) : Sound v (onDig c f m) := by
  unfold onDig
  repeat' first
    | with_reducible assumption
    | (with_reducible apply sound_onCtx)

theorem sound_setAlarm (c : ℕ) (standard : ℕ) (start : Bool) (test : Bool) (key : ServiceKey) {m : Part} (hm : Sound v m) : Sound v (setAlarm c standard start test key m) := by
  unfold setAlarm
  repeat' first
    | with_reducible assumption
    | (with_reducible apply sound_alarmEvent)
    | (with_reducible apply sound_onDig)
    | split

theorem sound_endAlarm (c : ℕ) (standard : ℕ) {m : Part} (hm : Sound v m) : Sound v (endAlarm c standard m) := by
  unfold endAlarm
  repeat' first
    | with_reducible assumption
    | (with_reducible apply sound_setAlarm)

theorem sound_deliverFibs (c : ℕ) (x : Ctx) (start : ℕ) (cif : ℕ) (x4 : ℕ) (x5 : List CheckedBlock) {m : Part} : Sound v m → Sound v (deliverFibs c x start cif x4 x5 m) := by
  fun_induction deliverFibs c x start cif x4 x5 m <;> intros
  all_goals repeat' first
    | (with_reducible apply sound_appendSides)
    | (with_reducible apply_assumption -exfalso -symm)

theorem sound_dabAlarm (c : ℕ) (items : List DbItem) {m : Part} (hm : Sound v m) : Sound v (dabAlarm c items m) := by
  unfold dabAlarm
  repeat' first
    | with_reducible assumption
    | ((try lift_lets -underBinder); intro x; first
        | (refine (fun hx : Sound v x => ?_) ?_; (on_goal 1 => clear_value x); (on_goal 2 => (simp -zeta only [x]; clear x)))
        | subst x)
    | (with_reducible apply sound_setAlarm)
    | (with_reducible apply sound_onDig)
    | (with_reducible apply sound_endAlarm)
    | split

theorem sound_plainSel (c : ℕ) (start : ℕ) {m : Part} (s : Selection) (hm : Sound v m) : Sound v (plainSel c start m s) := by
  unfold plainSel
  repeat' first
    | with_reducible assumption
    | (with_reducible apply sound_onCtx)
    | (with_reducible apply sound_onNamed)
    | (with_reducible apply sound_countErrors)
    | split

theorem sound_rawSel (c : ℕ) (start : ℕ) (full : Bool) (l : List RawItem) {m : Part} (s : Selection) (hm : Sound v m) : Sound v (rawSel c start full l m s) := by
  unfold rawSel
  repeat' first
    | with_reducible assumption
    | (with_reducible apply sound_onNamed)
    | split

theorem sound_rawSels (c : ℕ) (start : ℕ) (data : List (ℕ × RawItem)) {m : Part} (hm : Sound v m) : Sound v (rawSels c start data m) := by
  unfold rawSels
  repeat' first
    | with_reducible assumption
    | (with_reducible apply sound_rawSel)
    | (with_reducible refine sound_foldl _ _ (fun a y hy => ?_) ?_; (on_goal 1 => beta_reduce))
    | split

theorem sound_dabFrame (c : ℕ) (f : DabFrame) {m : Part} (hm : Sound v m) : Sound v (dabFrame c f m) := by
  unfold dabFrame
  repeat' first
    | with_reducible assumption
    | (with_reducible apply sound_onCtx)
    | (with_reducible apply sound_frameBoundary)
    | (with_reducible apply sound_countErrors)
    | (with_reducible apply sound_onDig)
    | (with_reducible apply sound_deliverFibs)
    | (with_reducible apply sound_frameSels)
    | (with_reducible apply sound_plainSel)
    | (with_reducible apply sound_rawSels)
    | (with_reducible apply sound_dabAlarm)
    | (with_reducible apply sound_learnAll)
    | (with_reducible refine sound_foldl _ _ (fun a y hy => ?_) ?_; (on_goal 1 => beta_reduce))
    | split

theorem sound_execDabFrame (t : ℕ) (ctx : ℕ) (f : DabFrame) (s : State) (hs : Sound v s.part) : SoundOut v (execDabFrame t ctx f s) := by
  unfold execDabFrame
  repeat' first
    | with_reducible assumption
    | (with_reducible apply soundOut_run)
    | (with_reducible apply sound_onTick)
    | (with_reducible apply sound_dabFrame)

theorem sound_drmOccupancyEvent (c : ℕ) (x : Ctx) (signalled : ℕ) {m : Part} (hm : Sound v m) : Sound v (drmOccupancyEvent c x signalled m) := by
  unfold drmOccupancyEvent
  repeat' first
    | with_reducible assumption
    | ((try lift_lets -underBinder); intro x; first
        | (refine (fun hx : Sound v x => ?_) ?_; (on_goal 1 => clear_value x); (on_goal 2 => (simp -zeta only [x]; clear x)))
        | subst x)
    | (with_reducible apply sound_onDig)
    | (with_reducible apply sound_raise)
    | split

theorem sound_drmAlarm (c : ℕ) (items : List DbItem) {m : Part} (hm : Sound v m) : Sound v (drmAlarm c items m) := by
  unfold drmAlarm
  repeat' first
    | with_reducible assumption
    | ((try lift_lets -underBinder); intro x; first
        | (refine (fun hx : Sound v x => ?_) ?_; (on_goal 1 => clear_value x); (on_goal 2 => (simp -zeta only [x]; clear x)))
        | subst x)
    | (with_reducible apply sound_setAlarm)
    | (with_reducible apply sound_onDig)
    | (with_reducible apply sound_endAlarm)
    | split

theorem sound_queueBlock (after : ℕ) (asksA : ℕ) (asksB : ℕ) (b : IterBlock) {m : Part} (hm : Sound v m) : Sound v (queueBlock after asksA asksB b m) := by
  unfold queueBlock
  repeat' first
    | with_reducible assumption
    | ((try lift_lets -underBinder); intro x; first
        | (refine (fun hx : Sound v x => ?_) ?_; (on_goal 1 => clear_value x); (on_goal 2 => (simp -zeta only [x]; clear x)))
        | subst x)
    | (with_reducible apply sound_addBlock)
    | (with_reducible refine sound_foldl _ _ (fun a y hy => ?_) ?_; (on_goal 1 => beta_reduce))
    | split

theorem sound_queueMux (c : ℕ) (type : ℕ) (f : DrmFrame) {m : Part} (hm : Sound v m) : Sound v (queueMux c type f m) := by
  unfold queueMux
  repeat' first
    | with_reducible assumption
    | ((try lift_lets -underBinder); intro x; first
        | (refine (fun hx : Sound v x => ?_) ?_; (on_goal 1 => clear_value x); (on_goal 2 => (simp -zeta only [x]; clear x)))
        | subst x)
    | (with_reducible apply sound_queueBlock)
    | (with_reducible refine sound_foldl _ _ (fun a y hy => ?_) ?_; (on_goal 1 => beta_reduce))
    | split

theorem sound_deliverBlock (c : ℕ) (type : ℕ) (x : Ctx) (start : ℕ) (b : CheckedBlock) {m : Part} (hm : Sound v m) : Sound v (deliverBlock c type x start b m) := by
  unfold deliverBlock
  repeat' first
    | with_reducible assumption
    | (with_reducible apply sound_appendSides)

theorem sound_drmFrame (c : ℕ) (f : DrmFrame) {m : Part} (hm : Sound v m) : Sound v (drmFrame c f m) := by
  unfold drmFrame
  repeat' first
    | with_reducible assumption
    | ((try lift_lets -underBinder); intro x; first
        | (refine (fun hx : Sound v x => ?_) ?_; (on_goal 1 => clear_value x); (on_goal 2 => (simp -zeta only [x]; clear x)))
        | subst x)
    | (with_reducible apply sound_onCtx)
    | (with_reducible apply sound_frameBoundary)
    | (with_reducible apply sound_countErrors)
    | (with_reducible apply sound_deliverBlock)
    | (with_reducible apply sound_onDig)
    | (with_reducible apply sound_drmOccupancyEvent)
    | (with_reducible apply sound_endSelections)
    | (with_reducible apply sound_frameSels)
    | (with_reducible apply sound_learnAll)
    | (with_reducible apply sound_drmAlarm)
    | (with_reducible apply sound_queueMux)
    | (with_reducible refine sound_elim _ _ ?_ (fun a => ?_); (on_goal 2 => beta_reduce))
    | split

theorem sound_execDrmFrame (t : ℕ) (ctx : ℕ) (f : DrmFrame) (s : State) (hs : Sound v s.part) : SoundOut v (execDrmFrame t ctx f s) := by
  unfold execDrmFrame
  repeat' first
    | with_reducible assumption
    | (with_reducible apply soundOut_run)
    | (with_reducible apply sound_onTick)
    | (with_reducible apply sound_drmFrame)

theorem sound_execSelectionAbsent (t : ℕ) (ctx : ℕ) (sel : ℕ) (s : State) (hs : Sound v s.part) : SoundOut v (execSelectionAbsent t ctx sel s) := by
  unfold execSelectionAbsent
  repeat' first
    | with_reducible assumption
    | (intro y; intro (hy : Sound v _); (try beta_reduce))
    | (with_reducible apply soundOut_run)
    | (with_reducible apply sound_onTick)
    | (with_reducible apply sound_endSelection)
    | split

theorem sound_appendUnit (c : ℕ) (sel : ℕ) (x : Ctx) (u : UnitResult) (ok : Bool) (n : ℕ) {m : Part} (hm : Sound v m) : Sound v (appendUnit c sel x u ok n m) := by
  unfold appendUnit
  repeat' first
    | with_reducible assumption
    | (with_reducible apply sound_appendItem)
    | split

theorem sound_judgeDigital (c : ℕ) (sel : ℕ) {m : Part} (hm : Sound v m) : Sound v (judgeDigital c sel m) := by
  unfold judgeDigital
  repeat' first
    | with_reducible assumption
    | (with_reducible apply sound_onSet)
    | (with_reducible refine sound_foldl _ _ (fun a y hy => ?_) ?_; (on_goal 1 => beta_reduce))
    | split

theorem sound_releaseUnit (c : ℕ) (sel : ℕ) (u : UnitResult) (whole : Bool) {m : Part} (hm : Sound v m) : Sound v (releaseUnit c sel u whole m) := by
  unfold releaseUnit
  repeat' first
    | with_reducible assumption
    | (with_reducible apply sound_onSel)
    | (with_reducible apply sound_selUnitAll)
    | (with_reducible apply sound_appendUnit)
    | (with_reducible apply sound_judgeDigital)
    | (with_reducible apply sound_refreshCtx)
    | (with_reducible refine sound_foldl _ _ (fun a y hy => ?_) ?_; (on_goal 1 => beta_reduce))
    | split

theorem sound_releaseUnits (c : ℕ) (sel : ℕ) (whole : Bool) (units : List UnitResult) {m : Part} (hm : Sound v m) : Sound v (releaseUnits c sel whole units m) := by
  unfold releaseUnits
  repeat' first
    | with_reducible assumption
    | (with_reducible apply sound_releaseUnit)
    | (with_reducible refine sound_foldl _ _ (fun a y hy => ?_) ?_; (on_goal 1 => beta_reduce))

theorem sound_configChange (c : ℕ) (sel : ℕ) (changed : Bool) {m : Part} (hm : Sound v m) : Sound v (configChange c sel changed m) := by
  unfold configChange
  repeat' first
    | split
    | (refine Sound.mk ?_ ?_ ?_ ?_ <;> cases_type* Sound <;> first | assumption | (simp_all [Arrays, EventsSound]; done) | (simp_all [Arrays, EventsSound]; omega))

theorem sound_selItem (c : ℕ) (sel : ℕ) (ht : ℕ) (subtype : ℕ) (type : ℕ) (bytes : ℕ) (fields : List Field) (raw : List Byte) (status : ℕ) {m : Part} (hm : Sound v m) : Sound v (selItem c sel ht subtype type bytes fields raw status m) := by
  unfold selItem
  repeat' first
    | with_reducible assumption
    | (with_reducible apply sound_appendSides)

theorem sound_onMessage (c : ℕ) (sel : ℕ) (f : Message → Message) {m : Part} (hm : Sound v m) : Sound v (onMessage c sel f m) := by
  unfold onMessage
  repeat' first
    | with_reducible assumption
    | (with_reducible apply sound_onSel)

theorem sound_releaseTags (c : ℕ) (sel : ℕ) (ht : ℕ) {m : Part} (hm : Sound v m) : Sound v (releaseTags c sel ht m) := by
  unfold releaseTags
  repeat' first
    | with_reducible assumption
    | ((try lift_lets -underBinder); intro x; first
        | (refine (fun hx : Sound v x => ?_) ?_; (on_goal 1 => clear_value x); (on_goal 2 => (simp -zeta only [x]; clear x)))
        | subst x)
    | (with_reducible apply sound_selItem)
    | (with_reducible apply sound_onMessage)
    | (with_reducible refine sound_foldl _ _ (fun a y hy => ?_) ?_; (on_goal 1 => beta_reduce))
    | split

theorem sound_labelSegment (c : ℕ) (sel : ℕ) (ht : ℕ) (toggle : Bool) (i : ℕ) (last : Bool) (set : Charset) (bytes : List Byte) {m : Part} (hm : Sound v m) : Sound v (labelSegment c sel ht toggle i last set bytes m) := by
  unfold labelSegment
  repeat' first
    | with_reducible assumption
    | ((try lift_lets -underBinder); intro x; first
        | (refine (fun hx : Sound v x => ?_) ?_; (on_goal 1 => clear_value x); (on_goal 2 => (simp -zeta only [x]; clear x)))
        | subst x)
    | (with_reducible apply sound_onMessage)
    | (with_reducible apply sound_releaseTags)
    | (with_reducible apply sound_selItem)
    | split

theorem sound_textSegment (c : ℕ) (sel : ℕ) (ht : ℕ) (toggle : Bool) (i : ℕ) (last : Bool) (bytes : List Byte) {m : Part} (hm : Sound v m) : Sound v (textSegment c sel ht toggle i last bytes m) := by
  unfold textSegment
  repeat' first
    | with_reducible assumption
    | ((try lift_lets -underBinder); intro x; first
        | (refine (fun hx : Sound v x => ?_) ?_; (on_goal 1 => clear_value x); (on_goal 2 => (simp -zeta only [x]; clear x)))
        | subst x)
    | (with_reducible apply sound_onMessage)
    | (with_reducible apply sound_selItem)
    | split

theorem sound_padItem (c : ℕ) (sel : ℕ) (ht : ℕ) (ok : Bool) (p : PadItem) {m : Part} (hm : Sound v m) : Sound v (padItem c sel ht ok p m) := by
  unfold padItem
  repeat' first
    | with_reducible assumption
    | (with_reducible apply sound_selItem)
    | (with_reducible apply sound_labelSegment)
    | (with_reducible apply sound_releaseTags)
    | (with_reducible apply sound_onMessage)
    | (with_reducible apply sound_textSegment)
    | split

theorem sound_deliverPads (c : ℕ) (sel : ℕ) (units : List UnitResult) (pads : List (ℕ × PadItem)) {m : Part} (hm : Sound v m) : Sound v (deliverPads c sel units pads m) := by
  unfold deliverPads
  repeat' first
    | with_reducible assumption
    | (with_reducible apply sound_padItem)
    | (with_reducible refine sound_foldl _ _ (fun a y hy => ?_) ?_; (on_goal 1 => beta_reduce))

theorem sound_onMots (f : List MotObject → List MotObject) {m : Part} (hm : Sound v m) : Sound v (onMots f m) := by
  unfold onMots
  repeat' first
    | (refine Sound.mk ?_ ?_ ?_ ?_ <;> cases_type* Sound <;> first | assumption | (simp_all [Arrays, EventsSound]; done) | (simp_all [Arrays, EventsSound]; omega))

theorem sound_noteMot (c : ℕ) (sel : ℕ) (tid : ℕ) (size : ℕ) (delivered : Bool) {m : Part} (hm : Sound v m) : Sound v (noteMot c sel tid size delivered m) := by
  unfold noteMot
  repeat' first
    | (refine Sound.mk ?_ ?_ ?_ ?_ <;> cases_type* Sound <;> first | assumption | (simp_all [Arrays, EventsSound]; done) | (simp_all [Arrays, EventsSound]; omega))

theorem sound_dropMot (c : ℕ) (sel : ℕ) (tid : ℕ) {m : Part} (hm : Sound v m) : Sound v (dropMot c sel tid m) := by
  unfold dropMot
  repeat' first
    | with_reducible assumption
    | (with_reducible apply sound_noteMot)
    | (with_reducible apply sound_onSel)
    | (with_reducible apply sound_onMots)

theorem sound_motBodies (c : ℕ) (sel : ℕ) (ht : ℕ) (tid : ℕ) (last : ℕ) (x5 : List (ℕ × List Byte)) {m : Part} : Sound v m → Sound v (motBodies c sel ht tid last x5 m) := by
  fun_induction motBodies c sel ht tid last x5 m <;> intros
  all_goals repeat' first
    | (with_reducible apply sound_selItem)
    | (with_reducible apply_assumption -exfalso -symm)

theorem sound_deliverMot (c : ℕ) (sel : ℕ) (ht : ℕ) (o : MotObject) {m : Part} (hm : Sound v m) : Sound v (deliverMot c sel ht o m) := by
  unfold deliverMot
  repeat' first
    | with_reducible assumption
    | ((try lift_lets -underBinder); intro x; first
        | (refine (fun hx : Sound v x => ?_) ?_; (on_goal 1 => clear_value x); (on_goal 2 => (simp -zeta only [x]; clear x)))
        | subst x)
    | (with_reducible apply sound_onMots)
    | (with_reducible apply sound_selItem)
    | (with_reducible apply sound_noteMot)
    | (with_reducible apply sound_motBodies)
    | split

theorem sound_roomForMot (c : ℕ) (sel : ℕ) {m : Part} (hm : Sound v m) : Sound v (roomForMot c sel m) := by
  unfold roomForMot
  repeat' first
    | with_reducible assumption
    | ((try lift_lets -underBinder); intro x; first
        | (refine (fun hx : Sound v x => ?_) ?_; (on_goal 1 => clear_value x); (on_goal 2 => (simp -zeta only [x]; clear x)))
        | subst x)
    | (with_reducible apply sound_onMots)
    | split

theorem sound_motSegment (c : ℕ) (sel : ℕ) (ht : ℕ) {m : Part} (g : MotSegment) (hm : Sound v m) : Sound v (motSegment c sel ht m g) := by
  unfold motSegment
  repeat' first
    | with_reducible assumption
    | ((try lift_lets -underBinder); intro x; first
        | (refine (fun hx : Sound v x => ?_) ?_; (on_goal 1 => clear_value x); (on_goal 2 => (simp -zeta only [x]; clear x)))
        | subst x)
    | (with_reducible apply sound_dropMot)
    | (with_reducible apply sound_onMots)
    | (with_reducible apply sound_roomForMot)
    | (with_reducible apply sound_deliverMot)
    | split

theorem sound_deliverSide (c : ℕ) (sel : ℕ) (units : List UnitResult) (pads : List (ℕ × PadItem)) (mots : List (ℕ × MotSegment)) {m : Part} (hm : Sound v m) : Sound v (deliverSide c sel units pads mots m) := by
  unfold deliverSide
  repeat' first
    | with_reducible assumption
    | (with_reducible apply sound_motSegment)
    | (with_reducible apply sound_deliverPads)
    | (with_reducible refine sound_foldl _ _ (fun a y hy => ?_) ?_; (on_goal 1 => beta_reduce))

theorem sound_execMotObjectTimeout (t : ℕ) (ctx : ℕ) (sel : ℕ) (transportId : ℕ) (s : State) (hs : Sound v s.part) : SoundOut v (execMotObjectTimeout t ctx sel transportId s) := by
  unfold execMotObjectTimeout
  repeat' first
    | with_reducible assumption
    | (intro y; intro (hy : Sound v _); (try beta_reduce))
    | (with_reducible apply soundOut_run)
    | (with_reducible apply sound_onTick)
    | (with_reducible apply sound_dropMot)
    | split

theorem sound_plusSync (c : ℕ) (sel : ℕ) (state : ℕ) {m : Part} (hm : Sound v m) : Sound v (plusSync c sel state m) := by
  unfold plusSync
  repeat' first
    | with_reducible assumption
    | (with_reducible apply sound_raise)

theorem sound_execDabplusSuperframe (t : ℕ) (ctx : ℕ) (sel : ℕ) (f : PlusFrame) (s : State) (hs : Sound v s.part) : SoundOut v (execDabplusSuperframe t ctx sel f s) := by
  unfold execDabplusSuperframe
  repeat' first
    | with_reducible assumption
    | (intro y; intro (hy : Sound v _); (try beta_reduce))
    | ((try lift_lets -underBinder); intro x; first
        | (refine (fun hx : Sound v x => ?_) ?_; (on_goal 1 => clear_value x); (on_goal 2 => (simp -zeta only [x]; clear x)))
        | subst x)
    | (with_reducible apply soundOut_run)
    | (with_reducible apply sound_onTick)
    | (with_reducible apply sound_settlePair)
    | (with_reducible apply sound_onCtx)
    | (with_reducible apply sound_queueBlock)
    | (with_reducible apply sound_plusSync)
    | (with_reducible apply sound_onSel)
    | split

theorem sound_execL2Frame (t : ℕ) (ctx : ℕ) (sel : ℕ) (f : L2Frame) (s : State) (hs : Sound v s.part) : SoundOut v (execL2Frame t ctx sel f s) := by
  unfold execL2Frame
  repeat' first
    | with_reducible assumption
    | (intro y; intro (hy : Sound v _); (try beta_reduce))
    | ((try lift_lets -underBinder); intro x; first
        | (refine (fun hx : Sound v x => ?_) ?_; (on_goal 1 => clear_value x); (on_goal 2 => (simp -zeta only [x]; clear x)))
        | subst x)
    | (with_reducible apply soundOut_run)
    | (with_reducible apply sound_onTick)
    | (with_reducible apply sound_settlePair)
    | (with_reducible apply sound_onSel)
    | (with_reducible apply sound_countErrors)
    | (with_reducible apply sound_queueBlock)
    | (with_reducible apply sound_configChange)
    | (with_reducible apply sound_deliverSide)
    | (with_reducible apply sound_releaseUnits)
    | split

theorem sound_countIterations (b : IterBlock) {m : Part} (hm : Sound v m) : Sound v (countIterations b m) := by
  unfold countIterations
  repeat' first
    | with_reducible assumption
    | (with_reducible apply sound_countBlock)
    | (with_reducible apply sound_onCtx)
    | split

theorem sound_plusLoss (c : ℕ) (s : Selection) (b : IterBlock) (fire : Bool) {m : Part} (hm : Sound v m) : Sound v (plusLoss c s b fire m) := by
  unfold plusLoss
  repeat' first
    | with_reducible assumption
    | (with_reducible apply sound_onSel)
    | (with_reducible apply sound_plusSync)
    | split

theorem sound_configure (c : ℕ) (s : Selection) (config : List ℕ) (changed : Bool) {m : Part} (hm : Sound v m) : Sound v (configure c s config changed m) := by
  unfold configure
  repeat' first
    | with_reducible assumption
    | (with_reducible apply sound_configChange)
    | (with_reducible apply sound_onSel)
    | split

theorem sound_countBlockErrors (c : ℕ) (x : Ctx) (s : Selection) (b : IterBlock) (r : BlockResult) (failed : ℕ) (units : ℕ) {m : Part} (hm : Sound v m) : Sound v (countBlockErrors c x s b r failed units m) := by
  unfold countBlockErrors
  repeat' first
    | with_reducible assumption
    | (with_reducible apply sound_onNamed)
    | (with_reducible apply sound_countErrors)
    | split

theorem sound_blockDeadline (c : ℕ) (sel : ℕ) (r : BlockResult) {m : Part} (hm : Sound v m) : Sound v (blockDeadline c sel r m) := by
  unfold blockDeadline
  repeat' first
    | with_reducible assumption
    | ((try lift_lets -underBinder); intro x; first
        | (refine (fun hx : Sound v x => ?_) ?_; (on_goal 1 => clear_value x); (on_goal 2 => (simp -zeta only [x]; clear x)))
        | subst x)
    | (with_reducible apply sound_settlePair)
    | (with_reducible apply sound_runPools)
    | (with_reducible apply sound_countIterations)
    | (with_reducible apply sound_feedBack)
    | (with_reducible apply sound_configure)
    | (with_reducible apply sound_plusLoss)
    | (with_reducible apply sound_countBlockErrors)
    | (with_reducible apply sound_rawSel)
    | (with_reducible apply sound_deliverSide)
    | (with_reducible apply sound_releaseUnits)
    | (with_reducible refine sound_foldl _ _ (fun a y hy => ?_) ?_; (on_goal 1 => beta_reduce))
    | split
    | (refine Sound.mk ?_ ?_ ?_ ?_ <;> cases_type* Sound <;> first | assumption | (simp_all [Arrays, EventsSound]; done) | (simp_all [Arrays, EventsSound]; omega))

theorem sound_execBlockDeadline (t : ℕ) (ctx : ℕ) (sel : ℕ) (r : BlockResult) (s : State) (hs : Sound v s.part) : SoundOut v (execBlockDeadline t ctx sel r s) := by
  unfold execBlockDeadline
  repeat' first
    | with_reducible assumption
    | (with_reducible apply soundOut_run)
    | (with_reducible apply sound_onTick)
    | (with_reducible apply sound_blockDeadline)

theorem sound_reconfSel (c : ℕ) {m : Part} (e : ℕ × SelChange) (hm : Sound v m) : Sound v (reconfSel c m e) := by
  unfold reconfSel
  repeat' first
    | with_reducible assumption
    | (with_reducible apply sound_reorganise)
    | (with_reducible apply sound_configChange)
    | (with_reducible apply sound_endSelection)
    | (with_reducible apply sound_renumber)
    | (with_reducible apply sound_breakFlows)
    | (with_reducible apply sound_refreshCtx)
    | (with_reducible apply sound_onNamed)
    | split

theorem sound_execMuxReconf (t : ℕ) (ctx : ℕ) (r : Reconf) (s : State) (hs : Sound v s.part) : SoundOut v (execMuxReconf t ctx r s) := by
  unfold execMuxReconf
  repeat' first
    | with_reducible assumption
    | (intro y; intro (hy : Sound v _); (try beta_reduce))
    | (with_reducible apply soundOut_run)
    | (with_reducible apply sound_onTick)
    | (with_reducible apply sound_raise)
    | (with_reducible apply sound_onDig)
    | (with_reducible apply sound_reconfSel)
    | (with_reducible refine sound_foldl _ _ (fun a y hy => ?_) ?_; (on_goal 1 => beta_reduce))
    | split

end Sys2Proof.Laws
end

