-- ==== Sys2Proof/Laws/SoundCombining.lean ====
section
/-! SUPPORT. Each operation of Machine/Combining.lean keeps `Safety.Sound`: one lemma per operation, by the lemmas of the operations it
calls. -/

namespace Sys2Proof.Laws

open Sys2Proof Sys2Proof.Machine Sys2Proof.Safety

set_option linter.all false

variable {v : Fused} {m : Part}
theorem sound_createSet (set : ℕ) (l : List LinkSource) (cfg : SetCfg) {m : Part} (hm : Sound v m) : Sound v (createSet set l cfg m) := by
  unfold createSet
  repeat' first
    | ((try lift_lets -underBinder); intro x; first
        | (refine (fun hx : Sound v x => ?_) ?_; (on_goal 1 => clear_value x); (on_goal 2 => (simp -zeta only [x]; clear x)))
        | subst x)
    | (with_reducible apply sound_catchUp)
    | (with_reducible apply sound_refreshSet)
    | split
    | (refine Sound.mk ?_ ?_ ?_ ?_ <;> cases_type* Sound <;> first | assumption | (simp_all [Arrays, EventsSound]; done) | (simp_all [Arrays, EventsSound]; omega))

theorem sound_addMember (set : ℕ) (src : LinkSource) {m : Part} (hm : Sound v m) : Sound v (addMember set src m) := by
  unfold addMember
  repeat' first
    | with_reducible assumption
    | (with_reducible apply sound_refreshSet)
    | (with_reducible apply sound_onSet)

theorem sound_performLinkCreate (set : ℕ) (l : List LinkSource) (p : SetParams) (x3 : Desc) (x4 : Origin) {m : Part} (hm : Sound v m) : Sound v (performLinkCreate set l p x3 x4 m).1 := by
  unfold performLinkCreate
  repeat' first
    | with_reducible assumption
    | (with_reducible apply sound_createSet)

theorem sound_execSvcLinkCreate (d : Desc) (set : ℕ) (sources : List LinkSource) (p : SetParams) (s : State) (hs : Sound v s.part) : SoundOut v (execSvcLinkCreate d set sources p s) := by
  unfold execSvcLinkCreate
  repeat' first
    | with_reducible assumption
    | (with_reducible apply soundOut_run)
    | (with_reducible apply sound_accept)
    | (with_reducible apply sound_performLinkCreate)

theorem sound_performLinkAdd (set : ℕ) (src : LinkSource) (x2 : Desc) (x3 : Origin) {m : Part} (hm : Sound v m) : Sound v (performLinkAdd set src x2 x3 m).1 := by
  unfold performLinkAdd
  repeat' first
    | with_reducible assumption
    | (with_reducible apply sound_addMember)

theorem sound_execSvcLinkAdd (d : Desc) (set : ℕ) (source : LinkSource) (s : State) (hs : Sound v s.part) : SoundOut v (execSvcLinkAdd d set source s) := by
  unfold execSvcLinkAdd
  repeat' first
    | with_reducible assumption
    | (with_reducible apply soundOut_run)
    | (with_reducible apply sound_accept)
    | (with_reducible apply sound_performLinkAdd)

theorem sound_performLinkRemove (set : ℕ) (c : ℕ) (sel : ℕ) (x3 : Desc) (x4 : Origin) {m : Part} (hm : Sound v m) : Sound v (performLinkRemove set c sel x3 x4 m).1 := by
  unfold performLinkRemove
  repeat' first
    | with_reducible assumption
    | (with_reducible apply sound_removeMember)
    | split

theorem sound_execSvcLinkRemove (d : Desc) (set : ℕ) (ctx : ℕ) (sel : ℕ) (s : State) (hs : Sound v s.part) : SoundOut v (execSvcLinkRemove d set ctx sel s) := by
  unfold execSvcLinkRemove
  repeat' first
    | with_reducible assumption
    | (with_reducible apply soundOut_run)
    | (with_reducible apply sound_accept)
    | (with_reducible apply sound_performLinkRemove)

theorem sound_deleteSet (set : ℕ) {m : Part} (hm : Sound v m) : Sound v (deleteSet set m) := by
  unfold deleteSet
  repeat' first
    | with_reducible assumption
    | (with_reducible apply sound_endSet)
    | (with_reducible apply sound_flushUp)
    | (with_reducible refine sound_elim _ _ ?_ (fun a => ?_); (on_goal 2 => beta_reduce))

theorem sound_performLinkDelete (set : ℕ) (x1 : Desc) (x2 : Origin) {m : Part} (hm : Sound v m) : Sound v (performLinkDelete set x1 x2 m).1 := by
  unfold performLinkDelete
  repeat' first
    | with_reducible assumption
    | (with_reducible apply sound_deleteSet)

theorem sound_execSvcLinkDelete (d : Desc) (set : ℕ) (s : State) (hs : Sound v s.part) : SoundOut v (execSvcLinkDelete d set s) := by
  unfold execSvcLinkDelete
  repeat' first
    | with_reducible assumption
    | (with_reducible apply soundOut_run)
    | (with_reducible apply sound_accept)
    | (with_reducible apply sound_performLinkDelete)

theorem sound_performLinkQuery (set : ℕ) (x1 : Desc) (x2 : Origin) {m : Part} (hm : Sound v m) : Sound v (performLinkQuery set x1 x2 m).1 := by
  unfold performLinkQuery
  repeat' first
    | with_reducible assumption
    | split

theorem sound_execSvcLinkQuery (d : Desc) (set : ℕ) (s : State) (hs : Sound v s.part) : SoundOut v (execSvcLinkQuery d set s) := by
  unfold execSvcLinkQuery
  repeat' first
    | with_reducible assumption
    | (with_reducible apply soundOut_run)
    | (with_reducible apply sound_accept)
    | (with_reducible apply sound_performLinkQuery)

theorem sound_seekWindow (n : ℕ) (i : ℕ) (s : SourceSet) (y : Member) (w : MatchWindow) {m : Part} (hm : Sound v m) : Sound v (seekWindow n i s y w m) := by
  unfold seekWindow
  repeat' first
    | with_reducible assumption
    | (with_reducible apply sound_onMember)
    | (with_reducible apply sound_moveMember)
    | split

theorem sound_verifyWindow (n : ℕ) (i : ℕ) (y : Member) (w : MatchWindow) {m : Part} (hm : Sound v m) : Sound v (verifyWindow n i y w m) := by
  unfold verifyWindow
  repeat' first
    | with_reducible assumption
    | (with_reducible apply sound_moveMember)
    | (with_reducible apply sound_onMember)
    | split

theorem sound_joinedWindow (n : ℕ) (i : ℕ) (y : Member) (w : MatchWindow) {m : Part} (hm : Sound v m) : Sound v (joinedWindow n i y w m) := by
  unfold joinedWindow
  repeat' first
    | with_reducible assumption
    | ((try lift_lets -underBinder); intro x; first
        | (refine (fun hx : Sound v x => ?_) ?_; (on_goal 1 => clear_value x); (on_goal 2 => (simp -zeta only [x]; clear x)))
        | subst x)
    | (with_reducible apply sound_onMember)
    | (with_reducible apply sound_moveMember)
    | split

theorem sound_withMember (n : ℕ) (c : ℕ) (sel : ℕ) (f : ℕ → SourceSet → Member → Part → Part) {m : Part} (hf : ∀ a b c m, Sound v m → Sound v (f a b c m)) (hm : Sound v m) : Sound v (withMember n c sel f m) := by
  unfold withMember
  repeat' first
    | (with_reducible apply_assumption -exfalso -symm)
    | split

theorem sound_matchWindow (n : ℕ) (c : ℕ) (sel : ℕ) (w : MatchWindow) {m : Part} (hm : Sound v m) : Sound v (matchWindow n c sel w m) := by
  unfold matchWindow
  repeat' first
    | with_reducible assumption
    | (intro _ _ _ y; intro (hy : Sound v _); (try beta_reduce))
    | (with_reducible apply sound_withMember)
    | (with_reducible apply sound_seekWindow)
    | (with_reducible apply sound_verifyWindow)
    | (with_reducible apply sound_joinedWindow)
    | split

theorem sound_execLinkMatchWindow (t : ℕ) (set : ℕ) (ctx : ℕ) (sel : ℕ) (w : MatchWindow) (s : State) (hs : Sound v s.part) : SoundOut v (execLinkMatchWindow t set ctx sel w s) := by
  unfold execLinkMatchWindow
  repeat' first
    | with_reducible assumption
    | (intro y; intro (hy : Sound v _); (try beta_reduce))
    | (with_reducible apply soundOut_run)
    | (with_reducible apply sound_onTick)
    | (with_reducible apply sound_matchWindow)
    | split

theorem sound_unitMatch (n : ℕ) (c : ℕ) (sel : ℕ) (u : UnitMatch) {m : Part} (hm : Sound v m) : Sound v (unitMatch n c sel u m) := by
  unfold unitMatch
  repeat' first
    | with_reducible assumption
    | (intro _ _ _ y; intro (hy : Sound v _); (try beta_reduce))
    | (with_reducible apply sound_withMember)
    | (with_reducible apply sound_onMember)
    | (with_reducible apply sound_moveMember)
    | split

theorem sound_execLinkUnitMatch (t : ℕ) (set : ℕ) (ctx : ℕ) (sel : ℕ) (u : UnitMatch) (s : State) (hs : Sound v s.part) : SoundOut v (execLinkUnitMatch t set ctx sel u s) := by
  unfold execLinkUnitMatch
  repeat' first
    | with_reducible assumption
    | (with_reducible apply soundOut_run)
    | (with_reducible apply sound_onTick)
    | (with_reducible apply sound_unitMatch)

theorem sound_execLinkNoMatch (t : ℕ) (set : ℕ) (ctx : ℕ) (sel : ℕ) (s : State) (hs : Sound v s.part) : SoundOut v (execLinkNoMatch t set ctx sel s) := by
  unfold execLinkNoMatch
  repeat' first
    | with_reducible assumption
    | (intro y; intro (hy : Sound v _); (try beta_reduce))
    | (intro _ _ _ y; intro (hy : Sound v _); (try beta_reduce))
    | (with_reducible apply soundOut_run)
    | (with_reducible apply sound_onTick)
    | (with_reducible apply sound_withMember)
    | (with_reducible apply sound_onMember)
    | (with_reducible apply sound_memberEvent)
    | split

theorem sound_execLinkBlend (t : ℕ) (set : ℕ) (s : State) (hs : Sound v s.part) : SoundOut v (execLinkBlend t set s) := by
  unfold execLinkBlend
  repeat' first
    | with_reducible assumption
    | (intro y; intro (hy : Sound v _); (try beta_reduce))
    | (with_reducible apply soundOut_run)
    | (with_reducible apply sound_onTick)
    | (with_reducible apply sound_catchUp)
    | (with_reducible apply sound_raise)
    | (with_reducible apply sound_onSet)
    | (with_reducible refine sound_elim _ _ ?_ (fun a => ?_); (on_goal 2 => beta_reduce))
    | split

end Sys2Proof.Laws
end

