-- ==== Sys2Proof/Laws/SoundFollowing.lean ====
section
/-! SUPPORT. Each operation of Machine/Following.lean keeps `Safety.Sound`: one lemma per operation, by the lemmas of the operations it
calls. -/

namespace Sys2Proof.Laws

open Sys2Proof Sys2Proof.Machine Sys2Proof.Safety

set_option linter.all false

variable {v : Fused} {m : Part}
theorem sound_performFollowSet (p : FollowParams) (x1 : Desc) (x2 : Origin) {m : Part} (hm : Sound v m) : Sound v (performFollowSet p x1 x2 m).1 := by
  unfold performFollowSet
  repeat' first
    | (refine Sound.mk ?_ ?_ ?_ ?_ <;> cases_type* Sound <;> first | assumption | (simp_all [Arrays, EventsSound]; done) | (simp_all [Arrays, EventsSound]; omega))

theorem sound_execSvcFollowSet (d : Desc) (p : FollowParams) (s : State) (hs : Sound v s.part) : SoundOut v (execSvcFollowSet d p s) := by
  unfold execSvcFollowSet
  repeat' first
    | with_reducible assumption
    | (with_reducible apply soundOut_run)
    | (with_reducible apply sound_accept)
    | (with_reducible apply sound_performFollowSet)

theorem sound_performFollowClear (set : ℕ) (x1 : Desc) (x2 : Origin) {m : Part} (hm : Sound v m) : Sound v (performFollowClear set x1 x2 m).1 := by
  unfold performFollowClear
  repeat' first
    | with_reducible assumption
    | (with_reducible apply sound_endPolicy)

theorem sound_execSvcFollowClear (d : Desc) (set : ℕ) (s : State) (hs : Sound v s.part) : SoundOut v (execSvcFollowClear d set s) := by
  unfold execSvcFollowClear
  repeat' first
    | with_reducible assumption
    | (with_reducible apply soundOut_run)
    | (with_reducible apply sound_accept)
    | (with_reducible apply sound_performFollowClear)

theorem sound_onCand (set : ℕ) (std : ℕ) (kHz : ℕ) (f : Candidate → Candidate) {m : Part} (hm : Sound v m) : Sound v (onCand set std kHz f m) := by
  unfold onCand
  repeat' first
    | with_reducible assumption
    | (with_reducible apply sound_onPolicy)

theorem sound_decideAct (set : ℕ) (act : FollowAct) {m : Part} (hm : Sound v m) : Sound v (decideAct set act m) := by
  unfold decideAct
  repeat' first
    | (refine Sound.mk ?_ ?_ ?_ ?_ <;> cases_type* Sound <;> first | assumption | (simp_all [Arrays, EventsSound]; done) | (simp_all [Arrays, EventsSound]; omega))

theorem sound_deriveCandidates (set : ℕ) (x : Ctx) {m : Part} (hm : Sound v m) : Sound v (deriveCandidates set x m) := by
  unfold deriveCandidates
  repeat' first
    | with_reducible assumption
    | (with_reducible apply sound_onPolicy)
    | (with_reducible apply sound_decideAct)
    | (with_reducible refine sound_foldl _ _ (fun a y hy => ?_) ?_; (on_goal 1 => beta_reduce))
    | (with_reducible refine sound_elim _ _ ?_ (fun a => ?_); (on_goal 2 => beta_reduce))
    | split

theorem sound_passWatch (set : ℕ) (home : ℕ) (k : ℕ) (c : Candidate) (state : CandState) {m : Part} (hm : Sound v m) : Sound v (passWatch set home k c state m) := by
  unfold passWatch
  repeat' first
    | with_reducible assumption
    | ((try lift_lets -underBinder); intro x; first
        | (refine (fun hx : Sound v x => ?_) ?_; (on_goal 1 => clear_value x); (on_goal 2 => (simp -zeta only [x]; clear x)))
        | subst x)
    | (with_reducible apply sound_onCand)
    | (with_reducible apply sound_decideAct)
    | split

theorem sound_barCandidate (set : ℕ) (home : ℕ) (k : ℕ) (c : Candidate) {m : Part} (hm : Sound v m) : Sound v (barCandidate set home k c m) := by
  unfold barCandidate
  repeat' first
    | with_reducible assumption
    | (with_reducible apply sound_decideAct)
    | (with_reducible apply sound_onCand)
    | (with_reducible apply sound_passWatch)
    | split

theorem sound_releaseCandidate (set : ℕ) (k : ℕ) (c : Candidate) {m : Part} (hm : Sound v m) : Sound v (releaseCandidate set k c m) := by
  unfold releaseCandidate
  repeat' first
    | with_reducible assumption
    | (with_reducible apply sound_decideAct)
    | (with_reducible apply sound_onCand)
    | split

theorem sound_judgeCandidate (set : ℕ) (home : ℕ) {m : Part} (c : Candidate) (hm : Sound v m) : Sound v (judgeCandidate set home m c) := by
  unfold judgeCandidate
  repeat' first
    | with_reducible assumption
    | ((try lift_lets -underBinder); intro x; first
        | (refine (fun hx : Sound v x => ?_) ?_; (on_goal 1 => clear_value x); (on_goal 2 => (simp -zeta only [x]; clear x)))
        | subst x)
    | (with_reducible apply sound_onCand)
    | (with_reducible apply sound_barCandidate)
    | (with_reducible apply sound_passWatch)
    | (with_reducible apply sound_releaseCandidate)
    | split

theorem sound_judgeHome (set : ℕ) (x : Ctx) {m : Part} (hm : Sound v m) : Sound v (judgeHome set x m) := by
  unfold judgeHome
  repeat' first
    | with_reducible assumption
    | ((try lift_lets -underBinder); intro x; first
        | (refine (fun hx : Sound v x => ?_) ?_; (on_goal 1 => clear_value x); (on_goal 2 => (simp -zeta only [x]; clear x)))
        | subst x)
    | (with_reducible apply sound_onPolicy)
    | (with_reducible apply sound_decideAct)
    | (with_reducible refine sound_elim _ _ ?_ (fun a => ?_); (on_goal 2 => beta_reduce))
    | split

theorem sound_promote (set : ℕ) (homeType : ℕ) {m : Part} (c : Candidate) (hm : Sound v m) : Sound v (promote set homeType m c) := by
  unfold promote
  repeat' first
    | with_reducible assumption
    | ((try lift_lets -underBinder); intro x; first
        | (refine (fun hx : Sound v x => ?_) ?_; (on_goal 1 => clear_value x); (on_goal 2 => (simp -zeta only [x]; clear x)))
        | subst x)
    | (with_reducible apply sound_decideAct)
    | (with_reducible apply sound_onCand)
    | split

theorem sound_noSlot (set : ℕ) (kHz : ℕ) {m : Part} (hm : Sound v m) : Sound v (noSlot set kHz m) := by
  unfold noSlot
  repeat' first
    | with_reducible assumption
    | (with_reducible apply sound_followEvent)
    | (with_reducible apply sound_onPolicy)
    | split

theorem sound_openFor (set : ℕ) (mask : ℕ) (cfg : CtxCfg) (c : Candidate) {m : Part} (hm : Sound v m) : Sound v (openFor set mask cfg c m).1 := by
  unfold openFor
  repeat' first
    | with_reducible assumption
    | (with_reducible apply sound_noSlot)
    | (with_reducible apply sound_decideAct)
    | (with_reducible apply sound_onCand)
    | split

theorem sound_openWatches (set : ℕ) (home : ℕ) (x2 : ℕ) {m : Part} : Sound v m → Sound v (openWatches set home x2 m) := by
  fun_induction openWatches set home x2 m <;> intros
  all_goals repeat' first
    | (with_reducible apply sound_openFor)
    | (with_reducible apply_assumption -exfalso -symm)
    | (refine sound_of_eq1 (by assumption) ?_)

theorem sound_openDigital (set : ℕ) {m : Part} (hm : Sound v m) : Sound v (openDigital set m) := by
  unfold openDigital
  repeat' first
    | with_reducible assumption
    | ((try lift_lets -underBinder); intro x; first
        | (refine (fun hx : Sound v x => ?_) ?_; (on_goal 1 => clear_value x); (on_goal 2 => (simp -zeta only [x]; clear x)))
        | subst x)
    | (with_reducible apply sound_openFor)
    | split

theorem sound_learnKey (set : ℕ) {m : Part} (hm : Sound v m) : Sound v (learnKey set m) := by
  unfold learnKey
  repeat' first
    | with_reducible assumption
    | (with_reducible apply sound_onPolicy)

theorem sound_evaluate {m : Part} (set : ℕ) (hm : Sound v m) : Sound v (evaluate m set) := by
  unfold evaluate
  repeat' first
    | with_reducible assumption
    | ((try lift_lets -underBinder); intro x; first
        | (refine (fun hx : Sound v x => ?_) ?_; (on_goal 1 => clear_value x); (on_goal 2 => (simp -zeta only [x]; clear x)))
        | subst x)
    | (with_reducible apply sound_learnKey)
    | (with_reducible apply sound_deriveCandidates)
    | (with_reducible apply sound_judgeCandidate)
    | (with_reducible apply sound_judgeHome)
    | (with_reducible apply sound_promote)
    | (with_reducible apply sound_openDigital)
    | (with_reducible apply sound_openWatches)
    | (with_reducible refine sound_foldl _ _ (fun a y hy => ?_) ?_; (on_goal 1 => beta_reduce))
    | split

theorem sound_execFollowEvaluation (t : ℕ) (s : State) (hs : Sound v s.part) : SoundOut v (execFollowEvaluation t s) := by
  unfold execFollowEvaluation
  repeat' first
    | with_reducible assumption
    | (intro y; intro (hy : Sound v _); (try beta_reduce))
    | (with_reducible apply soundOut_run)
    | (with_reducible apply sound_onTick)
    | (with_reducible apply sound_evaluate)
    | (with_reducible apply sound_onDb)
    | (with_reducible refine sound_foldl _ _ (fun a y hy => ?_) ?_; (on_goal 1 => beta_reduce))
    | split

theorem sound_onCandCtx (set : ℕ) (k : ℕ) (f : Candidate → Candidate) {m : Part} (hm : Sound v m) : Sound v (onCandCtx set k f m) := by
  unfold onCandCtx
  repeat' first
    | with_reducible assumption
    | (with_reducible apply sound_onPolicy)

theorem sound_followSelect (set : ℕ) (k : ℕ) (c : Candidate) (cfg : CtxCfg) {m : Part} (hm : Sound v m) : Sound v (followSelect set k c cfg m) := by
  unfold followSelect
  repeat' first
    | with_reducible assumption
    | (with_reducible apply sound_onSels)
    | split

theorem sound_doOpen (set : ℕ) (slot : ℕ) (cfg : CtxCfg) {m : Part} (hm : Sound v m) : Sound v (doOpen set slot cfg m) := by
  unfold doOpen
  repeat' first
    | with_reducible assumption
    | (with_reducible apply sound_onCandCtx)
    | (with_reducible apply sound_onCtx)
    | (with_reducible apply sound_openCtx)
    | (with_reducible apply sound_followSelect)
    | (with_reducible apply sound_followEvent)
    | split

theorem sound_doRetune (set : ℕ) (k : ℕ) (cfg : CtxCfg) {m : Part} (hm : Sound v m) : Sound v (doRetune set k cfg m) := by
  unfold doRetune
  repeat' first
    | with_reducible assumption
    | (with_reducible apply sound_onCandCtx)
    | (with_reducible apply sound_onCand)
    | (with_reducible apply sound_retuneCtx)
    | (with_reducible apply sound_followEvent)
    | split

theorem sound_doClose (set : ℕ) (k : ℕ) {m : Part} (hm : Sound v m) : Sound v (doClose set k m) := by
  unfold doClose
  repeat' first
    | with_reducible assumption
    | (with_reducible apply sound_onCand)
    | (with_reducible apply sound_followEvent)
    | (with_reducible apply sound_dropCtx)
    | split

theorem sound_doPromote (set : ℕ) (k : ℕ) (cfg : CtxCfg) {m : Part} (hm : Sound v m) : Sound v (doPromote set k cfg m) := by
  unfold doPromote
  repeat' first
    | with_reducible assumption
    | (with_reducible apply sound_retuneCtx)
    | (with_reducible apply sound_addMember)
    | (with_reducible apply sound_onSet)
    | (with_reducible apply sound_createSet)
    | (with_reducible apply sound_followEvent)
    | (with_reducible apply sound_onCandCtx)
    | split

theorem sound_doRelease (set : ℕ) (k : ℕ) (cfg : Option CtxCfg) {m : Part} (hm : Sound v m) : Sound v (doRelease set k cfg m) := by
  unfold doRelease
  repeat' first
    | with_reducible assumption
    | ((try lift_lets -underBinder); intro x; first
        | (refine (fun hx : Sound v x => ?_) ?_; (on_goal 1 => clear_value x); (on_goal 2 => (simp -zeta only [x]; clear x)))
        | subst x)
    | (with_reducible apply sound_removeMember)
    | (with_reducible apply sound_onCandCtx)
    | (with_reducible apply sound_retuneCtx)
    | (with_reducible apply sound_followEvent)
    | (with_reducible apply sound_doClose)
    | split

theorem sound_doRehome (set : ℕ) (kHz : ℕ) {m : Part} (hm : Sound v m) : Sound v (doRehome set kHz m) := by
  unfold doRehome
  repeat' first
    | with_reducible assumption
    | (with_reducible apply sound_followEvent)
    | (with_reducible apply sound_retuneCtx)
    | split

theorem sound_doAct {m : Part} (a : FollowDue) (hm : Sound v m) : Sound v (doAct m a) := by
  unfold doAct
  repeat' first
    | with_reducible assumption
    | (with_reducible apply sound_doOpen)
    | (with_reducible apply sound_doRetune)
    | (with_reducible apply sound_doClose)
    | (with_reducible apply sound_doPromote)
    | (with_reducible apply sound_doRelease)
    | (with_reducible apply sound_doRehome)
    | split

theorem sound_followActions (p : FollowAct → Bool) {m : Part} (hm : Sound v m) : Sound v (followActions p m) := by
  unfold followActions
  repeat' first
    | with_reducible assumption
    | (with_reducible apply sound_doAct)
    | (with_reducible refine sound_foldl _ _ (fun a y hy => ?_) ?_; (on_goal 1 => beta_reduce))
    | (refine Sound.mk ?_ ?_ ?_ ?_ <;> cases_type* Sound <;> first | assumption | (simp_all [Arrays, EventsSound]; done) | (simp_all [Arrays, EventsSound]; omega))

theorem sound_scanOpen (x0 : List ℕ) (x1 : List ℕ) (x2 : List (ℕ × ℕ)) {m : Part} : Sound v m → Sound v (scanOpen x0 x1 x2 m).2.2 := by
  fun_induction scanOpen x0 x1 x2 m <;> intros
  all_goals repeat' first
    | (with_reducible apply sound_openCtx)
    | (with_reducible apply_assumption -exfalso -symm)

theorem sound_performScan {p : ScanParams} {d : Desc} {origin : Origin} {m : Part} (h : Sound v m) :
    Sound v (performScan p d origin m).1 := by
  have := sound_scanOpen (scanSlots p.half p.watches m) (scanChannels p) [] h
  simp only [performScan]
  split
  · exact this
  · exact ⟨this.1, this.2, this.3, this.4⟩

theorem sound_execScan (d : Desc) (p : ScanParams) (s : State) (hs : Sound v s.part) : SoundOut v (execScan d p s) := by
  unfold execScan
  repeat' first
    | with_reducible assumption
    | (with_reducible apply soundOut_run)
    | (with_reducible apply sound_accept)
    | (with_reducible apply sound_performScan)

theorem sound_scanStep (x0 : List (ℕ × ℕ)) (x1 : List ℕ) (x2 : List (ℕ × ℕ)) {m : Part} : Sound v m → Sound v (scanStep x0 x1 x2 m).2.2 := by
  fun_induction scanStep x0 x1 x2 m <;> intros
  all_goals repeat' first
    | (with_reducible apply sound_retuneCtx)
    | (with_reducible apply sound_dropCtx)
    | (with_reducible apply_assumption -exfalso -symm)

theorem sound_scanDwell {r : ScanRun} {m : Part} (h : Sound v m) : Sound v (scanDwell m r) := by
  unfold scanDwell
  have := sound_scanStep r.ctxs r.left [] h
  dsimp only
  split
  · exact sound_finish _ _ _ _ this
  · exact ⟨this.1, this.2, this.3, this.4⟩

theorem sound_execScanDwellEnd (t : ℕ) (s : State) (hs : Sound v s.part) : SoundOut v (execScanDwellEnd t s) := by
  unfold execScanDwellEnd
  repeat' first
    | with_reducible assumption
    | (intro y; intro (hy : Sound v _); (try beta_reduce))
    | (with_reducible apply soundOut_run)
    | (with_reducible apply sound_onTick)
    | (with_reducible apply sound_scanDwell)
    | (with_reducible refine sound_foldl _ _ (fun a y hy => ?_) ?_; (on_goal 1 => beta_reduce))
    | (refine Sound.mk ?_ ?_ ?_ ?_ <;> cases_type* Sound <;> first | assumption | (simp_all [Arrays, EventsSound]; done) | (simp_all [Arrays, EventsSound]; omega))

end Sys2Proof.Laws
end

