-- ==== Sys2Proof/Laws/SoundChain.lean ====
section
/-! SUPPORT. Each operation of Machine/Chain.lean keeps `Safety.Sound`: one lemma per operation, by the lemmas of the operations it
calls. -/

namespace Sys2Proof.Laws

open Sys2Proof Sys2Proof.Machine Sys2Proof.Safety

set_option linter.all false

variable {v : Fused} {m : Part}
theorem sound_onChain (f : Chain → Chain) {m : Part} (hm : Sound v m) : Sound v (onChain f m) := by
  unfold onChain
  repeat' first
    | (refine Sound.mk ?_ ?_ ?_ ?_ <;> cases_type* Sound <;> first | assumption | (simp_all [Arrays, EventsSound]; done) | (simp_all [Arrays, EventsSound]; omega))

theorem sound_topology (cause : ℕ) (near : ℕ) (far : ℕ) (port : ℕ) (us : ℕ) {m : Part} (hm : Sound v m) : Sound v (topology cause near far port us m) := by
  unfold topology
  repeat' first
    | with_reducible assumption
    | (with_reducible apply sound_raise)

theorem sound_rollEvent (stamp : ℕ) (addr : ℕ) (cause : ℕ) (p : Peer) {m : Part} (hm : Sound v m) : Sound v (rollEvent stamp addr cause p m) := by
  unfold rollEvent
  repeat' first
    | with_reducible assumption
    | (with_reducible apply sound_raiseAt)

theorem sound_receive (src : ℕ) (seq : ℕ) (f : Part → Part × ℕ) {m : Part} (hf : ∀ m, Sound v m → Sound v (f m).1) (hm : Sound v m) : Sound v (receive src seq f m) := by
  unfold receive
  repeat' first
    | (with_reducible apply sound_onChain)
    | (with_reducible apply_assumption -exfalso -symm)
    | split

theorem sound_resend {m : Part} (hm : Sound v m) : Sound v (resend m) := by
  unfold resend
  repeat' first
    | with_reducible assumption
    | (with_reducible apply sound_onChain)

theorem sound_sendConfigs (x0 : List ℕ) {m : Part} : Sound v m → Sound v (sendConfigs x0 m) := by
  fun_induction sendConfigs x0 m <;> intros
  all_goals repeat' first
    | (with_reducible apply sound_send)
    | (with_reducible apply_assumption -exfalso -symm)

theorem sound_performEnumerate (options : ℕ) (w : WalkResult) (x2 : Desc) (x3 : Origin) {m : Part} (hm : Sound v m) : Sound v (performEnumerate options w x2 x3 m).1 := by
  unfold performEnumerate
  repeat' first
    | ((try lift_lets -underBinder); intro x; first
        | (refine (fun hx : Sound v x => ?_) ?_; (on_goal 1 => clear_value x); (on_goal 2 => (simp -zeta only [x]; clear x)))
        | subst x)
    | (with_reducible apply sound_topology)
    | (with_reducible apply sound_sendConfigs)
    | (with_reducible apply sound_elect)
    | split
    | (refine Sound.mk ?_ ?_ ?_ ?_ <;> cases_type* Sound <;> first | assumption | (simp_all [Arrays, EventsSound]; done) | (simp_all [Arrays, EventsSound]; omega))

theorem sound_execChainEnumerate (d : Desc) (options : ℕ) (walk : WalkResult) (s : State) (hs : Sound v s.part) : SoundOut v (execChainEnumerate d options walk s) := by
  unfold execChainEnumerate
  repeat' first
    | with_reducible assumption
    | ((try lift_lets -underBinder); intro x; first
        | (refine (fun hx : Sound v x => ?_) ?_; (on_goal 1 => clear_value x); (on_goal 2 => (simp -zeta only [x]; clear x)))
        | subst x)
    | (with_reducible apply soundOut_run)
    | (with_reducible apply sound_accept)
    | (with_reducible apply sound_performEnumerate)

theorem sound_execChainEnumerationWalk (t : ℕ) (addr : ℕ) (chainId : ℕ) (epoch : ℕ) (s : State) (hs : Sound v s.part) : SoundOut v (execChainEnumerationWalk t addr chainId epoch s) := by
  unfold execChainEnumerationWalk
  repeat' first
    | (intro y; intro (hy : Sound v _); (try beta_reduce))
    | (with_reducible apply soundOut_run)
    | (with_reducible apply sound_onTick)
    | (with_reducible apply sound_elect)
    | split
    | (refine Sound.mk ?_ ?_ ?_ ?_ <;> cases_type* Sound <;> first | assumption | (simp_all [Arrays, EventsSound]; done) | (simp_all [Arrays, EventsSound]; omega))

theorem sound_execChainConfigArrival (t : ℕ) (c : ChainConfig) (s : State) (hs : Sound v s.part) : SoundOut v (execChainConfigArrival t c s) := by
  unfold execChainConfigArrival
  repeat' first
    | with_reducible assumption
    | (intro y; intro (hy : Sound v _); (try beta_reduce))
    | (with_reducible apply soundOut_run)
    | (with_reducible apply sound_onTick)
    | (with_reducible apply sound_elect)
    | (with_reducible apply sound_onChain)
    | split

theorem sound_onLink (p : TetherPort) (f : TetherLink → TetherLink) {m : Part} (hm : Sound v m) : Sound v (onLink p f m) := by
  unfold onLink
  repeat' first
    | with_reducible assumption
    | (with_reducible apply sound_onChain)
    | split

theorem sound_execTetherLinkDown (t : ℕ) (port : TetherPort) (topology : TopologyChange) (s : State) (hs : Sound v s.part) : SoundOut v (execTetherLinkDown t port topology s) := by
  unfold execTetherLinkDown
  repeat' first
    | with_reducible assumption
    | (intro y; intro (hy : Sound v _); (try beta_reduce))
    | ((try lift_lets -underBinder); intro x; first
        | (refine (fun hx : Sound v x => ?_) ?_; (on_goal 1 => clear_value x); (on_goal 2 => (simp -zeta only [x]; clear x)))
        | subst x)
    | (with_reducible apply soundOut_run)
    | (with_reducible apply sound_topology)
    | (with_reducible apply sound_onTick)
    | (with_reducible apply sound_onLink)
    | (with_reducible apply sound_onChain)
    | (with_reducible apply sound_elect)
    | (with_reducible apply sound_resend)
    | split

theorem sound_abortForwarded (addr : ℕ) {m : Part} (hm : Sound v m) : Sound v (abortForwarded addr m) := by
  unfold abortForwarded
  repeat' first
    | with_reducible assumption
    | (with_reducible apply sound_onChain)
    | (with_reducible apply sound_finish)
    | (with_reducible refine sound_foldl _ _ (fun a y hy => ?_) ?_; (on_goal 1 => beta_reduce))

theorem sound_linkAnnounce (up : LinkAnnounce) (port : TetherPort) {m : Part} (hm : Sound v m) : Sound v (linkAnnounce up port m) := by
  unfold linkAnnounce
  repeat' first
    | with_reducible assumption
    | (with_reducible apply sound_topology)
    | (with_reducible apply sound_rollEvent)
    | (with_reducible apply sound_onChain)
    | (with_reducible apply sound_abortForwarded)
    | split

theorem sound_execTetherLinkUp (t : ℕ) (port : TetherPort) (up : LinkAnnounce) (s : State) (hs : Sound v s.part) : SoundOut v (execTetherLinkUp t port up s) := by
  unfold execTetherLinkUp
  repeat' first
    | with_reducible assumption
    | (intro y; intro (hy : Sound v _); (try beta_reduce))
    | ((try lift_lets -underBinder); intro x; first
        | (refine (fun hx : Sound v x => ?_) ?_; (on_goal 1 => clear_value x); (on_goal 2 => (simp -zeta only [x]; clear x)))
        | subst x)
    | (with_reducible apply soundOut_run)
    | (with_reducible apply sound_onTick)
    | (with_reducible apply sound_topology)
    | (with_reducible apply sound_onLink)
    | (with_reducible apply sound_onChain)
    | (with_reducible apply sound_resend)
    | (with_reducible apply sound_elect)
    | (with_reducible apply sound_linkAnnounce)
    | split

theorem sound_execChainRouteUpdate (t : ℕ) (r : RouteUpdate) (s : State) (hs : Sound v s.part) : SoundOut v (execChainRouteUpdate t r s) := by
  unfold execChainRouteUpdate
  repeat' first
    | with_reducible assumption
    | (intro y; intro (hy : Sound v _); (try beta_reduce))
    | (with_reducible apply soundOut_run)
    | (with_reducible apply sound_onTick)
    | (with_reducible apply sound_elect)
    | (with_reducible apply sound_resend)
    | (with_reducible apply sound_onChain)
    | split

theorem sound_execTetherDcFault (t : ℕ) (port : TetherPort) (s : State) (hs : Sound v s.part) : SoundOut v (execTetherDcFault t port s) := by
  unfold execTetherDcFault
  repeat' first
    | with_reducible assumption
    | (intro y; intro (hy : Sound v _); (try beta_reduce))
    | (with_reducible apply soundOut_run)
    | (with_reducible apply sound_onTick)
    | (with_reducible apply sound_topology)
    | (with_reducible apply sound_onLink)

theorem sound_execTetherDcRetry (t : ℕ) (port : TetherPort) (limited : Bool) (s : State) (hs : Sound v s.part) : SoundOut v (execTetherDcRetry t port limited s) := by
  unfold execTetherDcRetry
  repeat' first
    | with_reducible assumption
    | (intro y; intro (hy : Sound v _); (try beta_reduce))
    | ((try lift_lets -underBinder); intro x; first
        | (refine (fun hx : Sound v x => ?_) ?_; (on_goal 1 => clear_value x); (on_goal 2 => (simp -zeta only [x]; clear x)))
        | subst x)
    | (with_reducible apply soundOut_run)
    | (with_reducible apply sound_onTick)
    | (with_reducible apply sound_topology)
    | (with_reducible apply sound_onLink)
    | split

theorem sound_unbindAll (x0 : List ℕ) {m : Part} : Sound v m → Sound v (unbindAll x0 m) := by
  fun_induction unbindAll x0 m <;> intros
  all_goals repeat' first
    | (with_reducible apply sound_retarget)
    | (with_reducible apply_assumption -exfalso -symm)

theorem sound_enterQuarantine {m : Part} (hm : Sound v m) : Sound v (enterQuarantine m) := by
  have ho : ∀ m o, Sound v m → o.log = m.oasis.log → Sound v { m with oasis := o } :=
    fun _ _ h e => ⟨h.1, h.2, h.3, h.4.1, e ▸ h.4.2⟩
  have hs : ∀ m s, Sound v m → Sound v { m with service := s } := fun _ _ h => ⟨h.1, h.2, h.3, h.4⟩
  have hp : ∀ m p q, Sound v m → Sound v { m with plans := p, planHolds := q } := fun _ _ _ h => ⟨h.1, h.2, h.3, h.4⟩
  have h1 := hp _ [] [] (sound_tidyPins (sound_dropOrphans (sound_withdraw (fun _ => true) stQuarantined hm)))
  unfold enterQuarantine
  extract_lets before x1 x2 x3 x4 x5 x6 x7 x8
  have h3 : Sound v x3 := sound_foldl _ _ (fun p _ h => sound_finish _ _ _ _ h) h1
  have h6 : Sound v x7 := sound_unbindAll _ (sound_closeCtxs _ _ _ (hs _ _ h3))
  have h7 : Sound v x8 := by
    simp only [x8]
    cases x7.kite.pending with
    | none => exact h6
    | some p => exact sound_finish _ _ _ _ h6
  clear_value x8
  exact sound_elect hm (sound_onChain _ (ho _ _ (sound_flood (sound_onChain _ (sound_kiteOff h7))) rfl))

theorem sound_closeRoll {m : Part} (hm : Sound v m) : Sound v (closeRoll m) := by
  unfold closeRoll
  repeat' first
    | with_reducible assumption
    | (with_reducible apply sound_onChain)
    | (with_reducible apply sound_rollEvent)
    | (with_reducible refine sound_foldl _ _ (fun a y hy => ?_) ?_; (on_goal 1 => beta_reduce))
    | split

theorem sound_settleRoll {m : Part} (hm : Sound v m) : Sound v (settleRoll m) := by
  unfold settleRoll
  repeat' first
    | with_reducible assumption
    | (with_reducible apply sound_closeRoll)
    | split

theorem sound_judgeTime (p : RollPoll) {m : Part} (hm : Sound v m) : Sound v (judgeTime p m) := by
  unfold judgeTime
  repeat' first
    | with_reducible assumption
    | ((try lift_lets -underBinder); intro x; first
        | (refine (fun hx : Sound v x => ?_) ?_; (on_goal 1 => clear_value x); (on_goal 2 => (simp -zeta only [x]; clear x)))
        | subst x)
    | (with_reducible apply sound_onChain)
    | (with_reducible apply sound_setHt)
    | (with_reducible apply sound_resolveDemand)
    | (with_reducible apply sound_stepBy)
    | split

theorem sound_execRollCall (t : ℕ) (p : RollPoll) (s : State) (hs : Sound v s.part) : SoundOut v (execRollCall t p s) := by
  unfold execRollCall
  repeat' first
    | with_reducible assumption
    | (intro y; intro (hy : Sound v _); (try beta_reduce))
    | ((try lift_lets -underBinder); intro x; first
        | (refine (fun hx : Sound v x => ?_) ?_; (on_goal 1 => clear_value x); (on_goal 2 => (simp -zeta only [x]; clear x)))
        | subst x)
    | (with_reducible apply soundOut_run)
    | (with_reducible apply sound_onTick)
    | (with_reducible apply sound_settleRoll)
    | (with_reducible apply sound_closeRoll)
    | (with_reducible apply sound_judgeTime)
    | (with_reducible apply sound_onChain)
    | (with_reducible apply sound_enterQuarantine)
    | split

theorem sound_takeAnswer (addr : ℕ) (a : RollAnswer) {m : Part} (hm : Sound v m) : Sound v (takeAnswer addr a m) := by
  unfold takeAnswer
  repeat' first
    | with_reducible assumption
    | ((try lift_lets -underBinder); intro x; first
        | (refine (fun hx : Sound v x => ?_) ?_; (on_goal 1 => clear_value x); (on_goal 2 => (simp -zeta only [x]; clear x)))
        | subst x)
    | (with_reducible apply sound_onChain)
    | (with_reducible apply sound_rollEvent)
    | (with_reducible apply sound_send)
    | split

theorem sound_execRollCallAnswer (t : ℕ) (addr : ℕ) (a : RollAnswer) (s : State) (hs : Sound v s.part) : SoundOut v (execRollCallAnswer t addr a s) := by
  unfold execRollCallAnswer
  repeat' first
    | with_reducible assumption
    | (intro y; intro (hy : Sound v _); (try beta_reduce))
    | ((try lift_lets -underBinder); intro x; first
        | (refine (fun hx : Sound v x => ?_) ?_; (on_goal 1 => clear_value x); (on_goal 2 => (simp -zeta only [x]; clear x)))
        | subst x)
    | (with_reducible apply soundOut_run)
    | (with_reducible apply sound_onTick)
    | (with_reducible apply sound_settleRoll)
    | (with_reducible apply sound_takeAnswer)
    | split

theorem sound_performRollcall (x0 : Desc) (x1 : Origin) {m : Part} (hm : Sound v m) : Sound v (performRollcall x0 x1 m).1 := by
  unfold performRollcall
  repeat' first
    | with_reducible assumption
    | (with_reducible apply sound_settleRoll)

theorem sound_execChainRollcall (d : Desc) (s : State) (hs : Sound v s.part) : SoundOut v (execChainRollcall d s) := by
  unfold execChainRollcall
  repeat' first
    | with_reducible assumption
    | (with_reducible apply soundOut_run)
    | (with_reducible apply sound_accept)
    | (with_reducible apply sound_performRollcall)

theorem sound_deliverMessage (src : ℕ) (message : List ℕ) {m : Part} (hm : Sound v m) : Sound v (deliverMessage src message m).1 := by
  unfold deliverMessage
  repeat' first
    | (with_reducible apply sound_raise)
    | split
    | (refine Sound.mk ?_ ?_ ?_ ?_ <;> cases_type* Sound <;> first | assumption | (simp_all [Arrays, EventsSound]; done) | (simp_all [Arrays, EventsSound]; omega))

theorem sound_sendTo (message : List ℕ) (x1 : List ℕ) (x2 : List ℕ) (x3 : List Target) {m : Part} : Sound v m → Sound v (sendTo message x1 x2 x3 m).2.2 := by
  fun_induction sendTo message x1 x2 x3 m <;> intros
  all_goals repeat' first
    | (with_reducible apply sound_deliverMessage)
    | (with_reducible apply sound_send)
    | (with_reducible apply_assumption -exfalso -symm)
    | (refine sound_of_eq1 (by assumption) ?_)

theorem sound_performChainSend (dest : ℕ) (message : List ℕ) (x2 : Desc) (x3 : Origin) {m : Part} (hm : Sound v m) : Sound v (performChainSend dest message x2 x3 m).1 := by
  unfold performChainSend
  repeat' first
    | with_reducible assumption
    | ((try lift_lets -underBinder); intro x; first
        | (refine (fun hx : Sound v x => ?_) ?_; (on_goal 1 => clear_value x); (on_goal 2 => (simp -zeta only [x]; clear x)))
        | subst x)
    | (with_reducible apply sound_sendTo)
    | (with_reducible apply sound_onChain)
    | (dsimp -zeta only)
    | split

theorem sound_execChainSend (d : Desc) (dest : ℕ) (message : List ℕ) (s : State) (hs : Sound v s.part) : SoundOut v (execChainSend d dest message s) := by
  unfold execChainSend
  repeat' first
    | with_reducible assumption
    | (with_reducible apply soundOut_run)
    | (with_reducible apply sound_accept)
    | (with_reducible apply sound_performChainSend)

theorem sound_execChainTransferAck (t : ℕ) (seq : ℕ) (status : ℕ) (s : State) (hs : Sound v s.part) : SoundOut v (execChainTransferAck t seq status s) := by
  unfold execChainTransferAck
  repeat' first
    | with_reducible assumption
    | (intro y; intro (hy : Sound v _); (try beta_reduce))
    | (with_reducible apply soundOut_run)
    | (with_reducible apply sound_onTick)
    | (with_reducible apply sound_onChain)
    | (with_reducible apply sound_finish)
    | (with_reducible refine sound_foldl _ _ (fun a y hy => ?_) ?_; (on_goal 1 => beta_reduce))
    | split

theorem sound_execChainMsgDelivery (t : ℕ) (src : ℕ) (seq : ℕ) (message : List ℕ) (s : State) (hs : Sound v s.part) : SoundOut v (execChainMsgDelivery t src seq message s) := by
  unfold execChainMsgDelivery
  repeat' first
    | with_reducible assumption
    | (intro y; intro (hy : Sound v _); (try beta_reduce))
    | (with_reducible apply soundOut_run)
    | (with_reducible apply sound_onTick)
    | (with_reducible apply sound_receive)
    | (with_reducible apply sound_deliverMessage)

theorem sound_execChainCompletionArrival (t : ℕ) (src : ℕ) (seq : ℕ) (c : RemoteCompletion) (s : State) (hs : Sound v s.part) : SoundOut v (execChainCompletionArrival t src seq c s) := by
  unfold execChainCompletionArrival
  repeat' first
    | with_reducible assumption
    | (intro y; intro (hy : Sound v _); (try beta_reduce))
    | (with_reducible apply soundOut_run)
    | (with_reducible apply sound_onTick)
    | (with_reducible apply sound_receive)
    | (with_reducible apply sound_postCompletion)
    | (with_reducible apply sound_onChain)
    | split

theorem sound_execChainEventArrival (t : ℕ) (src : ℕ) (seq : ℕ) (e : RemoteEvent) (s : State) (hs : Sound v s.part) : SoundOut v (execChainEventArrival t src seq e s) := by
  unfold execChainEventArrival
  repeat' first
    | with_reducible assumption
    | (intro y; intro (hy : Sound v _); (try beta_reduce))
    | (with_reducible apply soundOut_run)
    | (with_reducible apply sound_onTick)
    | (with_reducible apply sound_receive)
    | (with_reducible apply sound_postEvent)
    | split

theorem sound_stageRemote (n : ℕ) (r : RemoteRecord) {m : Part} (hm : Sound v m) : Sound v (stageRemote n r m) := by
  unfold stageRemote
  repeat' first
    | with_reducible assumption
    | (with_reducible apply sound_dropRecord)
    | (with_reducible apply sound_refreshTags)
    | (with_reducible apply sound_fixDelay)
    | (with_reducible apply sound_onFlow)
    | split

theorem sound_execChainRecordArrival (t : ℕ) (src : ℕ) (r : RemoteRecord) (s : State) (hs : Sound v s.part) : SoundOut v (execChainRecordArrival t src r s) := by
  unfold execChainRecordArrival
  repeat' first
    | with_reducible assumption
    | (intro y; intro (hy : Sound v _); (try beta_reduce))
    | (with_reducible apply soundOut_run)
    | (with_reducible apply sound_onTick)
    | (with_reducible apply sound_stageRemote)
    | (with_reducible apply sound_onChain)
    | split

end Sys2Proof.Laws
end

