-- ==== Sys2Proof/Laws/SoundDram.lean ====
section
/-! SUPPORT. Each operation of Machine/Dram.lean keeps `Safety.Sound`: one lemma per operation, by the lemmas of the operations it
calls. -/

namespace Sys2Proof.Laws

open Sys2Proof Sys2Proof.Machine Sys2Proof.Safety

set_option linter.all false

variable {v : Fused} {m : Part}
theorem sound_onDram (f : Dram → Dram) {m : Part} (hm : Sound v m) : Sound v (onDram f m) := by
  unfold onDram
  repeat' first
    | (refine Sound.mk ?_ ?_ ?_ ?_ <;> cases_type* Sound <;> first | assumption | (simp_all [Arrays, EventsSound]; done) | (simp_all [Arrays, EventsSound]; omega))

theorem sound_correctLine (channel : ℕ) {m : Part} (hm : Sound v m) : Sound v (correctLine channel m) := by
  unfold correctLine
  repeat' first
    | with_reducible assumption
    | ((try lift_lets -underBinder); intro x; first
        | (refine (fun hx : Sound v x => ?_) ?_; (on_goal 1 => clear_value x); (on_goal 2 => (simp -zeta only [x]; clear x)))
        | subst x)
    | (with_reducible apply sound_onDram)
    | (with_reducible apply sound_raise)
    | split

theorem sound_execDramCorrected (t : ℕ) (_line : ℕ) (channel : ℕ) (s : State) (hs : Sound v s.part) : SoundOut v (execDramCorrected t _line channel s) := by
  unfold execDramCorrected
  repeat' first
    | with_reducible assumption
    | (with_reducible apply soundOut_run)
    | (with_reducible apply sound_onTick)
    | (with_reducible apply sound_correctLine)

theorem sound_zeroPayload (n : ℕ) (first : ℕ) (count : ℕ) {m : Part} (hm : Sound v m) : Sound v (zeroPayload n first count m) := by
  unfold zeroPayload
  repeat' first
    | with_reducible assumption
    | (with_reducible apply sound_onFlow)

theorem sound_loseHeader (n : ℕ) {m : Part} (hm : Sound v m) : Sound v (loseHeader n m) := by
  unfold loseHeader
  repeat' first
    | with_reducible assumption
    | (with_reducible apply sound_onFlow)
    | (with_reducible apply sound_markLost)
    | (with_reducible apply sound_unstage)
    | split

theorem sound_loseStaged (n : ℕ) (l : LinePart) {m : Part} (hm : Sound v m) : Sound v (loseStaged n l m) := by
  unfold loseStaged
  repeat' first
    | with_reducible assumption
    | (with_reducible apply sound_refreshTags)
    | (with_reducible apply sound_loseHeader)
    | (with_reducible apply sound_zeroPayload)
    | split

theorem sound_loseCapture (n : ℕ) (first : ℕ) (count : ℕ) {m : Part} (hm : Sound v m) : Sound v (loseCapture n first count m) := by
  unfold loseCapture
  repeat' first
    | split
    | (refine Sound.mk ?_ ?_ ?_ ?_ <;> cases_type* Sound <;> first | assumption | (simp_all [Arrays, EventsSound]; done) | (simp_all [Arrays, EventsSound]; omega))

theorem sound_reseekSet (n : ℕ) {m : Part} (hm : Sound v m) : Sound v (reseekSet n m) := by
  unfold reseekSet
  repeat' first
    | with_reducible assumption
    | (with_reducible apply sound_moveMember)
    | (with_reducible refine sound_foldl _ _ (fun a y hy => ?_) ?_; (on_goal 1 => beta_reduce))
    | split

theorem sound_loseKiteFrame (n : ℕ) {m : Part} (hm : Sound v m) : Sound v (loseKiteFrame n m) := by
  unfold loseKiteFrame
  repeat' first
    | with_reducible assumption
    | (with_reducible apply sound_onSession)

theorem sound_loseDbEntry (i : ℕ) {m : Part} (hm : Sound v m) : Sound v (loseDbEntry i m) := by
  unfold loseDbEntry
  repeat' first
    | with_reducible assumption
    | ((try lift_lets -underBinder); intro x; first
        | (refine (fun hx : Sound v x => ?_) ?_; (on_goal 1 => clear_value x); (on_goal 2 => (simp -zeta only [x]; clear x)))
        | subst x)
    | (with_reducible apply sound_dbItem)
    | (with_reducible apply sound_onDb)
    | split

theorem sound_loseLine (o : DramOwner) {m : Part} (hm : Sound v m) : Sound v (loseLine o m) := by
  unfold loseLine
  repeat' first
    | (with_reducible apply sound_reseekSet)
    | (with_reducible apply sound_loseDbEntry)
    | (with_reducible apply sound_loseStaged)
    | (with_reducible apply sound_loseCapture)
    | (with_reducible refine sound_elim _ _ ?_ (fun a => ?_); (on_goal 2 => beta_reduce))
    | split
    | (refine Sound.mk ?_ ?_ ?_ ?_ <;> cases_type* Sound <;> first | assumption | (simp_all [Arrays, EventsSound]; done) | (simp_all [Arrays, EventsSound]; omega))

theorem sound_hitPage (page : ℕ) {m : Part} (hm : Sound v m) : Sound v (hitPage page m) := by
  unfold hitPage
  repeat' first
    | with_reducible assumption
    | (with_reducible apply sound_onDram)

theorem sound_execDramUncorrectable (t : ℕ) (line : ℕ) (channel : ℕ) (owner : DramOwner) (s : State) (hs : Sound v s.part) : SoundOut v (execDramUncorrectable t line channel owner s) := by
  unfold execDramUncorrectable
  repeat' first
    | with_reducible assumption
    | (intro y; intro (hy : Sound v _); (try beta_reduce))
    | (with_reducible apply soundOut_run)
    | (with_reducible apply sound_onTick)
    | (with_reducible apply sound_hitPage)
    | (with_reducible apply sound_loseLine)
    | (with_reducible apply sound_raise)

end Sys2Proof.Laws
end

