-- ==== Sys2Proof/Laws/SoundPlans.lean ====
section
/-! SUPPORT. Each operation of Machine/Plans.lean keeps `Safety.Sound`: one lemma per operation, by the lemmas of the operations it
calls. -/

namespace Sys2Proof.Laws

open Sys2Proof Sys2Proof.Machine Sys2Proof.Safety

set_option linter.all false

variable {v : Fused} {m : Part}
theorem sound_performEntry (plan : ℕ) (e : PlanEntry) {m : Part} (hm : Sound v m) : Sound v (performEntry plan e m).1 := by
  unfold performEntry
  repeat' first
    | with_reducible assumption
    | ((try lift_lets -underBinder); intro x; first
        | (refine (fun hx : Sound v x => ?_) ?_; (on_goal 1 => clear_value x); (on_goal 2 => (simp -zeta only [x]; clear x)))
        | subst x)
    | (with_reducible apply sound_beginSwitch)
    | (with_reducible apply sound_applyMode)
    | (with_reducible apply sound_performLeveller)
    | (with_reducible apply sound_performAntpwr)
    | (with_reducible apply sound_performExtGain)
    | (with_reducible apply sound_performOpen)
    | (with_reducible apply sound_performRetune)
    | (with_reducible apply sound_performClose)
    | (with_reducible apply sound_performSelect)
    | (with_reducible apply sound_performDeselect)
    | (with_reducible apply sound_performCoefSwap)
    | (with_reducible apply sound_performReset)
    | (dsimp -zeta only)
    | split
    | (refine sound_of_eq1 (by assumption) ?_)

theorem sound_afterEntry (e : PlanEntry) {m : Part} (hm : Sound v m) : Sound v (afterEntry e m) := by
  unfold afterEntry
  repeat' first
    | with_reducible assumption
    | (with_reducible apply sound_onTile)
    | (with_reducible apply sound_performEntry)
    | split

theorem sound_withFreed (e : PlanEntry) (l : List (ℕ × PlanEntry)) {m : Part} (hm : Sound v m) : Sound v (withFreed e l m) := by
  unfold withFreed
  repeat' first
    | with_reducible assumption
    | (with_reducible apply sound_onCtx)
    | (with_reducible refine sound_foldl _ _ (fun a y hy => ?_) ?_; (on_goal 1 => beta_reduce))
    | split

theorem sound_loadShadow (plan : ℕ) (e : PlanEntry) {m : Part} (hm : Sound v m) : Sound v (loadShadow plan e m) := by
  unfold loadShadow
  repeat' first
    | with_reducible assumption
    | (with_reducible apply sound_onTile)
    | split

theorem sound_performPrepare (plan : ℕ) (entries : List PlanEntry) (x2 : Desc) (x3 : Origin) {m : Part} (hm : Sound v m) : Sound v (performPrepare plan entries x2 x3 m).1 := by
  unfold performPrepare
  repeat' first
    | with_reducible assumption
    | ((try lift_lets -underBinder); intro x; first
        | (refine (fun hx : Sound v x => ?_) ?_; (on_goal 1 => clear_value x); (on_goal 2 => (simp -zeta only [x]; clear x)))
        | subst x)
    | (with_reducible apply sound_loadShadow)
    | (with_reducible refine sound_foldl _ _ (fun a y hy => ?_) ?_; (on_goal 1 => beta_reduce))
    | split
    | (refine Sound.mk ?_ ?_ ?_ ?_ <;> cases_type* Sound <;> first | assumption | (simp_all [Arrays, EventsSound]; done) | (simp_all [Arrays, EventsSound]; omega))

theorem sound_execPlanPrepare (d : Desc) (plan : ℕ) (entries : List PlanEntry) (s : State) (hs : Sound v s.part) : SoundOut v (execPlanPrepare d plan entries s) := by
  unfold execPlanPrepare
  repeat' first
    | with_reducible assumption
    | (with_reducible apply soundOut_run)
    | (with_reducible apply sound_accept)
    | (with_reducible apply sound_performPrepare)

theorem sound_runEntries (plan : ℕ) (x1 : List (ℕ × PlanEntry)) {m : Part} : Sound v m → Sound v (runEntries plan x1 m).2 := by
  fun_induction runEntries plan x1 m <;> intros
  all_goals repeat' first
    | (with_reducible apply sound_performEntry)
    | (with_reducible apply_assumption -exfalso -symm)
    | (refine sound_of_eq1 (by assumption) ?_)
    | (refine sound_of_eq2 (by assumption) ?_)

theorem sound_releasePlan (plan : ℕ) {m : Part} (hm : Sound v m) : Sound v (releasePlan plan m) := by
  unfold releasePlan
  repeat' first
    | (refine Sound.mk ?_ ?_ ?_ ?_ <;> cases_type* Sound <;> first | assumption | (simp_all [Arrays, EventsSound]; done) | (simp_all [Arrays, EventsSound]; omega))

theorem sound_dropPlan (plan : ℕ) {m : Part} (hm : Sound v m) : Sound v (dropPlan plan m) := by
  unfold dropPlan
  repeat' first
    | ((try lift_lets -underBinder); intro x; first
        | (refine (fun hx : Sound v x => ?_) ?_; (on_goal 1 => clear_value x); (on_goal 2 => (simp -zeta only [x]; clear x)))
        | subst x)
    | (refine Sound.mk ?_ ?_ ?_ ?_ <;> cases_type* Sound <;> first | assumption | (simp_all [Arrays, EventsSound]; done) | (simp_all [Arrays, EventsSound]; omega))

theorem sound_holdPlan (plan : ℕ) (tiles : List ℕ) (ctxs : List ℕ) {m : Part} (hm : Sound v m) : Sound v (holdPlan plan tiles ctxs m) := by
  unfold holdPlan
  repeat' first
    | with_reducible assumption
    | (with_reducible apply sound_breakCtx)
    | (with_reducible apply sound_flushUp)
    | (with_reducible apply sound_holdCtx)
    | (with_reducible apply sound_fadeOut)
    | (with_reducible refine sound_foldl _ _ (fun a y hy => ?_) ?_; (on_goal 1 => beta_reduce))
    | split
    | (refine Sound.mk ?_ ?_ ?_ ?_ <;> cases_type* Sound <;> first | assumption | (simp_all [Arrays, EventsSound]; done) | (simp_all [Arrays, EventsSound]; omega))

theorem sound_performCommit (plan : ℕ) (x1 : Desc) (x2 : Origin) {m : Part} (hm : Sound v m) : Sound v (performCommit plan x1 x2 m).1 := by
  unfold performCommit
  repeat' first
    | with_reducible assumption
    | (with_reducible apply sound_runEntries)
    | (with_reducible apply sound_releasePlan)
    | (with_reducible apply sound_dropPlan)
    | (with_reducible apply sound_holdPlan)
    | split

theorem sound_execPlanCommit (d : Desc) (plan : ℕ) (s : State) (hs : Sound v s.part) : SoundOut v (execPlanCommit d plan s) := by
  unfold execPlanCommit
  repeat' first
    | with_reducible assumption
    | (with_reducible apply soundOut_run)
    | (with_reducible apply sound_accept)
    | (with_reducible apply sound_performCommit)

theorem sound_performAbort (plan : ℕ) (x1 : Desc) (x2 : Origin) {m : Part} (hm : Sound v m) : Sound v (performAbort plan x1 x2 m).1 := by
  unfold performAbort
  repeat' first
    | with_reducible assumption
    | (with_reducible apply sound_tidyPins)
    | (with_reducible apply sound_dropPlan)
    | (with_reducible apply sound_withdraw)

theorem sound_execPlanAbort (d : Desc) (plan : ℕ) (s : State) (hs : Sound v s.part) : SoundOut v (execPlanAbort d plan s) := by
  unfold execPlanAbort
  repeat' first
    | with_reducible assumption
    | (with_reducible apply soundOut_run)
    | (with_reducible apply sound_accept)
    | (with_reducible apply sound_performAbort)

theorem sound_execTileSwitchReturn (t : ℕ) (tile : ℕ) (s : State) (hs : Sound v s.part) : SoundOut v (execTileSwitchReturn t tile s) := by
  unfold execTileSwitchReturn
  repeat' first
    | with_reducible assumption
    | (intro y; intro (hy : Sound v _); (try beta_reduce))
    | (with_reducible apply soundOut_runIf)
    | (with_reducible apply sound_onTick)
    | (with_reducible apply sound_returnTile)
    | split

end Sys2Proof.Laws
end

