-- ==== Sys2Proof/Laws/SoundPower.lean ====
section
/-! SUPPORT. Each operation of Machine/Power.lean keeps `Safety.Sound`: one lemma per operation, by the lemmas of the operations it
calls. -/

namespace Sys2Proof.Laws

open Sys2Proof Sys2Proof.Machine Sys2Proof.Safety

set_option linter.all false

variable {v : Fused} {m : Part}
theorem sound_onPower {f : Power → Power} {m : Part} (hf : ∀ p, (f p).sensors.length = p.sensors.length) (h : Sound v m) :
    Sound v (onPower f m) := by
  refine ⟨h.1, ?_, h.3, h.4⟩
  have := h.2
  simp_all [Arrays, onPower]

theorem sound_onBoot (f : Boot → Boot) {m : Part} (hm : Sound v m) : Sound v (onBoot f m) := by
  unfold onBoot
  repeat' first
    | (refine Sound.mk ?_ ?_ ?_ ?_ <;> cases_type* Sound <;> first | assumption | (simp_all [Arrays, EventsSound]; done) | (simp_all [Arrays, EventsSound]; omega))

theorem sound_enterStage (n : ℕ) {m : Part} (hm : Sound v m) : Sound v (enterStage n m) := by
  unfold enterStage
  repeat' first
    | with_reducible assumption
    | (with_reducible apply sound_onBoot)

theorem sound_sampleVin (x0 : ℕ) {m : Part} (hm : Sound v m) : Sound v (sampleVin x0 m) := by
  unfold sampleVin
  repeat' first
    | with_reducible assumption
    | (intro _; with_reducible refine (?_ : @Eq Nat _ _); first | exact rfl | (simp; done))
    | (with_reducible apply sound_onPower)

theorem sound_pmuFault (f : PmuFault) {m : Part} (hm : Sound v m) : Sound v (pmuFault f m) := by
  unfold pmuFault
  repeat' first
    | with_reducible assumption
    | (with_reducible apply sound_raise)

theorem sound_partStatus (mask : ℕ) (tile : ℕ) {m : Part} (hm : Sound v m) : Sound v (partStatus mask tile m) := by
  unfold partStatus
  repeat' first
    | with_reducible assumption
    | (with_reducible apply sound_raise)

theorem sound_freshPart {o : Oasis} {m : Part} (ho : o.log.length ≤ 64) (h : Sound v m) : Sound v (freshPart o m) := by
  refine ⟨h.1, ?_, ?_, ?_⟩
  · simp [Arrays, freshPart]
  · simp [SchedSound, freshPart]
  · exact ⟨by simp [freshPart], ho⟩

theorem sound_systemReset {cause item : Nat} {fault : Option PmuFault} {m : Part} (h : Sound v m) :
    Sound v (systemReset cause item fault m) :=
  sound_freshPart h.4.2 h

theorem sound_railsOff {m : Part} (hm : Sound v m) : Sound v (railsOff m) := by
  unfold railsOff
  repeat' first
    | (refine Sound.mk ?_ ?_ ?_ ?_ <;> cases_type* Sound <;> first | assumption | (simp_all [Arrays, EventsSound]; done) | (simp_all [Arrays, EventsSound]; omega))

theorem sound_railsOn (x0 : ℕ) {m : Part} (hm : Sound v m) : Sound v (railsOn x0 m) := by
  unfold railsOn
  repeat' first
    | (refine Sound.mk ?_ ?_ ?_ ?_ <;> cases_type* Sound <;> first | assumption | (simp_all [Arrays, EventsSound]; done) | (simp_all [Arrays, EventsSound]; omega))

theorem sound_powerOff {m : Part} (hm : Sound v m) : Sound v (powerOff m) := by
  unfold powerOff
  repeat' first
    | (with_reducible refine (?_ : (_ : Nat) ≤ _); first | exact (by assumption : Sound v _).4.2 | omega | (simp; done) | (have := (by assumption : Sound v _).4.2; simp_all; done))
    | ((try lift_lets -underBinder); intro x; first
        | (refine (fun hx : Sound v x => ?_) ?_; (on_goal 1 => clear_value x); (on_goal 2 => (simp -zeta only [x]; clear x)))
        | subst x)
    | (with_reducible apply sound_railsOff)
    | (with_reducible apply sound_freshPart)
    | (refine Sound.mk ?_ ?_ ?_ ?_ <;> cases_type* Sound <;> first | assumption | (simp_all [Arrays, EventsSound]; done) | (simp_all [Arrays, EventsSound]; omega))

theorem sound_execVinStart (t : ℕ) (vin : ℕ) (s : State) (hs : Sound v s.part) : SoundOut v (execVinStart t vin s) := by
  unfold execVinStart
  repeat' first
    | with_reducible assumption
    | (intro y; intro (hy : Sound v _); (try beta_reduce))
    | (with_reducible apply soundOut_run)
    | (with_reducible apply sound_onTick)
    | (with_reducible apply sound_railsOn)
    | split

theorem sound_execVinReset (t : ℕ) (vin : ℕ) (dcPresent : Bool) (s : State) (hs : Sound v s.part) : SoundOut v (execVinReset t vin dcPresent s) := by
  unfold execVinReset
  repeat' first
    | with_reducible assumption
    | (intro y; intro (hy : Sound v _); (try beta_reduce))
    | (with_reducible apply soundOut_run)
    | (with_reducible apply sound_onTick)
    | (with_reducible apply sound_sampleVin)
    | (with_reducible apply sound_railsOff)
    | (with_reducible apply sound_systemReset)
    | (with_reducible apply sound_powerOff)
    | split

theorem sound_execVinOverVoltage (t : ℕ) (vin : ℕ) (s : State) (hs : Sound v s.part) : SoundOut v (execVinOverVoltage t vin s) := by
  unfold execVinOverVoltage
  repeat' first
    | with_reducible assumption
    | (intro _; with_reducible refine (?_ : @Eq Nat _ _); first | exact rfl | (simp; done))
    | (intro y; intro (hy : Sound v _); (try beta_reduce))
    | (with_reducible apply soundOut_run)
    | (with_reducible apply sound_onTick)
    | (with_reducible apply sound_onPower)
    | (with_reducible apply sound_railsOff)
    | (with_reducible apply sound_systemReset)
    | (with_reducible apply sound_sampleVin)
    | split

theorem sound_execVinOverVoltageRelease (t : ℕ) (vin : ℕ) (s : State) (hs : Sound v s.part) : SoundOut v (execVinOverVoltageRelease t vin s) := by
  unfold execVinOverVoltageRelease
  repeat' first
    | with_reducible assumption
    | (intro _; with_reducible refine (?_ : @Eq Nat _ _); first | exact rfl | (simp; done))
    | (intro y; intro (hy : Sound v _); (try beta_reduce))
    | (with_reducible apply soundOut_run)
    | (with_reducible apply sound_onTick)
    | (with_reducible apply sound_railsOn)
    | (with_reducible apply sound_onPower)
    | split

theorem sound_execPowerReset (t : ℕ) (s : State) (hs : Sound v s.part) : SoundOut v (execPowerReset t s) := by
  unfold execPowerReset
  repeat' first
    | with_reducible assumption
    | (with_reducible apply soundOut_run)
    | (with_reducible apply sound_onTick)
    | (with_reducible apply sound_powerOff)

theorem sound_execPorstN (t : ℕ) (s : State) (hs : Sound v s.part) : SoundOut v (execPorstN t s) := by
  unfold execPorstN
  repeat' first
    | with_reducible assumption
    | (intro y; intro (hy : Sound v _); (try beta_reduce))
    | (with_reducible apply soundOut_run)
    | (with_reducible apply sound_onTick)
    | (with_reducible apply sound_systemReset)
    | split

theorem sound_execRailTrip (t : ℕ) (group : ℕ) (value : ℕ) (overCurrent : Bool) (s : State) (hs : Sound v s.part) : SoundOut v (execRailTrip t group value overCurrent s) := by
  unfold execRailTrip
  repeat' first
    | with_reducible assumption
    | (intro _; with_reducible refine (?_ : @Eq Nat _ _); first | exact rfl | (simp; done))
    | (intro y; intro (hy : Sound v _); (try beta_reduce))
    | (with_reducible apply soundOut_runIf)
    | (with_reducible apply sound_onTick)
    | (with_reducible apply sound_pmuFault)
    | (with_reducible apply sound_systemReset)
    | (with_reducible apply sound_onPower)
    | (with_reducible apply sound_onTile)
    | (with_reducible apply sound_leavePlans)
    | (with_reducible apply sound_fenceTile)
    | split

theorem sound_noteFailedBoot {m : Part} (hm : Sound v m) : Sound v (noteFailedBoot m) := by
  unfold noteFailedBoot
  repeat' first
    | split
    | (refine Sound.mk ?_ ?_ ?_ ?_ <;> cases_type* Sound <;> first | assumption | (simp_all [Arrays, EventsSound]; done) | (simp_all [Arrays, EventsSound]; omega))

theorem sound_execWatchdogExpiry (t : ℕ) (cpu : ℕ) (s : State) (hs : Sound v s.part) : SoundOut v (execWatchdogExpiry t cpu s) := by
  unfold execWatchdogExpiry
  repeat' first
    | with_reducible assumption
    | (intro y; intro (hy : Sound v _); (try beta_reduce))
    | (with_reducible apply soundOut_run)
    | (with_reducible apply sound_onTick)
    | (with_reducible apply sound_systemReset)
    | (with_reducible apply sound_noteFailedBoot)

theorem sound_execFwActivateReset (t : ℕ) (s : State) (hs : Sound v s.part) : SoundOut v (execFwActivateReset t s) := by
  unfold execFwActivateReset
  repeat' first
    | with_reducible assumption
    | (intro y; intro (hy : Sound v _); (try beta_reduce))
    | (with_reducible apply soundOut_run)
    | (with_reducible apply sound_onTick)
    | (with_reducible apply sound_systemReset)
    | split

theorem sound_execQuarantineReboot (t : ℕ) (s : State) (hs : Sound v s.part) : SoundOut v (execQuarantineReboot t s) := by
  unfold execQuarantineReboot
  repeat' first
    | (intro y; intro (hy : Sound v _); (try beta_reduce))
    | (with_reducible apply soundOut_run)
    | (with_reducible apply sound_onTick)
    | (with_reducible apply sound_systemReset)
    | split
    | (refine Sound.mk ?_ ?_ ?_ ?_ <;> cases_type* Sound <;> first | assumption | (simp_all [Arrays, EventsSound]; done) | (simp_all [Arrays, EventsSound]; omega))

theorem sound_forgetActions {m : Part} (h : Sound v m) : Sound v (forgetActions m) :=
  ⟨h.1, h.2, by simp [SchedSound, forgetActions], h.4⟩

theorem sound_forgetFlows {m : Part} (h : Sound v m) : Sound v (forgetFlows m) := ⟨h.1, h.2, h.3, h.4⟩

theorem sound_defaultPolicies {m : Part} (h : Sound v m) : Sound v (defaultPolicies m) :=
  ⟨h.1, by have := h.2; simp_all [Arrays, defaultPolicies], h.3, h.4⟩

theorem sound_dropHostState {m : Part} (h : Sound v m) : Sound v (dropHostState m) :=
  sound_tidyPins (sound_dropOrphans (sound_defaultPolicies (sound_kiteOff (sound_foldl _ _ (fun _ _ hm => sound_onPort _ _ (sound_stopPort _ hm))
    (sound_forgetFlows (sound_unbindAll _ (sound_closeCtxs _ _ _ (sound_forgetActions h))))))))

theorem sound_execHostReset {t : Nat} {s : State} (hs : Sound v s.part) : SoundOut v (execHostReset t s) := by
  have hb : ∀ m r, Sound v m → Sound v { m with hif := {}, regs := r } := by
    refine fun m _ h => ⟨h.1, ?_, h.3, ⟨by simp, h.4.2⟩⟩
    have := h.2
    simp_all [Arrays]
  have hh : ∀ m, Sound v m → Sound v { m with hif := {} } := fun m h => hb m m.regs h
  refine soundOut_run (sound_onTick _ _ (fun m hm => ?_) hs)
  split
  · exact hb _ _ (sound_dropHostState (hh _ hm))
  · exact hb _ _ hm

theorem sound_execBraceEntry (t : ℕ) (vin : ℕ) (s : State) (hs : Sound v s.part) : SoundOut v (execBraceEntry t vin s) := by
  unfold execBraceEntry
  repeat' first
    | with_reducible assumption
    | (intro _; with_reducible refine (?_ : @Eq Nat _ _); first | exact rfl | (simp; done))
    | (intro y; intro (hy : Sound v _); (try beta_reduce))
    | (with_reducible apply soundOut_run)
    | (with_reducible apply sound_onTick)
    | (with_reducible apply sound_sampleVin)
    | (with_reducible apply sound_onPower)
    | (with_reducible apply sound_raise)
    | (with_reducible apply sound_abortKite)
    | (with_reducible apply sound_freezeBands)
    | (with_reducible apply sound_pauseRamp)
    | (with_reducible apply sound_abandonRun)
    | (with_reducible apply sound_storeHt)
    | (with_reducible refine sound_foldl _ _ (fun a y hy => ?_) ?_; (on_goal 1 => beta_reduce))
    | split

theorem sound_execBraceExit (t : ℕ) (vin : ℕ) (vinMin : ℕ) (s : State) (hs : Sound v s.part) : SoundOut v (execBraceExit t vin vinMin s) := by
  unfold execBraceExit
  repeat' first
    | with_reducible assumption
    | (intro _; with_reducible refine (?_ : @Eq Nat _ _); first | exact rfl | (simp; done))
    | (intro y; intro (hy : Sound v _); (try beta_reduce))
    | (with_reducible apply soundOut_run)
    | (with_reducible apply sound_onTick)
    | (with_reducible apply sound_sampleVin)
    | (with_reducible apply sound_onPower)
    | (with_reducible apply sound_raise)
    | (with_reducible apply sound_resumeHalf)
    | (with_reducible refine sound_foldl _ _ (fun a y hy => ?_) ?_; (on_goal 1 => beta_reduce))
    | split

theorem sound_execBraceVinLow (t : ℕ) (s : State) (hs : Sound v s.part) : SoundOut v (execBraceVinLow t s) := by
  unfold execBraceVinLow
  repeat' first
    | with_reducible assumption
    | (intro _; with_reducible refine (?_ : @Eq Nat _ _); first | exact rfl | (simp; done))
    | (intro y; intro (hy : Sound v _); (try beta_reduce))
    | (with_reducible apply soundOut_run)
    | (with_reducible apply sound_onTick)
    | (with_reducible apply sound_pmuFault)
    | (with_reducible apply sound_onPower)
    | split

theorem sound_readSensor (sensor : ℕ) (reading : ℤ) {m : Part} (hm : Sound v m) : Sound v (readSensor sensor reading m) := by
  unfold readSensor
  repeat' first
    | with_reducible assumption
    | (intro _; with_reducible refine (?_ : @Eq Nat _ _); first | exact rfl | (simp; done))
    | ((try lift_lets -underBinder); intro x; first
        | (refine (fun hx : Sound v x => ?_) ?_; (on_goal 1 => clear_value x); (on_goal 2 => (simp -zeta only [x]; clear x)))
        | subst x)
    | (with_reducible apply sound_onPower)
    | (with_reducible apply sound_onHalf)
    | (with_reducible apply sound_raise)
    | split

theorem sound_execTempSensorRead (t : ℕ) (sensor : ℕ) (reading : ℤ) (s : State) (hs : Sound v s.part) : SoundOut v (execTempSensorRead t sensor reading s) := by
  unfold execTempSensorRead
  repeat' first
    | with_reducible assumption
    | (intro _; with_reducible refine (?_ : @Eq Nat _ _); first | exact rfl | (simp; done))
    | (intro y; intro (hy : Sound v _); (try beta_reduce))
    | ((try lift_lets -underBinder); intro x; first
        | (refine (fun hx : Sound v x => ?_) ?_; (on_goal 1 => clear_value x); (on_goal 2 => (simp -zeta only [x]; clear x)))
        | subst x)
    | (with_reducible apply soundOut_runIf)
    | (with_reducible apply sound_onTick)
    | (with_reducible apply sound_railsOn)
    | (with_reducible apply sound_onPower)
    | (with_reducible apply sound_readSensor)
    | (with_reducible apply sound_railsOff)
    | (with_reducible apply sound_systemReset)
    | (with_reducible apply sound_judgeKite)
    | (with_reducible apply sound_fenceHalf)
    | (with_reducible apply sound_judgeDue)
    | split

theorem sound_fillMemory (t : ℕ) {m : Part} (hm : Sound v m) : Sound v (fillMemory t m) := by
  unfold fillMemory
  repeat' first
    | (with_reducible apply sound_onTile)
    | (refine Sound.mk ?_ ?_ ?_ ?_ <;> cases_type* Sound <;> first | assumption | (simp_all [Arrays, EventsSound]; done) | (simp_all [Arrays, EventsSound]; omega))

theorem sound_selfTest (b : BootOutcome) {m : Part} (hm : Sound v m) : Sound v (selfTest b m) := by
  unfold selfTest
  repeat' first
    | with_reducible assumption
    | (with_reducible apply sound_fenceHalf)
    | (with_reducible apply sound_fenceTile)
    | (with_reducible refine sound_foldl _ _ (fun a y hy => ?_) ?_; (on_goal 1 => beta_reduce))

theorem sound_placeBringUp (t : ℕ) {m : Part} (hm : Sound v m) : Sound v (placeBringUp t m) := by
  unfold placeBringUp
  repeat' first
    | with_reducible assumption
    | ((try lift_lets -underBinder); intro x; first
        | (refine (fun hx : Sound v x => ?_) ?_; (on_goal 1 => clear_value x); (on_goal 2 => (simp -zeta only [x]; clear x)))
        | subst x)
    | (with_reducible apply sound_onCal)
    | (with_reducible apply sound_placeRun)
    | split

theorem sound_startImage (src : ℕ) (b : BootOutcome) {m : Part} (hm : Sound v m) : Sound v (startImage src b m) := by
  unfold startImage
  repeat' first
    | with_reducible assumption
    | ((try lift_lets -underBinder); intro x; first
        | (refine (fun hx : Sound v x => ?_) ?_; (on_goal 1 => clear_value x); (on_goal 2 => (simp -zeta only [x]; clear x)))
        | subst x)
    | (with_reducible apply sound_refreshHt)
    | (with_reducible apply sound_selfTest)
    | (with_reducible apply sound_placeBringUp)
    | (with_reducible apply sound_fillMemory)
    | (with_reducible refine sound_foldl _ _ (fun a y hy => ?_) ?_; (on_goal 1 => beta_reduce))
    | split
    | (refine Sound.mk ?_ ?_ ?_ ?_ <;> cases_type* Sound <;> first | assumption | (simp_all [Arrays, EventsSound]; done) | (simp_all [Arrays, EventsSound]; omega))

theorem sound_execBootImageSearch (t : ℕ) (b : BootOutcome) (s : State) (hs : Sound v s.part) : SoundOut v (execBootImageSearch t b s) := by
  unfold execBootImageSearch
  repeat' first
    | with_reducible assumption
    | (intro y; intro (hy : Sound v _); (try beta_reduce))
    | (with_reducible apply soundOut_run)
    | (with_reducible apply sound_onTick)
    | (with_reducible apply sound_enterStage)
    | (with_reducible apply sound_startImage)
    | split

theorem sound_execBootWaitTimeout (t : ℕ) (s : State) (hs : Sound v s.part) : SoundOut v (execBootWaitTimeout t s) := by
  unfold execBootWaitTimeout
  repeat' first
    | with_reducible assumption
    | (intro y; intro (hy : Sound v _); (try beta_reduce))
    | (with_reducible apply soundOut_run)
    | (with_reducible apply sound_onTick)
    | (with_reducible apply sound_onBoot)
    | split

theorem sound_execChainBootTimeout (t : ℕ) (s : State) (hs : Sound v s.part) : SoundOut v (execChainBootTimeout t s) := by
  unfold execChainBootTimeout
  repeat' first
    | (intro y; intro (hy : Sound v _); (try beta_reduce))
    | (with_reducible apply soundOut_run)
    | (with_reducible apply sound_onTick)
    | split
    | (refine Sound.mk ?_ ?_ ?_ ?_ <;> cases_type* Sound <;> first | assumption | (simp_all [Arrays, EventsSound]; done) | (simp_all [Arrays, EventsSound]; omega))

theorem sound_execFirstLight (t : ℕ) (s : State) (hs : Sound v s.part) : SoundOut v (execFirstLight t s) := by
  unfold execFirstLight
  repeat' first
    | (intro y; intro (hy : Sound v _); (try beta_reduce))
    | ((try lift_lets -underBinder); intro x; first
        | (refine (fun hx : Sound v x => ?_) ?_; (on_goal 1 => clear_value x); (on_goal 2 => (simp -zeta only [x]; clear x)))
        | subst x)
    | (with_reducible apply soundOut_run)
    | (with_reducible apply sound_onTick)
    | (with_reducible apply sound_pmuFault)
    | (with_reducible apply sound_partStatus)
    | (with_reducible refine sound_elim _ _ ?_ (fun a => ?_); (on_goal 2 => beta_reduce))
    | split
    | (refine Sound.mk ?_ ?_ ?_ ?_ <;> cases_type* Sound <;> first | assumption | (simp_all [Arrays, EventsSound]; done) | (simp_all [Arrays, EventsSound]; omega))

theorem sound_execPartFull (t : ℕ) (s : State) (hs : Sound v s.part) : SoundOut v (execPartFull t s) := by
  unfold execPartFull
  repeat' first
    | (intro y; intro (hy : Sound v _); (try beta_reduce))
    | (with_reducible apply soundOut_run)
    | (with_reducible apply sound_onTick)
    | (with_reducible apply sound_partStatus)
    | split
    | (refine Sound.mk ?_ ?_ ?_ ?_ <;> cases_type* Sound <;> first | assumption | (simp_all [Arrays, EventsSound]; done) | (simp_all [Arrays, EventsSound]; omega))

theorem sound_performStage (i : ImageOffer) (x1 : Desc) (x2 : Origin) {m : Part} (hm : Sound v m) : Sound v (performStage i x1 x2 m).1 := by
  unfold performStage
  repeat' first
    | ((try lift_lets -underBinder); intro x; first
        | (refine (fun hx : Sound v x => ?_) ?_; (on_goal 1 => clear_value x); (on_goal 2 => (simp -zeta only [x]; clear x)))
        | subst x)
    | split
    | (refine Sound.mk ?_ ?_ ?_ ?_ <;> cases_type* Sound <;> first | assumption | (simp_all [Arrays, EventsSound]; done) | (simp_all [Arrays, EventsSound]; omega))

theorem sound_execFwLoadStage (d : Desc) (length : ℕ) (image : ImageOffer) (s : State) (hs : Sound v s.part) : SoundOut v (execFwLoadStage d length image s) := by
  unfold execFwLoadStage
  repeat' first
    | with_reducible assumption
    | (with_reducible apply soundOut_run)
    | (with_reducible apply sound_accept)
    | (with_reducible apply sound_performStage)

theorem sound_execFwLoadStageDone (t : ℕ) (verified : Bool) (s : State) (hs : Sound v s.part) : SoundOut v (execFwLoadStageDone t verified s) := by
  unfold execFwLoadStageDone
  repeat' first
    | (intro y; intro (hy : Sound v _); (try beta_reduce))
    | (with_reducible apply soundOut_run)
    | (with_reducible apply sound_onTick)
    | (with_reducible apply sound_finish)
    | split
    | (refine Sound.mk ?_ ?_ ?_ ?_ <;> cases_type* Sound <;> first | assumption | (simp_all [Arrays, EventsSound]; done) | (simp_all [Arrays, EventsSound]; omega))

theorem sound_performActivate (x0 : Desc) (x1 : Origin) {m : Part} (hm : Sound v m) : Sound v (performActivate x0 x1 m).1 := by
  unfold performActivate
  repeat' first
    | (refine Sound.mk ?_ ?_ ?_ ?_ <;> cases_type* Sound <;> first | assumption | (simp_all [Arrays, EventsSound]; done) | (simp_all [Arrays, EventsSound]; omega))

theorem sound_execFwLoadActivate (d : Desc) (s : State) (hs : Sound v s.part) : SoundOut v (execFwLoadActivate d s) := by
  unfold execFwLoadActivate
  repeat' first
    | with_reducible assumption
    | (with_reducible apply soundOut_run)
    | (with_reducible apply sound_accept)
    | (with_reducible apply sound_performActivate)

theorem sound_restoreHalf (h : ℕ) (residual : ℤ) {m : Part} (hm : Sound v m) : Sound v (restoreHalf h residual m) := by
  unfold restoreHalf
  repeat' first
    | (with_reducible apply sound_onHalf)
    | (with_reducible apply sound_raise)
    | (refine Sound.mk ?_ ?_ ?_ ?_ <;> cases_type* Sound <;> first | assumption | (simp_all [Arrays, EventsSound]; done) | (simp_all [Arrays, EventsSound]; omega))

theorem sound_failHalf (h : ℕ) {m : Part} (hm : Sound v m) : Sound v (failHalf h m) := by
  unfold failHalf
  repeat' first
    | with_reducible assumption
    | (with_reducible apply sound_fenceHalf)
    | (with_reducible apply sound_onHalf)

theorem sound_execTileResetDone (t : ℕ) (tile : ℕ) (r : TileResetResult) (s : State) (hs : Sound v s.part) : SoundOut v (execTileResetDone t tile r s) := by
  unfold execTileResetDone
  repeat' first
    | with_reducible assumption
    | (intro y; intro (hy : Sound v _); (try beta_reduce))
    | (with_reducible apply soundOut_runIf)
    | (with_reducible apply sound_onTick)
    | (with_reducible apply sound_fillMemory)
    | (with_reducible apply sound_onTile)
    | (with_reducible apply sound_restoreHalf)
    | (with_reducible apply sound_failHalf)
    | (with_reducible apply sound_partStatus)
    | split

end Sys2Proof.Laws
end

