-- ==== Sys2Proof/Laws/SoundRegisters.lean ====
section
/-! SUPPORT. Each operation of Machine/Registers.lean keeps `Safety.Sound`: one lemma per operation, by the lemmas of the operations it
calls. -/

namespace Sys2Proof.Laws

open Sys2Proof Sys2Proof.Machine Sys2Proof.Safety

set_option linter.all false

variable {v : Fused} {m : Part}
theorem sound_onRegs (f : Regs → Regs) {m : Part} (hm : Sound v m) : Sound v (onRegs f m) := by
  unfold onRegs
  repeat' first
    | (refine Sound.mk ?_ ?_ ?_ ?_ <;> cases_type* Sound <;> first | assumption | (simp_all [Arrays, EventsSound]; done) | (simp_all [Arrays, EventsSound]; omega))

theorem sound_refuseWrite (off : ℕ) {m : Part} (hm : Sound v m) : Sound v (refuseWrite off m) := by
  unfold refuseWrite
  repeat' first
    | with_reducible assumption
    | (with_reducible apply sound_onRegs)

theorem sound_inRange (ok : Bool) (off : ℕ) (f : Part → Part) {m : Part} (hf : ∀ m, Sound v m → Sound v (f m)) (hm : Sound v m) : Sound v (inRange ok off f m) := by
  unfold inRange
  repeat' first
    | (with_reducible apply sound_refuseWrite)
    | (with_reducible apply_assumption -exfalso -symm)
    | split

theorem sound_unlessLocked (f : Part → Part) {m : Part} (hf : ∀ m, Sound v m → Sound v (f m)) (hm : Sound v m) : Sound v (unlessLocked f m) := by
  unfold unlessLocked
  repeat' first
    | (with_reducible apply_assumption -exfalso -symm)
    | split

theorem sound_whileDisabled (f : Part → Part) {m : Part} (hf : ∀ m, Sound v m → Sound v (f m)) (hm : Sound v m) : Sound v (whileDisabled f m) := by
  unfold whileDisabled
  repeat' first
    | (with_reducible apply_assumption -exfalso -symm)
    | split

theorem sound_writeCtrl (x0 : ℕ) {m : Part} (hm : Sound v m) : Sound v (writeCtrl x0 m) := by
  unfold writeCtrl
  repeat' first
    | (with_reducible apply sound_enableHif)
    | (with_reducible apply sound_disableHif)
    | split
    | (refine Sound.mk ?_ ?_ ?_ ?_ <;> cases_type* Sound <;> first | assumption | (simp_all [Arrays, EventsSound]; done) | (simp_all [Arrays, EventsSound]; omega))

theorem sound_writeWarn (off : ℕ) (x1 : ℕ) {m : Part} (hm : Sound v m) : Sound v (writeWarn off x1 m) := by
  unfold writeWarn
  repeat' first
    | with_reducible assumption
    | (intro _; with_reducible refine (?_ : @Eq Nat _ _); first | exact rfl | (simp; done))
    | (intro y; intro (hy : Sound v _); (try beta_reduce))
    | (with_reducible apply sound_unlessLocked)
    | (with_reducible apply sound_inRange)
    | (with_reducible apply sound_onPower)

theorem sound_writeDisagree (off : ℕ) (x1 : ℕ) {m : Part} (hm : Sound v m) : Sound v (writeDisagree off x1 m) := by
  unfold writeDisagree
  repeat' first
    | with_reducible assumption
    | (intro y; intro (hy : Sound v _); (try beta_reduce))
    | ((try lift_lets -underBinder); intro x; first
        | (refine (fun hx : Sound v x => ?_) ?_; (on_goal 1 => clear_value x); (on_goal 2 => (simp -zeta only [x]; clear x)))
        | subst x)
    | (with_reducible apply sound_inRange)
    | (with_reducible apply sound_onRegs)
    | (with_reducible apply sound_onChain)
    | split

theorem sound_keyCommand (op : ℕ) (slot : ℕ) {m : Part} (hm : Sound v m) : Sound v (keyCommand op slot m) := by
  unfold keyCommand
  repeat' first
    | (refine Sound.mk ?_ ?_ ?_ ?_ <;> cases_type* Sound <;> first | assumption | (simp_all [Arrays, EventsSound]; done) | (simp_all [Arrays, EventsSound]; omega))

theorem sound_offerImage (i : ImageOffer) {m : Part} (hm : Sound v m) : Sound v (offerImage i m) := by
  unfold offerImage
  repeat' first
    | split
    | (refine Sound.mk ?_ ?_ ?_ ?_ <;> cases_type* Sound <;> first | assumption | (simp_all [Arrays, EventsSound]; done) | (simp_all [Arrays, EventsSound]; omega))

theorem sound_startTest (target : ℕ) {m : Part} (hm : Sound v m) : Sound v (startTest target m) := by
  unfold startTest
  repeat' first
    | split
    | (refine Sound.mk ?_ ?_ ?_ ?_ <;> cases_type* Sound <;> first | assumption | (simp_all [Arrays, EventsSound]; done) | (simp_all [Arrays, EventsSound]; omega))

theorem sound_requestTileReset (t : ℕ) {m : Part} (hm : Sound v m) : Sound v (requestTileReset t m) := by
  unfold requestTileReset
  repeat' first
    | (with_reducible apply sound_leavePlans)
    | (with_reducible apply sound_onTile)
    | split
    | (refine Sound.mk ?_ ?_ ?_ ?_ <;> cases_type* Sound <;> first | assumption | (simp_all [Arrays, EventsSound]; done) | (simp_all [Arrays, EventsSound]; omega))

theorem sound_writeGen (off : ℕ) (x1 : ℕ) {m : Part} (hm : Sound v m) : Sound v (writeGen off x1 m) := by
  unfold writeGen
  repeat' first
    | with_reducible assumption
    | (with_reducible apply sound_onRegs)
    | (with_reducible apply sound_refuseWrite)
    | split

theorem sound_changePair {n : Nat} {f : Hif → Hif} {m : Part} (h1 : (f m.hif).cmdq.length = m.hif.cmdq.length)
    (h2 : (f m.hif).cplq.length = m.hif.cplq.length) (h3 : (f m.hif).evq.held = m.hif.evq.held) (h : Sound v m) :
    Sound v (changePair n f m) := by
  refine ⟨h.1, ?_, h.3, ?_⟩
  · have := h.2
    simp_all [Arrays, changePair]
  · have := h.4
    simp_all [EventsSound, changePair]

theorem sound_writePair (n : ℕ) (off : ℕ) (r : ℕ) (x3 : ℕ) {m : Part} (hm : Sound v m) : Sound v (writePair n off r x3 m) := by
  unfold writePair
  repeat' first
    | (with_reducible refine (?_ : @Eq Nat _ _); first | (dsimp only; done) | (simp; done))
    | (intro y; intro (hy : Sound v _); (try beta_reduce))
    | (with_reducible apply sound_changePair)
    | (with_reducible apply sound_whileDisabled)
    | (with_reducible apply sound_inRange)
    | (with_reducible apply sound_refuseWrite)
    | (with_reducible apply_assumption -exfalso -symm)
    | split

theorem sound_writeHif {off w : Nat} {m : Part} (h : Sound v m) : Sound v (writeHif off w m) := by
  have hif : ∀ (f : Hif → Hif), (∀ x, (f x).cmdq = x.cmdq ∧ (f x).cplq = x.cplq ∧ (f x).evq.held = x.evq.held) →
      ∀ m, Sound v m → Sound v { m with hif := f m.hif } := by
    intro f hf m h
    obtain ⟨a, b, c⟩ := hf m.hif
    exact ⟨h.1, by have := h.2; simp_all [Arrays], h.3, by have := h.4; simp_all [EventsSound]⟩
  unfold writeHif
  lift_lets
  intro g
  have hg : ∀ (f : Hif → Hif), (∀ x, (f x).cmdq = x.cmdq ∧ (f x).cplq = x.cplq ∧ (f x).evq.held = x.evq.held) →
      ∀ m, Sound v m → Sound v (g f m) := hif
  clear_value g
  repeat' first
    | with_reducible exact h
    | with_reducible exact sound_writeCtrl _ h
    | with_reducible exact sound_nudge h
    | with_reducible exact sound_writePair _ _ _ _ h
    | with_reducible exact sound_refuseWrite _ h
    | with_reducible exact hg _ (fun x => ⟨rfl, rfl, rfl⟩)
    | (with_reducible refine sound_whileDisabled _ ?_ h)
    | (intro m hm; with_reducible refine sound_inRange _ _ _ ?_ hm)
    | refine sound_ite ?_ ?_

theorem sound_writePmu (off : ℕ) (x1 : ℕ) {m : Part} (hm : Sound v m) : Sound v (writePmu off x1 m) := by
  unfold writePmu
  repeat' first
    | with_reducible assumption
    | (with_reducible apply sound_writeWarn)
    | (with_reducible apply sound_refuseWrite)
    | split

theorem sound_writeClk (off : ℕ) (x1 : ℕ) {m : Part} (hm : Sound v m) : Sound v (writeClk off x1 m) := by
  unfold writeClk
  repeat' first
    | (intro y; intro (hy : Sound v _); (try beta_reduce))
    | (with_reducible apply sound_unlessLocked)
    | (with_reducible apply sound_inRange)
    | split
    | (refine Sound.mk ?_ ?_ ?_ ?_ <;> cases_type* Sound <;> first | assumption | (simp_all [Arrays, EventsSound]; done) | (simp_all [Arrays, EventsSound]; omega))

theorem sound_writeTet (off : ℕ) (x1 : ℕ) {m : Part} (hm : Sound v m) : Sound v (writeTet off x1 m) := by
  unfold writeTet
  repeat' first
    | with_reducible assumption
    | (with_reducible apply sound_unlessLocked)
    | (with_reducible apply sound_onRegs)
    | (with_reducible apply sound_writeDisagree)
    | (with_reducible apply sound_refuseWrite)
    | split

theorem sound_writeOas (off : ℕ) {m : Part} (hm : Sound v m) : Sound v (writeOas off m) := by
  unfold writeOas
  repeat' first
    | with_reducible assumption
    | (with_reducible apply sound_refuseWrite)
    | split

theorem sound_writeSec (off : ℕ) (x1 : ℕ) {m : Part} (hm : Sound v m) : Sound v (writeSec off x1 m) := by
  unfold writeSec
  repeat' first
    | (intro y; intro (hy : Sound v _); (try beta_reduce))
    | (with_reducible apply sound_inRange)
    | split
    | (refine Sound.mk ?_ ?_ ?_ ?_ <;> cases_type* Sound <;> first | assumption | (simp_all [Arrays, EventsSound]; done) | (simp_all [Arrays, EventsSound]; omega))

theorem sound_writeDbg (off : ℕ) (x1 : ℕ) {m : Part} (hm : Sound v m) : Sound v (writeDbg off x1 m) := by
  unfold writeDbg
  repeat' first
    | (intro y; intro (hy : Sound v _); (try beta_reduce))
    | (with_reducible apply sound_inRange)
    | (with_reducible apply sound_startTest)
    | (with_reducible apply sound_requestTileReset)
    | split
    | (refine Sound.mk ?_ ?_ ?_ ?_ <;> cases_type* Sound <;> first | assumption | (simp_all [Arrays, EventsSound]; done) | (simp_all [Arrays, EventsSound]; omega))

theorem sound_writeMsix (off : ℕ) (x1 : ℕ) {m : Part} (hm : Sound v m) : Sound v (writeMsix off x1 m) := by
  unfold writeMsix
  repeat' first
    | with_reducible assumption
    | (with_reducible apply sound_setVector)
    | (with_reducible apply sound_setMask)
    | split

theorem sound_write32 (off : ℕ) (x1 : ℕ) {m : Part} (hm : Sound v m) : Sound v (write32 off x1 m) := by
  unfold write32
  repeat' first
    | with_reducible assumption
    | (with_reducible apply sound_writeGen)
    | (with_reducible apply sound_writeHif)
    | (with_reducible apply sound_writePmu)
    | (with_reducible apply sound_writeClk)
    | (with_reducible apply sound_writeTet)
    | (with_reducible apply sound_writeOas)
    | (with_reducible apply sound_writeSec)
    | (with_reducible apply sound_writeDbg)
    | (with_reducible apply sound_writeMsix)
    | (with_reducible apply sound_refuseWrite)
    | split

theorem sound_writeRegister (off : ℕ) (width : ℕ) (x2 : ℕ) {m : Part} (hm : Sound v m) : Sound v (writeRegister off width x2 m) := by
  unfold writeRegister
  repeat' first
    | with_reducible assumption
    | (with_reducible apply sound_write32)
    | (with_reducible apply sound_refuseWrite)
    | split

theorem sound_registerRow (f : Part → Part) {m : Part} (hf : ∀ m, Sound v m → Sound v (f m)) (hm : Sound v m) : Sound v (registerRow f m) := by
  unfold registerRow
  repeat' first
    | (with_reducible apply_assumption -exfalso -symm)
    | split

theorem sound_execRegisterWrite (t : ℕ) (offset : ℕ) (width : ℕ) (value : ℕ) (s : State) (hs : Sound v s.part) : SoundOut v (execRegisterWrite t offset width value s) := by
  unfold execRegisterWrite
  repeat' first
    | with_reducible assumption
    | (intro y; intro (hy : Sound v _); (try beta_reduce))
    | (with_reducible apply soundOut_run)
    | (with_reducible apply sound_onTick)
    | (with_reducible apply sound_registerRow)
    | (with_reducible apply sound_writeRegister)

theorem sound_execPmuVinWarn (t : ℕ) (value : ℕ) (s : State) (hs : Sound v s.part) : SoundOut v (execPmuVinWarn t value s) := by
  unfold execPmuVinWarn
  repeat' first
    | with_reducible assumption
    | (intro y; intro (hy : Sound v _); (try beta_reduce))
    | (with_reducible apply soundOut_run)
    | (with_reducible apply sound_onTick)
    | (with_reducible apply sound_registerRow)
    | (with_reducible apply sound_writeWarn)

theorem sound_execTetTimeDisagree (t : ℕ) (value : ℕ) (s : State) (hs : Sound v s.part) : SoundOut v (execTetTimeDisagree t value s) := by
  unfold execTetTimeDisagree
  repeat' first
    | with_reducible assumption
    | (intro y; intro (hy : Sound v _); (try beta_reduce))
    | (with_reducible apply soundOut_run)
    | (with_reducible apply sound_onTick)
    | (with_reducible apply sound_registerRow)
    | (with_reducible apply sound_writeDisagree)

theorem sound_execSecKeyWrite (t : ℕ) (slot : ℕ) (s : State) (hs : Sound v s.part) : SoundOut v (execSecKeyWrite t slot s) := by
  unfold execSecKeyWrite
  repeat' first
    | with_reducible assumption
    | (intro y; intro (hy : Sound v _); (try beta_reduce))
    | (with_reducible apply soundOut_run)
    | (with_reducible apply sound_onTick)
    | (with_reducible apply sound_registerRow)
    | (with_reducible apply sound_keyCommand)

theorem sound_execSecKeyErase (t : ℕ) (slot : ℕ) (s : State) (hs : Sound v s.part) : SoundOut v (execSecKeyErase t slot s) := by
  unfold execSecKeyErase
  repeat' first
    | with_reducible assumption
    | (intro y; intro (hy : Sound v _); (try beta_reduce))
    | (with_reducible apply soundOut_run)
    | (with_reducible apply sound_onTick)
    | (with_reducible apply sound_registerRow)
    | (with_reducible apply sound_keyCommand)

theorem sound_execSecHbootGo (t : ℕ) (image : ImageOffer) (s : State) (hs : Sound v s.part) : SoundOut v (execSecHbootGo t image s) := by
  unfold execSecHbootGo
  repeat' first
    | with_reducible assumption
    | (intro y; intro (hy : Sound v _); (try beta_reduce))
    | (with_reducible apply soundOut_run)
    | (with_reducible apply sound_onTick)
    | (with_reducible apply sound_registerRow)
    | (with_reducible apply sound_offerImage)

theorem sound_execDbgLockTest (t : ℕ) (target : ℕ) (s : State) (hs : Sound v s.part) : SoundOut v (execDbgLockTest t target s) := by
  unfold execDbgLockTest
  repeat' first
    | with_reducible assumption
    | (intro y; intro (hy : Sound v _); (try beta_reduce))
    | (with_reducible apply soundOut_run)
    | (with_reducible apply sound_onTick)
    | (with_reducible apply sound_registerRow)
    | (with_reducible apply sound_writeDbg)

theorem sound_execDbgLockTestDone (t : ℕ) (longest : ℕ) (s : State) (hs : Sound v s.part) : SoundOut v (execDbgLockTestDone t longest s) := by
  unfold execDbgLockTestDone
  repeat' first
    | (intro y; intro (hy : Sound v _); (try beta_reduce))
    | (with_reducible apply soundOut_run)
    | (with_reducible apply sound_onTick)
    | split
    | (refine Sound.mk ?_ ?_ ?_ ?_ <;> cases_type* Sound <;> first | assumption | (simp_all [Arrays, EventsSound]; done) | (simp_all [Arrays, EventsSound]; omega))

theorem sound_execDbgTileReset (t : ℕ) (tile : ℕ) (s : State) (hs : Sound v s.part) : SoundOut v (execDbgTileReset t tile s) := by
  unfold execDbgTileReset
  repeat' first
    | with_reducible assumption
    | (intro y; intro (hy : Sound v _); (try beta_reduce))
    | (with_reducible apply soundOut_run)
    | (with_reducible apply sound_onTick)
    | (with_reducible apply sound_registerRow)
    | (with_reducible apply sound_requestTileReset)

end Sys2Proof.Laws
end

