-- ==== Sys2Proof/Laws/SoundExecute.lean ====
section
/-! SUPPORT. Each operation of Machine/Execute.lean keeps `Safety.Sound`: one lemma per operation, by the lemmas of the operations it
calls. -/

namespace Sys2Proof.Laws

open Sys2Proof Sys2Proof.Machine Sys2Proof.Safety

set_option linter.all false

variable {v : Fused} {m : Part}
theorem sound_performCmd (order : Option ℕ) (c : HostCmd) (x2 : Desc) (x3 : Origin) {m : Part} (hm : Sound v m) : Sound v (performCmd order c x2 x3 m).1 := by
  unfold performCmd
  repeat' first
    | with_reducible assumption
    | (with_reducible apply sound_performNop)
    | (with_reducible apply sound_performIdentify)
    | (with_reducible apply sound_performMode)
    | (with_reducible apply sound_performLeveller)
    | (with_reducible apply sound_performAntpwr)
    | (with_reducible apply sound_performExtGain)
    | (with_reducible apply sound_performGpio)
    | (with_reducible apply sound_performI2c)
    | (with_reducible apply sound_performPrepare)
    | (with_reducible apply sound_performCommit)
    | (with_reducible apply sound_performAbort)
    | (with_reducible apply sound_performOpen)
    | (with_reducible apply sound_performRetune)
    | (with_reducible apply sound_performClose)
    | (with_reducible apply sound_performQuery)
    | (with_reducible apply sound_performCoefLoad)
    | (with_reducible apply sound_performCoefSwap)
    | (with_reducible apply sound_performGroup)
    | (with_reducible apply sound_performReset)
    | (with_reducible apply sound_performArm)
    | (with_reducible apply sound_performDisarm)
    | (with_reducible apply sound_performSelect)
    | (with_reducible apply sound_performDeselect)
    | (with_reducible apply sound_performLinkCreate)
    | (with_reducible apply sound_performLinkAdd)
    | (with_reducible apply sound_performLinkRemove)
    | (with_reducible apply sound_performLinkDelete)
    | (with_reducible apply sound_performLinkQuery)
    | (with_reducible apply sound_performFollowSet)
    | (with_reducible apply sound_performFollowClear)
    | (with_reducible apply sound_performDbConfig)
    | (with_reducible apply sound_performDbDump)
    | (with_reducible apply sound_performScan)
    | (with_reducible apply sound_performFlowCreate)
    | (with_reducible apply sound_performFlowBind)
    | (with_reducible apply sound_performFlowShape)
    | (with_reducible apply sound_performFlowDelete)
    | (with_reducible apply sound_performTimeshift)
    | (with_reducible apply sound_performCaptureStart)
    | (with_reducible apply sound_performCaptureStop)
    | (with_reducible apply sound_performKiteConfig)
    | (with_reducible apply sound_performSessionOpen)
    | (with_reducible apply sound_performSessionClose)
    | (with_reducible apply sound_performSessionUpdate)
    | (with_reducible apply sound_performSessionFlush)
    | (with_reducible apply sound_performKiteSend)
    | (with_reducible apply sound_performKiteBudget)
    | (with_reducible apply sound_performPortConfig)
    | (with_reducible apply sound_performPortStart)
    | (with_reducible apply sound_performPortStop)
    | (with_reducible apply sound_performCalPolicy)
    | (with_reducible apply sound_performCalRun)
    | (with_reducible apply sound_performClock)
    | (with_reducible apply sound_performEnumerate)
    | (with_reducible apply sound_performRollcall)
    | (with_reducible apply sound_performChainSend)
    | (with_reducible apply sound_performRouteSources)
    | (with_reducible apply sound_performRouteVector)
    | (with_reducible apply sound_performStage)
    | (with_reducible apply sound_performActivate)
    | split

theorem sound_performAtOnce (c : HostCmd) (x1 : Desc) (x2 : Origin) {m : Part} (hm : Sound v m) : Sound v (performAtOnce c x1 x2 m).1 := by
  unfold performAtOnce
  repeat' first
    | with_reducible assumption
    | (with_reducible apply sound_levellerNow)
    | (with_reducible apply sound_performCmd)
    | split

theorem sound_runAction (late : Bool) (a : Action) {m : Part} (hm : Sound v m) : Sound v (runAction late a m) := by
  unfold runAction
  repeat' first
    | with_reducible assumption
    | (with_reducible apply sound_performNow)
    | (with_reducible apply sound_performCmd)
    | (with_reducible apply sound_settleTx)
    | (with_reducible apply sound_keepQueue)

theorem sound_runDue (late : Bool) (p : Action → Part → Bool) (x2 : ℕ) {m : Part} : Sound v m → Sound v (runDue late p x2 m) := by
  fun_induction runDue late p x2 m <;> intros
  all_goals repeat' first
    | (with_reducible apply sound_runAction)
    | (with_reducible apply_assumption -exfalso -symm)

theorem sound_internalActions (cls : ℕ) {m : Part} (hm : Sound v m) : Sound v (internalActions cls m) := by
  unfold internalActions
  repeat' first
    | with_reducible assumption
    | (with_reducible apply sound_followActions)
    | (with_reducible apply sound_syncinResets)
    | split

theorem sound_runClass {m : Part} (cls : ℕ) (hm : Sound v m) : Sound v (runClass m cls) := by
  unfold runClass
  repeat' first
    | with_reducible assumption
    | (with_reducible apply sound_internalActions)
    | (with_reducible apply sound_runDue)

theorem sound_runThrough (cls : ℕ) {m : Part} (hm : Sound v m) : Sound v (runThrough cls m) := by
  unfold runThrough
  repeat' first
    | with_reducible assumption
    | (with_reducible apply sound_tidyPins)
    | (with_reducible apply sound_runClass)
    | (with_reducible refine sound_foldl _ _ (fun a y hy => ?_) ?_; (on_goal 1 => beta_reduce))

theorem sound_execScheduledActionExecute (t : ℕ) (s : State) (hs : Sound v s.part) : SoundOut v (execScheduledActionExecute t s) := by
  unfold execScheduledActionExecute
  repeat' first
    | with_reducible assumption
    | (intro y; intro (hy : Sound v _); (try beta_reduce))
    | (with_reducible apply soundOut_run)
    | (with_reducible apply sound_onTick)
    | (with_reducible apply sound_landSteps)
    | (with_reducible apply sound_runThrough)

theorem sound_execSyncinReset (t : ℕ) (s : State) (hs : Sound v s.part) : SoundOut v (execSyncinReset t s) := by
  unfold execSyncinReset
  repeat' first
    | with_reducible assumption
    | (with_reducible apply soundOut_run)
    | (with_reducible apply sound_onTick)
    | (with_reducible apply sound_runThrough)

theorem sound_execFollowActionExecute (t : ℕ) (s : State) (hs : Sound v s.part) : SoundOut v (execFollowActionExecute t s) := by
  unfold execFollowActionExecute
  repeat' first
    | with_reducible assumption
    | (with_reducible apply soundOut_run)
    | (with_reducible apply sound_onTick)
    | (with_reducible apply sound_runThrough)

theorem sound_execLevellerStepLanding (t : ℕ) (half : ℕ) (band : ℕ) (s : State) (hs : Sound v s.part) : SoundOut v (execLevellerStepLanding t half band s) := by
  unfold execLevellerStepLanding
  repeat' first
    | with_reducible assumption
    | (intro y; intro (hy : Sound v _); (try beta_reduce))
    | (with_reducible apply soundOut_runIf)
    | (with_reducible apply sound_onTick)
    | (with_reducible apply sound_landSteps)
    | (with_reducible apply sound_runThrough)

theorem sound_execCalRunStart (t : ℕ) (half : ℕ) (s : State) (hs : Sound v s.part) : SoundOut v (execCalRunStart t half s) := by
  unfold execCalRunStart
  repeat' first
    | with_reducible assumption
    | (intro y; intro (hy : Sound v _); (try beta_reduce))
    | (with_reducible apply soundOut_runIf)
    | (with_reducible apply sound_onTick)
    | (with_reducible apply sound_startPlaced)
    | (with_reducible apply sound_runThrough)

theorem sound_execKiteCalRun (t : ℕ) (s : State) (hs : Sound v s.part) : SoundOut v (execKiteCalRun t s) := by
  unfold execKiteCalRun
  repeat' first
    | with_reducible assumption
    | (intro y; intro (hy : Sound v _); (try beta_reduce))
    | (with_reducible apply soundOut_run)
    | (with_reducible apply sound_onTick)
    | (with_reducible apply sound_runKite)
    | (with_reducible apply sound_settleTx)
    | (with_reducible apply sound_runThrough)

theorem sound_execKiteWindowBoundary (t : ℕ) (s : State) (hs : Sound v s.part) : SoundOut v (execKiteWindowBoundary t s) := by
  unfold execKiteWindowBoundary
  repeat' first
    | with_reducible assumption
    | (intro y; intro (hy : Sound v _); (try beta_reduce))
    | (with_reducible apply soundOut_run)
    | (with_reducible apply sound_onTick)
    | (with_reducible apply sound_crossWindow)
    | (with_reducible apply sound_settleTx)
    | (with_reducible apply sound_runThrough)

theorem sound_execKiteDecision (t : ℕ) (s : State) (hs : Sound v s.part) : SoundOut v (execKiteDecision t s) := by
  unfold execKiteDecision
  repeat' first
    | with_reducible assumption
    | (intro y; intro (hy : Sound v _); (try beta_reduce))
    | (with_reducible apply soundOut_run)
    | (with_reducible apply sound_onTick)
    | (with_reducible apply sound_decideSlot)
    | (with_reducible apply sound_settleTx)
    | (with_reducible apply sound_runThrough)

theorem sound_afterStep {m : Part} (hm : Sound v m) : Sound v (afterStep m) := by
  unfold afterStep
  repeat' first
    | with_reducible assumption
    | (with_reducible apply sound_runDue)
    | (with_reducible apply sound_forgetRuns)
    | (with_reducible apply sound_kiteStep)
    | (with_reducible apply sound_refixRuns)

theorem sound_noticeStep {m : Part} {m1 : Part} (hm : Sound v m) (hm1 : Sound v m1) : Sound v (noticeStep m m1) := by
  unfold noticeStep
  repeat' first
    | with_reducible assumption
    | (with_reducible apply sound_send)
    | split

theorem sound_stepNow (st : Step) {m : Part} (hm : Sound v m) : Sound v (stepNow st m) := by
  unfold stepNow
  repeat' first
    | with_reducible assumption
    | (with_reducible apply sound_afterStep)
    | (with_reducible apply sound_noticeStep)
    | (with_reducible apply sound_applyStep)
    | (with_reducible apply sound_settleTx)

theorem sound_execHtStep (t : ℕ) (s : State) (hs : Sound v s.part) : SoundOut v (execHtStep t s) := by
  unfold execHtStep
  repeat' first
    | with_reducible assumption
    | (intro y; intro (hy : Sound v _); (try beta_reduce))
    | (with_reducible apply soundOut_run)
    | (with_reducible apply sound_onTick)
    | (with_reducible apply sound_stepNow)
    | split

theorem sound_noticedStep {steps grid : Int} {m : Part} (h : Sound v m) : Sound v (noticedStep steps grid m) :=
  have h1 := sound_applyStep { tick := some m.clock.ht, steps := steps, rem := 0, epoch := none, grid := some grid } (sound_settleTx h)
  have h2 : ∀ x c, Sound v x → Sound v { x with clock := c } := fun _ _ h => ⟨h.1, h.2, h.3, h.4⟩
  sound_afterStep (h2 _ _ h1)

theorem sound_execStepNotice (t : ℕ) (steps : ℤ) (grid : ℤ) (s : State) (hs : Sound v s.part) : SoundOut v (execStepNotice t steps grid s) := by
  unfold execStepNotice
  repeat' first
    | with_reducible assumption
    | (intro y; intro (hy : Sound v _); (try beta_reduce))
    | (with_reducible apply soundOut_run)
    | (with_reducible apply sound_onTick)
    | (with_reducible apply sound_noticedStep)
    | split

theorem sound_acceptRemote (src : ℕ) (seq : ℕ) (late : Bool) (d : Desc) (c : HostCmd) {m : Part} (hm : Sound v m) : Sound v (acceptRemote src seq late d c m) := by
  unfold acceptRemote
  repeat' first
    | with_reducible assumption
    | (with_reducible apply sound_fixAccepted)
    | (with_reducible apply sound_acceptHere)
    | (with_reducible apply sound_performAtOnce)

theorem sound_execChainCommandArrival (t : ℕ) (src : ℕ) (seq : ℕ) (late : Bool) (d : Desc) (c : HostCmd) (s : State) (hs : Sound v s.part) : SoundOut v (execChainCommandArrival t src seq late d c s) := by
  unfold execChainCommandArrival
  repeat' first
    | with_reducible assumption
    | (intro y; intro (hy : Sound v _); (try beta_reduce))
    | (with_reducible apply soundOut_run)
    | (with_reducible apply sound_onTick)
    | (with_reducible apply sound_receive)
    | (with_reducible apply sound_acceptRemote)

end Sys2Proof.Laws
end

