-- ==== Sys2Proof/Laws/Ticks.lean ====
section
/-! SUPPORT. What the actions of one tick do: none when none is due, one when one is. -/

namespace Sys2Proof.Laws

open Sys2Proof.Machine Sys2Proof.Safety

/-- With no queued action of the class due, only the internal ones execute. -/
theorem runDue_none {late : Bool} {p : Action → Part → Bool} {n : Nat} {m : Part}
    (h : ∀ a ∈ m.sched.queue, p a m = false) : runDue late p n m = m := by
  cases n with
  | zero => rfl
  | succ n =>
    have e : m.sched.queue.filter (fun a => p a m) = [] := List.filter_eq_nil_iff.mpr fun a ha => by simp [h a ha]
    simp [runDue, e, firstAction]

/-- Following has nothing to do on a tick before its actions. -/
theorem followActions_quiet {p : FollowAct → Bool} {m : Part} (h : ∀ a ∈ m.service.actions, m.clock.elapsed < a.due) :
    followActions p m = m := by
  have h1 : ∀ a ∈ m.service.actions, (p a.act && decide (a.due ≤ m.clock.elapsed) && !a.waits m) = false :=
    fun a ha => by simp [Nat.not_le.mpr (h a ha)]
  have e1 : m.service.actions.filter (fun a => p a.act && decide (a.due ≤ m.clock.elapsed) && !a.waits m) = [] :=
    List.filter_eq_nil_iff.mpr fun a ha => by simp [h1 a ha]
  have e2 : m.service.actions.filter (fun a => !(p a.act && decide (a.due ≤ m.clock.elapsed) && !a.waits m)) = m.service.actions :=
    List.filter_eq_self.mpr fun a ha => by simp [h1 a ha]
  simp only [followActions, e1, e2, List.foldl_nil]

/-- No reset happens on a tick before those that edges have fixed. -/
theorem syncinResets_quiet {m : Part} (h : ∀ r ∈ m.syncin.pending, m.clock.elapsed < r.due) : syncinResets m = m := by
  have e1 : m.syncin.pending.filter (fun r => decide (r.due ≤ m.clock.elapsed)) = [] :=
    List.filter_eq_nil_iff.mpr fun r hr => by simpa using h r hr
  have e2 : m.syncin.pending.filter (fun r => decide (m.clock.elapsed < r.due)) = m.syncin.pending :=
    List.filter_eq_self.mpr fun r hr => by simpa using h r hr
  simp only [syncinResets, e1, e2, List.foldl_nil]

/-- The internal actions of a tick on which none falls. -/
theorem internalActions_quiet {c : Nat} {m : Part} (hf : ∀ a ∈ m.service.actions, m.clock.elapsed < a.due)
    (hr : ∀ r ∈ m.syncin.pending, m.clock.elapsed < r.due) : internalActions c m = m := by
  unfold internalActions
  split
  · exact followActions_quiet hf
  · exact syncinResets_quiet hr
  · exact followActions_quiet hf
  · rfl

theorem runClass_quiet {c : Nat} {m : Part} (h : Quiet m) : runClass m c = m := by
  unfold runClass
  rw [runDue_none (fun a ha => by simp [Nat.not_le.mpr (h.queue a ha)])]
  exact internalActions_quiet h.following h.resets

theorem runClasses_quiet {l : List Nat} {m : Part} (h : Quiet m) : l.foldl runClass m = m := by
  induction l with
  | nil => rfl
  | cons c l ih => rw [List.foldl_cons, runClass_quiet h, ih]

/-- On a tick of which no action is left, only pins are tidied. -/
theorem runThrough_quiet {n : Nat} {m : Part} (h : Quiet m) : runThrough n m = tidyPins m := by
  rw [runThrough, runClasses_quiet h]

/-- The one queued action that is due executes, in the place of its class. -/
theorem runThrough_one {n : Nat} {a : Action} {m : Part} (hq : m.sched.queue = [a]) (hd : a.due ≤ m.clock.ht) (hn : cmdOrder a.cmd ≤ n)
    (h0 : 0 < n) (hf : ∀ a ∈ m.service.actions, m.clock.elapsed < a.due) (hr : ∀ r ∈ m.syncin.pending, m.clock.elapsed < r.due)
    (hx : Quiet (runAction false a m)) : runThrough n m = tidyPins (runAction false a m) := by
  have key : ∀ l : List Nat, (∃ c ∈ l, cmdOrder a.cmd ≤ c) → l.foldl runClass m = runAction false a m := by
    intro l
    induction l with
    | nil => rintro ⟨_, h, _⟩; cases h
    | cons c l ih =>
      rintro ⟨k, hk, hc⟩
      rw [List.foldl_cons]
      by_cases h : cmdOrder a.cmd ≤ c
      · have e : runClass m c = runAction false a m := by
          unfold runClass
          rw [hq]
          simp only [List.length_singleton, runDue, hq, List.filter_cons, List.filter_nil, hd, h, decide_true, Bool.and_self, if_true,
            firstAction]
          exact internalActions_quiet hx.following hx.resets
        rw [e, runClasses_quiet hx]
      · have e : runClass m c = m := by
          unfold runClass
          rw [runDue_none (fun b hb => by rw [hq] at hb; cases List.mem_singleton.mp hb; simp [h])]
          exact internalActions_quiet hf hr
        rw [e]
        refine ih ?_
        rcases List.mem_cons.mp hk with rfl | hk
        · exact absurd hc h
        · exact ⟨k, hk, hc⟩
  rw [runThrough, key]
  refine ⟨n, ?_, hn⟩
  simp only [List.mem_map, List.mem_range]
  exact ⟨n - 1, by omega, by omega⟩

/-- The class of Table HTM-4 that an internal action of following stands in (R54, R296). -/
def followClass (a : FollowDue) : Nat := if a.act.closes then 6 else 3

/-- The one action of following that is due executes, in the place of its class. -/
theorem runThrough_follow {n : Nat} {a : FollowDue} {rest : List FollowDue} {m : Part}
    (hq : ∀ b ∈ m.sched.queue, m.clock.ht < b.due) (hr : ∀ r ∈ m.syncin.pending, m.clock.elapsed < r.due)
    (ha : m.service.actions = a :: rest) (hd : a.due ≤ m.clock.elapsed) (hw : a.waits m = false)
    (hf : ∀ b ∈ rest, m.clock.elapsed < b.due) (hn : followClass a ≤ n)
    (hx : Quiet (doAct { m with service := { m.service with actions := rest } } a)) :
    runThrough n m = tidyPins (doAct { m with service := { m.service with actions := rest } } a) := by
  have e1 : ∀ p : FollowDue → Bool, rest.filter (fun b => p b && decide (b.due ≤ m.clock.elapsed) && !b.waits m) = [] :=
    fun p => List.filter_eq_nil_iff.mpr fun b hb => by simp [Nat.not_le.mpr (hf b hb)]
  have e2 : ∀ p : FollowDue → Bool, rest.filter (fun b => !(p b && decide (b.due ≤ m.clock.elapsed) && !b.waits m)) = rest :=
    fun p => List.filter_eq_self.mpr fun b hb => by simp [Nat.not_le.mpr (hf b hb)]
  have hit : ∀ p : FollowAct → Bool, p a.act = true →
      followActions p m = doAct { m with service := { m.service with actions := rest } } a := by
    intro p hp
    simp only [followActions, ha, List.filter_cons, hp, hd, hw, e1 (fun b => p b.act), e2 (fun b => p b.act)]; rfl
  have miss : ∀ p : FollowAct → Bool, p a.act = false → followActions p m = m := by
    intro p hp
    simp only [followActions, ha, List.filter_cons, hp, e1 (fun b => p b.act), e2 (fun b => p b.act)]
    simp only [Bool.false_and, Bool.not_false, if_true, Bool.false_eq_true, if_false, List.foldl_nil]
    rw [← ha]
  have none : ∀ c, runDue false (fun b m => decide (b.due ≤ m.clock.ht) && decide (cmdOrder b.cmd ≤ c)) m.sched.queue.length m = m :=
    fun c => runDue_none fun b hb => by simp [Nat.not_le.mpr (hq b hb)]
  have key : ∀ l : List Nat, followClass a ∈ l →
      l.foldl runClass m = doAct { m with service := { m.service with actions := rest } } a := by
    intro l
    induction l with
    | nil => exact fun h => absurd h List.not_mem_nil
    | cons c l ih =>
      intro h
      rw [List.foldl_cons]
      by_cases hc : followClass a = c
      · have e : runClass m c = doAct { m with service := { m.service with actions := rest } } a := by
          unfold runClass
          rw [none c]
          unfold followClass at hc
          cases hcl : a.act.closes <;> rw [hcl] at hc <;> subst hc
          · exact hit (fun x => !x.closes) (by simp [hcl])
          · exact hit FollowAct.closes hcl
        rw [e, runClasses_quiet hx]
      · have e : runClass m c = m := by
          unfold runClass
          rw [none c]
          unfold internalActions
          unfold followClass at hc
          cases hcl : a.act.closes <;> rw [hcl] at hc <;> split
          all_goals first | rfl | exact absurd rfl hc | exact syncinResets_quiet hr | exact miss (fun x => !x.closes) (by simp [hcl]) | exact miss FollowAct.closes hcl
        rw [e]
        exact ih ((List.mem_cons.mp h).resolve_left hc)
  rw [runThrough, key]
  simp only [List.mem_map, List.mem_range]
  refine ⟨followClass a - 1, ?_, ?_⟩ <;> have : 3 ≤ followClass a := by { unfold followClass; split <;> decide }
  · omega
  · omega

end Sys2Proof.Laws
end

