-- ==== Sys2Proof/Machine/Layout.lean ====
section
/-! DEFINITION. How commands stand in host memory: the 64 bytes of a descriptor, its parameters, the entries of a plan and the blocks that
a descriptor names (R6, R325, R333, R334, R337, R342, R374, R129). A row carries what a named block holds beside the address it stands at:
`addrFields` puts the address into its 24:8 field. -/

namespace Sys2Proof.Machine

/-- A field of an unsigned value. -/
def fieldOf (off size : Nat) (v : Nat) : Field := ⟨off, size, v⟩

/-- One-byte fields from `off` on. -/
def blockFields (off : Nat) (l : List Nat) : List Field := l.zipIdx.map fun e => fieldOf (off + e.2) 1 e.1

/-- Table HIF-10. -/
def ctxFields (p : CtxParams) : List Field :=
  [fieldOf 16 2 p.ctx, fieldOf 18 1 p.type, fieldOf 19 1 (p.probe.toNat + 2 * p.prioHigh.toNat), fieldOf 20 4 p.freq,
   fieldOf 24 2 p.lostTimeout, fieldOf 26 1 p.iterMax, fieldOf 27 1 p.reserve, fieldOf 28 1 p.occupancy] ++ blockFields 32 p.block

/-- The parameters of HALF_SETUP LEVELLER after its function. -/
def levellerFields (p : LevellerParams) : List Field :=
  [fieldOf 18 1 p.band, fieldOf 19 1 p.mode, ⟨20, 1, p.upper⟩, ⟨21, 1, p.lower⟩, fieldOf 22 2 p.dwell, fieldOf 24 1 p.attenMin,
   fieldOf 25 1 p.attenMax, fieldOf 26 1 p.manual]

/-- Fields of HALF_SETUP for a half and a function. -/
def setupFields (half func : Nat) (l : List Field) : List Field := fieldOf 16 1 half :: fieldOf 17 1 func :: l

/-- SVC_SELECT with its operation. -/
def selectFields (op : Nat) (p : SelParams) : List Field :=
  [fieldOf 16 2 p.ctx, fieldOf 18 1 op, fieldOf 19 1 p.kind, fieldOf 20 1 p.sub, fieldOf 21 1 p.byService.toNat, fieldOf 22 1 p.scids,
   fieldOf 24 4 p.sid]

/-- The set parameters of SVC_LINK (Table DEC-6). -/
def setFields (p : SetParams) : List Field :=
  [fieldOf 36 1 p.alignWindow, fieldOf 37 1 p.holdBack, fieldOf 38 2 p.badHold, fieldOf 40 4 p.xfade, fieldOf 44 1 p.goodHold,
   fieldOf 45 1 p.blendGood]

/-- A source of SVC_LINK in place `i`. -/
def sourceFields (i : Nat) (s : LinkSource) : List Field :=
  [fieldOf (20 + 4 * i) 2 s.ctx, fieldOf (22 + 4 * i) 1 s.sel, fieldOf (23 + 4 * i) 1 s.rank]

/-- SYNC_ARM: operation, group, context, syncout, repeat and phase. -/
def armFields (op group ctx syncout every phase : Nat) : List Field :=
  [fieldOf 16 1 op, fieldOf 17 1 group, fieldOf 18 2 ctx, fieldOf 20 1 syncout, fieldOf 21 1 every, fieldOf 24 4 phase]

/-- A field of CLOCK_CONFIG: its bit in the valid mask, its place and its value. -/
def clockFields (p : ClockParams) : List Field :=
  let int (f : Option Nat) : Option Int := f.map fun v => (v : Int)
  let l : List (Option Int × Nat × Nat) := [
    (int p.source, 18, 1), (int p.refFreq, 19, 1), (int p.lockTol, 20, 1), (int p.slewLimit, 21, 1), (int p.nSpll, 22, 2),
    (int p.nTsyn, 24, 2), (int p.nKsyn, 26, 2), (p.ppsDelay, 28, 4), (int p.stepLimit, 32, 4), (int p.epoch, 40, 8)]
  fieldOf 16 2 ((l.zipIdx.map fun e => if e.1.1.isSome then 2 ^ e.2 else 0).sum)
    :: l.filterMap fun e => e.1.map fun v => ⟨e.2.1, e.2.2, v⟩

/-- FLOW_BIND: a flow ring, a port with its slot pair, or a chain address at 20. -/
def bindFields (n : Nat) (p : BindParams) : List Field :=
  fieldOf 16 2 n :: fieldOf 18 1 p.target :: (if p.target = 2 then [fieldOf 20 1 p.a, fieldOf 21 1 p.b] else [fieldOf 20 2 p.a])
    ++ [fieldOf 22 2 p.remote]

/-- SVC_FOLLOW_POLICY SET. -/
def followFields (p : FollowParams) : List Field :=
  [fieldOf 16 1 0, fieldOf 18 2 p.set, fieldOf 20 2 p.ctx, fieldOf 22 1 p.sel, fieldOf 23 1 p.maxWatch, fieldOf 24 1 p.maxMembers,
   fieldOf 25 1 p.scope, fieldOf 26 2 p.halves, fieldOf 28 1 p.regional, fieldOf 29 1 p.promoteCnr, fieldOf 30 2 p.promoteTime,
   fieldOf 32 1 p.releaseCnr, fieldOf 33 1 p.releaseTime, fieldOf 34 1 p.rehomeTime] ++ setFields p.setParams

/-- AUDIO_PORT_CONFIG. -/
def portFields (p : PortParams) : List Field :=
  [fieldOf 16 1 p.port, fieldOf 17 1 p.format, fieldOf 18 1 p.role, fieldOf 19 1 p.slots, fieldOf 20 1 p.bits, fieldOf 22 2 p.clkLead,
   fieldOf 24 2 p.clkTrail, fieldOf 26 1 p.mclk]

/-- The parameters of a host command (Tables HIF-8 and HIF-10). -/
def paramFields : HostCmd → List Field
  | .nop => []
  | .identify => []
  | .halfSetupMode h mode input => setupFields h 0 [fieldOf 18 1 mode, fieldOf 19 1 input]
  | .halfSetupLeveller h p => setupFields h 1 (levellerFields p)
  | .halfSetupAntpwr h setting => setupFields h 2 [fieldOf 18 1 setting]
  | .halfSetupExtGain h gain => setupFields h 3 [⟨18, 2, gain⟩]
  | .accGpio h p => setupFields h 4
      [fieldOf 18 1 p.pin, fieldOf 19 1 p.function, fieldOf 20 1 p.level, fieldOf 21 1 p.debounce, fieldOf 22 1 p.isoHalf,
       fieldOf 23 1 p.polarity, fieldOf 24 2 p.muteLead, fieldOf 26 2 p.muteTrail]
  | .accI2c h p => setupFields h 5
      ([fieldOf 18 1 p.address, fieldOf 19 1 p.speed, fieldOf 20 1 p.wlen, fieldOf 21 1 p.rlen] ++ blockFields 24 (p.bytes.take 8))
  | .planPrepare n es => [fieldOf 16 1 n, fieldOf 18 2 es.length]
  | .planCommit n => [fieldOf 16 1 n]
  | .planAbort n => [fieldOf 16 1 n]
  | .ctxOpen p => ctxFields p
  | .ctxRetune p => ctxFields p
  | .ctxClose c => [fieldOf 16 2 c]
  | .ctxQuery c => [fieldOf 16 2 c]
  | .ctxWatch p => ctxFields p
  | .coefLoad c n s _ => [fieldOf 16 2 c, fieldOf 18 2 n, fieldOf 20 1 s]
  | .coefSwap c x => [fieldOf 16 2 c, fieldOf 18 2 x]
  | .syncArmJoin g c => armFields 0 g c 0 0 0
  | .syncArmLeave c => armFields 1 0 c 0 0 0
  | .syncArmReset g s p => armFields 2 g 0 s 0 p
  | .armSyncin g e s p => armFields 3 g 0 s e p
  | .disarm g => armFields 4 g 0 0 0 0
  | .svcSelect p => selectFields 0 p
  | .svcDeselect p => selectFields 1 p
  | .svcLinkCreate n l p => [fieldOf 16 1 0, fieldOf 17 1 l.length, fieldOf 18 2 n] ++ l.zipIdx.flatMap (fun e => sourceFields e.2 e.1)
      ++ setFields p
  | .svcLinkAdd n s => [fieldOf 16 1 1, fieldOf 17 1 1, fieldOf 18 2 n] ++ sourceFields 0 s
  | .svcLinkRemove n c s => [fieldOf 16 1 2, fieldOf 17 1 1, fieldOf 18 2 n] ++ sourceFields 0 ⟨c, s, 0⟩
  | .svcLinkDelete n => [fieldOf 16 1 3, fieldOf 18 2 n]
  | .svcLinkQuery n => [fieldOf 16 1 4, fieldOf 18 2 n]
  | .svcFollowSet p => followFields p
  | .svcFollowClear n => [fieldOf 16 1 1, fieldOf 18 2 n]
  | .dbConfig age keep mask => [fieldOf 16 1 2, fieldOf 18 2 age, fieldOf 20 1 keep, fieldOf 22 2 mask]
  | .dbDump => [fieldOf 16 1 3]
  | .scan p => [fieldOf 16 1 4, fieldOf 17 1 p.half, fieldOf 18 1 p.raster, fieldOf 20 4 p.first, fieldOf 24 4 p.last, fieldOf 28 1 p.dwell,
      fieldOf 29 1 p.watches]
  | .flowCreate p => [fieldOf 16 2 p.flow, fieldOf 18 1 p.type, fieldOf 19 1 p.subtype, fieldOf 20 2 p.source, fieldOf 22 1 p.sel,
      fieldOf 23 1 p.blank.toNat, fieldOf 24 4 p.length]
  | .flowBind n p => bindFields n p
  | .flowShape n w r b => [fieldOf 16 2 n, fieldOf 18 2 w, fieldOf 20 4 r, fieldOf 24 4 b]
  | .flowDelete n => [fieldOf 16 2 n]
  | .timeshiftSet n w d => [fieldOf 16 2 n, fieldOf 20 4 w, fieldOf 24 4 d]
  | .captureStart k m n b => [fieldOf 16 2 k, fieldOf 18 1 m, fieldOf 20 2 n, fieldOf 24 8 b]
  | .captureStop k => [fieldOf 16 2 k]
  | .kiteConfig n _ => [fieldOf 16 1 n]
  | .kiteSessionOpen n k p c => [fieldOf 16 2 n, fieldOf 18 1 0, fieldOf 19 1 k, fieldOf 20 4 p, fieldOf 24 1 c]
  | .kiteSessionClose n => [fieldOf 16 2 n, fieldOf 18 1 1]
  | .kiteSessionUpdate n k c => [fieldOf 16 2 n, fieldOf 18 1 2, fieldOf 19 1 k, fieldOf 24 1 c]
  | .kiteSessionFlush n => [fieldOf 16 2 n, fieldOf 18 1 3]
  | .kiteSend n c l _ => [fieldOf 16 2 n, fieldOf 18 1 c, fieldOf 19 1 l]
  | .kiteBudget s c r b => [fieldOf 16 1 s, fieldOf 17 1 c, fieldOf 20 4 r, fieldOf 24 4 b]
  | .audioPortConfig p => portFields p
  | .audioPortStart p => [fieldOf 16 1 p]
  | .audioPortStop p => [fieldOf 16 1 p]
  | .calPolicy h a d ws => [fieldOf 16 1 h, fieldOf 17 1 a, fieldOf 18 1 d, fieldOf 19 1 ws.length]
  | .calRun h => [fieldOf 16 1 h]
  | .clockConfig p => clockFields p
  | .chainEnumerate o _ => [fieldOf 16 1 o]
  | .chainRollcall => []
  | .chainSend d m => [fieldOf 16 2 d, fieldOf 18 2 m.length]
  | .eventRouteSources f l r v => [fieldOf 16 1 0, fieldOf 18 2 f, fieldOf 20 2 l, fieldOf 22 1 r, fieldOf 23 1 v]
  | .eventRouteVector v h c => [fieldOf 16 1 1, fieldOf 18 1 v, fieldOf 20 2 h, fieldOf 22 1 c]
  | .fwLoadStage n _ => [fieldOf 16 1 0, fieldOf 20 4 n]
  | .fwLoadActivate => [fieldOf 16 1 1]

/-- The address of the block, list, payload, message or image that a command names (Table HIF-8). -/
def addrFields (addr : Nat) (c : HostCmd) : List Field :=
  match c with
  | .planPrepare _ _ => [fieldOf 24 8 addr]
  | .coefLoad _ _ _ _ => [fieldOf 24 8 addr]
  | .kiteConfig _ _ => [fieldOf 24 8 addr]
  | .kiteSend _ _ _ _ => [fieldOf 24 8 addr]
  | .calPolicy _ _ _ _ => [fieldOf 24 8 addr]
  | .chainSend _ _ => [fieldOf 24 8 addr]
  | .fwLoadStage _ _ => [fieldOf 24 8 addr]
  | _ => []

/-- A buffer descriptor as the host posts it (Table HIF-12). -/
def bufferBytes (b : BufferDesc) : List Byte := packFields 16 [fieldOf 0 8 b.addr, fieldOf 8 2 b.size, fieldOf 10 2 b.cookie]

/-- A descriptor in its command ring (Table HIF-4). -/
def descBytes (d : Desc) (c : HostCmd) : List Byte :=
  packFields 64 ([fieldOf 0 1 (opcodeOf c), fieldOf 1 1 (d.strict.toNat + 2 * d.res.toNat), fieldOf 2 2 d.tag, fieldOf 4 2 d.dest,
    fieldOf 6 2 d.resSize, fieldOf 8 8 d.due] ++ paramFields c ++ addrFields d.dataAddr c
    ++ [fieldOf 56 8 d.resAddr])

/-- The opcode and the parameters of an entry of a plan's list (R337). -/
def entryFields : PlanEntry → Nat × List Field
  | .tilePlan t p => (0x11, [fieldOf 16 1 t, fieldOf 17 1 p])
  | .halfMode h m i => (0x10, paramFields (.halfSetupMode h m i))
  | .leveller h p => (0x10, paramFields (.halfSetupLeveller h p))
  | .antpwr h s => (0x10, paramFields (.halfSetupAntpwr h s))
  | .extGain h g => (0x10, paramFields (.halfSetupExtGain h g))
  | .ctxOpen p => (0x20, ctxFields p)
  | .ctxWatch p => (0x24, ctxFields p)
  | .ctxRetune p => (0x21, ctxFields p)
  | .ctxClose c => (0x22, [fieldOf 16 2 c])
  | .select p => (0x30, selectFields 0 p)
  | .deselect p => (0x30, selectFields 1 p)
  | .coefSwap c x => (0x29, paramFields (.coefSwap c x))
  | .syncReset g s p => (0x2A, paramFields (.syncArmReset g s p))
  | .other o => (o, [])

/-- An entry of the list of a PLAN_PREPARE for the part at `dest` (R337). -/
def planEntryBytes (dest : Nat) (e : PlanEntry) : List Byte :=
  packFields 64 ([fieldOf 0 1 (entryFields e).1, fieldOf 4 2 dest] ++ (entryFields e).2)

/-- The block of KITE_CONFIG (Tables KTE-1 and KTE-2). -/
def kiteBlockBytes (b : KiteBlock) : List Byte :=
  let kinds := (b.kinds.zipIdx.map fun e => e.1 * 4 ^ e.2).sum
  packFields 32 ([fieldOf 0 1 (b.extPa.toNat + 2 * b.capture.toNat), fieldOf 1 1 b.captureDb, fieldOf 2 1 b.ramp, fieldOf 4 2 b.lead,
    fieldOf 6 2 b.trail, fieldOf 8 4 kinds] ++ blockFields 12 b.rxChannel)
  ++ b.channels.flatMap fun c => packFields 16 [fieldOf 0 4 c.freq, fieldOf 4 1 c.bw, fieldOf 5 1 c.sf, fieldOf 6 1 c.rate,
    fieldOf 7 1 c.subBand, ⟨8, 1, c.power⟩, fieldOf 9 1 c.rampLevel]

/-- The windows of CAL_POLICY (Table HIF-8). -/
def calWindowBytes (ws : List CalWindow) : List Byte :=
  ws.flatMap fun w => packFields 16 [fieldOf 0 4 w.period, fieldOf 4 4 w.phase, fieldOf 8 4 w.offset, fieldOf 12 4 w.length]

/-- An entry of the flow ring table (R342). -/
def ringEntryBytes (e : RingEntry) : List Byte :=
  packFields 16 [fieldOf 0 8 e.base, fieldOf 8 1 e.log2, fieldOf 9 1 e.vector, fieldOf 10 2 e.flush]

end Sys2Proof.Machine
end

