-- ==== Sys2Proof/Tests/Slice0.lean ====
section
/-! SUPPORT. Tests of the model on small states, the refusals of WellFormed, and for every statement of Certificates/Slice0/Obligations.lean
that has hypotheses a state and operands that meet all of them together. -/

namespace Sys2Proof.Tests

open Sys2Proof Sys2Proof.Machine Sys2Proof.Safety

/-! ## Small states -/

/-- A descriptor of command ring 0 with at = 0 and room for a result block. -/
def desc : Desc :=
  { ring := 0, tag := 7, dest := 0, strict := false, res := true, resSize := 4096, due := 0, clean := true, readable := true }

/-- A host interface in use: rings of 16 entries. -/
def hif0 : Hif :=
  { enable := true, cmdq := List.replicate 4 { log2 := 4 }, cplq := List.replicate 4 { log2 := 4 }, evq := { log2 := 4 } }

/-- A part that is FULL, with its host interface in use. -/
def live : Part := { ident := { fw := { major := 1 }, full := true }, hif := hif0, boot := { stage := 9 } }

/-- The state of a part, with no command waiting. -/
def at0 (m : Part) : State := { part := m }

/-- FM with RDS at 98.5 MHz in TRACK. -/
def fmCtx : Ctx := { cfg := { type := 4, freq := 98500000, lostTimeout := 5 }, a := { state := .track } }

/-- A DAB ensemble in TRACK with an audio selection on SubChId 3. -/
def dabCtx : Ctx := {
  cfg := { type := 7, freq := 223936000, reserve := 8 }, a := { state := .track }
  sels := [{ sel := 3, kind := 1, byService := false, sid := 0, scids := 0, audio := true }] }

/-- CTX_OPEN of slot `c` for FM, every field at its default. -/
def fmParams (c : Nat) : CtxParams :=
  { ctx := c, type := 4, probe := false, prioHigh := false, freq := 98500000, lostTimeout := 65535, iterMax := 255, reserve := 0,
    occupancy := 0, block := List.replicate 11 255 }

/-- Every set parameter at its default. -/
def setParams : SetParams :=
  { alignWindow := 255, holdBack := 255, badHold := 65535, xfade := 4294967295, goodHold := 255, blendGood := 255 }

/-- A follow policy with defaults on the home of context `c`. -/
def followParams (set c : Nat) : FollowParams :=
  { set := set, ctx := c, sel := 255, maxWatch := 255, maxMembers := 255, scope := 7, halves := 65535, regional := 0,
    promoteCnr := 255, promoteTime := 65535, releaseCnr := 255, releaseTime := 255, rehomeTime := 255, setParams := setParams }

/-- A Kite configuration of one channel whose windows admit every class. -/
def kiteBlock : KiteBlock :=
  { extPa := false, capture := false, captureDb := 6, ramp := 16, lead := 256, trail := 256, kinds := List.replicate 16 0
    rxChannel := List.replicate 16 0, clean := true
    channels := [{ freq := 868100000, bw := 0, sf := 7, rate := 0, subBand := 0, power := 14, rampLevel := 0 }] }

/-- A flow of type `ty` from source `src`. -/
def flow0 (ty sub src : Nat) : Flow :=
  { type := ty, subtype := sub, source := src, sel := 255, blank := false, length := 65504 }

/-- The mate of a source set: FM context 0 leads, DAB selection 3 of context 64 follows. -/
def set0 : SourceSet :=
  { cfg := {}, active := .fm, members := [{ ctx := 0, sel := 255, rank := 0 }, { ctx := 64, sel := 3, rank := 1, branch := .digital 1 [] }] }

/-- A part in use: contexts on two halves, a source set, a policy, flows, a plan, the Kite, a port and a second part on the chain. -/
def busy : Part := { live with
  ctxs := [(0, fmCtx), (1, { fmCtx with chain := { fade := some { len := 4096, first := 0 } } }), (2, fmCtx), (3, fmCtx), (64, dabCtx)]
  sets := [(0, set0)]
  service := { policies := [(5, { params := followParams 5 2, setCfg := {} })] }
  flows := [(1, flow0 1 0 0), (2, flow0 6 0 65535)]
  plans := [(1, { entries := [.extGain 14 0] })]
  kite := { cfg := some kiteBlock, sessions := [(9, { key := 127, peer := 5, channel := 0 })] }
  sec := { held := [(127, [1, 2, 3, 4])] }
  ports := List.replicate 8 { cfg := some { format := 0, slave := false, slots := 2, bits := 32, clkLead := 256, clkTrail := 256, mclk := 0 } }
  regs := { chainId := 5 }
  chain := { parts := 2, addr := some 0 } }

/-- The command is read, passes every check and carries at = 0. -/
def runs (d : Desc) (c : HostCmd) (m : Part) : Bool :=
  (readDesc d m).isSome && (isHead m || secondaryAllows c) && d.clean && d.readable && decide (d.dest = ownAddr m)
    && !m.chain.quarantined && decide (d.due = 0) && (!needsBlock c || (d.res && decide (d.resSize ≠ 0)))
    && decide (checkCmd d c (readPart d m) = stOk) && !locked c (readPart d m)

/-- `runs` decides `Executes`. -/
theorem executes_of_runs {d : Desc} {c : HostCmd} {m : Part} (h : runs d c m = true) : Executes d c m := by
  simp only [runs, Bool.and_eq_true, decide_eq_true_eq, Bool.or_eq_true, Bool.not_eq_true'] at h
  obtain ⟨⟨⟨⟨⟨⟨⟨⟨⟨h1, h2⟩, h3⟩, h4⟩, h5⟩, h6⟩, h7⟩, h8⟩, h9⟩, h10⟩ := h
  exact { read := h1, primary := h2, clean := h3, readable := h4, here := h5, trusted := h6, atOnce := h7, passed := h9, unlocked := h10
          block := fun hb => h8.elim (fun h => absurd hb (by simp [h])) id }

/-! ## Hypotheses of the statements about commands

Every witness names the operands of each row, at a boundary of its range where it has one. -/

/-- The part in use once the descriptor has been read. -/
def read0 : Part := readPart desc busy

theorem witness_HostCommandsComplete :
    Executes desc .nop live ∧ Executes desc .identify live ∧ Executes desc (.eventRouteSources 0 0 0 63) live ∧
    Executes desc (.eventRouteVector 63 0 1) live :=
  ⟨executes_of_runs (by decide), executes_of_runs (by decide), executes_of_runs (by decide), executes_of_runs (by decide)⟩

/-- A LEVELLER block: band 3, MANUAL, 30 dB. -/
def levBlock : LevellerParams :=
  { band := 2, mode := 2, upper := -6, lower := -18, dwell := 50, attenMin := 0, attenMax := 30, manual := 30 }

theorem witness_HalfCommandsComplete :
    Executes desc (.halfSetupMode 14 3 0) live ∧ Executes desc (.halfSetupMode 14 1 1) live ∧
    Executes desc (.halfSetupLeveller 15 levBlock) live ∧ Executes desc (.halfSetupAntpwr 15 2) live ∧
    Executes desc (.halfSetupExtGain 0 400) live :=
  ⟨executes_of_runs (by decide), executes_of_runs (by decide), executes_of_runs (by decide), executes_of_runs (by decide),
    executes_of_runs (by decide)⟩

/-- Pin 15 follows half 15, active low. -/
def gpio15 : GpioParams :=
  { pin := 15, function := 2, level := 0, debounce := 255, isoHalf := 15, polarity := 1, muteLead := 2048, muteTrail := 0 }

theorem witness_AccessoryCommandsComplete :
    Executes desc (.accGpio 255 gpio15) live ∧
    Executes desc (.accI2c 255 { address := 127, speed := 1, wlen := 8, rlen := 8, bytes := List.replicate 8 0 }) live :=
  ⟨executes_of_runs (by decide), executes_of_runs (by decide)⟩

theorem witness_PlanCommandsComplete :
    Executes desc (.planPrepare 15 [.extGain 12 0]) busy ∧
    (Executes desc (.planCommit 1) busy ∧ look 1 read0.plans = some { entries := [.extGain 14 0] }) ∧
    Executes desc (.planAbort 1) busy :=
  ⟨executes_of_runs (by decide), ⟨executes_of_runs (by decide), by decide⟩, executes_of_runs (by decide)⟩

theorem witness_ContextCommandsComplete :
    Executes desc (.ctxOpen (fmParams 63)) busy ∧ Executes desc (.ctxWatch (fmParams 63)) busy ∧
    Executes desc (.ctxRetune (fmParams 0)) busy ∧
    (Executes desc (.ctxClose 64) busy ∧ (ctx 64 read0).isSome = true) ∧
    (Executes desc (.ctxQuery 64) busy ∧ ctx 64 read0 = some dabCtx) :=
  ⟨executes_of_runs (by decide), executes_of_runs (by decide), executes_of_runs (by decide),
    ⟨executes_of_runs (by decide), by decide⟩, ⟨executes_of_runs (by decide), by decide⟩⟩

/-- Slot 7 is held by an open that has not executed. -/
def opening : Part := { busy with sched := { queue :=
  [{ order := 0, due := 5000, late := false, desc := desc, origin := .ring, cmd := .ctxOpen (fmParams 7) }], nextOrder := 1 } }

theorem witness_ContextCommandsComplete_held :
    (Executes desc (.ctxClose 7) opening ∧
      ((readPart desc opening).sched.queue.any fun a => isOpen a.cmd && (ctxsOf a.cmd).contains 7) = true) ∧
    (Executes desc (.ctxQuery 7) opening ∧ ctx 7 (readPart desc opening) = none) :=
  ⟨⟨executes_of_runs (by decide), by decide⟩, ⟨executes_of_runs (by decide), by decide⟩⟩

/-- The 96 words of an FM filter, each −1. -/
def words96 : List Nat := List.replicate 96 4294967295

theorem witness_FilterCommandsComplete :
    (Executes desc (.coefLoad 0 96 7 words96) busy ∧ ctx 0 (settleFade 0 read0) = some fmCtx ∧ tapsOf 0 fmCtx.cfg.type (settleFade 0 read0) = 96) ∧
    (Executes desc (.coefSwap 0 4096) busy ∧ ctx 0 (settleFade 0 read0) = some fmCtx) ∧
    (Executes desc (.syncArmJoin 31 0) busy ∧ (ctx 0 read0).isSome = true) ∧
    (Executes desc (.syncArmLeave 0) busy ∧ (ctx 0 read0).isSome = true) ∧
    Executes desc (.syncArmReset 31 1 4294967295) busy ∧ Executes desc (.armSyncin 31 1 1 0) busy ∧ Executes desc (.disarm 31) busy :=
  ⟨⟨executes_of_runs (by decide), by decide, by decide⟩, ⟨executes_of_runs (by decide), by decide⟩,
    ⟨executes_of_runs (by decide), by decide⟩, ⟨executes_of_runs (by decide), by decide⟩, executes_of_runs (by decide),
    executes_of_runs (by decide), executes_of_runs (by decide)⟩

/-- SVC_SELECT of SubChId `sub` of context 64. -/
def selParams (sub : Nat) : SelParams := { ctx := 64, kind := 1, sub := sub, byService := false, scids := 0, sid := 0 }

theorem witness_SelectionCommandsComplete :
    (Executes desc (.svcSelect (selParams 63)) busy ∧ ctx 64 read0 = some dabCtx ∧ kindFits 1 dabCtx.cfg.type = true) ∧
    (Executes desc (.svcDeselect (selParams 3)) busy ∧ ctx 64 read0 = some dabCtx) ∧
    Executes desc (.svcLinkCreate 511 [⟨1, 255, 0⟩, ⟨3, 255, 3⟩] setParams) busy ∧ Executes desc (.svcLinkAdd 0 ⟨3, 255, 3⟩) busy ∧
    (Executes desc (.svcLinkRemove 0 64 3) busy ∧ sourceSet 0 read0 = some set0 ∧
      (set0.members.findIdx? fun y => decide (y.ctx = 64 ∧ y.sel = 3)) = some 1) ∧
    Executes desc (.svcLinkDelete 0) busy ∧ (Executes desc (.svcLinkQuery 0) busy ∧ sourceSet 0 read0 = some set0) :=
  ⟨⟨executes_of_runs (by decide), by decide, by decide⟩, ⟨executes_of_runs (by decide), by decide⟩, executes_of_runs (by decide),
    executes_of_runs (by decide), ⟨executes_of_runs (by decide), by decide, by decide⟩, executes_of_runs (by decide),
    executes_of_runs (by decide), by decide⟩

theorem witness_FollowingCommandsComplete :
    Executes desc (.svcFollowSet (followParams 511 3)) busy ∧ Executes desc (.svcFollowClear 5) busy ∧
    Executes desc (.dbConfig 15 8 65535) busy ∧ Executes desc .dbDump busy ∧
    Executes desc (.scan { half := 15, raster := 2, first := 87500000, last := 107900000, dwell := 50, watches := 8 }) busy :=
  ⟨executes_of_runs (by decide), executes_of_runs (by decide), executes_of_runs (by decide), executes_of_runs (by decide),
    executes_of_runs (by decide)⟩

/-- FLOW_BIND to flow ring 511. -/
def bind511 : BindParams :=
  { target := 1, a := 511, b := 0, remote := 0, entry := { base := 4096, log2 := 4, vector := 63, flush := 10000 }, remoteOk := false }

theorem witness_FlowCommandsComplete :
    Executes desc (.flowCreate { flow := 4095, type := 1, subtype := 0, source := 64, sel := 3, blank := false, length := 4294967295 }) busy ∧
    (Executes desc (.flowBind 1 bind511) busy ∧ bindAllowed 1 bind511 read0 = true) ∧
    Executes desc (.flowShape 1 1 4294967295 64) busy ∧ Executes desc (.flowDelete 1) busy ∧ Executes desc (.timeshiftSet 1 1000 1000) busy ∧
    (Executes desc (.captureStart 32768 1 2 1000000) busy ∧ (read0.captures.any fun k => (maskHalves 32768).contains k.half) = false ∧
      2 ^ 30 + (((maskHalves 32768).filter fun h => decide (captureTarget h read0 = stOk)).map fun h =>
        1000000 / groupBytes (tile (halfTile h) read0).plan * groupBytes (tile (halfTile h) read0).plan).sum ≤ poolSize read0) ∧
    Executes desc (.captureStop 32768) busy :=
  ⟨executes_of_runs (by decide), ⟨executes_of_runs (by decide), by decide⟩, executes_of_runs (by decide), executes_of_runs (by decide),
    executes_of_runs (by decide), ⟨executes_of_runs (by decide), by decide, by decide⟩, executes_of_runs (by decide)⟩

theorem witness_KiteCommandsComplete :
    Executes desc (.kiteConfig 1 kiteBlock) busy ∧
    (Executes desc (.kiteSessionOpen 2047 127 0 0) busy ∧ openSessionStatus sessionNow 2047 127 0 read0 = stOk) ∧
    (Executes desc (.kiteSessionClose 9) busy ∧ sessionStatus sessionNow 9 read0 = stOk) ∧
    (Executes desc (.kiteSessionUpdate 9 127 0) busy ∧ updateStatus sessionNow 9 127 0 read0 = stOk) ∧
    (Executes desc (.kiteSessionFlush 9) busy ∧ sessionStatus sessionNow 9 read0 = stOk) ∧
    (Executes desc (.kiteSend 9 2 255 []) busy ∧ kiteSession 9 read0 = some { key := 127, peer := 5, channel := 0 } ∧
      (read0.kite.sessions.map fun e => e.2.queue.length).sum < 16384) ∧
    Executes desc (.kiteBudget 7 2 1000000 1474560000) busy :=
  ⟨executes_of_runs (by decide), ⟨executes_of_runs (by decide), by decide⟩, ⟨executes_of_runs (by decide), by decide⟩,
    ⟨executes_of_runs (by decide), by decide⟩, ⟨executes_of_runs (by decide), by decide⟩,
    ⟨executes_of_runs (by decide), by decide, by decide⟩, executes_of_runs (by decide)⟩

theorem witness_AudioAndCalibrationCommandsComplete :
    Executes desc (.audioPortConfig { port := 7, format := 0, role := 0, slots := 16, bits := 32, clkLead := 4096, clkTrail := 16, mclk := 2 })
      busy ∧
    (Executes desc (.audioPortStart 7) busy ∧ read0.sched.queue.length < 1024) ∧ Executes desc (.audioPortStop 7) busy ∧
    Executes desc (.calPolicy 254 0 15 [{ period := 86400, phase := 86399, offset := 24575999, length := 24576000 }]) busy ∧
    (Executes desc (.calRun 255) busy ∧ read0.sched.queue.length < 1024) :=
  ⟨executes_of_runs (by decide), ⟨executes_of_runs (by decide), by decide⟩, executes_of_runs (by decide), executes_of_runs (by decide),
    ⟨executes_of_runs (by decide), by decide⟩⟩

/-- CLOCK_CONFIG with no field named. -/
def clock0 : ClockParams :=
  { source := none, refFreq := none, lockTol := none, slewLimit := none, nSpll := none, nTsyn := none, nKsyn := none, ppsDelay := none
    stepLimit := none, epoch := none }

/-- CLOCK_CONFIG with fields at both ends of their ranges. -/
def clock1 : ClockParams :=
  { clock0 with source := some 2, lockTol := some 100, slewLimit := some 1, nSpll := some 64, nKsyn := some 65535, ppsDelay := some (-98304) }

theorem witness_ClockConfigCompletes : Executes desc (.clockConfig clock1) live ∧ Executes desc (.clockConfig clock0) live :=
  ⟨executes_of_runs (by decide), executes_of_runs (by decide)⟩

/-- A valid image. -/
def image1 : ImageOffer := { bytes := 4096, signatureOk := true, major := 1, minor := 0, patch := 0, floor := 0 }

theorem witness_ChainCommandsComplete :
    (Executes desc (.chainEnumerate 1 { parts := [], returned := true, broken := false }) busy ∧ busyParts [] = []) ∧
    (Executes desc (.chainEnumerate 0 { parts := [{ old := none, busy := true }], returned := false, broken := false }) busy ∧
      busyParts [{ old := none, busy := true }] ≠ []) ∧
    Executes desc .chainRollcall busy ∧ Executes desc (.chainSend 0xFFFF [0]) busy ∧
    Executes desc (.fwLoadStage 4096 image1) busy ∧ Executes desc .fwLoadActivate { live with flash := { staged := true } } :=
  ⟨⟨executes_of_runs (by decide), by decide⟩, ⟨executes_of_runs (by decide), by decide⟩, executes_of_runs (by decide),
    executes_of_runs (by decide), executes_of_runs (by decide), executes_of_runs (by decide)⟩

/-- What decides `Quiet`. -/
def quietB (m : Part) : Bool :=
  m.sched.queue.all (fun a => decide (m.clock.ht < a.due)) && m.service.actions.all (fun a => decide (m.clock.elapsed < a.due))
    && m.syncin.pending.all fun r => decide (m.clock.elapsed < r.due)

/-- `quietB` decides `Quiet`. -/
theorem quiet_of {m : Part} (h : quietB m = true) : Quiet m := by
  simp only [quietB, Bool.and_eq_true, List.all_eq_true, decide_eq_true_eq] at h
  exact ⟨h.1.1, h.1.2, h.2⟩

/-! ## Hypotheses of the statements about rows that happen by themselves

`advance t m` is the part on the row's tick. -/

/-- A doorbell page whose ring 3 shows 16 new commands, as many as its ring of 16 can hold, and ring 2 one too many. -/
def page1 : DoorbellPage := { ok := true, cmdProd := [0, 0, 17, 16], cplCons := [], evtCons := 0, flows := [] }

/-- The interface disabled. -/
def off0 : Part := { live with hif := {} }

/-- Vector 63 has one trigger and a holdoff of 1. -/
def triggered : Part := { live with hif := { hif0 with vectors := [(63, { holdoff := 1, count := 2, triggers := 1, since := some 0, masked := false })] } }

theorem witness_InterfaceEventsComplete :
    ((advance 1 live).hif.enable = true ∧ fetchDue (advance 1 live) = true ∧ page1.ok = true ∧ page1.dmaErrors = [] ∧ page1.cmdProd[3]? = some 16 ∧ ((advance 1 live).hif.cmdq.getD 3 {}).log2 ≠ 0 ∧
      ((advance 1 live).hif.cmdq.getD 3 {}).stopped = false ∧
      ringUsed 16 ((advance 1 live).hif.cmdq.getD 3 {}).cons = 2 ^ ((advance 1 live).hif.cmdq.getD 3 {}).log2) ∧
    (page1.cmdProd[2]? = some 17 ∧
      2 ^ ((advance 1 live).hif.cmdq.getD 2 {}).log2 + 1 = ringUsed 17 ((advance 1 live).hif.cmdq.getD 2 {}).cons) ∧
    (advance 1 off0).hif.enable = false ∧
    (0 < (Machine.vector 63 (advance (holdoffTicks 1) triggered)).triggers ∧
      (Machine.vector 63 (advance (holdoffTicks 1) triggered)).since = some 0 ∧
      0 + holdoffTicks (Machine.vector 63 (advance (holdoffTicks 1) triggered)).holdoff ≤
        (advance (holdoffTicks 1) triggered).clock.elapsed) := by decide

/-- The interface disabled, with rings that pass every check of the enable (Table HIF-18). -/
def ready : Part := { live with hif := {
  dbPage := 0x340040000, shadowPage := 0x340041000, flqTable := 0x340042000, dbPoll := 4
  cmdq := [{ base := 0x340000000, log2 := 10 }, {}, {}, {}], cplq := [{ base := 0x340010000, log2 := 10, vector := 1 }, {}, {}, {}]
  evq := { base := 0x340020000, log2 := 12 } } }

/-- Port 7's parameters. -/
def params7 : PortParams := { port := 7, format := 0, role := 0, slots := 16, bits := 32, clkLead := 4096, clkTrail := 16, mclk := 2 }

/-- Session 9 as it is open. -/
def session9 : KiteSession := { key := 127, peer := 5, channel := 0 }

theorem witness_CommandsAndInterfaceRowsTakeEffect_kite :
    Executes desc (.kiteConfig 1 kiteBlock) busy ∧
    (Executes desc (.kiteSessionOpen 2047 127 0 0) busy ∧ openSessionStatus sessionNow 2047 127 0 read0 = stOk) ∧
    (Executes desc (.kiteSessionClose 9) busy ∧ read0.kite.cfg.isSome = true ∧ kiteSession 9 read0 = some session9) ∧
    (Executes desc (.kiteSessionUpdate 9 127 0) busy ∧ updateStatus sessionNow 9 127 0 read0 = stOk) ∧
    Executes desc (.kiteSessionFlush 9) busy ∧
    (Executes desc (.kiteSend 9 2 255 []) busy ∧ session9.txCount ≠ 2 ^ 32 - 1 ∧ session9.queue.length < 64 ∧
      (read0.kite.sessions.map fun e => e.2.queue.length).sum < 16384) ∧
    Executes desc (.kiteBudget 7 2 1000000 1474560000) busy :=
  ⟨executes_of_runs (by decide), ⟨executes_of_runs (by decide), by decide⟩, ⟨executes_of_runs (by decide), by decide, by decide⟩,
    ⟨executes_of_runs (by decide), by decide⟩, executes_of_runs (by decide),
    ⟨executes_of_runs (by decide), by decide, by decide, by decide⟩, executes_of_runs (by decide)⟩

theorem witness_CommandsAndInterfaceRowsTakeEffect_commands :
    (Executes desc (.audioPortConfig params7) busy ∧ params7.port < busy.ports.length) ∧
    (Executes desc (.audioPortStart 7) busy ∧ Executes desc (.calRun 255) busy ∧ busy.sched.queue.length < 1024) ∧
    (Executes desc (.audioPortStop 7) busy ∧ 7 < busy.ports.length) ∧
    (Executes desc (.calPolicy 15 0 15 [{ period := 86400, phase := 86399, offset := 24575999, length := 24576000 }]) busy ∧ 15 ∈ calHalves 15 busy ∧ 15 < busy.halves.length) ∧
    Executes desc (.clockConfig clock1) busy ∧
    (Executes desc (.chainEnumerate 1 { parts := [], returned := true, broken := false }) busy ∧ busyParts [] = []) ∧
    Executes desc .chainRollcall busy ∧
    (Executes desc (.chainSend 1 [0]) busy ∧ 1 < busy.chain.parts ∧ 1 ≠ 0xFFFF ∧ 1 ≠ ownAddr busy ∧
      joined (ownAddr busy) 1 busy = true ∧ (look 1 busy.chain.peers).any Peer.quarantined = false) ∧
    (Executes desc (.fwLoadStage 4096 image1) busy ∧ imageValid image1 read0 = true) ∧
    Executes desc .fwLoadActivate { live with flash := { staged := true } } :=
  ⟨⟨executes_of_runs (by decide), by decide⟩, ⟨executes_of_runs (by decide), executes_of_runs (by decide), by decide⟩,
    ⟨executes_of_runs (by decide), by decide⟩, ⟨executes_of_runs (by decide), by decide, by decide⟩, executes_of_runs (by decide),
    ⟨executes_of_runs (by decide), by decide⟩, executes_of_runs (by decide),
    ⟨executes_of_runs (by decide), by decide, by decide, by decide, by decide, by decide⟩, ⟨executes_of_runs (by decide), by decide⟩,
    executes_of_runs (by decide)⟩

theorem witness_CommandsAndInterfaceRowsTakeEffect_interface :
    ((advance 1 live).hif.enable = true ∧ fetchDue (advance 1 live) = true ∧ page1.ok = true ∧ page1.dmaErrors = []) ∧
    ((advance 1 ready).hif.enable = false ∧ (hifChecks (advance 1 ready)).all (fun c => c.2.isNone) = true) ∧
    (63 < 64 ∧ 0 < (Machine.vector 63 (advance (holdoffTicks 1) triggered)).triggers ∧
      (Machine.vector 63 (advance (holdoffTicks 1) triggered)).since = some 0 ∧
      0 + holdoffTicks (Machine.vector 63 (advance (holdoffTicks 1) triggered)).holdoff ≤ (advance (holdoffTicks 1) triggered).clock.elapsed ∧
      (Machine.vector 63 (advance (holdoffTicks 1) triggered)).masked = false) := by decide

/-- Part 1 of a chain of two. -/
def second : Part := { live with chain := { addr := some 1, parts := 2 } }

/-- Both halves of tile 7 are parked. -/
def parked7 : Part := { live with halves := List.replicate 14 {} ++ [{ mode := .parked }, { mode := .parked }] }

/-- The boot ROM waits for an image, of which it has the length. -/
def waiting : Part := { boot := { stage := 3 }, sec := { hbootLen := 8388608 } }

theorem witness_RegisterRowsComplete :
    ((advance 1 live).power.railsUp = true ∧ (advance 1 live).hif.lock = false) ∧
    ((advance 1 second).power.railsUp = true ∧ isHead (advance 1 second) = false) ∧
    keyInUse 127 (advance 1 live) = false ∧
    ((advance 1 waiting).power.railsUp = true ∧ (advance 1 waiting).boot.stage = 3 ∧ lengthOk (advance 1 waiting).sec.hbootLen = true ∧
      image1.signatureOk = true ∧ wordRank (advance 1 waiting).sec.rollback ≤ revRank image1.major image1.minor image1.patch) ∧
    (testFitted 9 (advance 1 live) = true ∧ (advance 1 live).dbg.busy = none) ∧
    (advance 1 { live with dbg := { busy := some 0 } }).dbg.busy.isSome = true ∧
    tileResettable 7 (advance 1 parked7) = true := by decide

/-- A step of the house clock on tick 100. -/
def step100 : Machine.Step := { tick := some 100, steps := 5, rem := 0, epoch := none, grid := none }

/-- A part that follows another master, with a demand that waits for the marker. -/
def follower : Part := { second with
  clock := { source := .chain, steps := [{ step100 with tick := none }] }
  pps := { rePhased := true } }

/-- One queued action. -/
def act0 : Action := { order := 0, due := 5000, late := false, desc := desc, origin := .ring, cmd := .syncArmReset 31 0 0 }

theorem witness_HouseTimeEventsComplete :
    onSecond (advance 24576000 live) = true ∧
    ((advance 1 { live with clock := { slew := some { demand := 1024, since := 0 } } }).clock.slew = some { demand := 1024, since := 0 } ∧
      ({ demand := 1024, since := 0 } : Slew).ends ≤ (advance 1 live).clock.elapsed) ∧
    ((advance 100 { live with clock := { steps := [step100] } }).clock.steps = [step100] ∧ step100.tick = some 100 ∧
      100 ≤ (advance 100 { live with clock := { steps := [step100] } }).clock.ht ∧ step100.grid = none) ∧
    (effSource (advance 1 follower) = .chain ∧ otherMaster (advance 1 follower) = true ∧ (advance 1 follower).pps.rePhased = true ∧
      (advance 1 follower).clock.steps = [{ step100 with tick := none }]) ∧
    (advance 1 follower).clock.grid ≠ 1 ∧
    ((advance 5000 { live with sched := { queue := [act0] } }).sched.queue = [act0] ∧
      act0.due ≤ (advance 5000 { live with sched := { queue := [act0] } }).clock.ht ∧
      quietB (runAction false act0 (advance 5000 { live with sched := { queue := [act0] } })) = true) := by decide

/-- PPS edges are accepted; the last one came at instant 0. -/
def ppsOn : Part := { live with pps := { acquiring := false, accepted := some 0, prev := some 0 } }

/-- PPS edges are acquired; the last one came at instant 0 and counted as the first. -/
def acquiring1 : Part := { live with pps := { prev := some 0, count := 1 } }

/-- A SYNCIN edge came at elapsed tick 0. -/
def synced : Part := { live with syncin := { last := some 0 } }

/-- A reset that is due on tick 2048. -/
def sync2048 : SyncReset := { due := 2048, group := 31, arm := { every := false, syncout := true, phase := 0 } }

theorem witness_PulseEventsComplete :
    ((advance 24600576 ppsOn).pps.acquiring = false ∧
      ((advance 24600576 ppsOn).pps.accepted.any fun a => inCadence (1024 * (advance 24600576 ppsOn).clock.elapsed - a)) = true) ∧
    ((advance 24551423 ppsOn).pps.acquiring = false ∧
      ((advance 24551423 ppsOn).pps.accepted.any fun a => inCadence (1024 * (advance 24551423 ppsOn).clock.elapsed + 1023 - a)) = false) ∧
    ((advance 1 live).pps.acquiring = true ∧ (advance 1 live).pps.prev = none) ∧
    ((advance 24575000 acquiring1).pps.prev = some 0 ∧ (advance 24575000 acquiring1).pps.acquiring = true ∧
      inCadence (1024 * (advance 24575000 acquiring1).clock.elapsed + 0 - 0) = true ∧ (advance 24575000 acquiring1).pps.count < 2) ∧
    ((advance 24600576 ppsOn).pps.accepted = some 0 ∧ 0 + second1024 + 24576 * 1024 ≤ 1024 * (advance 24600576 ppsOn).clock.elapsed ∧
      effSource (advance 24600576 ppsOn) = .loc) ∧
    ((advance 2048 synced).syncin.last.any fun l => decide ((advance 2048 synced).clock.elapsed < l + 2048)) = false ∧
    ((advance 2047 synced).syncin.last.any fun l => decide ((advance 2047 synced).clock.elapsed < l + 2048)) = true ∧
    ((advance 2048 { live with syncin := { pending := [sync2048] } }).syncin.pending = [sync2048] ∧
      sync2048.due ≤ (advance 2048 { live with syncin := { pending := [sync2048] } }).clock.elapsed) := by decide

/-- The SPLL in a state. -/
def spllIn (k : SpllState) : Part := { live with spll := { state := k } }

/-- A window at the ends of the ranges that it may show. -/
def window1 : RefWindow := { complete := true, is25 := false, refPpb := 50000, fbPpb := -20000 }

/-- Tile 7 has been lost and re-locks. -/
def relocking : TileSwitch := { start := 0, kind := .relockFast, plan := 1, byPlan := none }

theorem witness_SynthesizerEventsComplete :
    (window1.complete = true ∧ inPull window1 (advance 1 (spllIn .qualify)) = true ∧ (advance 1 (spllIn .qualify)).spll.state = .qualify) ∧
    (inPull window1 (advance 1 (spllIn .relock)) = true ∧ (advance 1 (spllIn .relock)).spll.state = .relock ∧
      compares window1 (advance 1 (spllIn .relock)) = true) ∧
    (inPull window1 (advance 1 (spllIn .locked)) = true ∧ (advance 1 (spllIn .locked)).spll.state = .locked ∧
      compares window1 (advance 1 (spllIn .locked)) = true) ∧
    ((advance 1 (spllIn .locked)).spll.state = .locked ∧ { window1 with complete := false }.complete = false) ∧
    ((advance 2457600 (spllIn .acquire)).spll.state = .acquire ∧
      (advance 2457600 (spllIn .acquire)).spll.entered + 2457600 ≤ (advance 2457600 (spllIn .acquire)).clock.elapsed) ∧
    (7 < tilesFitted live ∧ ((advance 1 live).tiles.getD 7 {}).switch = none ∧ ((advance 1 live).tiles.getD 7 {}).railOff = false ∧
      ((advance 1 live).tiles.getD 7 {}).inReset = false) ∧
    (((advance 2458 (onTile 7 (fun x => { x with switch := some relocking }) live)).tiles.getD 7 {}).switch = some relocking ∧
      relocking.start + ceilDiv live.spll.nTsyn 4 < (advance 2458 (onTile 7 (fun x => { x with switch := some relocking }) live)).clock.elapsed ∧
      relocking.start + 2458 ≤ (advance 2458 (onTile 7 (fun x => { x with switch := some relocking }) live)).clock.elapsed ∧
      relocking.kind = .relockFast) ∧
    (settleTx (advance 1 { live with ksyn := { locked := true } })).ksyn.locked = true ∧
    ((settleTx (advance 128 { live with ksyn := { relocking := true } })).ksyn.relocking = true ∧
      (settleTx (advance 128 { live with ksyn := { relocking := true } })).ksyn.since + ceilDiv live.spll.nKsyn 4 ≤
        (settleTx (advance 128 { live with ksyn := { relocking := true } })).clock.elapsed) ∧
    (effSource (advance 1 (spllIn .locked)) ≠ .chain ∧ effSource (advance 1 (spllIn .acquire)) ≠ .chain ∧
      (advance 2457600 (spllIn .acquire)).spll.entered + refTicks live.spll.nSpll (advance 2457600 (spllIn .acquire)) ≤
        (advance 2457600 (spllIn .acquire)).clock.elapsed) := by decide

/-- A band below its window since tick 0, at 2 dB. -/
def low2 : Half := { bands := List.replicate 3 { atten := 2, dwell := 1000 } }

/-- Every half like `x`. -/
def allLike (x : Half) : Part := { live with halves := List.replicate 16 x }

theorem witness_FrontEndEventsComplete :
    (15 < halvesFitted live ∧ (advance 16 live).clock.ht % 16 = 0 ∧ isLive 15 (advance 16 live) = true) ∧
    ((advance 24576000 (allLike low2)).clock.ht % 16 = 0 ∧ (bandAt 15 2 (advance 24576000 (allLike low2))).mode = .auto ∧
      levFrozen 15 (advance 24576000 (allLike low2)) = false ∧ sharedB 15 (advance 24576000 (allLike low2)) = false ∧
      (bandAt 15 2 (advance 24576000 (allLike low2))).steps = [] ∧
      (bandAt 15 2 (advance 24576000 (allLike low2))).belowSince + 24576 * (bandAt 15 2 (advance 24576000 (allLike low2))).dwell ≤
        (advance 24576000 (allLike low2)).clock.elapsed ∧
      (bandAt 15 2 (advance 24576000 (allLike low2))).attenMin + 2 ≤ (bandAt 15 2 (advance 24576000 (allLike low2))).atten) ∧
    (15 < (advance 1 live).halves.length ∧ isLive 15 (advance 1 live) = true ∧ ((advance 1 live).halves.getD 15 {}).overloadAt = none) ∧
    (((advance 2457599 (allLike { overloadAt := some 0 })).halves.getD 15 {}).overloadAt = some 0 ∧
      (advance 2457599 (allLike { overloadAt := some 0 })).clock.elapsed < 0 + 2457600) ∧
    quietB (advance 1 live) = true ∧
    (((advance 1 (allLike { antpwr := .v12 })).halves.getD 15 {}).antpwr ≠ .off ∧
      ((advance 1 (allLike { antpwr := .v12 })).halves.getD 15 {}).antOpenRaised = false) := by decide

/-- Pins follow half 15. -/
def isoPins : Part := { live with gpio := List.replicate 16 { function := .isoFollow, half := 15, muteUntil := some 100 } }

/-- A transaction that reads four bytes. -/
def job4 : I2cJob := { desc := desc, origin := .ring, execHt := 0, params := { address := 127, speed := 0, wlen := 0, rlen := 4, bytes := [] } }

theorem witness_AccessoryEventsComplete :
    (((advance 1 live).gpio.getD 15 {}).function = .input ∧ ((advance 1 live).gpio.getD 15 {}).level ≠ 1 ∧
      ((advance 1 live).gpio.getD 15 {}).acceptedAt = none) ∧
    (15 < halvesFitted isoPins ∧ 0 < muteLeadOf 15 (advance 1 isoPins)) ∧
    (((advance 100 isoPins).gpio.getD 15 {}).muteUntil = some 100 ∧ 100 ≤ (advance 100 isoPins).clock.elapsed ∧
      ((advance 100 isoPins).gpio.getD 15 {}).wanted (advance 100 isoPins) = false) ∧
    ((advance 1 { live with i2c := { queue := [job4] } }).i2c.busy = none ∧
      (advance 1 { live with i2c := { queue := [job4] } }).i2c.queue = [job4]) ∧
    ((advance 1 { live with i2c := { busy := some job4 } }).i2c.busy = some job4 ∧ job4.params.rlen = 4) := by decide

/-- A run that a temperature change asks for, on tick 40. -/
def run40 : PlacedRun := { start := 40, cause := .temperature, command := none, asserted := false, decided := 0 }

/-- A run in progress since tick 0. -/
def calRun (ph : CalPhase) : CalRunning := { start := 0, ht := 0, pass := 0, phase := ph, cause := .temperature, command := none }

/-- Every half with a calibration. -/
def calLike (c : HalfCal) : Part := allLike { cal := c }

theorem witness_CalibrationEventsComplete :
    (15 < halvesFitted live ∧ (advance 1 live).power.railsUp = true ∧
      ((readSensor 15 400 (advance 1 live)).power.sensors.getD 15 {}).level ≠ .critical) ∧
    (quietB (advance 40 (calLike { placed := [run40] })) = true ∧
      (half 15 (tidyPins (advance 40 (calLike { placed := [run40] })))).cal.placed = [run40] ∧
      run40.start ≤ (tidyPins (advance 40 (calLike { placed := [run40] }))).clock.elapsed ∧
      runReady run40 (tidyPins (advance 40 (calLike { placed := [run40] }))) = true ∧
      (half 15 (tidyPins (advance 40 (calLike { placed := [run40] })))).cal.run = none ∧
      tileFree 15 (tidyPins (advance 40 (calLike { placed := [run40] }))) = true) ∧
    (((advance 38400 (calLike { run := some (calRun .residual) })).halves.getD 15 {}).cal.run = some (calRun .residual) ∧
      nextPhase (calRun .residual).phase = some (.reconnect, 38400) ∧
      (calRun .residual).start + (calRun .residual).pass * runTicks + 38400 ≤
        (advance 38400 (calLike { run := some (calRun .residual) })).clock.elapsed) ∧
    runOver 15 (advance 39322 (calLike { run := some (calRun .reconnect) })) = true ∧
    (((advance 256 (calLike { ramp := some { done := 6143, next := 256, paused := false } })).halves.getD 15 {}).cal.ramp =
        some { done := 6143, next := 256, paused := false } ∧ rampSteps ≤ 6143 + 1 ∧
      (advance 256 (calLike { ramp := some { done := 6143, next := 256, paused := false } })).clock.elapsed < 256 + 256) ∧
    (((advance 511 (calLike { ramp := some { done := 6142, next := 256, paused := false } })).halves.getD 15 {}).cal.ramp =
        some { done := 6142, next := 256, paused := false } ∧ 6142 + 1 < rampSteps ∧
      (advance 511 (calLike { ramp := some { done := 6142, next := 256, paused := false } })).clock.elapsed < 256 + 256) ∧
    (((advance 256 (calLike { fineRamp := some { done := 6143, next := 256, paused := false } })).halves.getD 15 {}).cal.fineRamp =
        some { done := 6143, next := 256, paused := false } ∧
      ((advance 256 (calLike { fineRamp := some { done := 6143, next := 256, paused := false } })).halves.getD 15 {}).cal.ramp = none) ∧
    (isLive 15 (advance 1 live) = true ∧ bgPaused 15 (advance 1 live) = false ∧ ((advance 1 live).halves.getD 15 {}).cal.bg ≠ .held ∧
      ((advance 88473600 live).halves.getD 15 {}).cal.bg = .converging ∧
      ((advance 88473600 live).halves.getD 15 {}).cal.bgSince + 88473600 ≤ (advance 88473600 live).clock.elapsed) ∧
    (quietB (advance 1 { live with kiteCal := { command := some 0 } }) = true ∧
      (settleTx (tidyPins (advance 1 { live with kiteCal := { command := some 0 } }))).kiteCal.running = none ∧
      (settleTx (tidyPins (advance 1 { live with kiteCal := { command := some 0 } }))).kite.txs = [] ∧
      (settleTx (tidyPins (advance 1 { live with kiteCal := { command := some 0 } }))).kite.hopAt = none ∧
      (settleTx (tidyPins (advance 1 { live with kiteCal := { command := some 0 } }))).kiteCal.command.isSome = true) ∧
    ((settleTx (advance 9830 { live with kiteCal := { running := some 0, runCause := .temperature } })).kiteCal.running = some 0 ∧
      0 + 9830 ≤ (settleTx (advance 9830 { live with kiteCal := { running := some 0, runCause := .temperature } })).clock.elapsed ∧
      (settleTx (advance 9830 { live with kiteCal := { running := some 0, runCause := .temperature } })).kiteCal.runCause ≠ .command) := by
  decide

/-- Context 1023 (tile 7, half B, slot 63) is `x`. -/
def only (x : Ctx) : Part := { live with ctxs := [(1023, x)] }

/-- FM in a state. -/
def fmIn (k : CtxState) : Part := only { fmCtx with a := { state := k } }

/-- A copy whose blocks have shown a CNR of 6 dB `hi` times in a row, or one under 3 dB `lo` times. -/
def counted (k : CtxState) (hi lo : Nat) : CopyState := { state := k, seen := { high := hi, low := lo } }

/-- FM whose copy has seen some blocks. -/
def fmSeen (k : CtxState) (hi lo : Nat) : Part := only { fmCtx with a := { counted k hi lo with pilot := .locked } }

/-- DAB in SEARCH since tick 0. -/
def dabSearch : Part := only { dabCtx with a := { state := .search } }

/-- FM on a pair, whose half B copy is in LOST. -/
def paired0 : Part := only { fmCtx with b := some { state := .lost } }

theorem witness_LifeCycleEventsComplete :
    (copyIn 1023 .a .search (advance 491520 (fmIn .search)) = true ∧ presenceHolds 4 499 = true ∧
      sampled 1023 .a (presenceSpan 4) (advance 491520 (fmIn .search)) = true ∧ dipSeen 1023 .a (advance 491520 (fmIn .search)) = true) ∧
    (copyIn 1023 .a .search (advance 4718592 dabSearch) = true ∧ presenceHolds 7 60 = true ∧
      sampled 1023 .a (presenceSpan 7) (advance 4718592 dabSearch) = true ∧ dipSeen 1023 .a (advance 4718592 dabSearch) = true) ∧
    (copyIn 1023 .a .acquire (advance 1 (fmSeen .acquire 4 0)) = true ∧
      copyMeets 1023 .a (fun x y => detects x 1 y { copy := .a, found := false, agcErr := 0 }) (advance 1 (fmSeen .acquire 4 0)) = true) ∧
    (copyIn 1023 .a .detected (advance 1 (fmSeen .detected 40 0)) = true ∧ copyMeets 1023 .a confirms (advance 1 (fmSeen .detected 40 0)) = true) ∧
    (copyIn 1023 .a .track (advance 1 (fmSeen .track 0 80)) = true ∧ copyMeets 1023 .a loses (advance 1 (fmSeen .track 0 80)) = true) ∧
    (copyIn 1023 .a .lost (advance 1 (fmSeen .lost 40 0)) = true ∧ copyMeets 1023 .a confirms (advance 1 (fmSeen .lost 40 0)) = true) ∧
    (copyIn 1023 .a .acquire (advance 4915200 (fmIn .acquire)) = true ∧
      stayed 1023 .a (fun g => acquireLimit g.type) (advance 4915200 (fmIn .acquire)) = true) ∧
    (copyIn 1023 .a .detected (advance 12288000 (fmIn .detected)) = true ∧
      stayed 1023 .a (fun g => confirmLimit g.type) (advance 12288000 (fmIn .detected)) = true) ∧
    (copyIn 1023 .b .lost (advance 12288000 paired0) = true ∧
      stayed 1023 .b (fun g => tenth * g.lostTimeout) (advance 12288000 paired0) = true) ∧
    15 < halvesFitted live := by decide

/-- A fade of 4,096 outputs that began on tick 0. -/
def fade0 : Fade := { len := 4096, first := 0 }

/-- FM in TRACK with a pilot. -/
def fmPilot (k : Pilot) : Ctx := { fmCtx with a := { state := .track, pilot := k }, ana := { blockCnr := 60 } }

/-- FM in ACQUIRE since tick 0. -/
def fmAcq : Ctx := { fmCtx with a := { state := .acquire } }

/-- The elapsed tick of the fade's last output. -/
def fadeTick : Nat := fadeEnd { fmCtx with chain := { fade := some fade0 } } fade0

theorem witness_AnalogueEventsComplete :
    (look 1023 (advance 61440 (only fmCtx)).ctxs = some fmCtx ∧ digitalType fmCtx.cfg.type = false ∧ tau (advance 61440 (only fmCtx)) % 61440 = 0) ∧
    (look 1023 (advance fadeTick (only { fmCtx with chain := { fade := some fade0 } })).ctxs = some { fmCtx with chain := { fade := some fade0 } } ∧
      fadeTick ≤ (advance fadeTick (only { fmCtx with chain := { fade := some fade0 } })).clock.elapsed) ∧
    (look 1023 (advance 983040 (only fmAcq)).ctxs = some fmAcq ∧ pilotRuns fmAcq = true ∧ pilotLate 983040 fmAcq.a = true ∧
      pilotLocks fmAcq.a = true) ∧
    (look 1023 (advance 24576000 (only (fmPilot .locked))).ctxs = some (fmPilot .locked) ∧ pilotRuns (fmPilot .locked) = true ∧
      pilotLoses (fmPilot .locked) (advance 24576000 (only (fmPilot .locked))) (fmPilot .locked).a = true) ∧
    rdsRuns fmCtx = true := by decide

/-- A DAB frame whose first FIB passes. -/
def dabFrame1 : DabFrame :=
  { nullA := true, fibs := [{ ok := true, bytes := [] }], cifCount := 4999, organisation := [], items := [], merA := 0
    merB := 0, agcErrA := 0, agcErrB := 0, delayNs := 0, tii := [] }

/-- A DRM frame without FAC and SDC. -/
def drmFrame1 : DrmFrame :=
  { fac := { ok := false, bytes := [] }, sdc := none, occupancy := 0, hierarchical := false, interleave := 0, streams := [], items := []
    merA := 0, merB := 0, agcErrA := 0, agcErrB := 0, delayNs := 0 }

/-- DAB with SubChId 3 selected as kind `k`. -/
def dabSel (k : Nat) : Ctx := { dabCtx with
  sels := [{ sel := 3, kind := k, byService := false, sid := 0, scids := 0, audio := true, state := .decoding, missing := 10 }] }

/-- DRM30 in TRACK. -/
def drmCtx : Ctx := { cfg := { type := 5, freq := 6095000 }, a := { state := .track } }

/-- A block with its deadline on tick 196,608. -/
def block1 : IterBlock := { ctx := 1023, sel := 3, deadline := 196608, held := true, counts := true }

/-- The tick on which a selection that began to fill on tick 0 decodes. -/
def filled1 : Nat := fillTicks

/-- A tick on which a logical frame ends whose CIF count is 4 more than a multiple of 5, when the last frame, with CIF 0, began on tick 0. -/
def super0 : Nat := symbolEnd 2359296 76

theorem witness_DigitalEventsComplete :
    (look 1023 (advance 2359296 (only dabCtx)).ctxs = some dabCtx ∧ dabCtx.cfg.type = 7 ∧ framesRun dabCtx = true) ∧
    (look 1023 (advance 9830400 (only drmCtx)).ctxs = some drmCtx ∧ drmCtx.cfg.type = 5 ∧ framesRun drmCtx = true ∧
      modeFits 5 (DrmFrame.acquired drmCtx drmFrame1).mode = true) ∧
    ((dabSel 1).sels.find? fun y => decide (y.sel = 3 ∧ absentLimit (dabSel 1).cfg.type ≤ y.missing)).isSome = true ∧
    ((fedSelection 1023 3 1 (settlePair 1023 (advance filled1 (only (dabSel 1))))).isSome = true ∧
      ((look 1023 (settlePair 1023 (advance filled1 (only (dabSel 1)))).ctxs).any fun z => superEnds z filled1) = true) ∧
    superEnds { dabCtx with dig := { cif := 0, cifKnown := true } } super0 = true ∧
    superEnds { dabCtx with dig := { cif := 0, cifKnown := true } } (super0 + 1) = false ∧
    (fedSelection 1023 3 0 (settlePair 1023 (advance filled1 (only (dabSel 0))))).isSome = true ∧
    l2Due { (newSelection (selParams 3) 0) with l2At := some 0 } false 551232 = true ∧
    l2Due { (newSelection (selParams 3) 0) with l2At := some 0 } true 551232 = false ∧
    (let k := settlePair 1023 (runPools (advance 196608 { only (dabSel 1) with blocks := [block1] }))
     (k.blocks.find? fun b => decide (b.ctx = 1023 ∧ b.sel = 3 ∧ b.deadline ≤ k.clock.elapsed)) = some block1 ∧
       ctx 1023 k = some (dabSel 1) ∧ ((dabSel 1).sel 3).isSome = true) ∧
    (15 < halvesFitted live ∧ ((advance 24576000 (allLike { pool := { blocks := 99, short := 1 } })).halves.getD 15 {}).pool.saturated = false ∧
      0 + ticksPerSecond ≤ (advance 24576000 (allLike { pool := { blocks := 99, short := 1 } })).clock.elapsed ∧ 99 < 100 * 1) ∧
    (((advance 245760000 (allLike { pool := { saturated := true } })).halves.getD 15 {}).pool.saturated = true ∧
      0 + 10 * ticksPerSecond ≤ (advance 245760000 (allLike { pool := { saturated := true } })).clock.elapsed) ∧
    ((advance 1474560000 { only (dabSel 1) with service := { mots := [{ ctx := 1023, sel := 3, transportId := 65535, lastAt := 0 }] } }).service.mots.any
      fun o => sameMot 1023 3 65535 o && decide (o.lastAt + minute ≤ 1474560000)) = true := by decide

/-- A set of an FM lead and a member in a state. -/
def setOf (b : Branch) (k : MemberState) : SourceSet :=
  { cfg := {}, active := .fm, members := [{ ctx := 0, sel := 255, rank := 0 }, { ctx := 1023, sel := 3, rank := 1, branch := b, state := k }] }

/-- The set as set 511. -/
def linked (g : SourceSet) : Part := { live with sets := [(511, g)] }

/-- Two digital members of one coding, of which the first, the anchor of its branch, has joined. -/
def units : SourceSet :=
  { cfg := {}, active := .digital 1 []
    members := [{ ctx := 0, sel := 3, rank := 0, branch := .digital 1 [], state := .joined },
                { ctx := 1023, sel := 3, rank := 1, branch := .digital 1 [], state := .seek }] }

/-- Both branches have joined and the active one has been bad since tick 0. -/
def failing : SourceSet :=
  { setOf (.digital 1 []) .joined with judge := [{ branch := .fm, bad := true, since := 0, failedAt := none }] }

/-- A policy's action, due on tick 90. -/
def follow90 : FollowDue := { due := 90, set := 5, act := .rehome 98500 }

/-- A scan whose dwell ends on tick 90. -/
def scan90 : ScanRun := { desc := desc, origin := .ring, execHt := 0, ctxs := [], left := [], found := 0, dwell := 90, dwellEnd := 90 }

/-- A service last confirmed on tick 0. -/
def service0 : DbService := { key := { kind := 0, id := 1 }, heard := true, pty := 0, ecc := 0, label := [], confirmed := 0 }

/-- An object without a segment since tick 0. -/
def mot0 : MotObject := { ctx := 1023, sel := 3, transportId := 65535, lastAt := 0 }

/-- The members of a set and their contexts, an FM lead and a DAB selection, in TRACK. -/
def heardSet : Part := { linked (setOf (.digital 1 []) .verify) with ctxs := [(0, fmCtx), (1023, dabSel 1)] }

theorem witness_ServiceEventsComplete :
    (sourceSet 511 (advance 24576000 heardSet) = some (setOf (.digital 1 []) .verify) ∧
      memberIdx (setOf (.digital 1 []) .verify) 1023 3 = some 1 ∧ tau (advance 24576000 heardSet) % 24576000 = 0 ∧
      byAudio (setOf (.digital 1 []) .verify) 1 = true ∧
      (setOf (.digital 1 []) .verify).members.all (fun y => windowFit y (advance 24576000 heardSet)) = true) ∧
    (memberIdx units 1023 3 = some 1 ∧ byUnits units 1 = true ∧
      unitsMatch { memberOk := true, anchorOk := true, equal := true, offset := 0 } = true ∧ offsetFits units (20 * 76800) = true) ∧
    (30 * ticksPerSecond ≤ (advance (30 * ticksPerSecond) (linked units)).clock.elapsed ∧
      sourceSet 511 (advance (30 * ticksPerSecond) (linked units)) = some units) ∧
    (sourceSet 511 (advance 24576000 (linked failing)) = some failing ∧
      blendTo failing (advance 24576000 (linked failing)).clock.elapsed = some (.digital 1 [])) ∧
    tau (advance 2457600 live) % 2457600 = 0 ∧
    ((advance 90 { live with service := { actions := [follow90] } }).service.actions = [follow90] ∧
      follow90.due ≤ (advance 90 { live with service := { actions := [follow90] } }).clock.elapsed ∧
      follow90.waits (advance 90 { live with service := { actions := [follow90] } }) = false ∧
      quietB (doAct (advance 90 live) follow90) = true) ∧
    ((advance 90 { live with service := { scans := [scan90] } }).service.scans = [scan90] ∧
      scan90.dwellEnd ≤ (advance 90 { live with service := { scans := [scan90] } }).clock.elapsed) ∧
    ((advance (15 * minute) { live with service := { db := { services := [service0] } } }).service.db.services = [service0] ∧
      aged service0.confirmed (advance (15 * minute) { live with service := { db := { services := [service0] } } }) = true ∧
      keyed service0.key (advance (15 * minute) { live with service := { db := { services := [service0] } } }) = false) ∧
    ((advance minute { live with service := { mots := [mot0] } }).service.mots.any fun o => sameMot 1023 3 65535 o &&
      decide (o.lastAt + minute ≤ (advance minute { live with service := { mots := [mot0] } }).clock.elapsed)) = true := by decide

/-- A record of flow 1. -/
def rec1 : Record :=
  { flow := 1, flags := 0, length := 8, ht := 0, tau := 0, seq := 0, type := 1, subtype := 0, origin := 0, count := 1, chans := 2, plan := 0
    items := [] }

/-- A ring with room for a record in the buffer in use. -/
def ring511 : FlowRing :=
  { entry := bind511.entry, current := some { desc := { addr := 0, size := 65536, cookie := 0 }, used := 0, records := 0, first := 0 } }

/-- Flow 1 has a record and goes to a target. -/
def sending (x : FlowTarget) : Part := { second with
  hif := { hif0 with flq := [(511, ring511)] }
  chain := { addr := some 0, parts := 2, up := { up := true }, down := { up := true } }
  flows := [(1, { flow0 1 0 65535 with target := x, staged := [rec1] })] }

/-- A record open since tick 0. -/
def open0 : OpenRecord := { ht := 0, tau := 0, first := 0, count := 1, bytes := 8, flags := 0, chans := 0, plan := 0, items := [] }

/-- A variable flow with an open record. -/
def varying : Part := { live with flows := [(1, { flow0 7 0 65535 with opened := some open0 })] }

/-- A bound flow of context 1023, which is in sync group 31, with a delay of 1 ms. -/
def grouped : Part := { live with
  ctxs := [(1023, { fmCtx with group := some 31 })]
  flows := [(1, { flow0 1 0 1023 with target := .ring 511, delay := 1 })] }

theorem witness_FlowEventsComplete :
    ((flow 1 (advance 1228800 varying)).any fun f => f.variable && f.opened.any fun o =>
      decide (o.first + 1228800 ≤ (advance 1228800 varying).clock.elapsed)) = true ∧
    ((pickFlow 0 (refreshTags (advance 1 (sending (.ring 511))))).any fun f =>
      decide (f.2.staged = [rec1] ∧ f.2.target = .ring 511)) = true ∧
    ((pickFlow 2 (refreshTags (advance 1 (sending (.chain 1 4095))))).any fun f =>
      decide (f.2.staged = [rec1] ∧ f.2.target = .chain 1 4095)) = true ∧
    ((advance 24576000 (sending (.ring 511))).hif.enable = true ∧ flowRing 511 (advance 24576000 (sending (.ring 511))) = some ring511 ∧
      ring511.stopped = false ∧ 0 + ceilDiv (ring511.entry.flush * 24576) 10 ≤ (advance 24576000 (sending (.ring 511))).clock.elapsed) ∧
    ((flow 1 (advance 1 grouped)).any fun f => decide (groupOf f (advance 1 grouped) = some 31) && f.bound && decide (f.staged = []) &&
      f.filled.isNone) = true ∧ groupDelay 31 (advance 1 grouped) ≠ 0 ∧
    (advance 1 live).dram.correctedAt = none ∧
    (advance 24575999 { live with dram := { correctedAt := some 0 } }).clock.elapsed < 0 + ticksPerSecond := by decide

/-- The Kite with a configuration and its synthesizer locked. -/
def kiteOn (k : Kite) : Part := { live with kite := { k with cfg := some kiteBlock }, ksyn := { locked := true, channel := some 0 } }

/-- A configuration that has found its words. -/
def pending1 : KitePending := { block := kiteBlock, count := 1, desc := desc, origin := .ring }

/-- A frame on air that ends on tick 5000. -/
def tx5000 : KiteTx :=
  { session := 9, frame := { cls := 0, length := 1, payload := [0], seq := 0, tag := 7 }, channel := 0, sf := 7, subBand := 0, power := 14
    start := 1000, startHt := 1000, finish := 5000, blind := 500, begun := true }

/-- A header that passes. -/
def header1 : KiteHeader := { ok := true, length := 1, session := 9, cls := 0, dir := 0, ackreq := false, seq := 0, slot := 0 }

/-- Demodulator 7 in a state since tick 0. -/
def demodIn (k : DemodState) : Demod := { state := k, sf := 12, head := some header1 }

/-- The Kite receiving in demodulator 7. -/
def receiving (k : DemodState) : Part := kiteOn { demods := List.replicate 7 {} ++ [demodIn k] }

/-- The Kite on a tick after whose actions nothing is left to do. -/
def kiteAt (n : Nat) : Part := settleTx (tidyPins (advance n (kiteOn {})))

/-- With no pilot chirp seen, `applyPilots` is no change. -/
theorem applyPilots_nil (m : Part) : applyPilots [] m = m := rfl

theorem witness_KiteEventsComplete :
    ((settleTx (advance 24576000 (kiteOn { pending := some pending1 }))).kite.pending = some pending1 ∧
      onSecond (settleTx (advance 24576000 (kiteOn { pending := some pending1 }))) = true ∧
      (settleTx (advance 24576000 (kiteOn { pending := some pending1 }))).kite.txs = []) ∧
    (quietB (advance 1536 (kiteOn {})) = true ∧ (kiteAt 1536).kite.cfg = some kiteBlock ∧ onSlot (kiteAt 1536) = true ∧
      (kiteAt 1536).kite.committed ≤ (kiteAt 1536).clock.elapsed ∧ (kiteAt 1536).kite.pending = none ∧
      (kiteAt 1536).power.brace = none ∧ ksynUp (kiteAt 1536) = true ∧ (kiteAt 1536).kite.txs.length < 2) ∧
    ((settleTx (advance 5000 (kiteOn { txs := [tx5000] }))).kite.txs = [tx5000] ∧
      tx5000.finish ≤ (settleTx (advance 5000 (kiteOn { txs := [tx5000] }))).clock.elapsed) ∧
    (quietB (advance 1536000 (kiteOn {})) = true ∧ (kiteAt 1536000).kite.cfg.isSome = true ∧
      (kiteAt 1536000).clock.ht % ticksPerSecond % windowTicks = 0 ∧ (kiteAt 1536000).kite.pending = none ∧ onSecond (kiteAt 1536000) = false) ∧
    (kiteBlind (settleTx (advance 1 (kiteOn {}))) = false ∧
      ((settleTx (advance 1 (kiteOn {}))).kite.demods.any fun d => duplicate { sf := 12, bin := 0, level := -100 } d (settleTx (advance 1 (kiteOn {})))) =
        false ∧
      ((weakest [.sync, .header] (settleTx (advance 1 (kiteOn {})))).filter fun e => decide (e.2.level + 30 ≤ -100)) = none ∧
      ((settleTx (advance 1 (kiteOn {}))).kite.demods.findIdx? fun d => decide (d.state = .free)) = some 0) ∧
    ((settleTx (advance 24576000 (receiving .sync))).kite.demods[7]? = some (demodIn .sync) ∧
      (demodIn .sync).since + symbolTicks 10 (demodIn .sync).sf (rxBw (settleTx (advance 24576000 (receiving .sync)))) ≤
        (settleTx (advance 24576000 (receiving .sync))).clock.elapsed) ∧
    (settleTx (advance 1 (receiving .header))).kite.demods[7]? = some (demodIn .header) ∧
    ((settleTx (advance 1 (receiving .payload))).kite.demods[7]? = some (demodIn .payload) ∧ (demodIn .payload).head.isSome = true) := by decide

theorem witness_KiteEventsComplete_sync : (modeOf 12 2688).1 = 12 ∧ (modeOf 12 128).1 ≠ 12 := by decide +kernel

/-- Every port like `x`. -/
def portsLike (x : Port) : Part := { live with ports := List.replicate 8 x }

/-- A master's and a slave's configuration. -/
def cfgPort (slave : Bool) : PortCfg := { format := 0, slave := slave, slots := 2, bits := 32, clkLead := 256, clkTrail := 256, mclk := 0 }

/-- A port in a state. -/
def portIn (slave : Bool) (k : PortState) : Port := { cfg := some (cfgPort slave), state := k, locked := true }

/-- A queued start of port 7. -/
def start7 : Action := { order := 0, due := 131072, late := false, desc := desc, origin := .ring, cmd := .audioPortStart 7 }

/-- A start whose first frame is due on tick 512. -/
def lead512 : Port := { portIn false .lead with start := some { verdict := .lead, due := 512 } }

theorem witness_AudioEventsComplete :
    ((advance 0 { portsLike (portIn false .idle) with sched := { queue := [start7] } }).sched.queue.find? (startsPort 7) = some start7 ∧
      (port 7 (advance 0 { portsLike (portIn false .idle) with sched := { queue := [start7] } })).start = none ∧
      start7.due ≤ (advance 0 { portsLike (portIn false .idle) with sched := { queue := [start7] } }).clock.ht + 512 * (cfgPort false).clkLead) ∧
    ((port 7 (advance 512 (portsLike lead512))).start = some { verdict := .lead, due := 512 } ∧
      (port 7 (advance 512 (portsLike lead512))).state = .lead ∧ 512 ≤ (advance 512 (portsLike lead512)).clock.ht ∧
      (port 7 (advance 512 (portsLike lead512))).locked = true ∧ tau (advance 512 (portsLike lead512)) % 512 = 0) ∧
    ((port 7 (advance 9 (portsLike { portIn false .trail with trailEnd := some 9 }))).trailEnd = some 9 ∧
      (port 7 (advance 9 (portsLike { portIn false .trail with trailEnd := some 9 }))).state = .trail) ∧
    ((port 7 (advance 1 (portsLike (portIn true .run)))).cfg = some (cfgPort true) ∧ (cfgPort true).slave = true ∧
      (port 7 (advance 1 (portsLike (portIn true .run)))).state = .run ∧ 63 < (cfgPort true).frameBits ∧ (cfgPort true).frameBits ≤ 64) ∧
    (port 7 (advance 1 (portsLike (portIn true .lead)))).state = .lead ∧
    ((port 7 (advance 1 (portsLike (portIn true .run)))).slave = true ∧ (port 7 (advance 1 (portsLike (portIn true .run)))).lastTx = none) ∧
    (xrunFits (port 7 (advance 1 (portsLike (portIn true .run)))) .tx false 0 = true ∧
      xrunFits (port 7 (advance 1 (portsLike (portIn false .run)))) .rx true 3 = true) ∧
    (port 7 (advance 1 (portsLike { portIn true .stalled with held := .run }))).state = .stalled ∧
    (tau (advance 512 (portsLike (portIn false .run))) % 512 = 0 ∧ (port 7 (advance 512 (portsLike (portIn false .run)))).state = .run) := by decide

/-- Part 1 of a chain of four with a break at link 2. -/
def broken : Part := { live with chain := { addr := some 1, parts := 4, breaks := [2] } }

theorem witness_TopologyEventsComplete :
    ((3 : Nat) ≠ ownAddr (advance 1 broken) ∧ isHead (advance 1 broken) = false ∧
      (advance 1 broken).chain.breaks.contains (linkIndex 3 .down (advance 1 broken)) = false) ∧
    (1 : Nat) = ownAddr (advance 1 broken) ∧
    ((2 : Nat) ≠ ownAddr (advance 1 broken) ∧ (advance 1 broken).chain.breaks.contains (linkIndex 2 .down (advance 1 broken)) = true) ∧
    holdsWork (advance 1 broken) = false ∧
    (advance 1 { live with chain := { up := { dcFault := true } } }).chain.up.dcFault = true := by decide

/-- A transfer to part 1 that a CHAIN_SEND waits for. -/
def transfer4 : Transfer := { seq := 4, dest := 1, item := .message [0] }

/-- The CHAIN_SEND that waits for it. -/
def send4 : ChainSend := { desc := desc, origin := .ring, waiting := [4], failed := [], single := true }

/-- The head of a chain of two with work on its way. -/
def sender : Part := { live with chain :=
    { addr := some 0, parts := 2, rollAt := some 0, transfers := [transfer4], sends := [send4], seen := [(1, 8)]
      forwarded := [(1, desc, 0x20)] } }

theorem witness_TransferEventsComplete :
    ((advance 1 second).chain.rollAt = none ∧ isHead (advance 1 second) = false ∧ (advance 1 second).chain.quarantined = false) ∧
    (isHead (advance 1228800 sender) = true ∧ 1 < (advance 1228800 sender).chain.parts ∧ (advance 1228800 sender).chain.rollAt = some 0 ∧
      (advance 1228800 sender).clock.elapsed ≤ 0 + 1228800) ∧
    ((advance 1 sender).chain.transfers.find? (fun x => decide (x.seq = 4)) = some transfer4 ∧ (advance 1 sender).chain.sends = [send4] ∧
      send4.waiting = [4]) ∧
    (advance 1 sender).chain.seen.contains (1, 7) = false ∧ (advance 1 sender).chain.seen.contains (1, 8) = true ∧
    takeForwarded 1 7 0x20 (advance 1 sender).chain.forwarded = (some desc, []) ∧
    (advance 1 second).chain.records.contains (0, 4095, 0) = false := by decide

/-- A part without its rails. -/
def dark (over_ : Bool) : Part := { power := { railsUp := false, overVoltage := over_ } }

/-- BRACE since tick 0. -/
def brace0 : Brace := { entered := 0, qualify := 0, since := -246, vinMin := 10500 }

/-- A part in BRACE. -/
def braced : Part := { live with power := { brace := some brace0 } }

theorem witness_PowerEventsComplete :
    ((advance 1 (dark false)).power.railsUp = false ∧ (advance 1 (dark false)).power.overVoltage = false ∧
      (advance 1 (dark false)).power.hot = false) ∧
    ((advance 1 (dark true)).power.railsUp = false ∧ (advance 1 (dark true)).power.overVoltage = true) ∧
    isHead (advance 1 second) = false ∧ isHead (advance 1 live) = true ∧
    ((advance 1 live).power.railsUp = true ∧ (advance 1 live).power.brace = none ∧ 10999 < 100 * (advance 1 live).power.warn) ∧
    ((advance 24576 braced).power.brace = some brace0 ∧ 100 * (advance 24576 braced).power.warn + 200 < 11201 ∧
      brace0.qualify + 24576 ≤ (advance 24576 braced).clock.elapsed) ∧
    (brace0.lowRaised = false ∧ brace0.entered + ticksPerSecond ≤ (advance 24576000 braced).clock.elapsed) ∧ 7 < tilesFitted live := by decide

/-- What the boot ROM finds in slot 0. -/
def boot0 : BootOutcome :=
  { source := some 0, image := image1, elapsedMs := 0, failedHalves := [], failedTiles := [], gondolaFail := 0, temps := [] }

/-- A part that is REDUCED, with its background estimators converged and its SPLL locked. -/
def reduced : Part := { allLike { cal := { bg := .converged } } with boot := { stage := 8 }, spll := { state := .locked, everLocked := true } }

/-- A quarantined part that is to reset on tick 9. -/
def leaving : Part := { second with chain := { addr := some 1, quarantined := true, rebootAt := some 9 } }

/-- An image is being staged. -/
def staging : Part := { live with flash := { staging := some (desc, .ring, image1) } }

/-- Tile 7 is in reset. -/
def resetting : Part := onTile 7 (fun x => { x with inReset := true }) live

theorem witness_BootEventsComplete :
    ((advance 1 State.reset.part).power.railsUp = true ∧ (advance 1 State.reset.part).boot.stage = 0 ∧ boot0.source = some 0 ∧
      sourceAllowed 0 (advance 1 State.reset.part) = true ∧ imageValid boot0.image (advance 1 State.reset.part) = true) ∧
    ((advance 245760000 waiting).boot.stage ≤ 3 ∧ (advance 245760000 waiting).power.railsUp = true ∧
      (advance 245760000 waiting).boot.released + 10 * ticksPerSecond ≤ (advance 245760000 waiting).clock.elapsed) ∧
    ((advance 49152000 { waiting with oasis := { chainBoot := true } }).oasis.chainBoot = true ∧
      (advance 49152000 { waiting with oasis := { chainBoot := true } }).boot.released + 2 * ticksPerSecond ≤
        (advance 49152000 { waiting with oasis := { chainBoot := true } }).clock.elapsed) ∧
    ((advance 1 { live with boot := { stage := 7 } }).boot.stage = 7 ∧ bringUpDone (advance 1 { live with boot := { stage := 7 } }) = true) ∧
    ((advance 1 reduced).boot.stage = 8 ∧ fullReady (advance 1 reduced) = true) ∧
    ((advance 9 leaving).chain.quarantined = true ∧
      ((advance 9 leaving).chain.rebootAt.any fun e => decide (e ≤ (advance 9 leaving).clock.elapsed)) = true) ∧
    (((advance 9 { live with power := { resetAt := some 9 } }).power.resetAt.any fun e =>
        decide (e ≤ (advance 9 { live with power := { resetAt := some 9 } }).clock.elapsed)) = true ∧
      (advance 9 { live with power := { resetAt := some 9 } }).dram.firmwareBad = false) ∧
    ((advance 1 staging).power.brace = none ∧ (advance 1 staging).flash.staging = some (desc, .ring, image1)) ∧ 7 < tilesFitted resetting ∧
    ((advance 1 resetting).tiles.getD 7 {}).inReset = true ∧ isLive 15 (advance 1 live) = true ∧ tileHolds 15 (advance 1 live) = false := by
  decide

/-! ## Hypotheses of the statements about steps, acceptance, answers, reset and fences -/

theorem witness_EmptyQueueIdles : (at0 live).pending = [] := by decide

/-- BH2820 has two tiles. -/
def small : Part := { live with ident := { variant := .bh2820 } }

theorem witness_UnfittedRowsStop : halvesFitted small ≤ 4 ∧ tilesFitted small ≤ 2 ∧ ¬ halvesFitted small ≤ 3 ∧ ¬ tilesFitted small ≤ 1 := by
  decide

theorem witness_UnreadCommandsHaveNoEffect :
    (Instr.nop desc).source = .inl (desc, .nop) ∧ readDesc desc off0 = none ∧ readDesc { desc with ring := 3 } live ≠ none := by decide

/-- A quarantined part. -/
def quarantined : Part := { live with chain := { quarantined := true } }

theorem witness_BadDescriptorsAreAnswered :
    (Instr.scan desc { half := 0, raster := 0, first := 0, last := 0, dwell := 0, watches := 0 }).source =
      .inl (desc, .scan { half := 0, raster := 0, first := 0, last := 0, dwell := 0, watches := 0 }) ∧
    ((readDesc desc second).isSome = true ∧ isHead second = false ∧ desc.dest ≠ ownAddr second) ∧
    ((readDesc { desc with clean := false } live).isSome = true ∧ isHead live = true) ∧
    (isHead live = true ∧ live.chain.parts ≤ ({ desc with dest := 1 } : Desc).dest ∧ ({ desc with dest := 1 } : Desc).dest ≠ ownAddr live) ∧
    ((readDesc desc quarantined).isSome = true ∧ desc.clean = true ∧ desc.readable = true ∧ desc.dest = ownAddr quarantined ∧
      quarantined.chain.quarantined = true) := by decide

/-- What `runs` decides, without at = 0 and the checks from order 4 on. -/
theorem admitted_of {d : Desc} {c : HostCmd} {m : Part}
    (h : ((readDesc d m).isSome && (isHead m || secondaryAllows c) && d.clean && d.readable && decide (d.dest = ownAddr m)
      && !m.chain.quarantined) = true) : Admitted d c m := by
  simp only [Bool.and_eq_true, decide_eq_true_eq, Bool.or_eq_true, Bool.not_eq_true'] at h
  obtain ⟨⟨⟨⟨⟨h1, h2⟩, h3⟩, h4⟩, h5⟩, h6⟩ := h
  exact { read := h1, primary := h2, clean := h3, readable := h4, here := h5, trusted := h6 }

/-- A descriptor for tick 5000. -/
def later : Desc := { desc with due := 5000 }

theorem witness_RefusalsFollowTheTable :
    Admitted desc (.ctxClose 64) live ∧ checkCmd desc (.ctxClose 64) (readPart desc live) ≠ stOk :=
  ⟨admitted_of (by decide), by decide⟩

theorem witness_CommandsAtZeroExecuteAtOnce :
    (Instr.nop desc).source = .inl (desc, .nop) ∧ Executes desc .nop live ∧ (∀ h, HostCmd.nop ≠ .calRun h) ∧ (∀ p, HostCmd.nop ≠ .audioPortStart p) :=
  ⟨rfl, executes_of_runs (by decide), fun _ => by simp, fun _ => by simp⟩

theorem witness_ScheduledCommandsWait :
    Admitted later (.syncArmReset 31 0 0) live ∧ later.due ≠ 0 ∧ (classOf (.syncArmReset 31 0 0)).isSome = true ∧
    later.due ≤ (readPart later live).clock.ht + 2 ^ 42 ∧ later.res = true ∧ later.resSize ≠ 0 ∧
    checkCmd later (.syncArmReset 31 0 0) (readPart later live) = stOk ∧ locked (.syncArmReset 31 0 0) (readPart later live) = false ∧
    (readPart later live).sched.queue.length < 1024 ∧ later.strict = false ∧
    checkCmd later (.calRun 254) (readPart later live) = stOk ∧ (classOf (.calRun 254)).isSome = true :=
  ⟨admitted_of (by decide), by decide, by decide, by decide, by decide, by decide, by decide, by decide, by decide, by decide, by decide, by decide⟩

/-- The queue holds 1024 actions. -/
def fullQueue : Part := { live with sched := { queue := List.replicate 1024 act0, high := true } }

theorem witness_QueueLimits :
    Admitted later (.disarm 31) fullQueue ∧ later.due ≠ 0 ∧ (classOf (.disarm 31)).isSome = true ∧
    later.due ≤ (readPart later fullQueue).clock.ht + 2 ^ 42 ∧ needsBlock (.disarm 31) = false ∧
    checkCmd later (.disarm 31) (readPart later fullQueue) = stOk ∧ locked (.disarm 31) (readPart later fullQueue) = false ∧
    1024 ≤ (readPart later fullQueue).sched.queue.length ∧ fullQueue.sched.high = true :=
  ⟨admitted_of (by decide), by decide, by decide, by decide, by decide, by decide, by decide,
    by show 1024 ≤ (List.replicate 1024 act0).length; rw [List.length_replicate], by decide⟩

theorem witness_ActionsExecuteInOrder :
    firstAction [{ act0 with order := 1 }, act0, { act0 with order := 2, due := 5001 }] = some act0 := by decide

theorem witness_CompletionsCarryTheirCommand : Origin.ring.isRemote = false ∧ (Origin.late .ring).isRemote = false := by decide

/-- A completion for ring 3. -/
def cpl3 : Completion :=
  { ring := 3, tag := 0, opcode := 0, status := 0, execHt := 0, result := 0, src := 0, trunc := false, block := none }

/-- Ring 3 and the event ring are full. -/
def ringsFull : Part := { live with hif := { hif0 with
  cplq := List.replicate 4 { log2 := 4, prod := 16 }, evq := { log2 := 4, prod := 16 } } }

theorem witness_FullRingsHold :
    (cpl3.ring < live.hif.cplq.length ∧ live.hif.enable = true ∧ (cplRing 3 live).held = [] ∧ cplOpen (cplRing 3 live) = true) ∧
    cplOpen (cplRing 3 ringsFull) = false ∧ evqOpen live = true ∧ cplFull (cplRing desc.ring ringsFull) = true ∧ evqOpen ringsFull = false := by
  decide

theorem witness_EventsAreHeldThenDropped :
    (isHead live = true ∧ (route 255 live).toRing = true ∧ live.hif.evq.held = [] ∧ live.hif.evq.dropped = 0 ∧ evqOpen live = true) ∧
    (isHead ringsFull = true ∧ (route 0 ringsFull).toRing = true ∧ evqOpen ringsFull = false ∧ ringsFull.hif.evq.held.length < 1024) := by decide

/-- The event ring is full and the events of `l` are held. -/
def eventsFull (l : List (Event × Nat)) : Part := { live with hif := { hif0 with evq := { log2 := 4, prod := 16, held := l } } }

/-- An event. -/
def event0 : Event := { source := 0, origin := 0, code := 0, seq := 0, stamp := 0, payload := [] }

theorem eventsFull_held (l : List (Event × Nat)) (h : l.length = 1024) :
    isHead (eventsFull l) = true ∧ (route 0 (eventsFull l)).toRing = true ∧ evqOpen (eventsFull l) = false ∧
    1024 ≤ (eventsFull l).hif.evq.held.length := ⟨rfl, rfl, by simp only [evqOpen, eventsFull, show ¬ ringUsed 16 0 < 2 ^ 4 by decide, decide_false, Bool.and_false], by show 1024 ≤ l.length; omega⟩

theorem witness_EventsAreHeldThenDropped_full :
    ∃ m, isHead m = true ∧ (route 0 m).toRing = true ∧ evqOpen m = false ∧ 1024 ≤ m.hif.evq.held.length :=
  ⟨_, eventsFull_held (List.replicate 1024 (event0, 0)) List.length_replicate⟩

theorem witness_StepKeepsSound : Sound (fusedOf State.reset.part) State.reset.part ∧ ∃ u, step State.reset = .next u :=
  ⟨⟨rfl, by simp [Arrays, State.reset], ⟨by decide, fun _ => by decide, fun h => by cases h⟩, ⟨by decide, by decide⟩⟩, _, rfl⟩

theorem witness_ContextIdsNameSlots : ctxHalf (7 * 128 + 1 * 64 + 63) = 15 ∧ ctxHalf 1023 = ctxHalf 960 := by decide

/-- Half 15 is fenced, half 14 parked. -/
def fenced15 : Part := { live with halves := List.replicate 14 {} ++ [{ mode := .parked }, { mode := .fenced }] }

theorem witness_SlotChecks :
    slotOutside (fmParams 1024).ctx live = true ∧
    (slotOutside (fmParams 960).ctx fenced15 = false ∧ slotFenced (fmParams 960).ctx fenced15 = true) ∧
    (slotOutside (fmParams 959).ctx fenced15 = false ∧ slotFenced (fmParams 959).ctx fenced15 = false ∧
      slotParked (fmParams 959).ctx fenced15 = true) ∧
    (slotOutside 1023 live = false ∧ slotFenced 1023 live = false ∧ slotHeld 1023 live = false) := by decide

theorem witness_OasisStoresHt :
    onSecond (advance 24576000 live) = true ∧
    ((advance 1 live).power.railsUp = true ∧ (advance 1 live).power.brace = none ∧ 10999 < 100 * (advance 1 live).power.warn) := by decide

theorem witness_LockedRegistersKeepTheirValues :
    (advance 1 { live with hif := { hif0 with lock := true } }).hif.lock = true ∧ (advance 1 live).hif.enable = true ∧
    (0x1040 : Nat) ≤ 0x10B8 ∧ (0x10B8 : Nat) < 0x10C0 ∧ (0x10B8 : Nat) % 32 ∈ [0x00, 0x04, 0x08, 0x10, 0x14, 0x18] := by decide

theorem witness_HostResetClearsAndKeeps : isHead (advance 1 busy) = true ∧ (advance 1 busy).ctxs ≠ [] := by decide

theorem witness_FencingWithdrawsAHalf :
    15 < halvesFitted live ∧ 15 < (advance 1 live).halves.length ∧ isFenced 15 (advance 1 live) = false ∧ paired 15 (advance 1 live) = false := by
  decide

theorem witness_FadesRefuseCoefficients :
    look 1023 (only { fmCtx with chain := { fade := some fade0 } }).ctxs = some { fmCtx with chain := { fade := some fade0 } } ∧
    (only { fmCtx with chain := { fade := some fade0 } }).clock.elapsed < fadeEnd { fmCtx with chain := { fade := some fade0 } } fade0 ∧
    fadeEnd { fmCtx with chain := { fade := some fade0 } } fade0 ≤
      (advance fadeTick (only { fmCtx with chain := { fade := some fade0 } })).clock.elapsed := by decide

theorem witness_MovedCopyReachesItsState :
    look 1023 (fmIn .search).ctxs = some { fmCtx with a := { state := .search } } ∧ copyIn 1023 .a .search (fmIn .search) = true ∧
    (({ fmCtx with a := { state := .search } } : Ctx).copy .a).map CopyState.holds = some [] := by decide

/-! ## Worked examples and tables of the spec -/

/-- The part after an outcome. -/
def after : Host.Outcome State Fault Refusal → Part
  | .next u => u.part
  | _ => {}

/-- The stop of an outcome. -/
def stopped : Host.Outcome State Fault Refusal → Option Fault
  | .fault f => some f
  | _ => none

/-- Chapter 2: context 721 is slot 17 of half h11; a BH2840 does not have it (R4, R10). -/
theorem test_context_721 :
    ctxHalf 721 = 11 ∧ 721 % 64 = 17 ∧ slotOutside 721 live = false ∧ slotOutside 721 { live with ident := { variant := .bh2840 } } = true := by
  decide

/-- Chapter 7, "Tuning": block 12C uses bin 20 at P1 and bin 21 at P0, with the word −566,697,074; 98.300 MHz uses bin 9 (R147, R152). -/
theorem test_tuning : binOf 1 227360000 = 20 ∧ binOf 0 227360000 = 21 ∧ ncoWord 1 227360000 = -566697074 ∧ binOf 1 98300000 = 9 := by decide

/-- Chapter 14: a 255-byte frame at SF12 and rate 1/2 has 384 symbols; at SF7 it has 617, and an airtime of 3,882,615 ticks at 500 kHz with
a ramp of 16 µs (R380, R381). -/
theorem test_kite_airtime : frameSymbols 12 0 255 = 384 ∧ frameSymbols 7 0 255 = 617 ∧ airtime 16 7 2 0 255 = 3882615 := by decide

/-- Chapter 12: a debt of 55,312 bytes is 39,952 after 491,520 ticks at 768,000 bytes/s, and 0 after 5,113,856 ticks at 192,000 (R362). -/
theorem test_flow_debt :
    (accrue (advance 491520 live) { flow0 6 0 65535 with rate := some 768000, ballast := -55312 * 65536 }).ballast = -39952 * 65536 ∧
    (accrue (advance 5113856 live) { flow0 6 0 65535 with rate := some 192000, burst := 8192, ballast := -39952 * 65536 }).ballast = 0 := by
  decide

/-- Chapter 9, the fade on an FM stereo context: the mute's target is 20 dB at a CNR of 2 dB and 0 at 34 dB, and is reached by 2 dB per
block; s falls by 0.025 and rises by 0.00125 (R205, R212). -/
theorem test_mute_and_blend :
    muteTarget 10 20 20 = 200 ∧ muteTarget 10 20 340 = 0 ∧ muteMove 0 200 = 20 ∧ muteMove 200 0 = 190 ∧ blendMove 800 0 = 780 ∧
    blendMove 0 800 = 1 := by decide

/-- Chapter 4, the step: from 122,978,225,357 by 78,643 ticks to 122,978,304,000, whose low word is 0xA2140000 (R66). -/
theorem test_step :
    let m : Part := { live with clock := { ht := 122978225357, steps := [{ tick := some 122978225357, steps := 78643, rem := 0, epoch := none, grid := none }] } }
    (after (exec (.htStep 122978225357) (at0 m))).clock.ht = 122978304000 ∧ 122978304000 % 2 ^ 32 = 0xA2140000 := by decide

/-- Chapter 16, the dip: the exit event gives 3,469 µs and 10,420 mV (R447). -/
theorem test_brace_exit :
    let b : Brace := { brace0 with qualify := 85000 }
    (after (exec (.braceExit 109576 11201 10420) (at0 { live with power := { brace := some b } }))).host.events.map Event.payload =
      [[⟨0, 1, 1⟩, ⟨4, 4, 3469⟩, ⟨8, 2, 10420⟩]] := by decide +kernel

/-- Chapter 17: CPLQ0 smaller than CMDQ0 is cfg_err 5 with err_ring 4; with as many entries the enable succeeds (R472). -/
theorem test_hif_enable :
    let hif (k : Nat) : Hif := {
      dbPage := 0x340040000, shadowPage := 0x340041000, flqTable := 0x340042000, dbPoll := 4
      cmdq := [{ base := 0x340000000, log2 := 10 }, {}, {}, {}], cplq := [{ base := 0x340010000, log2 := k, vector := 1 }, {}, {}, {}]
      evq := { base := 0x340020000, log2 := 12 } }
    let u (k : Nat) : Part := after (exec (.hifEnable 1) (at0 { live with hif := hif k }))
    ((u 9).hif.enable, (u 9).hif.cfgErr, (u 9).hif.errRing) = (false, 5, 4) ∧ ((u 10).hif.enable, (u 10).hif.cfgErr) = (true, 0) := by decide

/-- Chapter 8: a half that holds 128 LU takes no AM context; after a retune of FM stereo to mono it does (R171, Table CTX-2). -/
theorem test_capacity :
    let dab (n : Nat) : Ctx := { cfg := { type := 7, freq := 223936000, reserve := n } }
    let full : Part := { live with ctxs := (List.range 8).map (fun i => (i, dab 8)) }
    let am : CtxParams := { fmParams 50 with type := 1, freq := 999000 }
    luHeld 0 full = 128 ∧ openStatus false am full = stNoCapacity ∧
    openStatus false am { full with ctxs := full.ctxs.drop 1 } = stOk := by decide

/-- Table CTX-1: the load units of the types. -/
theorem test_load_units :
    ([1, 2, 3, 4, 5, 6].map fun t => loadOf { type := t, freq := 0 }) = [1, 1, 2, 3, 3, 6] ∧ loadOf { type := 7, freq := 0, reserve := 14 } = 22 := by
  decide

/-- Table CHN-3: CIC ratio, half-bands, decimation and input rate of the final FIR for DAB at P0, P1 and P2, and FM, DRM+ and AM at P1. -/
theorem test_chain_configurations :
    ([0, 1, 2].map fun p => (Family.dab.cic p, Family.dab.halfBands p, Family.dab.decim p, Family.dab.firRate p)) =
      [(3, 1, 7, 3584000), (5, 0, 9, 4608000), (3, 1, 2, 4096000)] ∧
    ([Family.fm, Family.drmPlus, Family.am].map fun f => (f.cic 1, f.halfBands 1, f.decim 1, f.firRate 1)) =
      [(15, 1, 2, 768000), (15, 2, 2, 384000), (15, 4, 2, 96000)] := by decide

/-- R380: the CRC-32 of IEEE 802.3, by its published check value for the digits 1 to 9. -/
theorem test_crc32 : crc32 (byteBits [49, 50, 51, 52, 53, 54, 55, 56, 57]) = 0xCBF43926 := by decide +kernel

/-- R379: information bits followed by their parity satisfy H·c = 0 in each code, and an all-ones word of KQC-192 does not. -/
theorem test_kqc :
    ([kqc192, kqc576 0, kqc576 1].map fun c =>
      let info := (List.range c.infoBits).map fun i => decide (i * i % 7 < 3)
      (c.infoBits, c.parityBits, c.holds (info ++ c.parity info))) = [(96, 96, true), (288, 288, true), (384, 192, true)] := by decide +kernel

/-- R380: a frame of 255 bytes has 8 × 267 bits, in ceil(2136 / 288) codewords: 342 payload symbols at SF12, with their parity. -/
theorem test_payload_bits : (payloadCode (kqc576 0) (payloadBits (List.replicate 263 0))).length = 2136 + 8 * 288 ∧
    ceilDiv (2136 + 8 * 288) 13 = 342 := by decide +kernel

/-- R191: a pool of 24.0 Mbit/s decodes 3,000 coded bits in 3,072 ticks. -/
theorem test_pool : iterTicks 3000 = 3072 := by decide

/-- Table HIF-4: a NOP with tag 0x1234 to part 2, executed at HT 0x0102030405060708, has its fields at their offsets. -/
theorem test_descriptor :
    (descBytes { desc with tag := 0x1234, dest := 2, res := false, resSize := 0, due := 0x0102030405060708 } .nop).take 16 =
      [0x01, 0x00, 0x34, 0x12, 0x02, 0x00, 0x00, 0x00, 0x08, 0x07, 0x06, 0x05, 0x04, 0x03, 0x02, 0x01] := by decide

/-! ## Steps on small states -/

/-- A NOP advances its ring and writes one completion with its tag, opcode 0x01 and ST_OK (R320, R330). -/
theorem test_nop :
    let u := after (exec (.nop desc) (at0 live))
    (u.host.completions.map fun c => (c.ring, c.tag, c.opcode, c.status)) = [(0, 7, 1, 0)] ∧ (u.hif.cmdq.map CmdRing.cons) = [1, 0, 0, 0] := by
  decide

/-- CTX_OPEN of FM stereo opens slot 63 in SEARCH and answers 125 free load units (R168, R170). -/
theorem test_ctx_open :
    let u := after (exec (.ctxOpen desc (fmParams 63)) (at0 live))
    (u.ctxs.map fun x => (x.1, x.2.a.state)) = [(63, .search)] ∧ (u.host.completions.map Completion.result) = [125] := by decide

/-- CTX_CLOSE of a slot that is not held answers ST_NO_CONTEXT and changes no context (Table CTX-2). -/
theorem test_ctx_close_absent :
    let u := after (exec (.ctxClose desc 5) (at0 live))
    (u.host.completions.map Completion.status) = [stNoContext] ∧ u.ctxs = [] := by decide

/-- A command with a reserved bit set is answered ST_BAD_PARAM before anything else is looked at (Table HIF-5). -/
theorem test_reserved_bit :
    (after (exec (.scan { desc with clean := false } { half := 99, raster := 9, first := 0, last := 0, dwell := 0, watches := 0 }) (at0 live))).host.completions.map
      Completion.status = [stBadParam] := by decide

/-- A scheduled command waits; on its tick it executes and is answered with that tick (R50, R51). -/
theorem test_schedule :
    let q := after (exec (.syncArmJoin later 31 0) (at0 busy))
    let u := after (exec (.scheduledActionExecute 5000) (at0 q))
    q.sched.queue.length = 1 ∧ q.host.completions = [] ∧ (u.host.completions.map fun c => (c.status, c.execHt)) = [(stOk, 5000)] ∧
    (ctx 0 u).map Ctx.group = some (some 31) ∧ u.sched.queue = [] := by decide

/-- On an empty queue a tick passes; with a command waiting the step is that command. -/
theorem test_steps :
    (after (step (at0 live))).clock.ht = 1 ∧
    (after (step { at0 live with pending := [.hifLock 9, .nop desc] })).hif.lock = true := by decide

/-- A row about a half that a BH2820 does not have stops; about its last half it does not. -/
theorem test_unfitted :
    stopped (exec (.holdEnd 1 4) (at0 small)) = some .notFitted ∧ stopped (exec (.holdEnd 1 3) (at0 small)) = none := by decide

/-- Three lost locks within 1 s fence the tile (R90). -/
theorem test_third_unlock :
    let u := after (exec (.tsynUnlock 24576000 7) (at0 (onTile 7 (fun x => { x with unlocks := [1, 2] }) live)))
    ((half 14 u).mode, (half 15 u).mode, (half 13 u).mode) = (.fenced, .fenced, .independent) := by decide +kernel

/-- A SYSTEM reset by PORST_N keeps the address and stores HT (R45, R453, R456). -/
theorem test_porst :
    let u := after (exec (.porstN 100) (at0 { live with oasis := { addr := some 3 } }))
    (u.chain.addr, u.oasis.lastHt, u.boot.stage, u.hif.enable) = (some 3, some 100, 0, false) := by decide

/-- A command word: the table gives no row any bits, so no word spells a command. -/
theorem test_no_word : decodeTableWord 32 0 = none ∧ (State.withFetchWord (at0 live) 32 0) = at0 live := by decide

/-! ## What WellFormed refuses -/

/-- A descriptor is refused for each of its fields. -/
theorem test_wf_desc :
    desc.wf = true ∧ ([{ desc with ring := 4 }, { desc with tag := 65536 }, { desc with dest := 65536 }, { desc with resSize := 65536 },
      { desc with due := 2 ^ 64 }] : List Desc).all (fun d => !d.wf) = true := by decide

/-- LEVELLER, GPIO and I2C blocks. -/
theorem test_wf_half_blocks :
    levBlock.wf = true ∧ gpio15.wf = true ∧ job4.params.wf = true ∧
    ([{ levBlock with band := 256 }, { levBlock with mode := 256 }, { levBlock with upper := 128 }, { levBlock with lower := -129 },
      { levBlock with dwell := 65536 }, { levBlock with attenMin := 256 }, { levBlock with attenMax := 256 },
      { levBlock with manual := 256 }] : List LevellerParams).all (fun p => !p.wf) = true ∧
    ([{ gpio15 with pin := 256 }, { gpio15 with function := 256 }, { gpio15 with level := 256 }, { gpio15 with debounce := 256 },
      { gpio15 with isoHalf := 256 }, { gpio15 with polarity := 256 }, { gpio15 with muteLead := 65536 },
      { gpio15 with muteTrail := 65536 }] : List GpioParams).all (fun p => !p.wf) = true ∧
    ([{ job4.params with address := 256 }, { job4.params with speed := 256 }, { job4.params with wlen := 256 },
      { job4.params with rlen := 256 }, { job4.params with bytes := [256] }] : List I2cParams).all (fun p => !p.wf) = true := by decide

/-- Context parameters, selections and sources. -/
theorem test_wf_contexts :
    (fmParams 0).wf = true ∧ (selParams 0).wf = true ∧
    ([{ fmParams 0 with ctx := 65536 }, { fmParams 0 with type := 256 }, { fmParams 0 with freq := 2 ^ 32 },
      { fmParams 0 with lostTimeout := 65536 }, { fmParams 0 with iterMax := 256 }, { fmParams 0 with reserve := 256 },
      { fmParams 0 with occupancy := 256 }, { fmParams 0 with block := List.replicate 12 0 },
      { fmParams 0 with block := [256] }] : List CtxParams).all (fun p => !p.wf) = true ∧
    ([{ selParams 0 with ctx := 65536 }, { selParams 0 with kind := 256 }, { selParams 0 with sub := 256 }, { selParams 0 with scids := 256 },
      { selParams 0 with sid := 2 ^ 32 }] : List SelParams).all (fun p => !p.wf) = true ∧
    ([⟨65536, 0, 0⟩, ⟨0, 256, 0⟩, ⟨0, 0, 256⟩] : List LinkSource).all (fun p => !p.wf) = true := by decide

/-- Sets, policies and scans. -/
theorem test_wf_services :
    setParams.wf = true ∧ (followParams 0 0).wf = true ∧
    ([{ setParams with alignWindow := 256 }, { setParams with holdBack := 256 }, { setParams with badHold := 65536 },
      { setParams with xfade := 2 ^ 32 }, { setParams with goodHold := 256 }, { setParams with blendGood := 256 }] :
        List SetParams).all (fun p => !p.wf) = true ∧
    ([{ followParams 0 0 with set := 65536 }, { followParams 0 0 with ctx := 65536 }, { followParams 0 0 with sel := 256 },
      { followParams 0 0 with maxWatch := 256 }, { followParams 0 0 with maxMembers := 256 }, { followParams 0 0 with scope := 256 },
      { followParams 0 0 with halves := 65536 }, { followParams 0 0 with regional := 256 }, { followParams 0 0 with promoteCnr := 256 },
      { followParams 0 0 with promoteTime := 65536 }, { followParams 0 0 with releaseCnr := 256 }, { followParams 0 0 with releaseTime := 256 },
      { followParams 0 0 with rehomeTime := 256 }, { followParams 0 0 with setParams := { setParams with xfade := 2 ^ 32 } }] :
        List FollowParams).all (fun p => !p.wf) = true ∧
    ([⟨256, 0, 0, 0, 0, 0⟩, ⟨0, 256, 0, 0, 0, 0⟩, ⟨0, 0, 2 ^ 32, 0, 0, 0⟩, ⟨0, 0, 0, 2 ^ 32, 0, 0⟩, ⟨0, 0, 0, 0, 256, 0⟩, ⟨0, 0, 0, 0, 0, 256⟩] :
        List ScanParams).all (fun p => !p.wf) = true := by decide

/-- Flows, bindings and windows. -/
theorem test_wf_flows :
    bind511.wf = true ∧
    ([⟨65536, 0, 0, 0, 0, false, 0⟩, ⟨0, 256, 0, 0, 0, false, 0⟩, ⟨0, 0, 256, 0, 0, false, 0⟩, ⟨0, 0, 0, 65536, 0, false, 0⟩,
      ⟨0, 0, 0, 0, 256, false, 0⟩, ⟨0, 0, 0, 0, 0, false, 2 ^ 32⟩] : List FlowParams).all (fun p => !p.wf) = true ∧
    ([{ bind511 with target := 256 }, { bind511 with a := 65536 }, { bind511 with b := 256 }, { bind511 with remote := 65536 }] :
        List BindParams).all (fun p => !p.wf) = true ∧
    ([⟨2 ^ 32, 0, 0, 0⟩, ⟨0, 2 ^ 32, 0, 0⟩, ⟨0, 0, 2 ^ 32, 0⟩, ⟨0, 0, 0, 2 ^ 32⟩] : List CalWindow).all (fun p => !p.wf) = true := by decide

/-- The Kite's block, an audio port's and the clock's. -/
theorem test_wf_blocks :
    kiteBlock.wf = true ∧ clock1.wf = true ∧
    ([{ kiteBlock with captureDb := 256 }, { kiteBlock with ramp := 256 }, { kiteBlock with lead := 65536 }, { kiteBlock with trail := 65536 },
      { kiteBlock with kinds := [256] }, { kiteBlock with rxChannel := [256] }, { kiteBlock with channels := [⟨2 ^ 32, 0, 0, 0, 0, 0, 0⟩] }] :
        List KiteBlock).all (fun p => !p.wf) = true ∧
    ([⟨0, 256, 0, 0, 0, 0, 0⟩, ⟨0, 0, 256, 0, 0, 0, 0⟩, ⟨0, 0, 0, 256, 0, 0, 0⟩, ⟨0, 0, 0, 0, 256, 0, 0⟩, ⟨0, 0, 0, 0, 0, 32768, 0⟩,
      ⟨0, 0, 0, 0, 0, 0, 256⟩] : List KiteChannel).all (fun p => !p.wf) = true ∧
    ([⟨256, 0, 0, 0, 0, 0, 0, 0⟩, ⟨0, 256, 0, 0, 0, 0, 0, 0⟩, ⟨0, 0, 256, 0, 0, 0, 0, 0⟩, ⟨0, 0, 0, 256, 0, 0, 0, 0⟩,
      ⟨0, 0, 0, 0, 256, 0, 0, 0⟩, ⟨0, 0, 0, 0, 0, 65536, 0, 0⟩, ⟨0, 0, 0, 0, 0, 0, 65536, 0⟩, ⟨0, 0, 0, 0, 0, 0, 0, 256⟩] :
        List PortParams).all (fun p => !p.wf) = true ∧
    ([{ clock0 with source := some 256 }, { clock0 with refFreq := some 256 }, { clock0 with lockTol := some 256 },
      { clock0 with slewLimit := some 256 }, { clock0 with nSpll := some 65536 }, { clock0 with nTsyn := some 65536 },
      { clock0 with nKsyn := some 65536 }, { clock0 with ppsDelay := some (2 ^ 31) }, { clock0 with stepLimit := some (2 ^ 32) },
      { clock0 with epoch := some (2 ^ 64) }] : List ClockParams).all (fun p => !p.wf) = true := by decide

/-- Plan entries. -/
theorem test_wf_entries :
    ([.tilePlan 256 0, .tilePlan 0 256, .halfMode 256 0 0, .halfMode 0 256 0, .halfMode 0 0 256, .leveller 256 levBlock,
      .leveller 0 { levBlock with mode := 256 }, .antpwr 256 0, .antpwr 0 256, .extGain 256 0, .extGain 0 32768, .ctxOpen (fmParams 65536),
      .ctxWatch (fmParams 65536), .ctxRetune (fmParams 65536), .ctxClose 65536, .select { selParams 0 with kind := 256 },
      .deselect { selParams 0 with kind := 256 }, .coefSwap 65536 0, .coefSwap 0 65536, .syncReset 256 0 0, .syncReset 0 256 0,
      .syncReset 0 0 (2 ^ 32), .other 256] : List PlanEntry).all (fun e => !e.wf) = true := by decide

/-- The parameters of commands, first half of the table. -/
theorem test_wf_commands_1 :
    ([.halfSetupMode 256 0 0, .halfSetupMode 0 256 0, .halfSetupMode 0 0 256, .halfSetupLeveller 256 levBlock,
      .halfSetupLeveller 0 { levBlock with band := 256 }, .halfSetupAntpwr 256 0, .halfSetupAntpwr 0 256, .halfSetupExtGain 256 0,
      .halfSetupExtGain 0 32768, .accGpio 256 gpio15, .accGpio 0 { gpio15 with pin := 256 }, .accI2c 256 job4.params,
      .accI2c 0 { job4.params with speed := 256 }, .planPrepare 256 [], .planPrepare 0 [.other 256], .planCommit 256, .planAbort 256,
      .ctxOpen (fmParams 65536), .ctxRetune (fmParams 65536), .ctxWatch (fmParams 65536), .ctxClose 65536, .ctxQuery 65536,
      .coefLoad 65536 0 0 [], .coefLoad 0 65536 0 [], .coefLoad 0 0 256 [], .coefLoad 0 0 0 [2 ^ 32], .coefSwap 65536 0, .coefSwap 0 65536,
      .syncArmJoin 256 0, .syncArmJoin 0 65536, .syncArmLeave 65536, .syncArmReset 256 0 0, .syncArmReset 0 256 0,
      .syncArmReset 0 0 (2 ^ 32), .armSyncin 256 0 0 0, .armSyncin 0 256 0 0, .armSyncin 0 0 256 0, .armSyncin 0 0 0 (2 ^ 32), .disarm 256,
      .svcSelect { selParams 0 with sub := 256 }, .svcDeselect { selParams 0 with sub := 256 }, .svcLinkCreate 65536 [] setParams,
      .svcLinkCreate 0 [⟨65536, 0, 0⟩] setParams, .svcLinkCreate 0 [] { setParams with holdBack := 256 }, .svcLinkAdd 65536 ⟨0, 0, 0⟩,
      .svcLinkAdd 0 ⟨65536, 0, 0⟩, .svcLinkRemove 65536 0 0, .svcLinkRemove 0 65536 0, .svcLinkRemove 0 0 256, .svcLinkDelete 65536,
      .svcLinkQuery 65536, .svcFollowSet (followParams 65536 0), .svcFollowClear 65536] : List HostCmd).all (fun c => !c.wf) = true := by decide

/-- The parameters of commands, second half of the table. -/
theorem test_wf_commands_2 :
    ([.dbConfig 65536 0 0, .dbConfig 0 256 0, .dbConfig 0 0 65536, .scan ⟨256, 0, 0, 0, 0, 0⟩, .flowCreate ⟨65536, 0, 0, 0, 0, false, 0⟩,
      .flowBind 65536 bind511, .flowBind 0 { bind511 with target := 256 }, .flowShape 65536 0 0 0, .flowShape 0 65536 0 0,
      .flowShape 0 0 (2 ^ 32) 0, .flowShape 0 0 0 (2 ^ 32), .flowDelete 65536, .timeshiftSet 65536 0 0, .timeshiftSet 0 (2 ^ 32) 0,
      .timeshiftSet 0 0 (2 ^ 32), .captureStart 65536 0 0 0, .captureStart 0 256 0 0, .captureStart 0 0 65536 0,
      .captureStart 0 0 0 (2 ^ 64), .captureStop 65536, .kiteConfig 256 kiteBlock, .kiteConfig 0 { kiteBlock with ramp := 256 },
      .kiteSessionOpen 65536 0 0 0, .kiteSessionOpen 0 256 0 0, .kiteSessionOpen 0 0 (2 ^ 32) 0, .kiteSessionOpen 0 0 0 256,
      .kiteSessionClose 65536, .kiteSessionUpdate 65536 0 0, .kiteSessionUpdate 0 256 0, .kiteSessionUpdate 0 0 256, .kiteSessionFlush 65536,
      .kiteSend 65536 0 0 [], .kiteSend 0 256 0 [], .kiteSend 0 0 256 [], .kiteSend 0 0 0 [256], .kiteBudget 256 0 0 0, .kiteBudget 0 256 0 0,
      .kiteBudget 0 0 (2 ^ 32) 0, .kiteBudget 0 0 0 (2 ^ 32), .audioPortConfig ⟨256, 0, 0, 0, 0, 0, 0, 0⟩, .audioPortStart 256,
      .audioPortStop 256, .calPolicy 256 0 0 [], .calPolicy 0 256 0 [], .calPolicy 0 0 256 [], .calPolicy 0 0 0 [⟨2 ^ 32, 0, 0, 0⟩],
      .calRun 256, .clockConfig { clock0 with source := some 256 }, .chainEnumerate 256 ⟨[], false, false⟩, .chainSend 65536 [],
      .chainSend 0 [256], .eventRouteSources 65536 0 0 0, .eventRouteSources 0 65536 0 0, .eventRouteSources 0 0 256 0,
      .eventRouteSources 0 0 0 256, .eventRouteVector 256 0 0, .eventRouteVector 0 65536 0, .eventRouteVector 0 0 256,
      .fwLoadStage (2 ^ 32) image1] : List HostCmd).all (fun c => !c.wf) = true := by decide

/-- Rows that happen by themselves: a tick beyond HT's 64 bits. -/
theorem test_wf_ticks :
    ([.scheduledActionExecute (2 ^ 64), .htSecondsBoundary (2 ^ 64), .ppsinEdge (2 ^ 64) 0, .tsynUnlock (2 ^ 64) 0, .muteLead (2 ^ 64) 0,
      .linkBlend (2 ^ 64) 0, .kiteDecision (2 ^ 64), .audioPortFrame (2 ^ 64) ⟨0, []⟩, .vinStart (2 ^ 64) 0, .hifEnable (2 ^ 64)] :
        List Instr).all (fun i => !i.wf) = true := by decide

/-- Indices and measures beyond what the part has or the field holds. -/
theorem test_wf_operands :
    ([.nop { desc with ring := 4 }, .tileSwitchReturn 0 8, .ppsinEdge 0 1024, .tsynUnlock 0 8, .tsynRelockRetry 0 8, .levellerDwellExpiry 0 16 0,
      .levellerDwellExpiry 0 0 3, .levellerStepLanding 0 16 0, .levellerStepLanding 0 0 3, .adcClip 0 16 0, .adcClip 0 0 17,
      .antpwrCurrentLimit 0 16 0, .antpwrCurrentLimit 0 0 65536, .antpwrOpen 0 16 0, .antpwrOpen 0 0 65536, .gpioEdge 0 16 0, .gpioEdge 0 0 2,
      .tempSensorRead 0 17 0, .calRunStart 0 16, .calPhaseEnd 0 16, .calRunEnd 0 16 ⟨0⟩, .calRampIncrement 0 16, .bgConverged 0 ⟨16, [], []⟩, .bgHeld 0 16,
      .ctxPresencePass 0 1024 ⟨.a, 0⟩, .ctxDetection 0 1024 { copy := .a, found := true, agcErr := 0 }, .ctxConfirmation 0 1024 .a, .ctxLoss 0 1024 .a, .acquireTimeout 0 1024 .a,
      .confirmTimeout 0 1024 .a, .lostTimeout 0 1024 .a, .holdEnd 0 16, .xfadeDone 0 1024, .pilotAbsent 0 1024, .pilotLock 0 1024,
      .pilotLost 0 1024, .selectionAbsent 0 1024 0, .selectionAbsent 0 0 256, .poolSaturated 0 16, .poolClear 0 16, .linkNoMatch 0 65536 0 0,
      .linkNoMatch 0 0 1024 0, .linkNoMatch 0 0 0 256, .linkBlend 0 65536, .motObjectTimeout 0 1024 0 0, .motObjectTimeout 0 0 256 0,
      .motObjectTimeout 0 0 0 65536, .recordCloseTimeout 0 65536, .egressRecordStart 0 3, .bufferFlush 0 512, .memberUnderrun 0 65536 0,
      .memberUnderrun 0 0 (2 ^ 64), .dramCorrected 0 (2 ^ 64) 0, .dramCorrected 0 0 256, .msixHoldoffExpiry 0 64, .msixUnmask 0 64] :
        List Instr).all (fun i => !i.wf) = true := by decide

/-- The same for the Kite, the ports, the chain, power and the registers. -/
theorem test_wf_operands_2 :
    ([.kiteSyncDone 0 8 0 [], .kiteSyncDone 0 0 4096 [], .kiteSyncTimeout 0 8, .audioClockStart 0 8, .audioFirstFrame 0 8,
      .audioTrailEnd 0 8, .audioFsEdge 0 8 0 true, .audioFsEdge 0 0 (2 ^ 32) true, .audioSlip 0 8 0 .tx, .audioSlip 0 0 33 .tx,
      .audioXrun 0 8 .tx true 0, .audioXrun 0 0 .tx true 256, .audioStall 0 8, .audioResume 0 8 true, .masterClaim 0 1024 ⟨true, true⟩,
      .chainTransferAck 0 (2 ^ 32) 0, .chainTransferAck 0 0 256, .chainMsgDelivery 0 1024 0 [], .chainMsgDelivery 0 0 (2 ^ 32) [],
      .chainCommandArrival 0 1024 0 false desc .nop, .chainCommandArrival 0 0 0 false { desc with ring := 4 } .nop,
      .chainCommandArrival 0 0 0 false desc (.calRun 256), .vinStart 0 65536, .braceEntry 0 65536, .braceExit 0 65536 0, .braceExit 0 0 65536,
      .vinReset 0 65536 true, .vinOverVoltage 0 65536, .vinOverVoltageRelease 0 65536, .railTrip 0 256 0 true, .railTrip 0 0 (2 ^ 64) true,
      .watchdogExpiry 0 256, .tileLinkFault 0 8 0, .tileLinkFault 0 0 (2 ^ 32), .memoryFault 0 16 0, .memoryFault 0 0 (2 ^ 32),
      .converterStuck 0 16, .tileResetDone 0 8 ⟨true, true, 0, 0⟩, .hifNudge 0 (2 ^ 64), .pmuVinWarn 0 (2 ^ 64), .tetTimeDisagree 0 (2 ^ 64),
      .secKeyWrite 0 256, .secKeyErase 0 256, .dbgLockTest 0 256, .dbgLockTestDone 0 65536, .dbgTileReset 0 8, .registerWrite 0 65536 4 0,
      .registerWrite 0 0 9 0, .registerWrite 0 0 4 (2 ^ 64), .muteLead 0 16, .muteTrail 0 16, .chainEnumerationWalk 0 1024 0 0,
      .chainEnumerationWalk 0 0 (2 ^ 32) 0, .chainEnumerationWalk 0 0 0 (2 ^ 32), .masterSecondsMarker 0 1024 0,
      .masterSecondsMarker 0 0 (2 ^ 32), .audioPortFrame 0 ⟨8, []⟩, .audioPortFrame 0 ⟨0, [2 ^ 32]⟩] : List Instr).all (fun i => !i.wf) = true := by decide

/-- Rows whose measures are large: refused for their index whatever was measured. -/
theorem test_wf_measured :
    (∀ r, (Instr.detectorPeriodEnd 0 16 r).wf = false) ∧ (∀ q, (Instr.qualityWindowEnd 0 1024 q).wf = false) ∧
    (∀ b, (Instr.amFmBlock 0 1024 b).wf = false) ∧ (∀ b, (Instr.rdsBlock 0 1024 b).wf = false) ∧ (∀ f, (Instr.dabFrame 0 1024 f).wf = false) ∧
    (∀ f, (Instr.dabplusSuperframe 0 0 256 f).wf = false) ∧ (∀ f, (Instr.l2Frame 0 0 256 f).wf = false) ∧
    (∀ f, (Instr.drmFrame 0 1024 f).wf = false) ∧ (∀ r, (Instr.muxReconf 0 1024 r).wf = false) ∧
    (∀ r, (Instr.blockDeadline 0 0 256 r).wf = false) ∧ (∀ w, (Instr.linkMatchWindow 0 65536 0 0 w).wf = false) ∧
    (∀ u, (Instr.linkUnitMatch 0 0 1024 0 u).wf = false) ∧ (∀ h, (Instr.kiteHeaderDone 0 8 h).wf = false) ∧
    (∀ r, (Instr.kitePayloadDone 0 8 r).wf = false) ∧ (∀ a, (Instr.rollCallAnswer 0 1024 a).wf = false) ∧
    (∀ c, (Instr.chainCompletionArrival 0 1024 0 c).wf = false) ∧ (∀ e, (Instr.chainEventArrival 0 0 (2 ^ 32) e).wf = false) ∧
    (∀ r, (Instr.chainRecordArrival 0 1024 r).wf = false) :=
  ⟨fun _ => rfl, fun _ => rfl, fun _ => rfl, fun _ => rfl, fun _ => rfl, fun _ => rfl, fun _ => rfl, fun _ => rfl, fun _ => rfl, fun _ => rfl,
    fun _ => rfl, fun _ => rfl, fun _ => rfl, fun _ => rfl, fun _ => rfl, fun _ => rfl, fun _ => rfl, fun _ => rfl⟩

end Sys2Proof.Tests
end

/-! # The size of the part, absent units, locks and context IDs

Proofs about what the part is (R4, R10, R12), what its locks keep (R8, R314, R482), and the invariant `Safety.Sound` that holds after reset
and that every step keeps. -/

namespace Sys2Proof.Scope

open Sys2Proof Sys2Proof.Machine Sys2Proof.Safety Sys2Proof.Laws

/-! ## Context IDs (R10) -/

/-- A context ID is given back by its half and its slot. -/
theorem ctxHalf_slot (c : Nat) : ctxHalf c * 64 + c % 64 = c := Nat.div_add_mod' c 64

/-- A slot below 64 does not reach into the half's number. -/
theorem ctxHalf_add_slot (h : Nat) {slot : Nat} (hs : slot < 64) : ctxHalf (h * 64 + slot) = h := by
  unfold ctxHalf
  omega

/-- Settles O51: the half is the quotient by 64 and the slot the remainder, so the two give the ID back. -/
theorem contextIdsNameSlots : Obligations.ContextIdsNameSlots := by
  unfold Obligations.ContextIdsNameSlots
  refine ⟨fun tile half slot _ hs => ⟨?_, by omega⟩, fun a b hh hs => ?_⟩
  · have e : tile * 128 + half * 64 + slot = (2 * tile + half) * 64 + slot := by omega
    rw [e, ctxHalf_add_slot _ hs]
  · rw [← ctxHalf_slot a, hh, hs, ctxHalf_slot b]

/-! ## Rows about absent units (R4, R12) -/

/-- A row about unit `n` stops where the part has only the units below `k`. -/
theorem runIf_beyond {n k : Nat} {f : Part → Part} {s : State} (h : k ≤ n) : s.runIf (decide (n < k)) f = .fault .notFitted :=
  if_neg (by simpa using h)

/-- A row about a unit and its part `n` stops where a unit has only the parts below `k`, whatever the unit. -/
theorem runIf_and_beyond {n k : Nat} {b : Bool} {f : Part → Part} {s : State} (h : k ≤ n) :
    s.runIf (b && decide (n < k)) f = .fault .notFitted :=
  if_neg (by simp [Nat.not_lt.mpr h])

/-- A row about a part of unit `n` stops where the part has only the units below `k`. -/
theorem runIf_beyond_and {n k : Nat} {b : Bool} {f : Part → Part} {s : State} (h : k ≤ n) :
    s.runIf (decide (n < k) && b) f = .fault .notFitted :=
  if_neg (by simp [Nat.not_lt.mpr h])

/-- A row about unit `n` stops where the part has only the units below `k` and the unit `u`. -/
theorem runIf_beyond_or {n k u : Nat} {f : Part → Part} {s : State} (h : k ≤ n) (hu : n ≠ u) :
    s.runIf (decide (n < k ∨ n = u)) f = .fault .notFitted :=
  if_neg (by simp [Nat.not_lt.mpr h, hu])

/-- Settles O36: each of these rows is guarded by its unit's number, and the guard fails. -/
theorem unfittedRowsStop : Obligations.UnfittedRowsStop := by
  unfold Obligations.UnfittedRowsStop
  intro t n s
  refine ⟨fun halves => ?_, fun tiles => ?_, fun pins => ?_, fun bands _ => ?_, fun halves notBoard _ => ?_, fun groups notLast _ _ => ?_,
    fun eight => ?_, fun vectors => ?_, fun links => runIf_beyond links⟩
  · exact ⟨fun _ => runIf_beyond halves, fun _ => ⟨runIf_beyond_and halves, runIf_beyond_and halves⟩,
      fun _ => ⟨runIf_beyond halves, runIf_beyond halves, runIf_beyond halves, runIf_beyond halves⟩, runIf_beyond halves,
      runIf_beyond halves, runIf_beyond halves, runIf_beyond halves, runIf_beyond halves, fun _ => runIf_beyond halves,
      runIf_beyond halves, fun _ _ => runIf_beyond halves, runIf_beyond halves, runIf_beyond halves, runIf_beyond halves⟩
  · exact ⟨runIf_beyond tiles, runIf_beyond tiles, runIf_beyond tiles, fun _ => runIf_beyond tiles, fun _ => runIf_beyond tiles⟩
  · exact ⟨fun _ => runIf_beyond pins, runIf_beyond pins⟩
  · exact ⟨runIf_and_beyond bands, runIf_and_beyond bands⟩
  · exact runIf_beyond_or halves notBoard
  · exact runIf_beyond_or groups notLast
  · exact ⟨fun _ => runIf_beyond eight, runIf_beyond eight, runIf_beyond eight, runIf_beyond eight, fun _ _ => runIf_beyond eight,
      fun _ _ => runIf_beyond eight, fun _ _ _ => runIf_beyond eight, runIf_beyond eight, fun _ => runIf_beyond eight,
      runIf_beyond eight, fun _ _ => runIf_beyond eight, fun _ => runIf_beyond eight, fun _ => runIf_beyond eight⟩
  · exact ⟨runIf_beyond vectors, runIf_beyond vectors⟩

/-! ## Locked registers (R8, R314, R470, R482) -/

/-- The polling, page, table and event-ring registers of the HIF block (Table REG-3). -/
def pageOffsets : List Nat := [0x1008, 0x1010, 0x1014, 0x1018, 0x101C, 0x1020, 0x1024, 0x1028, 0x102C, 0x1030]

/-- The registers of a ring pair, by their offsets within it (Table REG-3). -/
def pairOffsets : List Nat := [0x00, 0x04, 0x08, 0x10, 0x14, 0x18]

theorem pageOffsets_hif : ∀ off ∈ pageOffsets, 0x1000 ≤ off ∧ off < 0x2000 ∧ off % 4 = 0 := by decide

theorem pairOffsets_aligned : ∀ r ∈ pairOffsets, r % 4 = 0 := by decide

/-- After the lock a guarded write leaves the part as it is (R482). -/
theorem unlessLocked_locked {f : Part → Part} {m : Part} (h : m.hif.lock = true) : unlessLocked f m = m := if_pos h

/-- After the lock, and while the interface runs, a guarded write leaves the part as it is (R314, R482). -/
theorem whileDisabled_held {f : Part → Part} {m : Part} (h : m.hif.lock = true ∨ m.hif.enable = true) : whileDisabled f m = m :=
  if_pos h.symm

/-- What leaves a part as it is leaves it so without its main rails too. -/
theorem registerRow_same {f : Part → Part} {m : Part} (h : f m = m) : registerRow f m = m := by
  unfold registerRow
  rw [h, ite_self]

/-- An aligned 32-bit write (R470). -/
theorem writeRegister_word {off v : Nat} {m : Part} (h : off % 4 = 0) : writeRegister off 4 v m = write32 off v m := if_pos ⟨rfl, h⟩

/-- A 32-bit write into the HIF block. -/
theorem write32_hif {off v : Nat} {m : Part} (h1 : 0x1000 ≤ off) (h2 : off < 0x2000) : write32 off v m = writeHif off v m := by
  unfold write32
  rw [if_neg (by omega), if_pos h2]

/-- A 32-bit write into the registers of the ring pairs. -/
theorem writeHif_pair {off v : Nat} {m : Part} (h1 : 0x1040 ≤ off) (h2 : off < 0x10C0) :
    writeHif off v m = writePair ((off - 0x1040) / 32) off (off % 32) v m := by
  have e : (off - 0x1040) % 32 = off % 32 := by omega
  unfold writeHif
  rw [e, if_neg (by omega), if_neg (by omega), if_neg (by omega), if_neg (by omega), if_neg (by omega), if_neg (by omega),
    if_neg (by omega), if_neg (by omega), if_neg (by omega), if_pos ⟨h1, h2⟩]

theorem writeWarn_locked {off v : Nat} {m : Part} (h : m.hif.lock = true) : writeWarn off v m = m := unlessLocked_locked h

/-- The registers of Table REG-3 outside the HIF block keep their values after the lock (R8). -/
theorem write32_locked {off v : Nat} {m : Part} (h : m.hif.lock = true) (ho : off ∈ [0x2000, 0x3000, 0x4000]) : write32 off v m = m := by
  simp only [List.mem_cons, List.not_mem_nil, or_false] at ho
  rcases ho with rfl | rfl | rfl
  · exact writeWarn_locked h
  · exact unlessLocked_locked h
  · exact unlessLocked_locked h

section
variable {m : Part} (h : m.hif.lock = true ∨ m.hif.enable = true)
include h

/-- The registers of a ring pair are all held. -/
theorem writePair_held {n off r v : Nat} (hr : r ∈ pairOffsets) : writePair n off r v m = m := by
  simp only [pairOffsets, List.mem_cons, List.not_mem_nil, or_false] at hr
  rcases hr with rfl | rfl | rfl | rfl | rfl | rfl <;> exact whileDisabled_held h

/-- The page, polling, table and event-ring registers are all held. -/
theorem writeHif_held {off v : Nat} (ho : off ∈ pageOffsets) : writeHif off v m = m := by
  simp only [pageOffsets, List.mem_cons, List.not_mem_nil, or_false] at ho
  rcases ho with rfl | rfl | rfl | rfl | rfl | rfl | rfl | rfl | rfl | rfl <;> simp [writeHif, whileDisabled_held h]

/-- While the interface runs, and after the lock, the ring, page, polling and vector registers keep their values (R314, R482). -/
theorem write32_held {off v : Nat} (ho : off ∈ pageOffsets ∨ 0x1040 ≤ off ∧ off < 0x10C0 ∧ off % 32 ∈ pairOffsets) :
    off % 4 = 0 ∧ write32 off v m = m := by
  rcases ho with ho | ⟨h1, h2, hr⟩
  · obtain ⟨h1, h2, ha⟩ := pageOffsets_hif off ho
    exact ⟨ha, by rw [write32_hif h1 h2, writeHif_held h ho]⟩
  · have ha := pairOffsets_aligned _ hr
    exact ⟨by omega, by rw [write32_hif (by omega) (by omega), writeHif_pair h1 h2, writePair_held h hr]⟩

end

/-- A write that leaves the part as it is only lets its tick come. -/
theorem exec_registerWrite_same {t off v : Nat} {s : State} (ha : off % 4 = 0)
    (h : write32 off v (advance t s.part) = advance t s.part) :
    exec (.registerWrite t off 4 v) s = .next (withPart s (advance t s.part)) :=
  run_onTick rfl (registerRow_same ((writeRegister_word ha).trans h))

/-- Settles O54: every one of these writes meets the guard of its register, and its offset is that of an aligned word. -/
theorem lockedRegistersKeepTheirValues : Obligations.LockedRegistersKeepTheirValues := by
  unfold Obligations.LockedRegistersKeepTheirValues
  intro t off v s
  refine ⟨fun lock ho => ?_, fun lock => ?_, fun held ho => ?_⟩
  · have ha : off % 4 = 0 := by
      simp only [List.mem_cons, List.not_mem_nil, or_false] at ho
      omega
    exact exec_registerWrite_same ha (write32_locked lock ho)
  · exact run_onTick rfl (registerRow_same (writeWarn_locked lock))
  · obtain ⟨ha, hw⟩ := write32_held held ho
    exact exec_registerWrite_same ha hw

/-! ## Soundness -/

/-- Settles O48: the fixed arrays have their sizes; nothing is queued, held or logged. -/
theorem resetIsSound : Obligations.ResetIsSound where
  fused := rfl
  arrays := ⟨rfl, rfl, rfl, rfl, rfl, rfl, rfl, rfl⟩
  sched := ⟨by decide, by decide, by decide⟩
  events := ⟨by decide, by decide⟩

section
variable {f : Fused} {s : State} (hs : Sound f s.part)
include hs

/-- Letting house time pass touches nothing that soundness speaks of. -/
theorem sound_idle : Sound f s.idle.part := ⟨hs.fused, hs.arrays, hs.sched, hs.events⟩

/-- A command from a ring is accepted, and one that CAL_RUN queues has its runs fixed. -/
theorem soundOut_ofSource {i : Instr} {d : Desc} {c : HostCmd} (hi : i.source = .inl (d, c)) : SoundOut f (exec i s) := by
  rcases exec_of_source (s := s) hi with ⟨e, -⟩ | ⟨k, -, e⟩ <;> rw [e]
  · exact soundOut_run (sound_accept (fun d o _ hm => sound_performAtOnce c d o hm) hs)
  · exact soundOut_run (sound_fixAccepted _ (sound_accept (fun _ _ _ hm => hm) hs))

/-- Every meaning leads from a sound part to a sound part: commands from a ring by what acceptance does, rows that happen by themselves
each by its own operations. -/
theorem soundOut_exec (i : Instr) : SoundOut f (exec i s) := by
  cases i with
  | doorbellFetch t page => exact sound_execDoorbellFetch t page s hs
  | scheduledActionExecute t => exact sound_execScheduledActionExecute t s hs
  | tileSwitchReturn t tile => exact sound_execTileSwitchReturn t tile s hs
  | htSecondsBoundary t => exact sound_execHtSecondsBoundary t s hs
  | ppsinEdge t sub => exact sound_execPpsinEdge t sub s hs
  | ppsMissing t => exact sound_execPpsMissing t s hs
  | htSlewDone t => exact sound_execHtSlewDone t s hs
  | htStep t => exact sound_execHtStep t s hs
  | syncinEdge t => exact sound_execSyncinEdge t s hs
  | syncinReset t => exact sound_execSyncinReset t s hs
  | spllWindowEnd t w => exact sound_execSpllWindowEnd t w s hs
  | refinMissingEdge t => exact sound_execRefinMissingEdge t s hs
  | spllPhaseLock t => exact sound_execSpllPhaseLock t s hs
  | spllAcquireTimeout t => exact sound_execSpllAcquireTimeout t s hs
  | tsynUnlock t tile => exact sound_execTsynUnlock t tile s hs
  | tsynRelockRetry t tile => exact sound_execTsynRelockRetry t tile s hs
  | ksynUnlock t => exact sound_execKsynUnlock hs
  | detectorPeriodEnd t half r => exact sound_execDetectorPeriodEnd t half r s hs
  | levellerDwellExpiry t half band => exact sound_execLevellerDwellExpiry t half band s hs
  | levellerStepLanding t half band => exact sound_execLevellerStepLanding t half band s hs
  | adcClip t half samples => exact sound_execAdcClip t half samples s hs
  | antpwrCurrentLimit t half current => exact sound_execAntpwrCurrentLimit t half current s hs
  | antpwrOpen t half current => exact sound_execAntpwrOpen t half current s hs
  | gpioEdge t pin level => exact sound_execGpioEdge t pin level s hs
  | i2cTransactionStart t => exact sound_execI2cTransactionStart t s hs
  | i2cTransactionDone t r => exact sound_execI2cTransactionDone t r s hs
  | i2cClockHeld t => exact sound_execI2cClockHeld t s hs
  | tempSensorRead t sensor reading => exact sound_execTempSensorRead t sensor reading s hs
  | calRunStart t half => exact sound_execCalRunStart t half s hs
  | calPhaseEnd t half => exact sound_execCalPhaseEnd t half s hs
  | calRunEnd t half r => exact sound_execCalRunEnd t half r s hs
  | calRampIncrement t half => exact sound_execCalRampIncrement t half s hs
  | bgConverged t e => exact sound_execBgConverged t e s hs
  | bgHeld t half => exact sound_execBgHeld t half s hs
  | kiteCalRun t => exact sound_execKiteCalRun t s hs
  | kiteCalDone t image leakage => exact sound_execKiteCalDone t image leakage s hs
  | ctxPresencePass t ctx p => exact sound_execCtxPresencePass t ctx p s hs
  | ctxDetection t ctx d => exact sound_execCtxDetection t ctx d s hs
  | ctxConfirmation t ctx copy => exact sound_execCtxConfirmation t ctx copy s hs
  | ctxLoss t ctx copy => exact sound_execCtxLoss t ctx copy s hs
  | acquireTimeout t ctx copy => exact sound_execAcquireTimeout t ctx copy s hs
  | confirmTimeout t ctx copy => exact sound_execConfirmTimeout t ctx copy s hs
  | lostTimeout t ctx copy => exact sound_execLostTimeout t ctx copy s hs
  | holdEnd t half => exact sound_execHoldEnd t half s hs
  | qualityWindowEnd t ctx q => exact sound_execQualityWindowEnd t ctx q s hs
  | amFmBlock t ctx b => exact sound_execAmFmBlock t ctx b s hs
  | xfadeDone t ctx => exact sound_execXfadeDone t ctx s hs
  | pilotAbsent t ctx => exact sound_execPilotAbsent t ctx s hs
  | pilotLock t ctx => exact sound_execPilotLock t ctx s hs
  | pilotLost t ctx => exact sound_execPilotLost t ctx s hs
  | rdsBlock t ctx b => exact sound_execRdsBlock t ctx b s hs
  | dabFrame t ctx f => exact sound_execDabFrame t ctx f s hs
  | selectionAbsent t ctx sel => exact sound_execSelectionAbsent t ctx sel s hs
  | dabplusSuperframe t ctx sel f => exact sound_execDabplusSuperframe t ctx sel f s hs
  | l2Frame t ctx sel f => exact sound_execL2Frame t ctx sel f s hs
  | drmFrame t ctx f => exact sound_execDrmFrame t ctx f s hs
  | muxReconf t ctx r => exact sound_execMuxReconf t ctx r s hs
  | blockDeadline t ctx sel r => exact sound_execBlockDeadline t ctx sel r s hs
  | poolSaturated t half => exact sound_execPoolSaturated t half s hs
  | poolClear t half => exact sound_execPoolClear t half s hs
  | linkMatchWindow t set ctx sel w => exact sound_execLinkMatchWindow t set ctx sel w s hs
  | linkUnitMatch t set ctx sel u => exact sound_execLinkUnitMatch t set ctx sel u s hs
  | linkNoMatch t set ctx sel => exact sound_execLinkNoMatch t set ctx sel s hs
  | linkBlend t set => exact sound_execLinkBlend t set s hs
  | followEvaluation t => exact sound_execFollowEvaluation t s hs
  | followActionExecute t => exact sound_execFollowActionExecute t s hs
  | scanDwellEnd t => exact sound_execScanDwellEnd t s hs
  | dbEntryAged t => exact sound_execDbEntryAged t s hs
  | motObjectTimeout t ctx sel transportId => exact sound_execMotObjectTimeout t ctx sel transportId s hs
  | recordCloseTimeout t flow => exact sound_execRecordCloseTimeout t flow s hs
  | egressRecordStart t link => exact sound_execEgressRecordStart t link s hs
  | bufferFlush t ring => exact sound_execBufferFlush t ring s hs
  | memberUnderrun t flow span => exact sound_execMemberUnderrun t flow span s hs
  | dramCorrected t line channel => exact sound_execDramCorrected t line channel s hs
  | dramUncorrectable t line channel owner => exact sound_execDramUncorrectable t line channel owner s hs
  | msixHoldoffExpiry t vector => exact sound_execMsixHoldoffExpiry t vector s hs
  | msixUnmask t vector => exact sound_execMsixUnmask t vector s hs
  | kiteConfigApply t => exact sound_execKiteConfigApply t s hs
  | kiteDecision t => exact sound_execKiteDecision t s hs
  | kiteTxEnd t => exact sound_execKiteTxEnd t s hs
  | kiteWindowBoundary t => exact sound_execKiteWindowBoundary t s hs
  | kiteDetection t p => exact sound_execKiteDetection t p s hs
  | kiteSyncDone t demod shift pilots => exact sound_execKiteSyncDone t demod shift pilots s hs
  | kiteSyncTimeout t demod => exact sound_execKiteSyncTimeout t demod s hs
  | kiteHeaderDone t demod h => exact sound_execKiteHeaderDone t demod h s hs
  | kitePayloadDone t demod r => exact sound_execKitePayloadDone t demod r s hs
  | audioClockStart t port => exact sound_execAudioClockStart t port s hs
  | audioFirstFrame t port => exact sound_execAudioFirstFrame t port s hs
  | audioTrailEnd t port => exact sound_execAudioTrailEnd t port s hs
  | audioFsEdge t port bclks edge => exact sound_execAudioFsEdge t port bclks edge s hs
  | audioSlip t port fill dir => exact sound_execAudioSlip t port fill dir s hs
  | audioXrun t port dir overrun cause => exact sound_execAudioXrun t port dir overrun cause s hs
  | audioStall t port => exact sound_execAudioStall t port s hs
  | audioResume t port aligned => exact sound_execAudioResume t port aligned s hs
  | tetherLinkDown t port topology => exact sound_execTetherLinkDown t port topology s hs
  | tetherLinkUp t port up => exact sound_execTetherLinkUp t port up s hs
  | rollCall t p => exact sound_execRollCall t p s hs
  | rollCallAnswer t addr a => exact sound_execRollCallAnswer t addr a s hs
  | masterClaim t addr c => exact sound_execMasterClaim t addr c s hs
  | stepNotice t steps grid => exact sound_execStepNotice t steps grid s hs
  | chainTransferAck t seq status => exact sound_execChainTransferAck t seq status s hs
  | chainMsgDelivery t src seq message => exact sound_execChainMsgDelivery t src seq message s hs
  | chainCommandArrival t src seq late d c => exact sound_execChainCommandArrival t src seq late d c s hs
  | tetherDcFault t port => exact sound_execTetherDcFault t port s hs
  | tetherDcRetry t port limited => exact sound_execTetherDcRetry t port limited s hs
  | vinStart t vin => exact sound_execVinStart t vin s hs
  | braceEntry t vin => exact sound_execBraceEntry t vin s hs
  | braceExit t vin vinMin => exact sound_execBraceExit t vin vinMin s hs
  | braceVinLow t => exact sound_execBraceVinLow t s hs
  | vinReset t vin dcPresent => exact sound_execVinReset t vin dcPresent s hs
  | vinOverVoltage t vin => exact sound_execVinOverVoltage t vin s hs
  | powerReset t => exact sound_execPowerReset t s hs
  | railTrip t group value overCurrent => exact sound_execRailTrip t group value overCurrent s hs
  | watchdogExpiry t cpu => exact sound_execWatchdogExpiry t cpu s hs
  | porstN t => exact sound_execPorstN t s hs
  | hostReset t => exact sound_execHostReset hs
  | bootImageSearch t b => exact sound_execBootImageSearch t b s hs
  | bootWaitTimeout t => exact sound_execBootWaitTimeout t s hs
  | firstLight t => exact sound_execFirstLight t s hs
  | partFull t => exact sound_execPartFull t s hs
  | quarantineReboot t => exact sound_execQuarantineReboot t s hs
  | chainBootTimeout t => exact sound_execChainBootTimeout t s hs
  | fwActivateReset t => exact sound_execFwActivateReset t s hs
  | tileLinkFault t tile detail => exact sound_execTileLinkFault t tile detail s hs
  | memoryFault t half detail => exact sound_execMemoryFault t half detail s hs
  | converterStuck t half => exact sound_execConverterStuck t half s hs
  | tileResetDone t tile r => exact sound_execTileResetDone t tile r s hs
  | hifEnable t => exact sound_execHifEnable t s hs
  | hifDisable t => exact sound_execHifDisable t s hs
  | hifLock t => exact sound_execHifLock t s hs
  | hifQuiesced t => exact sound_execHifQuiesced t s hs
  | hifNudge t value => exact sound_execHifNudge t value s hs
  | pmuVinWarn t value => exact sound_execPmuVinWarn t value s hs
  | tetTimeDisagree t value => exact sound_execTetTimeDisagree t value s hs
  | secKeyWrite t slot => exact sound_execSecKeyWrite t slot s hs
  | secKeyErase t slot => exact sound_execSecKeyErase t slot s hs
  | secHbootGo t image => exact sound_execSecHbootGo t image s hs
  | dbgLockTest t target => exact sound_execDbgLockTest t target s hs
  | dbgLockTestDone t longest => exact sound_execDbgLockTestDone t longest s hs
  | dbgTileReset t tile => exact sound_execDbgTileReset t tile s hs
  | registerWrite t offset width value => exact sound_execRegisterWrite t offset width value s hs
  | muteLead t half => exact sound_execMuteLead t half s hs
  | muteTrail t pin => exact sound_execMuteTrail t pin s hs
  | ksynRelock t => exact sound_execKsynRelock t s hs
  | vinOverVoltageRelease t vin => exact sound_execVinOverVoltageRelease t vin s hs
  | fwLoadStageDone t verified => exact sound_execFwLoadStageDone t verified s hs
  | chainCompletionArrival t src seq c => exact sound_execChainCompletionArrival t src seq c s hs
  | chainEventArrival t src seq e => exact sound_execChainEventArrival t src seq e s hs
  | chainRecordArrival t src r => exact sound_execChainRecordArrival t src r s hs
  | chainConfigArrival t c => exact sound_execChainConfigArrival t c s hs
  | chainRouteUpdate t r => exact sound_execChainRouteUpdate t r s hs
  | chainEnumerationWalk t addr chainId epoch => exact sound_execChainEnumerationWalk t addr chainId epoch s hs
  | masterSecondsMarker t sub delayNs => exact sound_execMasterSecondsMarker hs
  | audioPortFrame t f => exact sound_execAudioPortFrame t f s hs
  | _ => exact soundOut_ofSource hs rfl

end

/-- Settles O49: an empty queue idles, and any command's meaning keeps the part sound. -/
theorem stepKeepsSound : Obligations.StepKeepsSound := by
  unfold Obligations.StepKeepsSound
  intro f s u hs e
  obtain ⟨m, q⟩ := s
  cases q with
  | nil =>
    injection e with hu
    exact hu ▸ sound_idle hs
  | cons c rest => exact soundOut_exec (s := ⟨m, rest⟩) hs c u e

end Sys2Proof.Scope

/-! # HALF_SETUP (R23, R25, R100, R108, R128, R500)

A command that has passed its checks meets none of the conditions under which its execution would refuse it. -/

namespace Sys2Proof.HalfSetup

open Sys2Proof Sys2Proof.Machine Sys2Proof.Safety Sys2Proof.Laws

/-! ## What passing the checks of HALF_SETUP means (R500) -/

/-- A half that passes the checks of LEVELLER, ANTPWR and EXT_GAIN is no half B of a SHARED pair, and its parameters are good. -/
theorem setupStatus_ok {h : Nat} {bad : Bool} {m : Part} (ok : setupStatus h bad m = stOk) : sharedB h m = false ∧ bad = false := by
  simp only [setupStatus, firstStatus_ok (show stBadParam ≠ stOk by decide), firstStatus_ok (show stFenced ≠ stOk by decide)] at ok
  obtain ⟨-, shared, -, bad, -⟩ := ok
  exact ⟨shared, bad⟩

/-- ANTPWR that passes its checks names a setting, for a half that is not PARKED (R100, R102). -/
theorem antpwrStatus_ok {h setting : Nat} {m : Part} (ok : antpwrStatus h setting m = stOk) :
    sharedB h m = false ∧ isParked h m = false ∧ ∃ v, antSetting setting = some v := by
  obtain ⟨shared, bad⟩ := setupStatus_ok ok
  obtain ⟨named, parked⟩ := Bool.or_eq_false_iff.mp bad
  exact ⟨shared, parked, Option.isSome_iff_exists.mp (by simpa using named)⟩

/-- All ones selects the mode that its default code selects. -/
theorem halfModeOf_modeCode (mode : Nat) : halfModeOf (modeCode mode) = halfModeOf mode := by
  by_cases ones : mode = 255
  · subst ones; rfl
  · simp [modeCode, orDefault, ones]

/-- A half with no slot held has no open context. -/
theorem no_ctx_of_halfSlots {h : Nat} {m : Part} (free : (halfSlots h m).isEmpty = true) :
    (m.ctxs.any fun c => decide (ctxHalf c.1 = h)) = false := by
  have none : ∀ s ∈ heldSlots m, ctxHalf s ≠ h := by simpa [halfSlots] using free
  refine List.any_eq_false.mpr fun c hc => ?_
  have held : c.1 ∈ heldSlots m := by
    simp only [heldSlots, List.mem_dedup, List.mem_append, List.mem_map]
    exact .inl (.inl (.inl ⟨c, hc, rfl⟩))
  simpa using none c.1 held

/-- MODE that passes its checks names a mode and a half that the tile's state lets it change. -/
theorem modeStatus_ok {h mode input : Nat} {m : Part} (ok : modeStatus h mode input m = stOk) :
    pairedB h m = false ∧ modeFenced h mode m = false ∧ (∃ k, halfModeOf mode = some k) ∧ modeFree h (modeCode mode) input m = true := by
  simp only [modeStatus, firstStatus_ok (show stBadParam ≠ stOk by decide), firstStatus_ok (show stFenced ≠ stOk by decide),
    firstStatus_ok (show stBusy ≠ stOk by decide), Bool.or_eq_false_iff, halfModeOf_modeCode] at ok
  obtain ⟨-, halfB, fenced, ⟨named, -⟩, ⟨free, -⟩, -⟩ := ok
  exact ⟨halfB, Bool.or_eq_false_iff.mpr fenced, Option.isSome_iff_exists.mp (by simpa using named), by simpa using free⟩

/-! ## What each function does once it passes -/

/-- MODE on a tile that it may change gives the half or the pair its mode (R23, R25). -/
theorem performMode_passed {h mode input : Nat} {d : Desc} {o : Origin} {m : Part} (ok : modeStatus h mode input m = stOk) :
    ∃ k, halfModeOf mode = some k ∧ performMode h mode input d o m =
      (if k.paired then setPair h k (decide (input = 1)) m else setAlone h k m, reply stOk) := by
  obtain ⟨halfB, fenced, ⟨k, named⟩, free⟩ := modeStatus_ok ok
  have unbarred : (!deliveryChange h (modeCode mode) input m
      && ((m.ctxs.any fun c => decide (ctxHalf c.1 = h))
        || (pairingChange h (modeCode mode) input m && m.ctxs.any fun c => decide (ctxHalf c.1 = partner h)))) = false := by
    rcases Bool.or_eq_true_iff.mp free with delivery | alone
    · simp [delivery]
    · obtain ⟨own, other⟩ := Bool.and_eq_true_iff.mp alone
      rcases Bool.or_eq_true_iff.mp other with single | partners
      · rw [no_ctx_of_halfSlots own, show pairingChange h (modeCode mode) input m = false by simpa using single]; simp
      · rw [no_ctx_of_halfSlots own, no_ctx_of_halfSlots partners]; simp
  refine ⟨k, named, ?_⟩
  unfold performMode
  simp only [halfB, fenced, unbarred, applyMode, named, Bool.false_eq_true, if_false]

/-- Settles O2: a command that passes its checks meets none of the conditions under which its effect would be refused. -/
theorem halfCommandsComplete : Obligations.HalfCommandsComplete := by
  unfold Obligations.HalfCommandsComplete
  intro d h s
  refine ⟨fun mode input ex => ?_, fun p ex => ?_, fun setting ex => ?_, fun gain ex => ?_⟩
  · obtain ⟨k, named, e⟩ := performMode_passed ex.passed
    exact ⟨k, named, run_answered ex (by simp) (by simp) e⟩
  · obtain ⟨shared, -⟩ := setupStatus_ok ex.passed
    refine run_answered ex (by simp) (by simp) ?_
    simp only [levellerNow, performLeveller, shared, Bool.false_eq_true, if_false]
    rfl
  · obtain ⟨shared, parked, v, named⟩ := antpwrStatus_ok ex.passed
    refine ⟨v, named, run_answered ex (by simp) (by simp) ?_⟩
    simp only [performAntpwr, shared, parked, named]
    rfl
  · obtain ⟨shared, -⟩ := setupStatus_ok ex.passed
    refine run_answered ex (by simp) (by simp) ?_
    simp only [performExtGain, shared]
    rfl

end Sys2Proof.HalfSetup

/-! # AM and FM blocks, fades, the pilot and RDS (R158, R185, R210, R223-R225) -/

namespace Sys2Proof.Blocks

open Sys2Proof Sys2Proof.Machine Sys2Proof.Safety Sys2Proof.Laws

/-! ## Fades (R158) -/

/-- A fade that has reached its last output is over, and its end is stamped with that output's tick. -/
theorem settleFade_ended {c : Nat} {x : Ctx} {f : Fade} {m : Part} (open_ : ctx c m = some x) (fading : x.chain.fade = some f)
    (ended : fadeEnd x f ≤ m.clock.elapsed) : settleFade c m = endFade c (htOf (fadeEnd x f) m) m := by
  unfold settleFade
  rw [open_]
  simp only [fading, if_pos ended]

/-! ## Blocks of AM, FM and RDS -/

/-- Settles O23: on an open context whose guard holds, each row is its operations in their order. A block off the 2.5 ms grid, or of a
digital context, is the guard's other branch. -/
theorem analogueEventsComplete : Obligations.AnalogueEventsComplete := by
  unfold Obligations.AnalogueEventsComplete
  intro t c x s m found
  have ha : advance t s.part = m := rfl
  clear_value m
  have open_ : ctx c m = some x := found
  refine ⟨fun b analogue grid => ?_, fun f fading ended => ?_, fun runs => ?_, fun b runs => ?_⟩
  · refine run_onTick ha ?_
    unfold amFmBlock
    rw [open_]
    exact if_neg (by simp [analogue, grid])
  · exact run_onTick ha (settleFade_ended open_ fading ended)
  · have running : (look c m.ctxs).any pilotRuns = true := by simp [found, runs]
    refine ⟨run_onTick ha (if_pos running), run_onTick ha (if_pos running), run_onTick ha ?_⟩
    simp only [found, if_pos runs]
  · refine run_onTick ha ?_
    simp only [found, runs]
    rfl

end Sys2Proof.Blocks

/-! # Fencing of a half (R36-R38)

That a fenced half is left isolated and without contexts needs two frames, carried through every operation of a fence: `CtxsOnly` for one
that leaves the halves as they are and opens no context, `OpensNone` for one that changes halves and opens no context. -/

namespace Sys2Proof.Fencing

open Sys2Proof Sys2Proof.Machine Sys2Proof.Safety Sys2Proof.Laws

/-! ## Free slots of a table -/

section
variable {α : Type} {k : Nat}

/-- Changing an entry gives no key an entry. -/
theorem look_change_none {j : Nat} {f : α → α} {l : List (Nat × α)} (free : look k l = none) : look k (change j f l) = none := by
  induction l with
  | nil => rfl
  | cons e l ih =>
    obtain ⟨i, a⟩ := e
    unfold look at free
    split at free
    · cases free
    next other =>
      have key : ((if i = j then (i, f a) else (i, a)) : Nat × α).1 ≠ k := by split <;> exact other
      exact (if_neg key).trans (ih free)

/-- Removing an entry gives no key an entry. -/
theorem look_erase_none {j : Nat} {l : List (Nat × α)} (free : look k l = none) : look k (erase j l) = none := by
  induction l with
  | nil => rfl
  | cons e l ih =>
    obtain ⟨i, a⟩ := e
    unfold look at free
    split at free
    · cases free
    next other =>
      unfold erase
      rw [List.filter_cons]
      split
      · exact (if_neg other).trans (ih free)
      · exact ih free

/-- A key that is removed has no entry left. -/
theorem look_erase_same (l : List (Nat × α)) : look k (erase k l) = none := by
  induction l with
  | nil => rfl
  | cons e l ih =>
    unfold erase
    rw [List.filter_cons]
    split
    next other => exact (if_neg (of_decide_eq_true other)).trans ih
    · exact ih

/-- A key that has an entry is one of the table's. -/
theorem mem_of_look_some {l : List (Nat × α)} (held : look k l ≠ none) : k ∈ l.map (·.1) := by
  induction l with
  | nil => exact absurd rfl held
  | cons e l ih =>
    obtain ⟨i, a⟩ := e
    unfold look at held
    split at held
    next same => exact same ▸ List.mem_cons_self
    · exact List.mem_cons_of_mem _ (ih held)

end

/-! ## Two frames -/

/-- `m'` has the halves of `m`, and holds a context in no slot in which `m` holds none. -/
structure CtxsOnly (m m' : Part) : Prop where
  halves : m'.halves = m.halves
  slots : ∀ c, ctx c m = none → ctx c m' = none

/-- `m'` has as many halves as `m`, and holds a context in no slot in which `m` holds none. -/
structure OpensNone (m m' : Part) : Prop where
  size : m'.halves.length = m.halves.length
  slots : ∀ c, ctx c m = none → ctx c m' = none

section
variable {a b c m : Part}

theorem CtxsOnly.refl (m : Part) : CtxsOnly m m := ⟨rfl, fun _ h => h⟩

theorem CtxsOnly.trans (h : CtxsOnly a b) (k : CtxsOnly b c) : CtxsOnly a c :=
  ⟨k.halves.trans h.halves, fun c hc => k.slots c (h.slots c hc)⟩

/-- An operation that changes neither halves nor contexts. -/
theorem CtxsOnly.of_same (halves : b.halves = a.halves) (ctxs : b.ctxs = a.ctxs) : CtxsOnly a b :=
  ⟨halves, fun c hc => by rw [ctx, ctxs]; exact hc⟩

/-- An operation that begins from a part with the same halves and contexts. -/
theorem CtxsOnly.of_begun (h : CtxsOnly b c) (halves : b.halves = a.halves) (ctxs : b.ctxs = a.ctxs) : CtxsOnly a c :=
  (CtxsOnly.of_same halves ctxs).trans h

theorem CtxsOnly.of_records (h : RecordsOnly a b) : CtxsOnly a b := .of_same h.halves h.ctxs

theorem CtxsOnly.ite {p : Prop} [Decidable p] (h : CtxsOnly a b) (k : CtxsOnly a c) : CtxsOnly a (if p then b else c) := by
  split <;> assumption

theorem CtxsOnly.foldl {β : Type} {f : Part → β → Part} (h : ∀ m x, CtxsOnly m (f m x)) (l : List β) (m : Part) :
    CtxsOnly m (l.foldl f m) := by
  induction l generalizing m with
  | nil => exact .refl m
  | cons x l ih => exact (h m x).trans (ih _)

theorem CtxsOnly.elim {β : Type} {f : β → Part} (h : ∀ x, CtxsOnly m (f x)) (o : Option β) : CtxsOnly m (o.elim m f) := by
  cases o with
  | none => exact .refl m
  | some x => exact h x

theorem CtxsOnly.opensNone (h : CtxsOnly a b) : OpensNone a b := ⟨congrArg _ h.halves, h.slots⟩

theorem OpensNone.refl (m : Part) : OpensNone m m := ⟨rfl, fun _ h => h⟩

theorem OpensNone.trans (h : OpensNone a b) (k : OpensNone b c) : OpensNone a c :=
  ⟨k.size.trans h.size, fun c hc => k.slots c (h.slots c hc)⟩

theorem OpensNone.ite {p : Prop} [Decidable p] (h : OpensNone a b) (k : OpensNone a c) : OpensNone a (if p then b else c) := by
  split <;> assumption

theorem OpensNone.foldl {β : Type} {f : Part → β → Part} (h : ∀ m x, OpensNone m (f m x)) (l : List β) (m : Part) :
    OpensNone m (l.foldl f m) := by
  induction l generalizing m with
  | nil => exact .refl m
  | cons x l ih => exact (h m x).trans (ih _)

end

/-! ## Records -/

theorem records_appendFixed (n fuel : Nat) (c : Content) (m : Part) : RecordsOnly m (appendFixed n fuel c m) := by
  induction fuel generalizing c m with
  | zero => exact .refl m
  | succ fuel ih =>
    unfold appendFixed
    refine .ite (.refl m) ?_
    split
    · exact .refl m
    · exact ((RecordsOnly.of_onFlow _ _ (.refl m)).trans (.ite (closeRecord_records _ _) (.refl _))).trans (ih _ _)

theorem records_iqSpans (n : Nat) (x : Ctx) (blank : Bool) (lo hi : Nat) (l : List Nat) (m : Part) :
    RecordsOnly m (iqSpans n x blank lo hi l m) := by
  induction l generalizing lo m with
  | nil => exact records_appendFixed _ _ _ _
  | cons p l ih => exact (records_appendFixed _ _ _ _).trans (ih _ _)

theorem records_catchIq (hi n : Nat) (x : Ctx) (m : Part) : RecordsOnly m (catchIq hi n x m) := by
  unfold catchIq
  split
  · exact .refl m
  · exact .ite (.refl m) (.of_onFlow _ _ (.ite (.refl m) (records_iqSpans _ _ _ _ _ _ _)))

theorem records_catchAll (hi : Nat) (x : Ctx) (l : List Nat) (m : Part) : RecordsOnly m (catchAll hi x l m) := by
  induction l generalizing m with
  | nil => exact .refl m
  | cons n l ih => exact (records_catchIq _ _ _ _).trans (ih _)

theorem records_pcmSpans (n : Nat) (g : PcmGrid) (words : Nat → Nat → Nat → List Int) (silent : Nat → Bool) (flags : Nat → Nat)
    (lo hi : Nat) (l : List Nat) (m : Part) : RecordsOnly m (pcmSpans n g words silent flags lo hi l m) := by
  induction l generalizing lo m with
  | nil => exact records_appendFixed _ _ _ _
  | cons p l ih => exact (records_appendFixed _ _ _ _).trans (ih _ _)

theorem records_catchPcm (c : Nat) (x : Ctx) (hi n : Nat) (m : Part) : RecordsOnly m (catchPcm c x hi n m) := by
  unfold catchPcm
  split
  · exact .refl m
  · exact .ite (.refl m) (.of_onFlow _ _ (records_pcmSpans _ _ _ _ _ _ _ _ _))

theorem records_catchPcmAll (c : Nat) (x : Ctx) (hi : Nat) (l : List Nat) (m : Part) : RecordsOnly m (catchPcmAll c x hi l m) := by
  induction l generalizing m with
  | nil => exact .refl m
  | cons n l ih => exact (records_catchPcm _ _ _ _ _).trans (ih _)

theorem records_catchTo (c hi : Nat) (iq : Ctx → Part → Nat) (m : Part) : RecordsOnly m (catchTo c hi iq m) := by
  unfold catchTo
  split
  · exact .refl m
  · exact (records_catchAll _ _ _ _).trans (records_catchPcmAll _ _ _ _ _)

theorem records_breakFlows (l : List Nat) (m : Part) : RecordsOnly m (breakFlows l m) := by
  induction l generalizing m with
  | nil => exact .refl m
  | cons n l ih => exact (RecordsOnly.of_onFlow _ _ (closeRecord_records _ _)).trans (ih _)

theorem records_appendItems (ht : Nat) (t : Int) (flags : Nat) (it : Item) (l : List Nat) (m : Part) :
    RecordsOnly m (appendItems ht t flags it l m) := by
  induction l generalizing m with
  | nil => exact .refl m
  | cons n l ih => exact (appendItem_records _ _ _ _ _ _).trans (ih _)

theorem records_closeCapture (c : Capture) (m : Part) : RecordsOnly m (closeCapture c m).2 :=
  (RecordsOnly.of_onFlow _ _ (.refl m)).trans (closeRecord_records _ _)

theorem records_fillGroups (c : Capture) (s : CapSpan) (n flags : Nat) (m : Part) : RecordsOnly m (fillGroups c s n flags m).2 :=
  .of_onFlow _ _ ((RecordsOnly.of_onFlow _ _ (.refl m)).trans (records_appendFixed _ _ _ _))

theorem records_deliverSpan (c : Capture) (s : CapSpan) (m : Part) : RecordsOnly m (deliverSpan c s m).2 := by
  unfold deliverSpan
  split
  · exact ((records_closeCapture _ _).trans (records_fillGroups _ _ _ _ _)).trans (records_fillGroups _ _ _ _ _)
  · exact records_fillGroups _ _ _ _ _

theorem records_deliverSpans (l : List CapSpan) (c : Capture) (m : Part) : RecordsOnly m (deliverSpans l c m).2 := by
  induction l generalizing c m with
  | nil => exact .refl m
  | cons s l ih => exact (records_deliverSpan _ _ _).trans (ih _ _)

theorem records_releaseCapture (c : Capture) (m : Part) : RecordsOnly m (releaseCapture c m).2 := by
  unfold releaseCapture
  split
  · dsimp only
    split
    · exact (records_deliverSpans _ _ _).trans (records_closeCapture _ _)
    · exact records_deliverSpans _ _ _
  · exact .refl m

theorem records_catchCapture (c : Capture) (m : Part) : RecordsOnly m (catchCapture c m).2 := by
  unfold catchCapture
  split
  · exact records_releaseCapture _ _
  · exact records_releaseCapture _ _

/-! ## Events, source sets and windows -/

theorem ctxsOnly_raise (s c : Nat) (p : List Field) (m : Part) : CtxsOnly m (raise s c p m) := .of_same (by simp) (by simp)

theorem ctxsOnly_finish (d : Desc) (o : Origin) (c : Nat) (r : Reply) (m : Part) : CtxsOnly m (finish d o c r m) :=
  .of_same (by simp) (by simp)

theorem ctxsOnly_onCtx (c : Nat) (f : Ctx → Ctx) (m : Part) : CtxsOnly m (onCtx c f m) :=
  ⟨rfl, fun k free => by simpa only [ctx, onCtx] using look_change_none free⟩

theorem ctxsOnly_onSet (n : Nat) (f : SourceSet → SourceSet) (m : Part) : CtxsOnly m (onSet n f m) := .of_same rfl rfl

theorem ctxsOnly_moveMember (n i : Nat) (new : MemberState) (cause : LinkCause) (m : Part) :
    CtxsOnly m (moveMember n i new cause m) := by
  unfold moveMember
  split
  · exact .refl m
  · exact .ite (.refl m) ((ctxsOnly_raise _ _ _ _).trans (ctxsOnly_onSet _ _ _))

theorem ctxsOnly_joinReference (n : Nat) (m : Part) : CtxsOnly m (joinReference n m) := by
  unfold joinReference
  split
  · exact .refl m
  · exact .ite (ctxsOnly_moveMember _ _ _ _ _) (.refl m)

theorem ctxsOnly_takeReference (n i : Nat) (m : Part) : CtxsOnly m (takeReference n i m) :=
  (ctxsOnly_onSet _ _ _).trans (ctxsOnly_joinReference _ _)

theorem ctxsOnly_passReference (n : Nat) (m : Part) : CtxsOnly m (passReference n m) := by
  unfold passReference
  split
  · exact .refl m
  · refine .ite (.refl m) ?_
    split
    · exact .refl m
    · exact ctxsOnly_takeReference _ _ _

theorem ctxsOnly_rebranch (n i : Nat) (m : Part) : CtxsOnly m (rebranch n i m) := by
  unfold rebranch
  split
  · exact .refl m
  · exact .ite (.refl m) (ctxsOnly_onSet _ _ _)

theorem ctxsOnly_refreshMember (n i : Nat) (m : Part) : CtxsOnly m (refreshMember n i m) := by
  unfold refreshMember
  split
  · exact .refl m
  · split
    · exact .refl m
    · exact .ite (ctxsOnly_moveMember _ _ _ _ _) (.ite ((ctxsOnly_rebranch _ _ _).trans (ctxsOnly_moveMember _ _ _ _ _)) (.refl m))

theorem ctxsOnly_refreshSet (n : Nat) (m : Part) : CtxsOnly m (refreshSet n m) :=
  (CtxsOnly.foldl (fun _ _ => ctxsOnly_refreshMember _ _ _) _ _).trans (ctxsOnly_passReference _ _)

theorem ctxsOnly_refreshCtx (c : Nat) (m : Part) : CtxsOnly m (refreshCtx c m) := .foldl (fun _ _ => ctxsOnly_refreshSet _ _) _ _

theorem ctxsOnly_endSet (n : Nat) (m : Part) : CtxsOnly m (endSet n m) := .of_same rfl rfl

theorem ctxsOnly_removeMember (n i : Nat) (m : Part) : CtxsOnly m (removeMember n i m) := by
  unfold removeMember
  split
  · exact .refl m
  · exact ((ctxsOnly_raise _ _ _ _).trans (ctxsOnly_onSet _ _ _)).trans
      (.ite (ctxsOnly_takeReference _ _ _) (ctxsOnly_passReference _ _))

theorem ctxsOnly_dropFromSet (c n : Nat) (m : Part) : CtxsOnly m (dropFromSet c n m) := by
  unfold dropFromSet
  split
  · exact .refl m
  · exact .ite ((ctxsOnly_endSet _ _).trans (ctxsOnly_raise _ _ _ _))
      (.foldl (fun m _ => .ite (ctxsOnly_removeMember _ _ _) (.refl m)) _ _)

theorem ctxsOnly_dropFromSets (c : Nat) (m : Part) : CtxsOnly m (dropFromSets c m) := .foldl (fun _ _ => ctxsOnly_dropFromSet _ _ _) _ _

theorem ctxsOnly_noteSets (c : Nat) (m : Part) : CtxsOnly m (noteSets c m) := .foldl (fun _ _ => ctxsOnly_onSet _ _ _) _ _

theorem ctxsOnly_catchUp (c : Nat) (m : Part) : CtxsOnly m (catchUp c m) :=
  (ctxsOnly_noteSets _ _).trans (.of_records (records_catchTo _ _ _ _))

theorem ctxsOnly_flushUp (c : Nat) (m : Part) : CtxsOnly m (flushUp c m) :=
  (ctxsOnly_noteSets _ _).trans (.of_records (records_catchTo _ _ _ _))

theorem ctxsOnly_deliverReport (c : Nat) (r : Report) (m : Part) : CtxsOnly m (deliverReport c r m) :=
  .of_records (records_appendItems _ _ _ _ _ _)

theorem ctxsOnly_cutWindow (c : Nat) (state : CtxState) (m : Part) : CtxsOnly m (cutWindow c state m) := by
  unfold cutWindow
  split
  · exact .refl m
  · exact .of_begun (ctxsOnly_deliverReport _ _ _) rfl rfl

theorem ctxsOnly_notePilot (c : Nat) (before : Pilot) (m : Part) : CtxsOnly m (notePilot c before m) := by
  unfold notePilot
  split
  · exact .refl m
  · exact .ite (.refl m) (ctxsOnly_raise _ _ _ _)

theorem ctxsOnly_changeCtx (c cause : Nat) (f : Ctx → Ctx) (m : Part) : CtxsOnly m (changeCtx c cause f m) := by
  unfold changeCtx
  extract_lets settled
  have fresh : CtxsOnly m settled := .ite (ctxsOnly_onCtx _ _ _) (.refl m)
  refine fresh.trans ?_
  split
  · exact .refl _
  · exact (((ctxsOnly_onCtx _ _ _).trans (.ite (.refl _) (ctxsOnly_raise _ _ _ _))).trans (ctxsOnly_notePilot _ _ _)).trans
      (ctxsOnly_refreshCtx _ _)

/-! ## Contexts end -/

/-- A context that is dropped leaves its slot free, and no other slot is taken. -/
theorem dropCtx_frees (c : Nat) (state : CtxState) (cause : Nat) (m : Part) :
    CtxsOnly m (dropCtx c state cause m) ∧ ctx c (dropCtx c state cause m) = none := by
  unfold dropCtx
  split
  next free => exact ⟨.refl m, free⟩
  next x _ =>
    have told : CtxsOnly m (raise (halfSource (ctxHalf c) 0) 0x80 [⟨0, 2, c⟩, ⟨2, 1, x.state.code⟩, ⟨3, 1, state.code⟩, ⟨4, 1, cause⟩]
        (breakCtx c (cutWindow c state (flushUp c m)))) :=
      (((ctxsOnly_flushUp _ _).trans (ctxsOnly_cutWindow _ _ _)).trans (.of_records (records_breakFlows _ _))).trans
        (ctxsOnly_raise _ _ _ _)
    have left := ctxsOnly_dropFromSets c
    exact ⟨⟨(left _).halves.trans told.halves, fun k free => (left _).slots k (look_erase_none (told.slots k free))⟩,
      (left _).slots c (look_erase_same _)⟩

theorem ctxsOnly_dropCtx (c : Nat) (state : CtxState) (cause : Nat) (m : Part) : CtxsOnly m (dropCtx c state cause m) :=
  (dropCtx_frees c state cause m).1

theorem ctxsOnly_closePolicyCtxs (set : Nat) (l : List Nat) (m : Part) : CtxsOnly m (closePolicyCtxs set l m) := by
  induction l generalizing m with
  | nil => exact .refl m
  | cons c l ih => exact ((ctxsOnly_dropCtx _ _ _ _).trans (ctxsOnly_raise _ _ _ _)).trans (ih _)

theorem ctxsOnly_endPolicy (set : Nat) (m : Part) : CtxsOnly m (endPolicy set m) :=
  have ended := ((CtxsOnly.elim (fun p : Follow => ctxsOnly_flushUp p.params.ctx m) (policy set m)).trans
    (ctxsOnly_closePolicyCtxs set _ _)).trans (ctxsOnly_endSet set _)
  ⟨ended.halves, ended.slots⟩

theorem ctxsOnly_endPolicies (home kHz : Nat) (l : List Nat) (m : Part) : CtxsOnly m (endPolicies home kHz l m) := by
  induction l generalizing m with
  | nil => exact .refl m
  | cons n l ih => exact ((ctxsOnly_endPolicy _ _).trans (ctxsOnly_raise _ _ _ _)).trans (ih _)

theorem ctxsOnly_forgetWatch (c : Nat) (m : Part) : CtxsOnly m (forgetWatch c m) := .of_same rfl rfl

/-- A context that closes leaves its slot free, and no other slot is taken. -/
theorem closeCtx_frees (c : Nat) (state : CtxState) (cause : Nat) (m : Part) :
    CtxsOnly m (closeCtx c state cause m) ∧ ctx c (closeCtx c state cause m) = none := by
  unfold closeCtx
  split
  next free => exact ⟨.refl m, free⟩
  next x _ =>
    obtain ⟨dropped, free⟩ := dropCtx_frees c state cause m
    refine ⟨dropped.trans ?after, CtxsOnly.slots ?after c free⟩
    exact ((ctxsOnly_forgetWatch _ _).trans (.elim (fun _ => ctxsOnly_raise _ _ _ _) _)).trans (ctxsOnly_endPolicies _ _ _ _)

/-- Closing several contexts frees the slot of each, and no other slot is taken. -/
theorem closeCtxs_frees (state : CtxState) (cause : Nat) (l : List Nat) (m : Part) :
    CtxsOnly m (closeCtxs state cause l m) ∧ ∀ c ∈ l, ctx c (closeCtxs state cause l m) = none := by
  induction l generalizing m with
  | nil => exact ⟨.refl m, fun _ h => absurd h List.not_mem_nil⟩
  | cons c l ih =>
    obtain ⟨first, free⟩ := closeCtx_frees c state cause m
    obtain ⟨others, frees⟩ := ih (closeCtx c state cause m)
    exact ⟨first.trans others, List.forall_mem_cons.mpr ⟨others.slots c free, frees⟩⟩

/-! ## Captures, holds and calibration commands -/

theorem ctxsOnly_catchWhere (p : Capture → Bool) (f : Capture → Capture) (l done : List Capture) (m : Part) :
    CtxsOnly m (catchWhere p f l done m) := by
  induction l generalizing done m with
  | nil => exact .of_same rfl rfl
  | cons c l ih =>
    unfold catchWhere
    refine .ite ?_ (ih _ _)
    have caught : CtxsOnly m (catchCapture c m).2 := .of_records (records_catchCapture _ _)
    dsimp only
    split
    · exact (caught.trans (.of_records (records_releaseCapture _ _))).trans (ih _ _)
    · exact caught.trans (ih _ _)

theorem ctxsOnly_finishAll (status : Nat) (l : List Action) (m : Part) : CtxsOnly m (finishAll status l m) := by
  induction l generalizing m with
  | nil => exact .refl m
  | cons a l ih => exact (ctxsOnly_finish _ _ _ _ _).trans (ih _)

theorem ctxsOnly_withdraw (p : Action → Bool) (status : Nat) (m : Part) : CtxsOnly m (withdraw p status m) :=
  .of_begun (ctxsOnly_finishAll _ _ _) rfl rfl

theorem ctxsOnly_settleCal (id : Nat) (m : Part) : CtxsOnly m (settleCal id m) := by
  unfold settleCal
  split
  · exact .refl m
  · exact .ite (.of_begun (ctxsOnly_finish _ _ _ _ _) rfl rfl) (.refl m)

theorem ctxsOnly_endTarget (command : Option Nat) (h status : Nat) (m : Part) : CtxsOnly m (endTarget command h status m) := by
  unfold endTarget
  split
  · exact .refl m
  · exact .of_begun (ctxsOnly_settleCal _ _) rfl rfl

theorem ctxsOnly_releaseOn (h : Nat) (cause : HoldCause) (c : Nat) (m : Part) : CtxsOnly m (releaseOn h cause c m) :=
  (ctxsOnly_catchUp _ _).trans (ctxsOnly_changeCtx _ _ _ _)

theorem ctxsOnly_releaseCtx (cause : HoldCause) (c : Nat) (m : Part) : CtxsOnly m (releaseCtx cause c m) :=
  (ctxsOnly_catchUp _ _).trans (ctxsOnly_changeCtx _ _ _ _)

theorem ctxsOnly_endCalHold (h c : Nat) (m : Part) : CtxsOnly m (endCalHold h c m) := by
  unfold endCalHold
  exact .ite ((ctxsOnly_releaseOn _ _ _ _).trans
    (.ite (ctxsOnly_onCtx _ _ _) ((ctxsOnly_catchUp _ _).trans (ctxsOnly_onCtx _ _ _)))) (.refl m)

theorem ctxsOnly_endHolds (h : Nat) (m : Part) : CtxsOnly m (endHolds h m) := by
  refine .foldl (fun m c => ?_) _ _
  exact ((CtxsOnly.ite (.refl m) (ctxsOnly_endCalHold _ _ _)).trans (.ite (.refl _) (ctxsOnly_releaseOn _ _ _ _))).trans
    (.ite (.refl _) (ctxsOnly_releaseCtx _ _ _))

theorem ctxsOnly_fenceCopy (h c : Nat) (m : Part) : CtxsOnly m (fenceCopy h c m) :=
  (ctxsOnly_catchUp _ _).trans (ctxsOnly_changeCtx _ _ _ _)

theorem ctxsOnly_loseMembers (l : List Nat) (m : Part) : CtxsOnly m (loseMembers l m) := .of_same rfl rfl

theorem ctxsOnly_releasePins (h : Nat) (m : Part) : CtxsOnly m (releasePins h m) := .of_same rfl rfl

theorem ctxsOnly_assertPins (h : Nat) (m : Part) : CtxsOnly m (assertPins h m) := .of_same rfl rfl

theorem ctxsOnly_tidyPins (m : Part) : CtxsOnly m (tidyPins m) := .foldl (fun _ _ => ctxsOnly_releasePins _ _) _ _

/-! ## What changes halves -/

theorem opensNone_onHalf (h : Nat) (f : Half → Half) (m : Part) : OpensNone m (onHalf h f m) :=
  ⟨List.length_modify _ _ _, fun _ free => free⟩

theorem opensNone_followShared (h : Nat) (m : Part) : OpensNone m (followShared h m) := .ite (opensNone_onHalf _ _ _) (.refl m)

theorem opensNone_unfreezeBands (h : Nat) (m : Part) : OpensNone m (unfreezeBands h m) :=
  .ite (.refl m) ((opensNone_onHalf _ _ _).trans (opensNone_followShared _ _))

theorem opensNone_freezeBands (h : Nat) (m : Part) : OpensNone m (freezeBands h m) :=
  (opensNone_onHalf _ _ _).trans (.ite (opensNone_onHalf _ _ _) (.refl _))

theorem opensNone_closeIso (h : Nat) (m : Part) : OpensNone m (closeIso h m) :=
  have closed := opensNone_onHalf h (fun x => { x with isoOpen := false, tone := false }) m
  ⟨closed.size, closed.slots⟩

theorem opensNone_closeIfLive (h : Nat) (m : Part) : OpensNone m (closeIfLive h m) :=
  .ite (opensNone_closeIso h m) (.refl m)

theorem opensNone_openIso (h : Nat) (m : Part) : OpensNone m (openIso h m) :=
  (opensNone_onHalf _ _ _).trans (ctxsOnly_assertPins _ _).opensNone

theorem opensNone_abandonRun (h : Nat) (m : Part) : OpensNone m (abandonRun h m) := by
  unfold abandonRun
  split
  · exact .refl m
  · exact (((((ctxsOnly_catchWhere _ _ _ _ _).opensNone.trans (opensNone_onHalf _ _ _)).trans (opensNone_closeIfLive _ _)).trans
      (opensNone_unfreezeBands _ _)).trans (ctxsOnly_endHolds _ _).opensNone).trans (ctxsOnly_endTarget _ _ _ _).opensNone

/-- What follows once a run has left the places of its half. -/
theorem ctxsOnly_dropPlaced (h : Nat) (p : PlacedRun) (status : Nat) (m : Part) :
    CtxsOnly (onCal h (fun c => { c with placed := c.placed.filter fun q => decide (q ≠ p) }) m) (dropPlaced h p status m) :=
  ((ctxsOnly_releasePins _ _).trans (ctxsOnly_endHolds _ _)).trans (ctxsOnly_endTarget _ _ _ _)

theorem opensNone_dropPlaced (h : Nat) (p : PlacedRun) (status : Nat) (m : Part) : OpensNone m (dropPlaced h p status m) :=
  (opensNone_onHalf _ _ _).trans (ctxsOnly_dropPlaced h p status m).opensNone

theorem opensNone_dropAllPlaced (h status : Nat) (m : Part) : OpensNone m (dropAllPlaced h status m) :=
  .foldl (fun _ _ => opensNone_dropPlaced _ _ _ _) _ _

theorem opensNone_dropOrphans (m : Part) : OpensNone m (dropOrphans m) :=
  .foldl (fun _ _ => .foldl (fun _ _ => opensNone_dropPlaced _ _ _ _) _ _) _ _

/-! ## The fenced half -/

/-- A half is FENCED for its cause, with its antenna output off. -/
structure Withdrawn (cause : Nat) (x : Half) : Prop where
  mode : x.mode = .fenced
  antenna : x.antpwr = .off
  cause : x.fenceCause = some cause

/-- How R37 leaves a fenced half: withdrawn and isolated. -/
structure Isolated (cause : Nat) (x : Half) : Prop extends Withdrawn cause x where
  isolated : x.isoOpen = true

/-- A change of a half is seen on that half alone. -/
theorem half_onHalf {h k : Nat} {f : Half → Half} {m : Part} :
    half k (onHalf h f m) = if h = k ∧ k < m.halves.length then f (half k m) else half k m := by
  unfold half onHalf
  simp only [List.getD_eq_getElem?_getD, List.getElem?_modify]
  split
  next same =>
    subst same
    cases inside : m.halves[h]? with
    | none => simp [List.getElem?_eq_none_iff.mp inside]
    | some x => simp [List.getElem?_eq_some_iff.mp inside |>.1]
  next other => simp [other]

/-- A change of some half that keeps a property keeps it on every half. -/
theorem half_onHalf_keeps {P : Half → Prop} {h k : Nat} {f : Half → Half} {m : Part} (keeps : ∀ x, P x → P (f x))
    (was : P (half k m)) : P (half k (onHalf h f m)) := by
  rw [half_onHalf]
  split
  · exact keeps _ was
  · exact was

/-- A change of a half that the part has is seen on it. -/
theorem half_onHalf_sets {P : Half → Prop} {h : Nat} {f : Half → Half} {m : Part} (fitted : h < m.halves.length)
    (sets : P (f (half h m))) : P (half h (onHalf h f m)) := by
  rwa [half_onHalf, if_pos ⟨rfl, fitted⟩]

theorem CtxsOnly.half {m m' : Part} (e : CtxsOnly m m') (h : Nat) : half h m' = half h m := by rw [Machine.half, e.halves]; rfl

section
variable {h cause : Nat} {m : Part}

theorem Isolated.ctxsOnly {m' : Part} (i : Isolated cause (half h m)) (e : CtxsOnly m m') : Isolated cause (half h m') := by
  rwa [e.half]

theorem Isolated.dropPlaced (i : Isolated cause (half h m)) (k : Nat) (p : PlacedRun) (status : Nat) :
    Isolated cause (half h (dropPlaced k p status m)) :=
  Isolated.ctxsOnly (m := onCal k _ m) (half_onHalf_keeps (fun _ x => ⟨⟨x.mode, x.antenna, x.cause⟩, x.isolated⟩) i)
    (ctxsOnly_dropPlaced k p status m)

theorem Isolated.foldl {β : Type} {f : Part → β → Part}
    (step : ∀ m x, Isolated cause (half h m) → Isolated cause (half h (f m x)))
    (l : List β) {m : Part} (i : Isolated cause (half h m)) : Isolated cause (half h (l.foldl f m)) := by
  induction l generalizing m with
  | nil => exact i
  | cons x l ih => exact ih (step m x i)

theorem Isolated.dropOrphans (i : Isolated cause (half h m)) : Isolated cause (half h (dropOrphans m)) :=
  i.foldl (fun _ _ j => j.foldl (fun _ _ k => k.dropPlaced _ _ _) _) _

end

theorem Withdrawn.freezeBands {h cause : Nat} {m : Part} (w : Withdrawn cause (half h m)) :
    Withdrawn cause (half h (freezeBands h m)) := by
  have frozen (k : Nat) (f : List Band → List Band) (m : Part) (v : Withdrawn cause (half h m)) :
      Withdrawn cause (half h (onHalf k (fun x => { x with bands := f x.bands }) m)) :=
    half_onHalf_keeps (fun _ x => ⟨x.mode, x.antenna, x.cause⟩) v
  unfold Machine.freezeBands
  extract_lets own
  split
  · exact frozen _ _ _ (frozen _ _ _ w)
  · exact frozen _ _ _ w

/-- A withdrawn half whose isolation switch opens is isolated. -/
theorem Withdrawn.openIso {h cause : Nat} {m : Part} (w : Withdrawn cause (half h m)) (fitted : h < m.halves.length) :
    Isolated cause (half h (openIso h m)) :=
  Isolated.ctxsOnly (half_onHalf_sets fitted ⟨⟨w.mode, w.antenna, w.cause⟩, rfl⟩) (ctxsOnly_assertPins h _)

/-- What ends on a half before it is withdrawn: its run, its capture and its placed runs. -/
theorem opensNone_emptied (h : Nat) (m : Part) : OpensNone m (dropAllPlaced h stFenced (stopCapture h (abandonRun h m))) :=
  ((opensNone_abandonRun h m).trans (ctxsOnly_catchWhere _ _ _ _ _).opensNone).trans (opensNone_dropAllPlaced h stFenced _)

theorem opensNone_withdrawHalf (h cause : Nat) (m : Part) : OpensNone m (withdrawHalf h cause m) :=
  (((opensNone_emptied h m).trans (opensNone_onHalf _ _ _)).trans (opensNone_freezeBands _ _)).trans (opensNone_openIso _ _)

theorem withdrawHalf_isolated {h cause : Nat} {m : Part} (fitted : h < m.halves.length) :
    Isolated cause (half h (withdrawHalf h cause m)) := by
  unfold withdrawHalf
  extract_lets stopped emptied off
  have inside : h < emptied.halves.length := (opensNone_emptied h m).size ▸ fitted
  have still : h < (freezeBands h off).halves.length :=
    ((opensNone_onHalf h _ emptied).trans (opensNone_freezeBands h _)).size ▸ inside
  have withdrawn : Withdrawn cause (half h off) := half_onHalf_sets inside ⟨rfl, rfl, rfl⟩
  exact withdrawn.freezeBands.openIso still

/-! ## The fence -/

/-- Every context of a half that is not paired runs on it. -/
theorem mem_ctxsOn {h c : Nat} {m : Part} (alone : paired h m = false) (own : ctxHalf c = h) (held : ctx c m ≠ none) :
    c ∈ ctxsOn h m := by
  refine List.mem_filter.mpr ⟨mem_of_look_some held, ?_⟩
  simp [ctxHalves, own, alone]

/-- A fence leaves the half isolated, and in every slot that was free, or that ran on the half alone, no context. -/
theorem fenceHalf_withdraws {h cause scope detail : Nat} {m : Part} (fitted : h < m.halves.length) (live : isFenced h m = false) :
    Isolated cause (half h (fenceHalf h cause scope detail m)) ∧
      (paired h m = false → ∀ c, ctxHalf c = h → ctx c (fenceHalf h cause scope detail m) = none) := by
  unfold fenceHalf
  rw [if_neg (by simp [live])]
  extract_lets covered own ended gone tidied
  have closed := closeCtxs_frees .fenced causeFence own (loseMembers own m)
  have begun : OpensNone m ended :=
    (CtxsOnly.ite (.foldl (fun _ _ => ctxsOnly_fenceCopy _ _ _) _ _) ((ctxsOnly_loseMembers own m).trans closed.1)).opensNone
  have withdrew : CtxsOnly gone (withdraw (actionFenced gone) stFenced gone) := ctxsOnly_withdraw _ _ _
  have tidy : CtxsOnly (dropOrphans (withdraw (actionFenced gone) stFenced gone)) tidied := ctxsOnly_tidyPins _
  refine ⟨?_, fun alone c mine => ?_⟩
  · have isolated : Isolated cause (half h gone) := withdrawHalf_isolated (begun.size ▸ fitted)
    exact (isolated.ctxsOnly withdrew).dropOrphans.ctxsOnly (tidy.trans (ctxsOnly_raise _ _ _ _))
  · have after : OpensNone ended tidied :=
      (((opensNone_withdrawHalf h cause ended).trans withdrew.opensNone).trans (opensNone_dropOrphans _)).trans tidy.opensNone
    refine (ctxsOnly_raise _ _ _ _).slots c (after.slots c ?_)
    by_cases held : ctx c m = none
    · exact begun.slots c held
    · have uncovered : ended = closeCtxs .fenced causeFence own (loseMembers own m) := if_neg (by simp [covered, alone])
      rw [uncovered]
      exact closed.2 c (mem_ctxsOn alone mine held)

/-- Settles O57: the half is withdrawn and isolated after its contexts have closed, and what follows the withdrawal neither touches that
nor opens a context. -/
theorem fencingWithdrawsAHalf : Obligations.FencingWithdrawsAHalf := by
  unfold Obligations.FencingWithdrawsAHalf
  intro t h detail s m fitted inside live
  obtain ⟨isolated, free⟩ := fenceHalf_withdraws (cause := fenceMemory) (scope := 0) (detail := detail) inside live
  exact ⟨_, runIf_onTick (by simp [fitted]) rfl rfl, rfl, isolated.mode, isolated.antenna, isolated.isolated, isolated.cause, free⟩

end Sys2Proof.Fencing

/-! # Steps, acceptance and completions (R50-R56, R326, R330)

The checks of Table HIF-5 are an ordered list (`firstStatus`); acceptance answers the first that fails, and what passes them all and names a
tick joins the queue. -/

namespace Sys2Proof.Acceptance

open Sys2Proof Sys2Proof.Machine Sys2Proof.Safety Sys2Proof.Laws

/-! ## Steps -/

/-- Settles O33: `step` matches on the queue. -/
theorem stepRunsFrontCommand : Obligations.StepRunsFrontCommand := by
  unfold Obligations.StepRunsFrontCommand
  exact fun _ _ _ => rfl

/-- Settles O34: the other branch of `step`. -/
theorem emptyQueueIdles : Obligations.EmptyQueueIdles := by
  unfold Obligations.EmptyQueueIdles
  intro s empty
  simp only [step, empty, State.idle]

/-! ## Orders 4 to 9 of Table HIF-5 -/

/-- A branch that refuses with a check's status, before branches that refuse with the statuses of the checks after it, refuses with the
status of the first that fails. -/
theorem guard_firstStatus {b : Bool} {p : Prop} [Decidable p] {st : Nat} {l : List (Bool × Nat)} {refuse : Nat → Part} {next : Part}
    (same : b = true ↔ p) (later : firstStatus l ≠ stOk → next = refuse (firstStatus l)) (refused : firstStatus ((b, st) :: l) ≠ stOk) :
    (if p then refuse st else next) = refuse (firstStatus ((b, st) :: l)) := by
  rw [firstStatus_cons] at refused ⊢
  by_cases bad : b = true
  · rw [if_pos bad, if_pos (same.mp bad)]
  · rw [if_neg bad] at refused ⊢
    rw [if_neg (bad ∘ same.mpr), later refused]

/-- Orders 4 to 9 of Table HIF-5 in their order; `own` is the status of the command's own checks. -/
def checks (d : Desc) (c : HostCmd) (own : Nat) (m : Part) : List (Bool × Nat) := [
  (decide (d.due ≠ 0) && ((classOf c).isNone || decide (m.clock.ht + 2 ^ 42 < d.due)), stBadParam),
  (needsBlock c && (!d.res || decide (d.resSize = 0)), stBadParam),
  (decide (own ≠ stOk), own),
  (locked c m, stBusy),
  (decide (d.due ≠ 0) && decide (1024 ≤ m.sched.queue.length), stBusy),
  (decide (d.due ≠ 0) && d.strict && decide (d.due < m.clock.ht + leadOf c m), stLate)]

/-- The command's own checks pass when their status is ST_OK. -/
theorem firstStatus_own {own : Nat} {l : List (Bool × Nat)} :
    firstStatus ((decide (own ≠ stOk), own) :: l) = stOk ↔ own = stOk ∧ firstStatus l = stOk := by
  by_cases good : own = stOk <;> simp [good]

section
variable {d : Desc} {c : HostCmd} {own : Nat} {perform : Perform} {m : Part} (trusted : m.chain.quarantined = false)
include trusted

/-- A command that fails a check is answered the status of the first that it fails, and nothing else happens. -/
theorem acceptHere_refuses (refused : firstStatus (checks d c own m) ≠ stOk) :
    acceptHere d .ring false c own perform m = finish d .ring (opcodeOf c) { status := firstStatus (checks d c own m) } m := by
  unfold acceptHere
  dsimp only
  rw [if_neg (by simp [trusted])]
  refine guard_firstStatus (refuse := fun st => finish d .ring (opcodeOf c) { status := st } m) (by simp [atLimit]) (fun refused => ?_) refused
  refine guard_firstStatus (refuse := fun st => finish d .ring (opcodeOf c) { status := st } m) (by simp) (fun refused => ?_) refused
  refine guard_firstStatus (refuse := fun st => finish d .ring (opcodeOf c) { status := st } m) (by simp) (fun refused => ?_) refused
  refine guard_firstStatus (refuse := fun st => finish d .ring (opcodeOf c) { status := st } m) (by simp) (fun refused => ?_) refused
  by_cases atOnce : d.due = 0
  · simp [atOnce] at refused
  rw [if_neg atOnce]
  refine guard_firstStatus (refuse := fun st => finish d .ring (opcodeOf c) { status := st } m) (by simp [atOnce]) (fun refused => ?_) refused
  obtain ⟨strict, late⟩ : d.strict = true ∧ d.due < m.clock.ht + leadOf c m := by simpa [atOnce] using refused
  simp [atOnce, strict, late]

/-- A command with a tick that passes every check joins the queue: for that tick, or late for the first tick of its lead. -/
theorem acceptHere_waits (passed : firstStatus (checks d c own m) = stOk) (scheduled : d.due ≠ 0) :
    acceptHere d .ring false c own perform m =
      if decide (d.due < m.clock.ht + leadOf c m) then enqueue (portTick c (m.clock.ht + leadOf c m) m) true d .ring c m
      else enqueue d.due false d .ring c m := by
  simp only [checks, firstStatus_ok (show stBadParam ≠ stOk by decide), firstStatus_ok (show stBusy ≠ stOk by decide),
    firstStatus_ok (show stLate ≠ stOk by decide), firstStatus_own] at passed
  obtain ⟨tick, block, good, unlocked, room, lenient, -⟩ := passed
  unfold acceptHere
  dsimp only
  rw [if_neg (by simp [trusted]), if_neg (by simpa [atLimit, Option.isSome_iff_ne_none] using tick), if_neg (by simpa using block), if_neg (by simp [good]),
    if_neg (by simp [unlocked]), if_neg scheduled, if_neg (by simpa [scheduled] using room), if_neg (by simp)]
  by_cases late : d.due < m.clock.ht + leadOf c m
  · have lenient : d.strict = false := by simpa [scheduled, late] using lenient
    simp [late, lenient]
  · simp [late]

end

section
variable {d : Desc} {c : HostCmd} {m : Part} (admitted : Admitted d c m)
include admitted

/-- An admitted command that fails a check of orders 4 to 9 is answered the status of the first that it fails. -/
theorem accept_refuses {perform : Perform} (refused : firstStatus (checks d c (checkCmd d c (readPart d m)) (readPart d m)) ≠ stOk) :
    accept d c (checkCmd d c) perform m =
      finish d .ring (opcodeOf c) { status := firstStatus (checks d c (checkCmd d c (readPart d m)) (readPart d m)) } (readPart d m) := by
  rw [accept_admitted admitted, acceptHere_refuses (by rw [readPart_chain, admitted.trusted]) refused]

end

/-- What the statements on scheduled commands presuppose: every check of orders 4 to 7 passes. -/
theorem checks_scheduled {d : Desc} {c : HostCmd} {m : Part} (scheduled : d.due ≠ 0) (schedulable : (classOf c).isSome = true)
    (near : d.due ≤ m.clock.ht + 2 ^ 42) (block : needsBlock c = true → d.res = true ∧ d.resSize ≠ 0) (good : checkCmd d c m = stOk)
    (unlocked : locked c m = false) :
    firstStatus (checks d c (checkCmd d c m) m) = firstStatus [
      (decide (1024 ≤ m.sched.queue.length), stBusy), (d.strict && decide (d.due < m.clock.ht + leadOf c m), stLate)] := by
  have fits : (needsBlock c && (!d.res || decide (d.resSize = 0))) = false := by
    cases needed : needsBlock c
    · rfl
    · simp [block needed]
  have far : decide (m.clock.ht + 2 ^ 42 < d.due) = false := decide_eq_false (Nat.not_lt.mpr near)
  have named : (classOf c).isNone = false := by simpa [Option.isSome_iff_ne_none] using schedulable
  simp only [checks, fits, far, named, good, unlocked, scheduled, firstStatus_cons, ne_eq, not_true_eq_false, not_false_eq_true,
    decide_true, decide_false, Bool.or_false, Bool.true_and, Bool.false_eq_true, if_false]

/-- Settles O39: the list of the statement is `checks`, and the first that fails is answered. -/
theorem refusalsFollowTheTable : Obligations.RefusalsFollowTheTable := by
  unfold Obligations.RefusalsFollowTheTable
  intro i d c s source admitted m late st refused
  exact exec_answered source _ fun _ => accept_refuses admitted refused

/-- Settles O40: acceptance of a command that passes is its execution. -/
theorem commandsAtZeroExecuteAtOnce : Obligations.CommandsAtZeroExecuteAtOnce := by
  unfold Obligations.CommandsAtZeroExecuteAtOnce
  intro i d c s source executes notRun notStart
  rcases exec_of_source (s := s) source with ⟨e, -⟩ | ⟨h, run, -⟩
  · rw [e, State.run, accept_executes executes notRun notStart]
    rfl
  · exact absurd run (notRun h)

/-- Settles O41: no check fails, so the command joins the queue; of CAL_RUN the runs are fixed after that. -/
theorem scheduledCommandsWait : Obligations.ScheduledCommandsWait := by
  unfold Obligations.ScheduledCommandsWait
  intro i d c s source admitted m late q scheduled schedulable near block good unlocked room lenient
  have trusted : m.chain.quarantined = false := by rw [readPart_chain, admitted.trusted]
  have passed : firstStatus (checks d c (checkCmd d c m) m) = stOk := by
    rw [checks_scheduled scheduled schedulable near block good unlocked, firstStatus_ok (by decide), firstStatus_ok (by decide)]
    refine ⟨by simpa using room, ?_, rfl⟩
    cases tardy : late
    · exact Bool.and_eq_false_iff.mpr (.inr tardy)
    · exact Bool.and_eq_false_iff.mpr (.inl (lenient tardy))
  have waits (p : Perform) : accept d c (checkCmd d c) p s.part = q := by
    rw [accept_admitted admitted, acceptHere_waits trusted passed scheduled]
  rcases exec_of_source (s := s) source with ⟨e, other⟩ | ⟨h, run, e⟩
  · refine ⟨fun _ => ?_, fun k run => absurd run (other k)⟩
    rw [e, State.run, waits]
    rfl
  · refine ⟨fun other => absurd run (other h), fun _ _ => ?_⟩
    rw [e, State.run, waits, ← readPart_sched d s.part]
    rfl

/-! ## The queue (R53) -/

/-- Settles O42: the check of the queue's room is the first that fails; raising and re-arming EV_SCHED_HIGH are the branches of `enqueue` and
`keepQueue`. -/
theorem queueLimits : Obligations.QueueLimits := by
  unfold Obligations.QueueLimits
  refine ⟨?_, ?_, fun p m high => ?_⟩
  · intro i d c s source admitted m scheduled schedulable near block good unlocked full
    have busy : firstStatus (checks d c (checkCmd d c m) m) = stBusy := by
      rw [checks_scheduled scheduled schedulable near block good unlocked, firstStatus_cons, if_pos (by simpa using full)]
    refine exec_answered source _ fun p => ?_
    rw [accept_refuses admitted (busy ▸ by decide), busy]
  · intro due late d o c m a q
    unfold enqueue
    simp [a, q]
  · simp [keepQueue, high]

/-! ## Completions (R56, R330) -/

/-- Settles O44: the completion that `finish` builds is posted on this part's own rings. -/
theorem completionsCarryTheirCommand : Obligations.CompletionsCarryTheirCommand := by
  unfold Obligations.CompletionsCarryTheirCommand
  intro d o op r m own
  have posted : ∃ c : Completion, c.ring = d.ring ∧ c.tag = d.tag ∧ c.opcode = op ∧
      c.status = (if o.isLate ∧ r.status = stOk then stLate else r.status) ∧
      c.execHt = (r.execHt.getD m.clock.ht) % 2 ^ 32 ∧ c.result = r.result ∧ c.src = ownAddr m ∧ finish d o op r m = postCompletion c m :=
    ⟨_, rfl, rfl, rfl, rfl, rfl, rfl, rfl, if_neg (by simp [own])⟩
  obtain ⟨c, ring, tag, opcode, status, tick, result, src, e⟩ := posted
  refine ⟨c, ring, tag, opcode, status, tick, result, src, e, ?_⟩
  rw [e]
  obtain ⟨_, _, _, _, _, _, frame⟩ := postCompletion_frame c m
  rw [frame]

end Sys2Proof.Acceptance

/-! # House time, PPSIN, SYNCIN and the Oasis (R45-R51, R58, R60-R70, R456)

Most operations of the part leave its clock and its supply as they are. `Steady` carries that through them, so that what a row does to HT can
be read off the part it began with. -/

namespace Sys2Proof.HouseTime

open Sys2Proof Sys2Proof.Machine Sys2Proof.Safety Sys2Proof.Laws

/-! ## What leaves the clock and the supply as they are -/

/-- `m'` has the clock and the power state of `m`. -/
structure Steady (m m' : Part) : Prop where
  clock : m'.clock = m.clock
  power : m'.power = m.power

section
variable {a b c m : Part}

theorem Steady.refl (m : Part) : Steady m m := ⟨rfl, rfl⟩

theorem Steady.trans (h : Steady a b) (k : Steady b c) : Steady a c := ⟨k.clock.trans h.clock, k.power.trans h.power⟩

/-- An operation that begins from a part with the same clock and power state. -/
theorem Steady.of_begun (h : Steady b c) (clock : b.clock = a.clock) (power : b.power = a.power) : Steady a c :=
  Steady.trans ⟨clock, power⟩ h

theorem Steady.of_records (h : RecordsOnly a b) : Steady a b := ⟨h.clock, by rw [h]⟩

theorem Steady.ite {p : Prop} [Decidable p] (h : Steady a b) (k : Steady a c) : Steady a (if p then b else c) := by
  split <;> assumption

theorem Steady.foldl {β : Type} {f : Part → β → Part} (h : ∀ m x, Steady m (f m x)) (l : List β) (m : Part) :
    Steady m (l.foldl f m) := by
  induction l generalizing m with
  | nil => exact .refl m
  | cons x l ih => exact (h m x).trans (ih _)

theorem Steady.elim {β : Type} {f : β → Part} (h : ∀ x, Steady m (f x)) (o : Option β) : Steady m (o.elim m f) := by
  cases o with
  | none => exact .refl m
  | some x => exact h x

end

theorem steady_raiseAt (t s c : Nat) (p : List Field) (m : Part) : Steady m (raiseAt t s c p m) := ⟨by simp, by simp⟩

theorem steady_raise (s c : Nat) (p : List Field) (m : Part) : Steady m (raise s c p m) := ⟨by simp, by simp⟩

theorem steady_finish (d : Desc) (o : Origin) (c : Nat) (r : Reply) (m : Part) : Steady m (finish d o c r m) := ⟨by simp, by simp⟩

theorem steady_onHalf (h : Nat) (f : Half → Half) (m : Part) : Steady m (onHalf h f m) := ⟨rfl, rfl⟩

theorem steady_onCtx (c : Nat) (f : Ctx → Ctx) (m : Part) : Steady m (onCtx c f m) := ⟨rfl, rfl⟩

theorem steady_onSet (n : Nat) (f : SourceSet → SourceSet) (m : Part) : Steady m (onSet n f m) := ⟨rfl, rfl⟩

theorem steady_onKite (f : Kite → Kite) (m : Part) : Steady m (onKite f m) := ⟨rfl, rfl⟩

/-! ### Source sets and contexts -/

theorem steady_moveMember (n i : Nat) (new : MemberState) (cause : LinkCause) (m : Part) : Steady m (moveMember n i new cause m) := by
  unfold moveMember
  split
  · exact .refl m
  · exact .ite (.refl m) ((steady_raise _ _ _ _).trans (steady_onSet _ _ _))

theorem steady_joinReference (n : Nat) (m : Part) : Steady m (joinReference n m) := by
  unfold joinReference
  split
  · exact .refl m
  · exact .ite (steady_moveMember _ _ _ _ _) (.refl m)

theorem steady_takeReference (n i : Nat) (m : Part) : Steady m (takeReference n i m) :=
  (steady_onSet _ _ _).trans (steady_joinReference _ _)

theorem steady_passReference (n : Nat) (m : Part) : Steady m (passReference n m) := by
  unfold passReference
  split
  · exact .refl m
  · refine .ite (.refl m) ?_
    split
    · exact .refl m
    · exact steady_takeReference _ _ _

theorem steady_rebranch (n i : Nat) (m : Part) : Steady m (rebranch n i m) := by
  unfold rebranch
  split
  · exact .refl m
  · exact .ite (.refl m) (steady_onSet _ _ _)

theorem steady_refreshMember (n i : Nat) (m : Part) : Steady m (refreshMember n i m) := by
  unfold refreshMember
  split
  · exact .refl m
  · split
    · exact .refl m
    · exact .ite (steady_moveMember _ _ _ _ _) (.ite ((steady_rebranch _ _ _).trans (steady_moveMember _ _ _ _ _)) (.refl m))

theorem steady_refreshSet (n : Nat) (m : Part) : Steady m (refreshSet n m) :=
  (Steady.foldl (fun _ _ => steady_refreshMember _ _ _) _ _).trans (steady_passReference _ _)

theorem steady_refreshCtx (c : Nat) (m : Part) : Steady m (refreshCtx c m) := .foldl (fun _ _ => steady_refreshSet _ _) _ _

theorem steady_noteSets (c : Nat) (m : Part) : Steady m (noteSets c m) := .foldl (fun _ _ => steady_onSet _ _ _) _ _

theorem steady_catchUp (c : Nat) (m : Part) : Steady m (catchUp c m) :=
  (steady_noteSets _ _).trans (.of_records (Fencing.records_catchTo _ _ _ _))

theorem steady_flushUp (c : Nat) (m : Part) : Steady m (flushUp c m) :=
  (steady_noteSets _ _).trans (.of_records (Fencing.records_catchTo _ _ _ _))

theorem steady_notePilot (c : Nat) (before : Pilot) (m : Part) : Steady m (notePilot c before m) := by
  unfold notePilot
  split
  · exact .refl m
  · exact .ite (.refl m) (steady_raise _ _ _ _)

theorem steady_changeCtx (c cause : Nat) (f : Ctx → Ctx) (m : Part) : Steady m (changeCtx c cause f m) := by
  unfold changeCtx
  extract_lets settled
  have fresh : Steady m settled := .ite (steady_onCtx _ _ _) (.refl m)
  refine fresh.trans ?_
  split
  · exact .refl _
  · exact (((steady_onCtx _ _ _).trans (.ite (.refl _) (steady_raise _ _ _ _))).trans (steady_notePilot _ _ _)).trans
      (steady_refreshCtx _ _)

theorem steady_releaseOn (h : Nat) (cause : HoldCause) (c : Nat) (m : Part) : Steady m (releaseOn h cause c m) :=
  (steady_catchUp _ _).trans (steady_changeCtx _ _ _ _)

theorem steady_releaseCtx (cause : HoldCause) (c : Nat) (m : Part) : Steady m (releaseCtx cause c m) :=
  (steady_catchUp _ _).trans (steady_changeCtx _ _ _ _)

theorem steady_endCalHold (h c : Nat) (m : Part) : Steady m (endCalHold h c m) := by
  unfold endCalHold
  exact .ite ((steady_releaseOn _ _ _ _).trans
    (.ite (steady_onCtx _ _ _) ((steady_catchUp _ _).trans (steady_onCtx _ _ _)))) (.refl m)

theorem steady_endHolds (h : Nat) (m : Part) : Steady m (endHolds h m) := by
  refine .foldl (fun m c => ?_) _ _
  exact ((Steady.ite (.refl m) (steady_endCalHold _ _ _)).trans (.ite (.refl _) (steady_releaseOn _ _ _ _))).trans
    (.ite (.refl _) (steady_releaseCtx _ _ _))

/-! ### Captures and calibration -/

theorem steady_catchWhere (p : Capture → Bool) (f : Capture → Capture) (l done : List Capture) (m : Part) :
    Steady m (catchWhere p f l done m) := by
  induction l generalizing done m with
  | nil => exact ⟨rfl, rfl⟩
  | cons c l ih =>
    unfold catchWhere
    refine .ite ?_ (ih _ _)
    have caught : Steady m (catchCapture c m).2 := .of_records (Fencing.records_catchCapture _ _)
    dsimp only
    split
    · exact (caught.trans (.of_records (Fencing.records_releaseCapture _ _))).trans (ih _ _)
    · exact caught.trans (ih _ _)

theorem steady_cutCaptures (l done : List Capture) (m : Part) : Steady m (cutCaptures l done m) := by
  induction l generalizing done m with
  | nil => exact ⟨rfl, rfl⟩
  | cons c l ih => exact (Steady.of_records (Fencing.records_closeCapture _ _)).trans (ih _ _)

theorem steady_settleCal (id : Nat) (m : Part) : Steady m (settleCal id m) := by
  unfold settleCal
  split
  · exact .refl m
  · exact .ite (.of_begun (steady_finish _ _ _ _ _) rfl rfl) (.refl m)

theorem steady_endTarget (command : Option Nat) (h status : Nat) (m : Part) : Steady m (endTarget command h status m) := by
  unfold endTarget
  split
  · exact .refl m
  · exact .of_begun (steady_settleCal _ _) rfl rfl

theorem steady_followShared (h : Nat) (m : Part) : Steady m (followShared h m) := .ite (steady_onHalf _ _ _) (.refl m)

theorem steady_unfreezeBands (h : Nat) (m : Part) : Steady m (unfreezeBands h m) :=
  .ite (.refl m) ((steady_onHalf _ _ _).trans (steady_followShared _ _))

theorem steady_freezeBands (h : Nat) (m : Part) : Steady m (freezeBands h m) :=
  (steady_onHalf _ _ _).trans (.ite (steady_onHalf _ _ _) (.refl _))

theorem steady_pauseRamp (h : Nat) (m : Part) : Steady m (pauseRamp h m) := steady_onHalf _ _ _

theorem steady_closeIfLive (h : Nat) (m : Part) : Steady m (closeIfLive h m) := .ite ⟨rfl, rfl⟩ (.refl m)

theorem steady_abandonRun (h : Nat) (m : Part) : Steady m (abandonRun h m) := by
  unfold abandonRun
  split
  · exact .refl m
  · exact (((((steady_catchWhere _ _ _ _ _).trans (steady_onHalf _ _ _)).trans (steady_closeIfLive _ _)).trans
      (steady_unfreezeBands _ _)).trans (steady_endHolds _ _)).trans (steady_endTarget _ _ _ _)

/-! ### The Kite link -/

theorem steady_tuneKsyn (ch : Nat) (m : Part) : Steady m (tuneKsyn ch m) := ⟨rfl, rfl⟩

theorem steady_hopBack (h : Nat) (m : Part) : Steady m (hopBack h m) := by
  unfold hopBack
  extract_lets
  refine Steady.of_begun (.elim (fun c => ?_) _) rfl rfl
  exact .ite (.refl _) ⟨rfl, rfl⟩

theorem steady_dropEvent (m : Part) : Steady m (dropEvent m) := by
  unfold dropEvent
  extract_lets
  exact .ite ((steady_onKite _ _).trans (steady_raise _ _ _ _)) (.refl m)

theorem steady_chargeBucket (subBand cls : Nat) (air : Int) (e : Nat) (m : Part) : Steady m (chargeBucket subBand cls air e m) :=
  ⟨rfl, rfl⟩

theorem steady_settleTx (m : Part) : Steady m (settleTx m) := by
  unfold settleTx
  extract_lets e hopped freed begin_ charged begun lead air trail _ corrected
  have s1 : Steady m hopped := by
    unfold hopped
    split
    · exact .ite (steady_hopBack _ _) (.refl m)
    · exact .refl m
  have s2 : Steady hopped freed := .ite ⟨rfl, rfl⟩ (.refl _)
  have s3 : Steady freed charged := .foldl (fun _ _ => steady_chargeBucket _ _ _ _ _) _ _
  have s4 : Steady charged corrected := .ite ⟨rfl, rfl⟩ ⟨rfl, rfl⟩
  exact (s1.trans (s2.trans (s3.trans s4))).trans (.of_begun (steady_dropEvent _) rfl rfl)

theorem steady_reportTx (session channel sf : Nat) (fr : KiteFrame) (status used ht : Nat) (m : Part) :
    Steady m (reportTx session channel sf fr status used ht m) := by
  refine Steady.trans (.foldl (fun m n => ?_) _ m) (steady_raiseAt _ _ _ _ _)
  split
  · exact .refl m
  · exact .of_records (appendItem_records _ _ _ _ _ _)

theorem steady_abortOne (status ramp : Nat) (x : KiteTx) (m : Part) : Steady m (abortOne status ramp x m) := by
  unfold abortOne
  extract_lets used charged
  have s : Steady m charged := .ite (steady_chargeBucket _ _ _ _ _) (.refl m)
  exact (s.trans (steady_onKite _ _)).trans (steady_reportTx _ _ _ _ _ _ _ _)

theorem steady_returnRx (e : Nat) (m : Part) : Steady m (returnRx e m) := by
  unfold returnRx
  split
  · exact .ite (.refl m) (steady_tuneKsyn _ _)
  · exact (Steady.elim (fun _ => steady_tuneKsyn _ _) _).trans (steady_onKite _ _)

theorem steady_abortKite (status : Nat) (m : Part) : Steady m (abortKite status m) := by
  unfold abortKite
  extract_lets settled ramp l down aborted e b hop
  have s1 : Steady m settled := steady_settleTx m
  have s2 : Steady settled aborted :=
    (steady_onKite _ _).trans (.foldl (fun _ _ => steady_abortOne _ _ _ _) _ _)
  exact s1.trans (.ite (.refl _) (.ite (s2.trans (steady_returnRx _ _)) (s2.trans (steady_onKite _ _))))

/-! ### What a step of HT closes -/

theorem steady_closeForStep (m : Part) : Steady m (closeForStep m) :=
  (((Steady.foldl (fun _ _ => steady_flushUp _ _) _ _).trans (steady_catchWhere _ _ _ _ _)).trans (steady_cutCaptures _ _ _)).trans
    (.of_records (Fencing.records_breakFlows _ _))

/-! ## The Oasis (R45, R456) -/

/-- The supply once BRACE has been entered at `vin` mV (R449). -/
def noteBrace (vin : Nat) (m : Part) : Part :=
  let m := sampleVin vin m
  onPower (fun p => { p with brace := some {
    entered := m.clock.elapsed, qualify := m.clock.elapsed, since := (m.clock.elapsed : Int) - 246, vinMin := vin } }) m

/-- An entry to BRACE up to its last act, the store of HT (R449). -/
def enterBrace (vin : Nat) (m : Part) : Part :=
  let m := abortKite txBrace (raise 16 0x10 [⟨0, 1, 0⟩, ⟨4, 4, 0⟩, ⟨8, 2, vin⟩] (noteBrace vin m))
  (allHalves m).foldl (fun m h => freezeBands h (pauseRamp h (abandonRun h m))) m

/-- Nothing that an entry to BRACE does after it has taken note of it touches the clock or the supply. -/
theorem steady_enterBrace (vin : Nat) (m : Part) : Steady (noteBrace vin m) (enterBrace vin m) :=
  ((steady_raise _ _ _ _).trans (steady_abortKite _ _)).trans
    (.foldl (fun _ _ => ((steady_abandonRun _ _).trans (steady_pauseRamp _ _)).trans (steady_freezeBands _ _)) _ _)

/-- BRACE is entered, and the Oasis then stores HT. -/
theorem exec_braceEntry {t vin : Nat} {s : State} {m : Part} (ha : advance t s.part = m) (rails : m.power.railsUp = true)
    (calm : m.power.brace = none) (low : vin < 100 * m.power.warn) :
    exec (.braceEntry t vin) s = .next (withPart s (storeHt (enterBrace vin m))) :=
  run_onTick ha (if_neg (by simp [calm, rails, low]))

/-- What the store of HT at the end of an entry to BRACE leaves. -/
theorem storeHt_braced {vin : Nat} {m e : Part} (entered : Steady (noteBrace vin m) e) :
    (storeHt e).power.brace.isSome = true ∧ (storeHt e).oasis.lastHt = some m.clock.ht ∧ (storeHt e).oasis.lastAt = m.clock.elapsed :=
  ⟨congrArg (fun p : Power => p.brace.isSome) entered.power, congrArg (fun c : Clock => some c.ht) entered.clock,
    congrArg Clock.elapsed entered.clock⟩

/-- Settles O53: `storeHt` is what a seconds boundary does and what an entry to BRACE does last, on a clock that nothing before it moves. -/
theorem oasisStoresHt : Obligations.OasisStoresHt := by
  unfold Obligations.OasisStoresHt
  intro t vin s m
  exact ⟨fun second => ⟨_, run_onTick rfl (if_pos second), rfl, rfl⟩,
    fun rails calm low => ⟨_, exec_braceEntry rfl rails calm low, storeHt_braced (steady_enterBrace vin m)⟩⟩

/-- Settles O56: both resets are `freshPart` with the Oasis that they leave. -/
theorem systemResetsLeaveTheirRecord : Obligations.SystemResetsLeaveTheirRecord := by
  unfold Obligations.SystemResetsLeaveTheirRecord
  intro t s m
  exact ⟨fun cause item fault => ⟨rfl, rfl, rfl, rfl, rfl, rfl, rfl, rfl, rfl, rfl, rfl, rfl, rfl⟩,
    _, run_onTick rfl rfl, rfl, rfl, rfl, rfl, rfl⟩

/-! ## Steps of HT (R63, R66, R148) -/

/-- `m'` has the count, the grid and the waiting steps of `m`. -/
structure SameCount (m m' : Part) : Prop where
  ht : m'.clock.ht = m.clock.ht
  grid : m'.clock.grid = m.clock.grid
  steps : m'.clock.steps = m.clock.steps

section
variable {a b c m : Part}

theorem SameCount.refl (m : Part) : SameCount m m := ⟨rfl, rfl, rfl⟩

theorem SameCount.trans (h : SameCount a b) (k : SameCount b c) : SameCount a c :=
  ⟨k.ht.trans h.ht, k.grid.trans h.grid, k.steps.trans h.steps⟩

theorem SameCount.ite {p : Prop} [Decidable p] (h : SameCount a b) (k : SameCount a c) : SameCount a (if p then b else c) := by
  split <;> assumption

/-- An operation that begins from a part with the same count, grid and steps. -/
theorem SameCount.of_begun (h : SameCount b c) (ht : b.clock.ht = a.clock.ht) (grid : b.clock.grid = a.clock.grid)
    (steps : b.clock.steps = a.clock.steps) : SameCount a c := SameCount.trans ⟨ht, grid, steps⟩ h

theorem Steady.sameCount (h : Steady a b) : SameCount a b := by
  constructor <;> rw [h.clock]

/-- A change of HT's state counts nothing. -/
theorem SameCount.of_ht (h : HtOnly a b) : SameCount a b := by
  constructor <;> rw [h]

end

theorem sameCount_startPhase (e : Int) (m : Part) : SameCount m (startPhase e m) := .ite (.refl m) ⟨rfl, rfl, rfl⟩

/-- A demand of nothing leaves the phase term as it is. -/
theorem startPhase_zero (m : Part) : startPhase 0 m = m := if_pos rfl

theorem sameCount_startSlew (e : Int) (m : Part) : SameCount m (startSlew e m) := by
  unfold startSlew
  extract_lets g by_
  exact .ite (.of_begun (sameCount_startPhase _ _) rfl rfl rfl) (.of_begun (steady_raise _ _ _ _).sameCount rfl rfl rfl)

theorem sameCount_stepSlew (st : Machine.Step) (m : Part) : SameCount m (stepSlew st m) := by
  unfold stepSlew
  split
  · exact sameCount_startPhase _ _
  · exact .ite (sameCount_startSlew _ _) (.refl m)

/-- The count on which a step places HT (R66). -/
def steppedHt (st : Machine.Step) (m : Part) : Nat := st.epoch.elim ((m.clock.ht : Int) + st.steps).toNat fun e => e * ticksPerSecond

/-- A step moves the count, and G by as much unless it brings a grid of its own; it waits no longer. -/
theorem applyStep_count (st : Machine.Step) (m : Part) :
    (applyStep st m).clock.ht = steppedHt st m ∧
      (applyStep st m).clock.grid = st.grid.getD (m.clock.grid + ((steppedHt st m : Int) - m.clock.ht)) ∧
      (applyStep st m).clock.steps = m.clock.steps.filter fun x => decide (x ≠ st) := by
  have closed := steady_closeForStep m
  unfold applyStep
  extract_lets closing old new_ delta _ _ stepped slewed
  have place : new_ = steppedHt st m := by
    unfold new_ old closing steppedHt
    rw [closed.clock]
    cases st.epoch <;> rfl
  have after : SameCount stepped (if st.epoch.isNone = true ∧ effSource slewed = .loc then setHt true slewed else slewed) :=
    ((steady_raise _ _ _ _).sameCount.trans (sameCount_stepSlew _ _)).trans (.ite (.of_ht (setHt_ht _ _)) (.refl _))
  rw [after.ht, after.grid, after.steps]
  refine ⟨place, ?_, ?_⟩
  · simp only [stepped, delta, place, old, closing, closed.clock]
  · simp only [stepped, closing, closed.clock]

/-! ## The house clock's rows -/

/-- Every class of Table HTM-4 is one of ten. -/
theorem cmdOrder_le (c : HostCmd) : cmdOrder c ≤ 10 := by
  unfold cmdOrder
  cases classOf c with
  | none => exact Nat.zero_le _
  | some k => cases k <;> decide

/-- Settles O16: each row is the branch that its condition selects; what a step does to the count is `applyStep_count`, and one queued
action that is due is `runThrough_one`. -/
theorem houseTimeEventsComplete : Obligations.HouseTimeEventsComplete := by
  unfold Obligations.HouseTimeEventsComplete
  intro t s m
  have ha : advance t s.part = m := rfl
  clear_value m
  refine ⟨fun second => run_onTick ha (if_pos second), ?_, ?_, ?_, ?_, ?_⟩
  · intro x slewing ended m'
    refine run_onTick ha ?_
    simp only [slewing, if_neg (Nat.not_lt.mpr ended)]
    rfl
  · intro st k waiting at_ due m'
    have next : m.clock.steps.find? (Step.due m) = some st := by simp [waiting, Step.due, at_, due]
    have clock := (steady_settleTx m).clock
    obtain ⟨ht, grid, steps⟩ := applyStep_count st (settleTx m)
    rw [clock] at grid steps
    have ht : m'.clock.ht = st.epoch.elim ((m.clock.ht : Int) + st.steps).toNat fun e => e * ticksPerSecond := by
      rw [ht, steppedHt, clock]
    refine ⟨run_onTick ha ?_, ?_, ht, fun own => ?_⟩
    · simp only [next]
      rfl
    · rw [steps, waiting]
      simp
    · rw [grid, own, ht, steppedHt, clock]
      rfl
  · intro st sub delay chain other phased waiting tick demand x k
    refine run_onTick ha ?_
    have same (o : Int) : rePhaseEdge o m = (m, o, 0) := if_pos (.inl phased)
    simp only [same, waiting, startPhase_zero, List.map_cons, List.map_nil, tick, demand, Option.isNone_none, and_self, if_true]
    exact if_neg (by simp [chain, other])
  · intro steps grid chain other moved
    exact run_onTick ha (if_neg (by simp [chain, other, moved]))
  · intro a queued due following resets m' quiet
    refine run_onTick ha ?_
    rw [runThrough_one queued due (cmdOrder_le _) (by decide) following resets quiet]

/-! ## PPSIN and SYNCIN (R47-R49, R68) -/

/-- `m'` is `m` but for PPSIN, the clock and what is told to others. -/
def PpsOnly (m m' : Part) : Prop := m' = { told m m' with pps := m'.pps, clock := m'.clock }

section
variable {a b c m : Part}

theorem PpsOnly.refl (m : Part) : PpsOnly m m := rfl

theorem PpsOnly.trans (h : PpsOnly a b) (k : PpsOnly b c) : PpsOnly a c := by
  unfold PpsOnly at *
  rw [k, h]
  rfl

theorem PpsOnly.ite {p : Prop} [Decidable p] (h : PpsOnly a b) (k : PpsOnly a c) : PpsOnly a (if p then b else c) := by
  split <;> assumption

end

theorem ppsOnly_raise (s c : Nat) (p : List Field) (m : Part) : PpsOnly m (raise s c p m) := by
  obtain ⟨_, _, _, _, _, _, _, _, _, e⟩ := raise_frame s c p m
  rw [e]
  rfl

theorem ppsOnly_flood (m : Part) : PpsOnly m (flood m) := .ite (.refl m) rfl

theorem ppsOnly_setHt (aligned : Bool) (m : Part) : PpsOnly m (setHt aligned m) := by
  unfold setHt
  extract_lets st kept tell _ told
  have changed : PpsOnly m told := PpsOnly.trans (b := { m with clock := { m.clock with state := st, aligned := kept } }) rfl (ppsOnly_raise _ _ _ _)
  exact .ite (.refl m) (.ite (changed.trans (ppsOnly_flood _)) changed)

theorem flood_clock (m : Part) : (flood m).clock = m.clock := by
  unfold flood
  split <;> rfl

/-- HT that is not to be aligned is UNALIGNED afterwards (R43). -/
theorem setHt_unaligned (m : Part) : (setHt false m).clock.aligned = false := by
  unfold setHt
  extract_lets st kept tell _ told
  split
  next same => exact same.2
  next =>
    have off : told.clock.aligned = false := congrArg Clock.aligned (raise_clock _ _ _ _)
    split
    · rw [flood_clock, off]
    · exact off

/-- The source that the part acts on turns on its clock's source and on the chain. -/
theorem effSource_congr {a b : Part} (source : b.clock.source = a.clock.source) (quarantined : b.chain.quarantined = a.chain.quarantined)
    (master : b.chain.master = a.chain.master) (addr : b.chain.addr = a.chain.addr) : effSource b = effSource a := by
  simp only [effSource, otherMaster, ownAddr, source, quarantined, master, addr]
  rfl

/-! ### Edges of PPSIN (R47-R49) -/

section
variable {instant e : Nat} {o : Int} {tick : Nat} {m : Part}

/-- An edge in cadence with the last accepted one is accepted. -/
theorem ppsEdge_accepts (cadence : m.pps.acquiring = false) (accepted : (m.pps.accepted.any fun a => inCadence (instant - a)) = true) :
    ppsEdge instant o tick m = acceptEdge instant o tick { m with pps := { m.pps with prev := some instant } } := by
  unfold ppsEdge
  extract_lets p seen
  rw [if_neg (by simp [p, cadence]), if_pos accepted]

/-- Any other edge is a stray. -/
theorem ppsEdge_stray (cadence : m.pps.acquiring = false) (stray : (m.pps.accepted.any fun a => inCadence (instant - a)) = false) :
    ppsEdge instant o tick m =
      ppsEvent 0x03 o { m with pps := { m.pps with prev := some instant, strays := m.pps.strays + 1 } } := by
  unfold ppsEdge
  extract_lets p seen
  rw [if_neg (by simp [p, cadence]), if_neg (by simp [p, stray])]

/-- The first edge that is acquired counts as none (log 15). -/
theorem ppsEdge_first (acquiring : m.pps.acquiring = true) (first : m.pps.prev = none) :
    ppsEdge instant o tick m = { m with pps := { m.pps with prev := some instant, count := 0, offsets := [] } } := by
  unfold ppsEdge
  extract_lets p seen
  rw [if_pos acquiring]
  simp only [p, first]
  rfl

/-- An edge in cadence with its predecessor counts (log 15). -/
theorem ppsEdge_counts (acquiring : m.pps.acquiring = true) (before : m.pps.prev = some e) (near : inCadence (instant - e) = true)
    (few : m.pps.count < 2) :
    ppsEdge instant o tick m =
      { m with pps := { m.pps with prev := some instant, count := m.pps.count + 1, offsets := agreeing o m.pps.offsets } } := by
  unfold ppsEdge
  extract_lets p seen
  rw [if_pos acquiring]
  simp only [p, before]
  rw [if_neg (by simp [near]), if_pos few]

end

/-! ### A missing PPS (R49) -/

/-- Cadence is acquired afresh, and an epoch set that waits for an edge waits for a seconds boundary (R49, R66). -/
def seekCadence (m : Part) : Part := { m with
  pps := { m.pps with acquiring := true, afterMissing := true, count := 0, offsets := [] }
  clock := { m.clock with steps := m.clock.steps.map fun st =>
    if st.tick.isNone ∧ st.epoch.isSome then { st with tick := some (nextSecond m) } else st } }

/-- PPSIN is missing. -/
def losePps (m : Part) : Part :=
  let m := ppsEvent 0x04 0 (seekCadence m)
  if effSource m = .loc then setHt false m else m

theorem losePps_ht (m : Part) : HtOnly (seekCadence m) (losePps m) :=
  .ite ((raise_ht _ _ _ _).trans (setHt_ht _ _)) (raise_ht _ _ _ _)

theorem losePps_pps (m : Part) : PpsOnly m (losePps m) :=
  have seek : PpsOnly m (seekCadence m) := rfl
  .ite ((seek.trans (ppsOnly_raise _ _ _ _)).trans (ppsOnly_setHt _ _)) (seek.trans (ppsOnly_raise _ _ _ _))

/-- Under the local source HT is UNALIGNED without PPSIN. -/
theorem losePps_unaligned {m : Part} (own : effSource m = .loc) : (losePps m).clock.aligned = false := by
  have source : effSource (ppsEvent 0x04 0 (seekCadence m)) = effSource m :=
    effSource_congr (by rw [ppsEvent, raise_clock]; rfl) (by rw [ppsEvent, raise_chain_quarantined]; rfl)
      (by rw [ppsEvent, raise_chain_master]; rfl) (by rw [ppsEvent, raise_chain_addr]; rfl)
  unfold losePps
  dsimp only
  rw [if_pos (source.trans own)]
  exact setHt_unaligned _

/-- What the loss of PPSIN leaves. -/
theorem losePps_leaves (m : Part) :
    (losePps m).pps.acquiring = true ∧ (losePps m).pps.count = 0 ∧ (losePps m).pps.offsets = [] ∧
      (losePps m).clock.ht = m.clock.ht ∧ (effSource m = .loc → (losePps m).clock.aligned = false) ∧
      losePps m = { told m (losePps m) with pps := (losePps m).pps, clock := (losePps m).clock } :=
  have kept := losePps_ht m
  ⟨congrArg (fun u => u.pps.acquiring) kept, congrArg (fun u => u.pps.count) kept, congrArg (fun u => u.pps.offsets) kept,
    congrArg (fun u => u.clock.ht) kept, losePps_unaligned, losePps_pps m⟩

/-- PPSIN is missing 1.001 s after the last accepted edge. -/
theorem exec_ppsMissing {t a : Nat} {s : State} {m : Part} (ha : advance t s.part = m) (cadence : m.pps.acquiring = false)
    (last : m.pps.accepted = some a) (missing : a + second1024 + 24576 * 1024 ≤ 1024 * m.clock.elapsed) :
    exec (.ppsMissing t) s = .next (withPart s (losePps m)) := by
  refine run_onTick ha (if_neg ?_)
  rw [cadence, last, Option.any_some, decide_eq_true missing]
  decide

/-! ### Resets that a SYNCIN edge has fixed (R68) -/

/-- The one reset that an edge has fixed to this tick takes effect in the place of its class. -/
theorem runThrough_reset {r : SyncReset} {m : Part} (fixed : m.syncin.pending = [r]) (due : r.due ≤ m.clock.elapsed)
    (queue : ∀ a ∈ m.sched.queue, m.clock.ht < a.due) (following : ∀ a ∈ m.service.actions, m.clock.elapsed < a.due) :
    runThrough 5 m = tidyPins (resetGroup r.group r.arm.phase r.arm.syncout { m with syncin := { m.syncin with pending := [] } }) := by
  have none (k : Nat) : runDue false (fun a m => decide (a.due ≤ m.clock.ht) && decide (cmdOrder a.cmd ≤ k)) m.sched.queue.length m = m :=
    runDue_none fun a ha => by simp [Nat.not_le.mpr (queue a ha)]
  have before : [1, 2, 3, 4].foldl runClass m = m := by
    simp only [List.foldl_cons, List.foldl_nil, runClass, none, internalActions, followActions_quiet following]
  have reset : runClass m 5 = resetGroup r.group r.arm.phase r.arm.syncout { m with syncin := { m.syncin with pending := [] } } := by
    simp only [runClass, none, internalActions, syncinResets, fixed, List.filter_cons, List.filter_nil, due, Nat.not_lt.mpr due]
    rfl
  have classes : (List.range 5).map (· + 1) = [1, 2, 3, 4] ++ [5] := rfl
  rw [runThrough, classes, List.foldl_append, before, List.foldl_cons, List.foldl_nil, reset]

/-- Settles O17: each edge takes the branch of `ppsEdge` that its cadence selects, a missing PPS is `losePps`, and a due reset is
`runThrough_reset`. -/
theorem pulseEventsComplete : Obligations.PulseEventsComplete := by
  unfold Obligations.PulseEventsComplete
  intro t s m
  have ha : advance t s.part = m := rfl
  clear_value m
  refine ⟨fun sub => ?_, fun a cadence last missing => ?_, fun apart => run_onTick ha (if_neg (by simp [apart])),
    fun close => run_onTick ha (if_pos close), fun r fixed due queue following => run_onTick ha (runThrough_reset fixed due queue following)⟩
  · intro instant x seen
    exact ⟨fun cadence accepted => run_onTick ha (ppsEdge_accepts cadence accepted),
      fun cadence stray => run_onTick ha (ppsEdge_stray cadence stray),
      fun acquiring first => run_onTick ha (ppsEdge_first acquiring first),
      fun e acquiring before near few => run_onTick ha (ppsEdge_counts acquiring before near few)⟩
  · exact ⟨_, exec_ppsMissing ha cadence last missing, rfl, losePps_leaves m⟩

end Sys2Proof.HouseTime

/-! # The Kite link's commands (R376, R394, R397, R399)

Each command is performed on the part as it was read; the answer keeps the Kite link. -/

namespace Sys2Proof.KiteCommands

open Sys2Proof Sys2Proof.Machine Sys2Proof.Safety Sys2Proof.Laws

/-! ## Tables -/

section
variable {α : Type} (k : Nat)

@[simp] theorem look_put_same (a : α) (l : List (Nat × α)) : look k (put k a l) = some a := by
  induction l with
  | nil => simp [put, look]
  | cons e l ih =>
    obtain ⟨j, b⟩ := e
    by_cases before : k < j
    · simp [put, before, look]
    · by_cases same : k = j
      · simp [put, same, look]
      · simp [put, before, same, look, Ne.symm same, ih]

@[simp] theorem look_change_same (f : α → α) (l : List (Nat × α)) : look k (change k f l) = (look k l).map f := by
  induction l with
  | nil => rfl
  | cons e l ih =>
    obtain ⟨j, b⟩ := e
    by_cases same : j = k
    · simp [change, look, same]
    · simpa [change, look, same] using ih

end

/-! ## What leaves the Kite link as it is -/

/-- What each step of a fold keeps, the fold keeps. -/
theorem foldl_keeps {β γ : Type} {f : Part → β → Part} (g : Part → γ) (keeps : ∀ m x, g (f m x) = g m) (l : List β) (m : Part) :
    g (l.foldl f m) = g m := by
  induction l generalizing m with
  | nil => rfl
  | cons x l ih => rw [List.foldl_cons, ih, keeps]

theorem RecordsOnly.kite {a b : Part} (h : RecordsOnly a b) : b.kite = a.kite := by rw [h]

@[simp] theorem appendKite_kite (subtype session status channel cls ht : Nat) (fields : List Field) (bytes : Nat) (body : List Byte)
    (m : Part) : (appendKite subtype session status channel cls ht fields bytes body m).kite = m.kite := by
  refine foldl_keeps (·.kite) (fun m n => ?_) _ m
  split
  · rfl
  · exact RecordsOnly.kite (appendItem_records _ _ _ _ _ _)

@[simp] theorem reportTx_kite (session channel sf : Nat) (fr : KiteFrame) (status used ht : Nat) (m : Part) :
    (reportTx session channel sf fr status used ht m).kite = m.kite := by
  simp [reportTx]

@[simp] theorem discardFrames_kite (session channel sf status : Nat) (l : List KiteFrame) (m : Part) :
    (discardFrames session channel sf status l m).kite = m.kite := by
  induction l generalizing m with
  | nil => rfl
  | cons fr l ih => simp [discardFrames, ih]

@[simp] theorem sessionEvent_kite (n cause : Nat) (x : KiteSession) (m : Part) : (sessionEvent n cause x m).kite = m.kite := by
  simp [sessionEvent]

/-! ## Sessions -/

/-- The sessions are the Kite link's. -/
theorem kiteSession_congr {n : Nat} {a b : Part} (same : b.kite = a.kite) : kiteSession n b = kiteSession n a := by
  rw [kiteSession, kiteSession, same]

@[simp] theorem kiteSession_finish (n : Nat) (d : Desc) (o : Origin) (c : Nat) (r : Reply) (m : Part) :
    kiteSession n (finish d o c r m) = kiteSession n m := kiteSession_congr (finish_kite d o c r m)

@[simp] theorem kiteSession_event (n k cause : Nat) (x : KiteSession) (m : Part) :
    kiteSession n (sessionEvent k cause x m) = kiteSession n m := kiteSession_congr (sessionEvent_kite k cause x m)

@[simp] theorem kiteSession_onSession (n : Nat) (f : KiteSession → KiteSession) (m : Part) :
    kiteSession n (onSession n f m) = (kiteSession n m).map f := look_change_same _ _ _

/-- An event on a session, if it is open. -/
theorem kiteSession_told (n k cause : Nat) (o : Option KiteSession) (m : Part) :
    kiteSession n (o.elim m fun x => sessionEvent k cause x m) = kiteSession n m := by
  cases o <;> simp

section
variable {n : Nat} {x : KiteSession} {m : Part}

/-- The session's checks pass on an open session of a configured link. -/
theorem sessionStatus_open (configured : m.kite.cfg.isSome = true) (found : kiteSession n m = some x) :
    sessionStatus sessionNow n m = stOk := by
  obtain ⟨b, held⟩ := Option.isSome_iff_exists.mp configured
  simp [sessionStatus, sessionNow, held, found]

/-- A discard leaves the session the frames that it does not name. -/
theorem kiteSession_discardWhere (status : Nat) (p : KiteFrame → Bool) (found : kiteSession n m = some x) :
    kiteSession n (discardWhere n status p m) = some { x with
      queue := x.queue.filter fun fr => !p fr, tagged := x.tagged && !(x.queue.head?).any p } := by
  unfold discardWhere
  rw [found]
  dsimp only
  rw [kiteSession_congr (discardFrames_kite _ _ _ _ _ _), kiteSession_onSession, found]
  rfl

theorem kiteSession_closeSession (cause status : Nat) (found : kiteSession n m = some x) :
    kiteSession n (closeSession n cause status m) = none := by
  unfold closeSession
  rw [found]
  exact (kiteSession_event _ _ _ _ _).trans (Fencing.look_erase_same _)

end

/-! ## Frames that are decided but not on air -/

/-- Once every frame that is not on air is back in its queue, only those on air are left. -/
theorem returnTxs_begun (m : Part) : ∀ x ∈ (returnTxs (fun _ => true) m).kite.txs, x.begun = true := by
  unfold returnTxs
  extract_lets back held gone requeued
  have same : requeued.kite.txs = m.kite.txs := by
    refine foldl_keeps (·.kite.txs) (fun m x => ?_) _ m
    rfl
  intro x left
  by_contra waits
  split at left
  next empty =>
    rw [same] at left
    have is : x ∈ back := List.mem_filter.mpr ⟨left, by simp [waits]⟩
    rw [List.isEmpty_iff.mp empty] at is
    exact List.not_mem_nil is
  next =>
    rw [foldl_keeps (·.kite) (fun _ _ => reportTx_kite _ _ _ _ _ _ _ _)] at left
    obtain ⟨decided, kept⟩ := List.mem_filter.mp left
    rw [same] at decided
    have is : x ∈ back := List.mem_filter.mpr ⟨decided, by simp [waits]⟩
    simp [is] at kept

/-- A configuration that replaces the one that waits: that one is answered (R376). -/
def pendKite (p : KitePending) (m : Part) : Part :=
  onKite (fun k => { k with pending := some p }) (match m.kite.pending with
    | none => m
    | some old => finish old.desc old.origin 0x50 { status := stAborted } m)

theorem performKiteConfig_eq (count : Nat) (b : KiteBlock) (d : Desc) (o : Origin) (m : Part) :
    performKiteConfig count b d o m = (pendKite { block := decodeKite b, count := count, desc := d, origin := o }
      (returnTxs (fun _ => true) (freeDemods cntHop (settleTx m))), none) := rfl

theorem pendKite_kite (p : KitePending) (m : Part) : (pendKite p m).kite = { m.kite with pending := some p } := by
  unfold pendKite
  split
  · rfl
  · rw [onKite, finish_kite]

/-- A configuration waits with no frame that is not on air. -/
theorem pendKite_begun {p : KitePending} {m : Part} (begun : ∀ x ∈ m.kite.txs, x.begun = true) :
    (pendKite p m).kite.pending = some p ∧ ∀ x ∈ (pendKite p m).kite.txs, x.begun = true := by
  rw [pendKite_kite]
  exact ⟨rfl, begun⟩

/-! ## The commands -/

section
variable {d : Desc} {s : State}

theorem kiteConfig_pends {count : Nat} {b : KiteBlock} (ex : Executes d (.kiteConfig count b) s.part) :
    ∃ u, exec (.kiteConfig d count b) s = .next u ∧
      u.part.kite.pending = some { block := decodeKite b, count := count, desc := d, origin := .ring } ∧
      ∀ x ∈ u.part.kite.txs, x.begun = true := by
  exact ⟨_, run_unanswered ex (by simp) (by simp) (performKiteConfig_eq _ _ _ _ _), pendKite_begun (returnTxs_begun _)⟩

theorem kiteSessionOpen_opens {n key peer ch : Nat} (ex : Executes d (.kiteSessionOpen n key peer ch) s.part)
    (passed : openSessionStatus sessionNow n key ch (readPart d s.part) = stOk) :
    ∃ u, exec (.kiteSessionOpen d n key peer ch) s = .next u ∧
      kiteSession n u.part = some { key := key, peer := peer, channel := ch } := by
  refine ⟨_, run_answered ex (by simp) (by simp) (if_neg (by simp [passed])), ?_⟩
  rw [answered, kiteSession_finish, kiteSession_event]
  exact look_put_same _ _ _

theorem kiteSessionClose_closes {n : Nat} {x : KiteSession} (ex : Executes d (.kiteSessionClose n) s.part)
    (configured : (readPart d s.part).kite.cfg.isSome = true) (found : kiteSession n (readPart d s.part) = some x) :
    ∃ u, exec (.kiteSessionClose d n) s = .next u ∧ kiteSession n u.part = none := by
  refine ⟨_, run_answered ex (by simp) (by simp) (if_neg (by simp [sessionStatus_open configured found])), ?_⟩
  rw [answered, kiteSession_finish]
  exact kiteSession_closeSession _ _ found

theorem kiteSessionUpdate_updates {n key ch : Nat} {x : KiteSession} (ex : Executes d (.kiteSessionUpdate n key ch) s.part)
    (passed : updateStatus sessionNow n key ch (readPart d s.part) = stOk) (found : kiteSession n (readPart d s.part) = some x) :
    ∃ u, exec (.kiteSessionUpdate d n key ch) s = .next u ∧
      ∃ y, kiteSession n u.part = some y ∧ y.key = key ∧ y.channel = ch ∧ y.peer = x.peer := by
  refine ⟨_, run_answered ex (by simp) (by simp) (if_neg (by simp [passed])), ?_⟩
  rw [answered, kiteSession_finish, kiteSession_told, kiteSession_onSession, found]
  refine ⟨_, rfl, ?_⟩
  dsimp only
  split
  next same => exact ⟨same, rfl, rfl⟩
  next => exact ⟨rfl, rfl, rfl⟩

theorem kiteSessionFlush_flushes {n : Nat} {x : KiteSession} (ex : Executes d (.kiteSessionFlush n) s.part)
    (configured : (readPart d s.part).kite.cfg.isSome = true) (found : kiteSession n (readPart d s.part) = some x) :
    ∃ u, exec (.kiteSessionFlush d n) s = .next u ∧ ∃ y, kiteSession n u.part = some y ∧ y.queue = [] ∧ y.txCount = x.txCount := by
  refine ⟨_, run_answered ex (by simp) (by simp) (if_neg (by simp [sessionStatus_open configured found])), ?_⟩
  rw [answered, kiteSession_finish, kiteSession_told, kiteSession_discardWhere _ _ found]
  exact ⟨_, rfl, by simp, rfl⟩

theorem kiteSend_queues {n cls len : Nat} {payload : List Nat} {x : KiteSession} (ex : Executes d (.kiteSend n cls len payload) s.part)
    (found : kiteSession n (readPart d s.part) = some x) (counts : x.txCount ≠ 2 ^ 32 - 1) (room : x.queue.length < 64)
    (total : ((readPart d s.part).kite.sessions.map fun e => e.2.queue.length).sum < 16384) :
    ∃ u, exec (.kiteSend d n cls len payload) s = .next u ∧ ∃ y, kiteSession n u.part = some y ∧ y.txCount = x.txCount + 1 ∧
      y.queue = x.queue ++ [{ cls := cls, length := len, payload := payload, seq := x.txCount, tag := d.tag }] := by
  have e : performKiteSend n cls len payload d .ring (readPart d s.part) =
      (onSession n (fun y => { y with
        queue := y.queue ++ [{ cls := cls, length := len, payload := payload, seq := x.txCount, tag := d.tag }]
        txCount := y.txCount + 1 }) (readPart d s.part), some { status := stOk, result := x.txCount }) := by
    unfold performKiteSend
    rw [found]
    dsimp only
    rw [if_neg counts, if_neg (by omega)]
  refine ⟨_, run_answered ex (by simp) (by simp) e, ?_⟩
  rw [answered, kiteSession_finish, kiteSession_onSession, found]
  exact ⟨_, rfl, rfl, rfl⟩

theorem kiteBudget_sets {subBand cls rate burst : Nat} (ex : Executes d (.kiteBudget subBand cls rate burst) s.part) :
    ∃ u, exec (.kiteBudget d subBand cls rate burst) s = .next u ∧
      (bucketOf subBand cls u.part).rate = rate ∧ (bucketOf subBand cls u.part).burst = burst := by
  refine ⟨_, run_answered ex (by simp) (by simp) rfl, ?_⟩
  rw [answered, bucketOf, finish_kite]
  simp [setBucket, onKite]

end

end Sys2Proof.KiteCommands

/-! # Audio ports, calibration, the clock, the chain and firmware: what their commands bring about (R62, R131, R134, R408, R409, R427, R440,
R442, R459) -/

namespace Sys2Proof.PartCommands

open Sys2Proof Sys2Proof.Machine Sys2Proof.Safety Sys2Proof.Laws

/-! ## Audio ports (R402, R408, R409) -/

/-- The port does not run, or only its clocks still do. -/
def Stopped (p : Nat) (m : Part) : Prop := (port p m).state = .idle ∨ (port p m).state = .trail

/-- A change of a port that is there is read back; a port that is not there reads as after reset. -/
theorem port_onPort (p : Nat) (f : Port → Port) (m : Part) : port p (onPort p f m) = f (port p m) ∨ port p (onPort p f m) = {} := by
  rcases Nat.lt_or_ge p m.ports.length with fitted | missing
  · exact .inl (getD_modified _ fitted)
  · exact .inr (by simp [port, onPort, List.getD_eq_getElem?_getD, missing])

theorem stopped_onPort {p : Nat} {f : Port → Port} {m : Part} (h : (f (port p m)).state = .idle ∨ (f (port p m)).state = .trail) :
    Stopped p (onPort p f m) := by
  rcases port_onPort p f m with e | e <;> rw [Stopped, e]
  · exact h
  · exact .inl rfl

theorem stopped_finish {p : Nat} {d : Desc} {o : Origin} {c : Nat} {r : Reply} {m : Part} (h : Stopped p m) :
    Stopped p (finish d o c r m) := by
  rwa [Stopped, port, finish_ports]

/-- A stop leaves the port stopped (R409). -/
theorem stopPort_stops (p : Nat) (m : Part) : Stopped p (stopPort p m) := by
  unfold stopPort
  extract_lets x followed broken trailing
  split
  next already => exact already
  next =>
    have trails : Stopped p trailing := stopped_onPort (.inr rfl)
    split
    · split
      · exact stopped_finish (stopped_onPort trails)
      · exact trails
    · exact trails

/-! ## The queue -/

/-- A meaning that is an operation on the part alone. -/
theorem run_to {f : Part → Part} {s : State} {m : Part} (h : f s.part = m) : s.run f = .next { s with part := m } := by
  rw [State.run, h]

/-- An action that is taken into the queue is in it. -/
theorem enqueue_holds (due : Nat) (late : Bool) (d : Desc) (o : Origin) (c : HostCmd) (m : Part) :
    ∃ a ∈ (enqueue due late d o c m).sched.queue, a.cmd = c ∧ a.desc = d ∧ a.due = due := by
  refine ⟨{ order := m.sched.nextOrder, due := due, late := late, desc := d, origin := o, cmd := c }, ?_, rfl, rfl, rfl⟩
  unfold enqueue
  dsimp only
  split <;> simp

/-! ## Calibration (R131, R134) -/

theorem half_finish (k : Nat) (d : Desc) (o : Origin) (c : Nat) (r : Reply) (m : Part) : half k (finish d o c r m) = half k m := by
  rw [half, finish_halves, half]

/-- What CAL_POLICY sets of a half. -/
def policyOf (k : Nat) (m : Part) : Bool × Nat × List CalWindow :=
  ((half k m).cal.auto, (half k m).cal.deltaT, (half k m).cal.windows)

/-- `m'` has the halves of `m` with their policies. -/
structure SamePolicy (m m' : Part) : Prop where
  count : m'.halves.length = m.halves.length
  policy : ∀ k, policyOf k m' = policyOf k m

theorem SamePolicy.refl (m : Part) : SamePolicy m m := ⟨rfl, fun _ => rfl⟩

theorem SamePolicy.trans {a b c : Part} (h : SamePolicy a b) (k : SamePolicy b c) : SamePolicy a c :=
  ⟨k.count.trans h.count, fun j => (k.policy j).trans (h.policy j)⟩

theorem SamePolicy.ite {p : Prop} [Decidable p] {a b c : Part} (h : SamePolicy a b) (k : SamePolicy a c) :
    SamePolicy a (if p then b else c) := by
  split <;> assumption

/-- A change of a half's calibration that is not one of its policy. -/
theorem samePolicy_onCal (h : Nat) {f : HalfCal → HalfCal}
    (keeps : ∀ c, (f c).auto = c.auto ∧ (f c).deltaT = c.deltaT ∧ (f c).windows = c.windows)
    (m : Part) : SamePolicy m (onCal h f m) := by
  refine ⟨by simp [onCal, onHalf], fun k => ?_⟩
  rw [onCal, policyOf, Fencing.half_onHalf]
  split
  · obtain ⟨auto, deltaT, windows⟩ := keeps (half k m).cal
    simp only [auto, deltaT, windows, policyOf]
  · rfl

theorem samePolicy_placeRun (h start : Nat) (cause : CalCause) (command : Option Nat) (m : Part) :
    SamePolicy m (placeRun h start cause command m) := samePolicy_onCal _ (by intro c; exact ⟨rfl, rfl, rfl⟩) _

theorem samePolicy_placeWanted (h : Nat) (m : Part) : SamePolicy m (placeWanted h m) := by
  unfold placeWanted
  exact .ite (samePolicy_placeRun _ _ _ _ _) (.refl m)

theorem samePolicy_wantRun (h : Nat) (m : Part) : SamePolicy m (wantRun h m) := by
  unfold wantRun
  exact .ite (((samePolicy_onCal _ (by intro c; exact ⟨rfl, rfl, rfl⟩) _).trans (samePolicy_placeWanted _ _)).trans (samePolicy_placeWanted _ _))
    (samePolicy_placeWanted _ _)

/-- One half takes the policy, and a run that it then wants is placed. -/
def takePolicy (policy : HalfCal → HalfCal) (m : Part) (k : Nat) : Part := wantRun k (onCal k policy m)

section
variable {policy : HalfCal → HalfCal} {new : Bool × Nat × List CalWindow}
  (sets : ∀ c, ((policy c).auto, (policy c).deltaT, (policy c).windows) = new)
include sets

/-- The half that takes the policy has it, any other half keeps its own. -/
theorem takePolicy_policy {j k : Nat} {m : Part} (fitted : k < m.halves.length) :
    (takePolicy policy m j).halves.length = m.halves.length ∧
      policyOf k (takePolicy policy m j) = if j = k then new else policyOf k m := by
  have wanted := samePolicy_wantRun j (onCal j policy m)
  refine ⟨wanted.count.trans (by simp [onCal, onHalf]), (wanted.policy k).trans ?_⟩
  rw [onCal, policyOf, Fencing.half_onHalf]
  by_cases same : j = k
  · rw [if_pos ⟨same, fitted⟩, if_pos same]
    exact sets _
  · rw [if_neg (fun h => same h.1), if_neg same]
    rfl

/-- Every half that the command names has the policy afterwards. -/
theorem foldl_takePolicy {k : Nat} {l : List Nat} {m : Part} (fitted : k < m.halves.length) (named : k ∈ l ∨ policyOf k m = new) :
    policyOf k (l.foldl (takePolicy policy) m) = new := by
  induction l generalizing m with
  | nil => exact named.resolve_left List.not_mem_nil
  | cons j l ih =>
    obtain ⟨count, taken⟩ := takePolicy_policy sets (j := j) fitted
    refine ih (count ▸ fitted) ?_
    by_cases same : j = k
    · exact .inr (taken.trans (if_pos same))
    · rw [taken, if_neg same]
      exact named.imp_left fun h => (List.mem_cons.mp h).resolve_left (Ne.symm same)

end

/-- The policy of a CAL_POLICY (Table CAL-3). -/
def setPolicy (auto deltaT : Nat) (ws : List CalWindow) (c : HalfCal) : HalfCal := { c with
  auto := decide (orDefault 1 0 auto = 0), deltaT := orDefault 1 4 deltaT, windows := ws.map decodeWindow }

theorem setPolicy_policy (auto deltaT : Nat) (ws : List CalWindow) (c : HalfCal) :
    ((setPolicy auto deltaT ws c).auto, (setPolicy auto deltaT ws c).deltaT, (setPolicy auto deltaT ws c).windows) =
      (decide (orDefault 1 0 auto = 0), orDefault 1 4 deltaT, ws.map decodeWindow) := rfl

theorem performCalPolicy_eq (h auto deltaT : Nat) (ws : List CalWindow) (d : Desc) (o : Origin) (m : Part) :
    performCalPolicy h auto deltaT ws d o m = ((calHalves h m).foldl (takePolicy (setPolicy auto deltaT ws)) m, reply stOk) := rfl

/-- Fixing the runs of a command leaves the queue as it is (R134). -/
theorem fixAccepted_sched (first : Nat) (m : Part) : (fixAccepted first m).sched = m.sched := by
  have runs (order h at0 : Nat) (m : Part) : (fixRuns order h at0 m).sched = m.sched := by
    unfold fixRuns
    split
    · rfl
    · refine KiteCommands.foldl_keeps (·.sched) (fun m k => ?_) _ m
      split <;> rfl
  unfold fixAccepted
  split
  · rfl
  · refine KiteCommands.foldl_keeps (·.sched) (fun m a => ?_) _ m
    split
    · split
      · exact runs _ _ _ _
      · rfl
    · rfl

/-! ## The clock's limits (R62) -/

/-- `m'` has the limits and the delay of `m`. -/
structure SameLimits (m m' : Part) : Prop where
  stepLimit : m'.clock.stepLimit = m.clock.stepLimit
  slewLimit : m'.clock.slewLimit = m.clock.slewLimit
  ppsDelay : m'.clock.ppsDelay = m.clock.ppsDelay

theorem SameLimits.refl (m : Part) : SameLimits m m := ⟨rfl, rfl, rfl⟩

theorem SameLimits.trans {a b c : Part} (h : SameLimits a b) (k : SameLimits b c) : SameLimits a c :=
  ⟨k.stepLimit.trans h.stepLimit, k.slewLimit.trans h.slewLimit, k.ppsDelay.trans h.ppsDelay⟩

theorem SameLimits.ite {p : Prop} [Decidable p] {a b c : Part} (h : SameLimits a b) (k : SameLimits a c) :
    SameLimits a (if p then b else c) := by
  split <;> assumption

theorem SameLimits.of_ht {a b : Part} (h : HtOnly a b) : SameLimits a b := by
  constructor <;> rw [h]

theorem sameLimits_changeSource (src : HtSource) (auto ref25 : Bool) (m : Part) : SameLimits m (changeSource src auto ref25 m) := by
  unfold changeSource
  extract_lets lost moved told _ _ set settled
  have s1 : SameLimits m told := .ite (.of_ht (refLoss_ht _ _)) (.refl m)
  have s2 : SameLimits told set := ⟨rfl, rfl, rfl⟩
  have s3 : SameLimits m settled := (s1.trans s2).trans (.of_ht (setHt_ht _ _))
  exact .ite (s3.trans (.of_ht (flood_ht _))) s3

/-- After its settings CLOCK_CONFIG changes no limit. -/
theorem performClock_limits (p : ClockParams) (d : Desc) (o : Origin) (m : Part) :
    ∃ m', performClock p d o m = (m', reply stOk) ∧ SameLimits (applyClock p m) m' := by
  unfold performClock
  extract_lets before set src
  split
  next auto ref25 _ =>
  extract_lets changed _ sourced _ dated
  refine ⟨dated, rfl, ?_⟩
  have s1 : SameLimits set sourced := by
    refine .ite ?_ ⟨rfl, rfl, rfl⟩
    have moved : SameLimits set changed := sameLimits_changeSource src auto ref25 set
    exact .ite moved (moved.trans (.of_ht (elect_ht _ _)))
  refine s1.trans ?_
  unfold dated
  split
  · exact .refl _
  · exact ⟨rfl, rfl, rfl⟩

/-! ## The chain (R427, R440, R442) -/

/-- An enumeration that no busy part refuses gives the chain its identity and its parts (R426, R427). -/
theorem performEnumerate_enumerates {options : Nat} {w : WalkResult} {d : Desc} {o : Origin} {m : Part}
    (free : busyParts (w.parts.take 1023) = []) :
    ∃ m' r, performEnumerate options w d o m = (m', some r) ∧ m'.chain.addr = some 0 ∧ m'.chain.chainId = m.regs.chainId ∧
      m'.chain.parts = (w.parts.take 1023).length + 1 := by
  unfold performEnumerate
  extract_lets found busy asked closed n walked _ noted told crowded open_
  rw [if_neg (by simp [busy, found, free])]
  have s1 : HtOnly noted told := (sendConfigs_ht _ _).trans (topology_ht _ _ _ _ _ _)
  have s2 : HtOnly noted crowded := .ite (s1.trans (topology_ht _ _ _ _ _ _)) s1
  have s3 : HtOnly noted open_ := .ite (s2.trans (topology_ht _ _ _ _ _ _)) s2
  have kept : HtOnly noted (elect open_ open_) := s3.trans (elect_ht _ _)
  exact ⟨_, _, rfl, congrArg (·.chain.addr) kept, congrArg (·.chain.chainId) kept, congrArg (·.chain.parts) kept⟩

/-- A message to one other part that can be reached is one transfer, and its command waits for it (R442). -/
theorem performChainSend_waits {dest : Nat} {message : List Nat} {d : Desc} {o : Origin} {m : Part} (fitted : dest < m.chain.parts)
    (one : dest ≠ 0xFFFF) (other : dest ≠ ownAddr m) (reached : joined (ownAddr m) dest m = true)
    (trusted : (look dest m.chain.peers).any Peer.quarantined = false) :
    performChainSend dest message d o m = (onChain (fun c => { c with
      sends := c.sends ++ [{ desc := d, origin := o, waiting := [m.chain.nextSeq], failed := [], single := true }] })
        (send dest (.message message) m), none) := by
  unfold performChainSend
  simp [one, sendTo, other, fitted, reached, trusted]

/-! ## Firmware (R459) -/

/-- A valid image is being written to the spare slot. -/
theorem performStage_stages {i : ImageOffer} {d : Desc} {o : Origin} {m : Part} (free : m.flash.staging.isSome = false)
    (valid : imageValid i m = true) :
    ∃ m', performStage i d o m = (m', none) ∧ m'.flash.staging = some (d, o, i) ∧ m'.flash.staged = false := by
  unfold performStage
  rw [if_neg (by simp [free])]
  exact ⟨_, if_pos valid, rfl, rfl⟩

theorem stageStatus_free {length : Nat} {m : Part} (passed : stageStatus length m = stOk) : m.flash.staging.isSome = false := by
  unfold stageStatus at passed
  split at passed
  · cases passed
  · split at passed
    · cases passed
    · simp_all

/-! ## The commands -/

section
variable {d : Desc} {s : State}

theorem audioPortConfig_configures {p : PortParams} (ex : Executes d (.audioPortConfig p) s.part) (fitted : p.port < s.part.ports.length) :
    ∃ u, exec (.audioPortConfig d p) s = .next u ∧ (port p.port u.part).cfg = portCfg p := by
  refine ⟨_, run_answered ex (by simp) (by simp) rfl, ?_⟩
  rw [answered, port, finish_ports]
  rw [← readPart_ports d] at fitted
  exact congrArg Port.cfg (getD_modified _ fitted)

theorem audioPortStart_waits {p : Nat} (ex : Executes d (.audioPortStart p) s.part) (room : s.part.sched.queue.length < 1024) :
    ∃ u, exec (.audioPortStart d p) s = .next u ∧ ∃ a ∈ u.part.sched.queue, a.cmd = .audioPortStart p ∧ a.desc = d ∧
      a.due = portTick (.audioPortStart p) ((readPart d s.part).clock.ht + leadOf (.audioPortStart p) (readPart d s.part))
        (readPart d s.part) :=
  ⟨_, run_to (accept_portStart ex (by rwa [readPart_sched])), enqueue_holds _ _ _ _ _ _⟩

theorem audioPortStop_stops {p : Nat} (ex : Executes d (.audioPortStop p) s.part) :
    ∃ u, exec (.audioPortStop d p) s = .next u ∧ ((port p u.part).state = .idle ∨ (port p u.part).state = .trail) :=
  ⟨_, run_answered ex (by simp) (by simp) rfl, stopped_finish (stopPort_stops p _)⟩

theorem calPolicy_takes {h auto deltaT : Nat} {ws : List CalWindow} (ex : Executes d (.calPolicy h auto deltaT ws) s.part) :
    ∃ u, exec (.calPolicy d h auto deltaT ws) s = .next u ∧ ∀ k ∈ calHalves h s.part, k < s.part.halves.length →
      (half k u.part).cal.auto = decide (orDefault 1 0 auto = 0) ∧ (half k u.part).cal.deltaT = orDefault 1 4 deltaT ∧
      (half k u.part).cal.windows = ws.map decodeWindow := by
  refine ⟨_, run_answered ex (by simp) (by simp) (performCalPolicy_eq _ _ _ _ _ _ _), fun k named fitted => ?_⟩
  rw [← readPart_halves d] at fitted
  have named : k ∈ calHalves h (readPart d s.part) := by
    simpa [calHalves, halvesFitted, tilesFitted] using named
  have taken := foldl_takePolicy (setPolicy_policy auto deltaT ws) fitted (.inl named)
  rw [answered, half_finish]
  simpa only [policyOf, Prod.mk.injEq] using taken

theorem calRun_waits {h : Nat} (ex : Executes d (.calRun h) s.part) (room : s.part.sched.queue.length < 1024) :
    ∃ u, exec (.calRun d h) s = .next u ∧
      ∃ a ∈ u.part.sched.queue, a.cmd = .calRun h ∧ a.desc = d ∧ a.due = s.part.clock.ht + 2048 := by
  have waits := accept_calRun (perform := fun _ _ m => (m, none)) ex (by rwa [readPart_sched])
  refine ⟨_, run_to (f := fun m => fixAccepted m.sched.nextOrder (accept d _ _ _ m)) (congrArg (fixAccepted _) waits), ?_⟩
  rw [fixAccepted_sched, readPart_clock]
  exact enqueue_holds _ _ _ _ _ _

theorem clockConfig_limits {p : ClockParams} (ex : Executes d (.clockConfig p) s.part) :
    ∃ u, exec (.clockConfig d p) s = .next u ∧ (∀ v, p.stepLimit = some v → u.part.clock.stepLimit = orDefault 4 2000 v) ∧
      (∀ v, p.slewLimit = some v → u.part.clock.slewLimit = orDefault 1 20 v) ∧
      (∀ v, p.ppsDelay = some v → u.part.clock.ppsDelay = v) ∧
      (p.stepLimit = none → u.part.clock.stepLimit = s.part.clock.stepLimit) := by
  obtain ⟨m', e, limits⟩ := performClock_limits p d .ring (readPart d s.part)
  refine ⟨_, run_answered ex (by simp) (by simp) e, ?_⟩
  rw [answered, finish_clock, limits.stepLimit, limits.slewLimit, limits.ppsDelay, ← readPart_clock d s.part]
  refine ⟨fun v given => ?_, fun v given => ?_, fun v given => ?_, fun absent => ?_⟩
  · simp [applyClock, given]
  · simp [applyClock, given]
  · simp [applyClock, given]
  · simp [applyClock, absent]

theorem chainEnumerate_enumerates {options : Nat} {w : WalkResult} (ex : Executes d (.chainEnumerate options w) s.part)
    (free : busyParts (w.parts.take 1023) = []) :
    ∃ u, exec (.chainEnumerate d options w) s = .next u ∧ u.part.chain.addr = some 0 ∧ u.part.chain.chainId = s.part.regs.chainId ∧
      u.part.chain.parts = (w.parts.take 1023).length + 1 := by
  obtain ⟨m', r, e, addr, chainId, parts⟩ := performEnumerate_enumerates (options := options) (d := d) (o := .ring)
    (m := readPart d s.part) free
  refine ⟨_, run_answered ex (by simp) (by simp) e, ?_⟩
  rw [answered, finish_chain_addr, finish_chain_chainId, finish_chain_parts, chainId, readPart_regs]
  exact ⟨addr, rfl, parts⟩

theorem chainSend_waits {dest : Nat} {message : List Nat} (ex : Executes d (.chainSend dest message) s.part)
    (fitted : dest < s.part.chain.parts) (one : dest ≠ 0xFFFF) (other : dest ≠ ownAddr s.part)
    (reached : joined (ownAddr s.part) dest s.part = true) (trusted : (look dest s.part.chain.peers).any Peer.quarantined = false) :
    ∃ u, exec (.chainSend d dest message) s = .next u ∧
      u.part.chain.transfers = s.part.chain.transfers ++ [{ seq := s.part.chain.nextSeq, dest := dest, item := .message message }] ∧
      u.part.chain.sends = s.part.chain.sends ++ [{
        desc := d, origin := .ring, waiting := [s.part.chain.nextSeq], failed := [], single := true }] := by
  have chain := readPart_chain d s.part
  have own : ownAddr (readPart d s.part) = ownAddr s.part := by rw [ownAddr, chain, ownAddr]
  have e := performChainSend_waits (message := message) (d := d) (o := .ring) (m := readPart d s.part) (dest := dest) (by rwa [chain]) one
    (by rwa [own]) (by simpa [own, joined, directClear, aroundClear, chain] using reached) (by rwa [chain])
  refine ⟨_, run_unanswered ex (by simp) (by simp) e, ?_⟩
  rw [← chain]
  exact ⟨rfl, rfl⟩

theorem fwLoadStage_stages {length : Nat} {image : ImageOffer} (ex : Executes d (.fwLoadStage length image) s.part)
    (valid : imageValid { image with bytes := length } (readPart d s.part) = true) :
    ∃ u, exec (.fwLoadStage d length image) s = .next u ∧
      u.part.flash.staging = some (d, .ring, { image with bytes := length }) ∧ u.part.flash.staged = false := by
  obtain ⟨m', e, staging, staged⟩ := performStage_stages (d := d) (o := .ring) (stageStatus_free ex.passed) valid
  exact ⟨_, run_unanswered ex (by simp) (by simp) e, staging, staged⟩

theorem fwLoadActivate_resets (ex : Executes d .fwLoadActivate s.part) :
    ∃ u, exec (.fwLoadActivate d) s = .next u ∧ u.part.oasis.preferred = spareSlot s.part ∧
      u.part.power.resetAt = some (s.part.clock.elapsed + 245760) := by
  refine ⟨_, run_answered ex (by simp) (by simp) rfl, ?_⟩
  rw [answered, finish_oasis, finish_power]
  have spare : spareSlot (readPart d s.part) = spareSlot s.part := by simp [spareSlot]
  exact ⟨spare, by simp⟩

end

end Sys2Proof.PartCommands

/-! # The rows of the host interface (R317, R320, R350, R472, R474, R482) -/

namespace Sys2Proof.InterfaceRows

open Sys2Proof Sys2Proof.Machine Sys2Proof.Safety Sys2Proof.Laws

/-! ## What reading doorbells and writing what was held leave of the interface -/

/-- `m'` has the enable, the configuration error and the count and HT of the latest fetch of `m`. -/
structure SameInterface (m m' : Part) : Prop where
  enable : m'.hif.enable = m.hif.enable
  cfgErr : m'.hif.cfgErr = m.hif.cfgErr
  fetchSeq : m'.hif.fetchSeq = m.hif.fetchSeq
  shadowHt : m'.hif.shadowHt = m.hif.shadowHt

section
variable {a b c : Part}

theorem SameInterface.refl (m : Part) : SameInterface m m := ⟨rfl, rfl, rfl, rfl⟩

theorem SameInterface.trans (h : SameInterface a b) (k : SameInterface b c) : SameInterface a c :=
  ⟨k.enable.trans h.enable, k.cfgErr.trans h.cfgErr, k.fetchSeq.trans h.fetchSeq, k.shadowHt.trans h.shadowHt⟩

theorem SameInterface.ite {p : Prop} [Decidable p] (h : SameInterface a b) (k : SameInterface a c) :
    SameInterface a (if p then b else c) := by
  split <;> assumption

end

theorem sameInterface_onCmd (n : Nat) (f : CmdRing → CmdRing) (m : Part) : SameInterface m (onCmd n f m) := ⟨rfl, rfl, rfl, rfl⟩

theorem sameInterface_onCpl (n : Nat) (f : CplRing → CplRing) (m : Part) : SameInterface m (onCpl n f m) := ⟨rfl, rfl, rfl, rfl⟩

theorem sameInterface_onRing (n : Nat) (f : FlowRing → FlowRing) (m : Part) : SameInterface m (onRing n f m) := ⟨rfl, rfl, rfl, rfl⟩

theorem sameInterface_onEvq (q : EvtRing) (m : Part) : SameInterface m { m with hif := { m.hif with evq := q } } := ⟨rfl, rfl, rfl, rfl⟩

theorem sameInterface_refreshTags (m : Part) : SameInterface m (refreshTags m) := ⟨rfl, rfl, rfl, rfl⟩

theorem sameInterface_raise (s c : Nat) (p : List Field) (m : Part) : SameInterface m (raise s c p m) :=
  ⟨by simp, by simp, by simp, by simp⟩

theorem sameInterface_writeCompletion (c : Completion) (m : Part) : SameInterface m (writeCompletion c m) := by
  obtain ⟨_, _, _, _, e⟩ := writeCompletion_frame c m
  rw [e]
  exact ⟨rfl, rfl, rfl, rfl⟩

theorem sameInterface_writeEvent (e : Event) (v : Nat) (m : Part) : SameInterface m (writeEvent e v m) := by
  obtain ⟨_, _, _, e⟩ := writeEvent_frame e v m
  rw [e]
  exact ⟨rfl, rfl, rfl, rfl⟩

theorem sameInterface_stopRing (kind cause ring seen : Nat) (m : Part) : SameInterface m (stopRing kind cause ring seen m) :=
  SameInterface.trans (b := writeShadow 0x30 4 (ringStop m) m) ⟨rfl, rfl, rfl, rfl⟩ (sameInterface_raise _ _ _ _)

/-! ### Reading the doorbell page -/

theorem sameInterface_fetchList {f : Nat → Nat → Part → Part} (h : ∀ n v m, SameInterface m (f n v m)) (n : Nat) (l : List Nat) (m : Part) :
    SameInterface m (fetchList f n l m) := by
  induction l generalizing n m with
  | nil => exact .refl m
  | cons v l ih => exact (h n v m).trans (ih _ _)

theorem sameInterface_fetchCmd (n prod : Nat) (m : Part) : SameInterface m (fetchCmd n prod m) :=
  .ite (.refl m) (.ite ((sameInterface_onCmd _ _ _).trans (sameInterface_stopRing _ _ _ _ _)) (sameInterface_onCmd _ _ _))

theorem sameInterface_fetchCpl (n cons : Nat) (m : Part) : SameInterface m (fetchCpl n cons m) :=
  .ite (.refl m) (.ite ((sameInterface_onCpl _ _ _).trans (sameInterface_stopRing _ _ _ _ _)) (sameInterface_onCpl _ _ _))

theorem sameInterface_fetchEvt (cons : Nat) (m : Part) : SameInterface m (fetchEvt cons m) :=
  .ite (.refl m) (.ite ((sameInterface_onEvq _ _).trans (sameInterface_stopRing _ _ _ _ _)) (sameInterface_onEvq _ _))

theorem sameInterface_fetchFlow (x : FlowDoorbell) (m : Part) : SameInterface m (fetchFlow x m) := by
  unfold fetchFlow
  split
  · exact .refl m
  · exact .ite (.refl m) (.ite ((sameInterface_onRing _ _ _).trans (sameInterface_stopRing _ _ _ _ _)) (sameInterface_onRing _ _ _))

theorem sameInterface_fetchFlows (l : List FlowDoorbell) (m : Part) : SameInterface m (fetchFlows l m) := by
  induction l generalizing m with
  | nil => exact .refl m
  | cons x l ih => exact (sameInterface_fetchFlow x m).trans (ih _)

/-! ### Writing what was held -/

theorem sameInterface_drainCompletions (n fuel : Nat) (m : Part) : SameInterface m (drainCompletions n fuel m) := by
  induction fuel generalizing m with
  | zero => exact .refl m
  | succ fuel ih =>
    unfold drainCompletions
    dsimp only
    split
    · exact .ite (((sameInterface_onCpl _ _ _).trans (sameInterface_writeCompletion _ _)).trans (ih _)) (.refl m)
    · exact .refl m

theorem sameInterface_drainEvents (fuel : Nat) (m : Part) : SameInterface m (drainEvents fuel m) := by
  induction fuel generalizing m with
  | zero => exact .refl m
  | succ fuel ih =>
    unfold drainEvents
    refine .ite ?_ (.refl m)
    split
    · exact ((sameInterface_onEvq _ _).trans (sameInterface_writeEvent _ _ _)).trans (ih _)
    · exact .ite (.refl m) ((sameInterface_onEvq _ _).trans (sameInterface_raise _ _ _ _))

theorem sameInterface_drainHeld (m : Part) : SameInterface m (drainHeld m) :=
  ((((sameInterface_drainCompletions _ _ _).trans (sameInterface_drainCompletions _ _ _)).trans
    (sameInterface_drainCompletions _ _ _)).trans (sameInterface_drainCompletions _ _ _)).trans (sameInterface_drainEvents _ _)

/-! ## Fetching, enabling -/

theorem sameInterface_settle (m : Part) : SameInterface m (refreshTags (drainHeld m)) :=
  (sameInterface_drainHeld m).trans (sameInterface_refreshTags _)

/-- The indices of a page are read, and what they allow is written. -/
def readPage (p : DoorbellPage) (m : Part) : Part :=
  refreshTags (drainHeld (fetchFlows p.flows (fetchEvt p.evtCons
    (fetchList fetchCpl 0 (p.cplCons.take 4) (fetchList fetchCmd 0 (p.cmdProd.take 4) m)))))

theorem sameInterface_readPage (p : DoorbellPage) (m : Part) : SameInterface m (readPage p m) :=
  (((sameInterface_fetchList sameInterface_fetchCmd _ _ _).trans (sameInterface_fetchList sameInterface_fetchCpl _ _ _)).trans
    ((sameInterface_fetchEvt _ _).trans (sameInterface_fetchFlows _ _))).trans (sameInterface_settle _)

/-- A fetch is noted and fetch_seq and HT are written to the shadow page (R320). -/
def noteFetch (m : Part) : Part :=
  let seq := (m.hif.fetchSeq + 1) % 2 ^ 32
  let m := writeShadow 0x28 8 m.clock.ht (writeShadow 0x24 4 seq m)
  { m with hif := { m.hif with
    fetchSeq := seq, shadowHt := m.clock.ht, fetchAgain := false, fetchedAt := some m.clock.elapsed, fetchFails := 0 } }

section
variable {page : DoorbellPage} {m : Part}

/-- A fetch that is due and whose page is read without an error. -/
theorem fetchDoorbell_reads (enabled : m.hif.enable = true) (due : fetchDue m = true) (read : page.ok = true)
    (clean : page.dmaErrors = []) : fetchDoorbell page m = readPage page (noteFetch m) := by
  unfold fetchDoorbell
  rw [if_neg (by simp [enabled, due])]
  dsimp only
  rw [if_neg (by simp [read]), clean]
  rfl

/-- Such a fetch counts, and HT is written (R320). -/
theorem fetchDoorbell_counts (enabled : m.hif.enable = true) (due : fetchDue m = true) (read : page.ok = true)
    (clean : page.dmaErrors = []) :
    (fetchDoorbell page m).hif.fetchSeq = (m.hif.fetchSeq + 1) % 2 ^ 32 ∧ (fetchDoorbell page m).hif.shadowHt = m.clock.ht := by
  have kept := sameInterface_readPage page (noteFetch m)
  rw [fetchDoorbell_reads enabled due read clean, kept.fetchSeq, kept.shadowHt]
  exact ⟨rfl, rfl⟩

/-- With every check passed the interface is enabled (R472). -/
theorem enableHif_enables (off : m.hif.enable = false) (passed : ∀ c ∈ hifChecks m, c.2 = none) :
    (enableHif m).hif.enable = true ∧ (enableHif m).hif.cfgErr = 0 := by
  have noFault : ((hifChecks m).find? fun c => c.2.isSome) = none := List.find?_eq_none.mpr fun c listed => by simp [passed c listed]
  unfold enableHif
  rw [if_neg (by simp [off]), noFault]
  dsimp only
  rw [(sameInterface_settle _).enable, (sameInterface_settle _).cfgErr]
  exact ⟨rfl, rfl⟩

end

/-! ## Messages (R350) -/

@[simp] theorem vector_setVector (v : Nat) (x : Vector) (m : Part) : Machine.vector v (setVector v x m) = x := by
  simp [Machine.vector, setVector]

@[simp] theorem vector_sendMsix (v k : Nat) (m : Part) : Machine.vector v (sendMsix k m) = Machine.vector v m := rfl

/-- An unmasked vector sends its message, and its triggers are done with. -/
theorem sendVector_sends {v : Nat} {m : Part} (open_ : (Machine.vector v m).masked = false) :
    (sendVector v m).host.messages = v :: m.host.messages ∧ (Machine.vector v (sendVector v m)).triggers = 0 := by
  unfold sendVector
  dsimp only
  rw [if_neg (by simp [open_])]
  exact ⟨rfl, by simp⟩

/-- Lifting a mask sends the message that waited for it. -/
theorem setMask_unmasks (v : Nat) (m : Part) :
    (Machine.vector v (setMask v false m)).masked = false ∧
      ((Machine.vector v m).pba = true → (setMask v false m).host.messages = v :: m.host.messages) := by
  unfold setMask
  dsimp only
  refine ⟨?_, fun pending => ?_⟩
  · split <;> simp
  · rw [if_pos (by simp [pending])]
    rfl

/-! ## The rows -/

section
variable {t v : Nat} {s : State} {m : Part} (ha : advance t s.part = m)
include ha

theorem doorbellFetch_counts {page : DoorbellPage} (enabled : m.hif.enable = true) (due : fetchDue m = true) (read : page.ok = true)
    (clean : page.dmaErrors = []) :
    ∃ u, exec (.doorbellFetch t page) s = .next u ∧ u.part.hif.fetchSeq = (m.hif.fetchSeq + 1) % 2 ^ 32 ∧
      u.part.hif.shadowHt = m.clock.ht :=
  ⟨_, run_onTick ha rfl, fetchDoorbell_counts enabled due read clean⟩

theorem hifEnable_enables (off : m.hif.enable = false) (passed : ∀ c ∈ hifChecks m, c.2 = none) :
    ∃ u, exec (.hifEnable t) s = .next u ∧ u.part.hif.enable = true ∧ u.part.hif.cfgErr = 0 :=
  ⟨_, run_onTick ha rfl, enableHif_enables off passed⟩

theorem hifDisable_disables (enabled : m.hif.enable = true) : ∃ u, exec (.hifDisable t) s = .next u ∧ u.part.hif.enable = false :=
  ⟨_, run_onTick ha (if_pos enabled), rfl⟩

theorem hifNudge_asks (enabled : m.hif.enable = true) (v : Nat) :
    ∃ u, exec (.hifNudge t v) s = .next u ∧ u.part.hif.fetchAgain = true :=
  ⟨_, run_onTick ha (if_pos enabled), rfl⟩

theorem hifLock_locks : ∃ u, exec (.hifLock t) s = .next u ∧ u.part.hif.lock = true := ⟨_, run_onTick ha rfl, rfl⟩

theorem hifQuiesced_quiesces (off : m.hif.enable = false) : ∃ u, exec (.hifQuiesced t) s = .next u ∧ u.part.hif.quiesced = true :=
  ⟨_, run_onTick ha (if_neg (by simp [off])), rfl⟩

theorem msixHoldoffExpiry_sends {e : Nat} (known : v < 64) (waits : 0 < (Machine.vector v m).triggers)
    (since : (Machine.vector v m).since = some e) (ended : e + holdoffTicks (Machine.vector v m).holdoff ≤ m.clock.elapsed)
    (open_ : (Machine.vector v m).masked = false) :
    ∃ u, exec (.msixHoldoffExpiry t v) s = .next u ∧ u.part.host.messages = v :: m.host.messages ∧
      (Machine.vector v u.part).triggers = 0 :=
  ⟨_, runIf_onTick (decide_eq_true known) ha (if_pos ⟨waits, by simp [since, ended]⟩), sendVector_sends open_⟩

theorem msixUnmask_unmasks (known : v < 64) :
    ∃ u, exec (.msixUnmask t v) s = .next u ∧ (Machine.vector v u.part).masked = false ∧
      ((Machine.vector v m).pba = true → u.part.host.messages = v :: m.host.messages) :=
  ⟨_, runIf_onTick (decide_eq_true known) ha rfl, setMask_unmasks v m⟩

end

/-! ## What a command or a row has brought about -/

/-- CHAIN_ROLLCALL is answered with the roll as it stands (R440). -/
theorem chainRollcall_answers {d : Desc} {s : State} (ex : Executes d .chainRollcall s.part) :
    ∃ u, exec (.chainRollcall d) s = .next u ∧ u.pending = s.pending ∧
      u.part = finish d .ring (opcodeOf .chainRollcall) { status := stOk, chunks := rollBody (settleRoll (readPart d s.part)) }
        (settleRoll (readPart d s.part)) :=
  ⟨_, run_answered ex (by simp) (by simp) rfl, rfl, rfl⟩

open KiteCommands PartCommands in
/-- Settles O60: one lemma for each command and row, by the part that its operations leave. -/
theorem commandsAndInterfaceRowsTakeEffect : Obligations.CommandsAndInterfaceRowsTakeEffect := by
  unfold Obligations.CommandsAndInterfaceRowsTakeEffect
  constructor
  · intro d s m
    refine ⟨fun n => ⟨fun _ _ => kiteConfig_pends, fun _ _ _ => kiteSessionOpen_opens, fun _ => kiteSessionClose_closes,
        fun _ _ _ => kiteSessionUpdate_updates, fun _ => kiteSessionFlush_flushes, fun _ _ _ _ => kiteSend_queues,
        fun _ _ _ _ => kiteBudget_sets⟩,
      fun _ => audioPortConfig_configures, fun _ => audioPortStart_waits, fun _ ex _ => audioPortStop_stops ex,
      fun _ _ _ _ => calPolicy_takes, fun _ => calRun_waits, fun _ => clockConfig_limits, fun _ _ => chainEnumerate_enumerates,
      chainRollcall_answers, fun _ _ => chainSend_waits, ?_, fwLoadActivate_resets⟩
    intro length image i
    exact fwLoadStage_stages
  · intro t s m
    have ha : advance t s.part = m := rfl
    clear_value m
    exact ⟨fun _ => doorbellFetch_counts ha, hifEnable_enables ha, hifDisable_disables ha, hifNudge_asks ha, hifLock_locks ha,
      hifQuiesced_quiesces ha, fun _ _ => msixHoldoffExpiry_sends ha, fun _ => msixUnmask_unmasks ha⟩

end Sys2Proof.InterfaceRows

/-! # Clock synthesis: the SPLL, the TSYNs and the KSYN (R72, R74-R79, R86, R90, R93)

Each row is the branch of its meaning that the state of its loop selects. The word that RELOCK and LOCKED are given is the model's choice
(log 16). -/

namespace Sys2Proof.Synthesis

open Sys2Proof Sys2Proof.Machine Sys2Proof.Safety Sys2Proof.Laws

section
variable {t : Nat} {s : State} {m : Part} (ha : advance t s.part = m)
include ha

/-! ## Windows of the SPLL (R72, R77, R79) -/

section
variable {w : RefWindow} (whole : w.complete = true) (inside : inPull w m = true)
include whole inside

/-- QUALIFY ends with a window that passes: in RELOCK once the SPLL has locked, in ACQUIRE before (R76). -/
theorem spllWindowEnd_qualify (state : m.spll.state = .qualify) :
    exec (.spllWindowEnd t w) s = .next (withPart s <| nextWindow <|
      enterSpll (if m.spll.everLocked then .relock else .acquire) (fun x => { x with
        dco := w.refPpb, ref25 := if x.refAuto ∧ effSource m = .loc then w.is25 else x.ref25
        autoRef := if x.refAuto ∧ effSource m = .loc then some w.is25 else x.autoRef }) m) := by
  refine run_onTick ha (congrArg nextWindow ?_)
  simp only [state, whole, inside, Bool.and_self, if_true]

/-- RELOCK ends with a window that passes both measurements (R77). -/
theorem spllWindowEnd_relock (state : m.spll.state = .relock) (near : compares w m = true) :
    exec (.spllWindowEnd t w) s = .next (withPart s <| nextWindow <|
      enterSpll .locked (fun x => { x with dco := w.refPpb, held := w.refPpb }) m) := by
  refine run_onTick ha (congrArg nextWindow ?_)
  simp only [state, whole, inside, near]
  rfl

/-- In LOCKED the word follows such a window, which becomes the one to hold (Table CLK-5, log 16). -/
theorem spllWindowEnd_locked (state : m.spll.state = .locked) (near : compares w m = true) :
    exec (.spllWindowEnd t w) s = .next (withPart s <| nextWindow
      { m with spll := { m.spll with dco := w.refPpb, held := w.refPpb } }) := by
  refine run_onTick ha (congrArg nextWindow ?_)
  simp only [state, whole, inside, near]
  rfl

end

/-- A window with a missing edge ends LOCKED (R78). -/
theorem spllWindowEnd_missing {w : RefWindow} (state : m.spll.state = .locked) (torn : w.complete = false) :
    exec (.spllWindowEnd t w) s = .next (withPart s <| nextWindow <| holdover lossMissing m) := by
  refine run_onTick ha (congrArg nextWindow ?_)
  simp only [state, torn]
  rfl

/-! ## Missing edges of REFIN (R78) -/

theorem refinMissingEdge_locked (state : m.spll.state = .locked) (own : effSource m ≠ .chain) :
    exec (.refinMissingEdge t) s = .next (withPart s <| holdover lossMissing m) := by
  refine run_onTick ha ?_
  rw [if_neg own, state]

theorem refinMissingEdge_acquire (state : m.spll.state = .acquire) (own : effSource m ≠ .chain) :
    exec (.refinMissingEdge t) s = .next (withPart s <| enterSpll .qualify id m) := by
  refine run_onTick ha ?_
  rw [if_neg own, state]

/-! ## Tile switches (R86, R90) -/

section
variable {k : Nat} (fitted : k < tilesFitted s.part)
include fitted

/-- A powered tile on its sample clock that loses lock goes to the cradle clock on the next tick, fenced before when this is the third
loss within 1 s. -/
theorem tsynUnlock_switches (settled : (m.tiles.getD k {}).switch = none) (powered : (m.tiles.getD k {}).railOff = false)
    (running : (m.tiles.getD k {}).inReset = false) :
    let x : Tile := m.tiles.getD k {}
    let losses := (m.clock.elapsed :: x.unlocks).filter fun u => decide (m.clock.elapsed ≤ u + ticksPerSecond)
    let stale := entryStale k x.plan m
    let m' := raise (8 + k) 0x0C [⟨0, 1, k⟩, ⟨1, 1, x.plan⟩, ⟨2, 1, if stale then 1 else 0⟩]
      (onTile k (fun x => { x with unlocks := losses, frozen := true }) m)
    exec (.tsynUnlock t k) s = .next (withPart s <|
      onNextTick (beginSwitch k (if stale then .relockSearch else .relockFast) x.plan none)
        (if 3 ≤ losses.length then fenceTile k fenceTsyn losses.length m' else m')) :=
  runIf_onTick (decide_eq_true fitted) ha (if_neg (by rw [settled, powered, running]; decide))

variable {sw : TileSwitch} (switching : (m.tiles.getD k {}).switch = some sw)
include switching

/-- A TSYN that locks returns its tile. -/
theorem tileSwitchReturn_returns (locked : sw.start + ceilDiv m.spll.nTsyn 4 < m.clock.elapsed) :
    exec (.tileSwitchReturn t k) s = .next (withPart s <| returnTile k sw m) := by
  refine runIf_onTick (decide_eq_true fitted) ha ?_
  simp only [switching, if_pos locked]

/-- A re-lock from a fresh entry that has not locked within 100 µs searches. -/
theorem tsynRelockRetry_searches (fresh : sw.kind = .relockFast) (late : sw.start + 2458 ≤ m.clock.elapsed) :
    exec (.tsynRelockRetry t k) s = .next (withPart s <|
      onTile k (fun x => { x with switch := some { sw with kind := .relockSearch } }) m) := by
  refine runIf_onTick (decide_eq_true fitted) ha ?_
  unfold onTile
  rw [modify_congr {}]
  simp only [switching, Option.map_some, if_pos (And.intro fresh late)]

end

end

/-! ## The state machines -/

/-- Settles O18: each row is the branch of its meaning that the loop's state and the time that has passed select. -/
theorem synthesizerEventsComplete : Obligations.SynthesizerEventsComplete := by
  unfold Obligations.SynthesizerEventsComplete
  intro t s m
  have ha : advance t s.part = m := rfl
  clear_value m
  refine ⟨⟨fun w whole inside => ⟨spllWindowEnd_qualify ha whole inside, spllWindowEnd_relock ha whole inside,
      spllWindowEnd_locked ha whole inside⟩, fun w => spllWindowEnd_missing ha⟩, refinMissingEdge_locked ha, fun acquiring => ?_,
    fun k => tsynUnlock_switches ha, fun k sw fitted switching => ?_, ?_⟩
  · exact ⟨refinMissingEdge_acquire ha acquiring, fun phase => run_onTick ha (if_pos ⟨acquiring, phase⟩),
      fun expired => run_onTick ha (if_pos ⟨acquiring, expired⟩)⟩
  · exact ⟨tileSwitchReturn_returns ha fitted switching, tsynRelockRetry_searches ha fitted switching⟩
  · exact ⟨fun locked => run_kiteTick ha rfl (if_pos locked),
      fun relocking passed => run_kiteTick ha rfl (if_pos (by simp [relocking, passed]))⟩

end Sys2Proof.Synthesis

/-! # The front end of a half: levellers, clips and antenna supplies (R101, R109-R111, R119, R120) -/

namespace Sys2Proof.FrontEnd

open Sys2Proof Sys2Proof.Machine Sys2Proof.Safety Sys2Proof.Laws

/-! ## Clipped samples (R119) -/

/-- What a half keeps of `n` samples that clip on a tick. -/
def noted (n ht elapsed : Nat) (x : Half) : Half := { x with
  clipSamples := satBits 32 (x.clipSamples + n)
  clipped := true
  clips := noteClip elapsed x.clips
  overloadFirst := some (x.overloadFirst.getD ht)
  overloadCount := x.overloadCount + n }

/-- A half takes note of `n` clipped samples. -/
def countClips (h n : Nat) (m : Part) : Part := onHalf h (noted n m.clock.ht m.clock.elapsed) m

/-- EV_ADC_OVERLOAD reports the samples counted since the last one, which starts the count afresh. -/
def reportClips (h : Nat) (m : Part) : Part :=
  raise (halfSource h 3) 0x83 [⟨0, 8, (half h m).overloadFirst.getD m.clock.ht⟩, ⟨8, 4, (half h m).overloadCount⟩]
    (onHalf h (fun x => { x with overloadAt := some m.clock.elapsed, overloadFirst := none, overloadCount := 0 }) m)

/-- The latest EV_ADC_OVERLOAD of the half, if there is one, lies 100 ms back: the model reports on a clip alone (log 20). -/
def mayReport (h : Nat) (m : Part) : Bool := (half h m).overloadAt.all fun a => decide (a + 2457600 ≤ m.clock.elapsed)

section
variable {h n : Nat} {m : Part}

theorem half_countClips (there : h < m.halves.length) :
    half h (countClips h n m) = noted n m.clock.ht m.clock.elapsed (half h m) :=
  getD_modified _ there

/-- Counting samples reports none. -/
theorem mayReport_countClips (there : h < m.halves.length) : mayReport h (countClips h n m) = mayReport h m := by
  rw [mayReport, half_countClips there]
  rfl

theorem reportClips_countClips (there : h < m.halves.length) :
    reportClips h (countClips h n m) =
      raise (halfSource h 3) 0x83 [⟨0, 8, (half h m).overloadFirst.getD m.clock.ht⟩, ⟨8, 4, (half h m).overloadCount + n⟩]
        (onHalf h (fun x => { x with overloadAt := some m.clock.elapsed, overloadFirst := none, overloadCount := 0 })
          (countClips h n m)) := by
  rw [reportClips, half_countClips there]
  rfl

end

/-! ## The rows -/

section
variable {t h : Nat} {s : State} {m : Part} (ha : advance t s.part = m) (fitted : h < halvesFitted s.part)
include ha fitted

theorem detectorPeriodEnd_ends {r : DetectorPeriod} (ends : m.clock.ht % 16 = 0) :
    exec (.detectorPeriodEnd t h r) s = .next (withPart s (endPeriod h r (feedHalf h r.samples m))) :=
  runIf_onTick (decide_eq_true fitted) ha (if_neg (not_not_intro ends))

/-- A band that has stood below its window for a whole dwell steps 2 dB back (R111). -/
theorem levellerDwellExpiry_announces {b : Nat} (band : b < 3) (ends : m.clock.ht % 16 = 0) (auto : (bandAt h b m).mode = .auto)
    (thawed : levFrozen h m = false) (own : sharedB h m = false) (still : (bandAt h b m).steps = [])
    (dwelt : (bandAt h b m).belowSince + 24576 * (bandAt h b m).dwell ≤ m.clock.elapsed)
    (room : (bandAt h b m).attenMin + 2 ≤ (bandAt h b m).atten) :
    exec (.levellerDwellExpiry t h b) s =
      .next (withPart s (announceStep h b ((bandAt h b m).atten - 2) (m.clock.elapsed + 16) m)) :=
  runIf_onTick (by simp [fitted, band]) ha
    (if_neg (by simp [ends, auto, thawed, own, still, Nat.not_lt.mpr dwelt, Nat.not_lt.mpr room]))

/-- On a tick of which no action is left, a landing row lands the steps whose tick has come (R58, R115). -/
theorem levellerStepLanding_lands {b : Nat} (band : b < 3) (quiet : Quiet m) :
    exec (.levellerStepLanding t h b) s = .next (withPart s (landSteps (tidyPins m))) :=
  runIf_onTick (by simp [fitted, band]) ha (congrArg landSteps (runThrough_quiet quiet))

section
variable {n : Nat} (there : h < m.halves.length) (live : isLive h m = true) (clips : n ≠ 0)
include there live clips

/-- Clipped samples of a live half are counted, and reported where a report may be made (R119). -/
theorem adcClip_counts :
    exec (.adcClip t h n) s = .next (withPart s
      (if mayReport h m then reportClips h (countClips h n m) else countClips h n m)) := by
  rw [← mayReport_countClips (n := n) there]
  exact runIf_onTick (decide_eq_true fitted) ha (if_neg (by simp [live, clips]))

/-- With no report in the last 100 ms there is one now. -/
theorem adcClip_reports (rested : ∀ a, (half h m).overloadAt = some a → a + 2457600 ≤ m.clock.elapsed) :
    exec (.adcClip t h n) s = .next (withPart s (reportClips h (countClips h n m))) := by
  have may : mayReport h m = true := (Option.all_eq_true _ _).mpr fun a reported => decide_eq_true (rested a reported)
  rw [adcClip_counts ha fitted there live clips, if_pos may]

/-- With a report in the last 100 ms there is none. -/
theorem adcClip_silent {a : Nat} (reported : (half h m).overloadAt = some a) (lately : m.clock.elapsed < a + 2457600) :
    exec (.adcClip t h n) s = .next (withPart s (countClips h n m)) := by
  have may : ¬mayReport h m = true := by
    rw [mayReport, reported, Option.all_some, decide_eq_true_iff]
    exact Nat.not_le.mpr lately
  rw [adcClip_counts ha fitted there live clips, if_neg may]

end

section
variable {current : Nat} (on : (half h m).antpwr ≠ .off)
include on

/-- An output at its current limit goes OFF (R101). -/
theorem antpwrCurrentLimit_switches :
    exec (.antpwrCurrentLimit t h current) s = .next (withPart s <| raise (halfSource h 4) 0x84 [⟨0, 2, current⟩]
      (onHalf h (fun x => { x with antpwr := .off, antCurrent := 0, antOpenRaised := false }) m)) :=
  runIf_onTick (decide_eq_true fitted) ha (if_neg on)

/-- An open output that has not been reported is (R101). -/
theorem antpwrOpen_reports (low : current < 3) (unreported : (half h m).antOpenRaised = false) :
    exec (.antpwrOpen t h current) s = .next (withPart s <| raise (halfSource h 4) 0x85 [⟨0, 2, current⟩]
      (onHalf h (fun x => { x with antCurrent := current, antOpenRaised := true }) m)) := by
  have report : current < 3 ∧ (!(half h m).antOpenRaised) = true := ⟨low, (Bool.not_eq_true' _).mpr unreported⟩
  refine runIf_onTick (decide_eq_true fitted) ha ((if_neg on).trans ((if_pos report).trans ?_))
  rw [onHalf_onHalf]

end

end

/-- Settles O19: each row is the branch that its condition selects. An overload is reported on a clip alone, never later (log 20). -/
theorem frontEndEventsComplete : Obligations.FrontEndEventsComplete := by
  unfold Obligations.FrontEndEventsComplete
  intro t h s m fitted
  have ha : advance t s.part = m := rfl
  clear_value m
  refine ⟨fun r => detectorPeriodEnd_ends ha fitted, fun b => levellerDwellExpiry_announces ha fitted,
    fun b => levellerStepLanding_lands ha fitted, fun n there live clips => ?_, fun current on => ?_⟩
  · refine ⟨fun rested => ?_, fun a => adcClip_silent ha fitted there live clips⟩
    rw [adcClip_reports ha fitted there live clips rested, reportClips_countClips there]
    rfl
  · exact ⟨antpwrCurrentLimit_switches ha fitted on, antpwrOpen_reports ha fitted on⟩

end Sys2Proof.FrontEnd

/-! # Accessory pins and the accessory bus (R123-R126, R136) -/

namespace Sys2Proof.Accessories

open Sys2Proof Sys2Proof.Machine Sys2Proof.Safety Sys2Proof.Laws

/-! ## ACC_GPIO and ACC_I2C -/

/-- A pin with the half, polarity and times of ISO_FOLLOW (Table RFI-9); polarity 1 is active low by the model's choice (log 19). -/
def isoPin (p : GpioParams) (g : Gpio) : Gpio := { g with
  function := .isoFollow, half := p.isoHalf, activeLow := decide (p.polarity = 1),
  lead := orDefault 2 512 p.muteLead, trail := orDefault 2 512 p.muteTrail, muteUntil := none }

/-- A pin as ACC_GPIO sets it. A pin that turns to IN keeps its level, by the model's choice (log 19). -/
def setPin (p : GpioParams) (m : Part) (g : Gpio) : Gpio :=
  if p.function = 0 then { g with
    function := .input, debounce := p.debounce, asserted := false, muteUntil := none
    acceptedAt := if g.function = .input then g.acceptedAt else some m.clock.elapsed }
  else if p.function = 1 then { g with function := .output, level := p.level, asserted := false, muteUntil := none }
  else (isoPin p g).drive ((isoPin p g).wanted m)

/-- A pin that passes its checks does not follow a SHARED pair. -/
theorem gpioStatus_ok {h : Nat} {p : GpioParams} {m : Part} (ok : gpioStatus h p m = stOk) :
    ¬(p.function = 2 ∧ sharedPair p.isoHalf m = true) := by
  simp only [gpioStatus, firstStatus_ok (show stBadParam ≠ stOk by decide)] at ok
  obtain ⟨-, unshared, -⟩ := ok
  rintro ⟨iso, shared⟩
  simp [iso, shared] at unshared

/-- Each function of Table RFI-9 has its branch. -/
theorem performGpio_sets {h : Nat} {p : GpioParams} {d : Desc} {o : Origin} {m : Part} (ok : gpioStatus h p m = stOk) :
    performGpio p d o m = ({ m with gpio := m.gpio.modify p.pin (setPin p m) }, reply stOk) := by
  unfold performGpio
  dsimp only
  rw [if_neg (gpioStatus_ok ok)]
  congr 3
  funext g
  unfold setPin
  split
  next input => rw [if_pos input]
  next output => rw [if_neg (by simp [output]), if_pos output]
  next notInput notOutput => rw [if_neg notInput, if_neg notOutput]; rfl

/-- Settles O3: what the checks of ACC_GPIO leave is `setPin`, and a transaction is answered when it ends. -/
theorem accessoryCommandsComplete : Obligations.AccessoryCommandsComplete := by
  unfold Obligations.AccessoryCommandsComplete
  intro d h s
  exact ⟨fun p ex => run_answered ex (by simp) (by simp) (performGpio_sets ex.passed),
    fun p ex => run_unanswered ex (by simp) (by simp) rfl⟩

/-! ## Transactions (R125) -/

/-- The transaction on the bus completes, and the bus is free. -/
theorem finishI2c_busy {j : I2cJob} {f : I2cJob → Reply} {m : Part} (busy : m.i2c.busy = some j) :
    finishI2c f m =
      finish j.desc j.origin 0x10 { f j with execHt := some j.execHt } { m with i2c := { m.i2c with busy := none } } := by
  unfold finishI2c
  rw [busy]

/-! ## The rows -/

section
variable {t : Nat} {s : State} {m : Part} (ha : advance t s.part = m)
include ha

/-- An edge of an input that has held its level for the debounce time is accepted and reported (R123, R124). -/
theorem gpioEdge_accepts {pin level : Nat} (pinThere : pin < 16) (binary : level ≤ 1) (input : (m.gpio.getD pin {}).function = .input)
    (edge : (m.gpio.getD pin {}).level ≠ level)
    (held : ∀ e, (m.gpio.getD pin {}).acceptedAt = some e → e + (m.gpio.getD pin {}).debounce < m.clock.elapsed) :
    exec (.gpioEdge t pin level) s = .next (withPart s <| raise 68 0x34 [⟨0, 1, pin⟩, ⟨1, 1, level⟩]
      { m with gpio := m.gpio.modify pin fun g => { g with level := level, acceptedAt := some m.clock.elapsed } }) := by
  refine runIf_onTick (decide_eq_true pinThere) ha (if_neg ?_)
  rintro (other | high | same | early)
  · exact other input
  · exact Nat.not_lt.mpr binary high
  · exact edge same
  · obtain ⟨e, accepted, bounced⟩ := (Option.any_eq_true _ _).mp early
    exact Nat.not_le.mpr (held e accepted) (of_decide_eq_true bounced)

/-- From MUTE_LEAD before a run the pins of the half are asserted and its contexts are in HOLD (R126, R136). -/
theorem muteLead_asserts {h : Nat} (fitted : h < halvesFitted s.part) (leads : 0 < muteLeadOf h m) :
    exec (.muteLead t h) s = .next (withPart s <| beginCalHold h
      (onCal h (fun c => { c with placed := c.placed.map fun p =>
        if p.start ≤ m.clock.elapsed + muteLeadOf h m then { p with asserted := true } else p }) (assertPins h m))) := by
  refine runIf_onTick (decide_eq_true fitted) ha (congrArg (beginCalHold h) ?_)
  simp only [leads.ne', ne_eq, not_false_eq_true, true_and]
  rfl

/-- A pin whose trail has run, and that nothing else asserts, is de-asserted (R126). -/
theorem muteTrail_releases {pin u : Nat} (pinThere : pin < 16) (trails : (m.gpio.getD pin {}).muteUntil = some u)
    (ended : u ≤ m.clock.elapsed) (unwanted : (m.gpio.getD pin {}).wanted m = false) :
    exec (.muteTrail t pin) s = .next (withPart s <|
      { m with gpio := m.gpio.modify pin fun g => { g.drive false with muteUntil := none } }) := by
  refine runIf_onTick (decide_eq_true pinThere) ha ?_
  rw [modify_congr {}]
  simp only [trails, Option.any_some, decide_eq_true ended, unwanted, if_true, Bool.false_eq_true, if_false]

theorem i2cTransactionStart_starts {j : I2cJob} {rest : List I2cJob} (free : m.i2c.busy = none) (next : m.i2c.queue = j :: rest) :
    exec (.i2cTransactionStart t) s = .next (withPart s <|
      { m with i2c := { queue := rest, busy := some { j with execHt := m.clock.ht } } }) := by
  refine run_onTick ha ?_
  simp only [free, next]

section
variable {j : I2cJob} (busy : m.i2c.busy = some j)
include busy

theorem i2cTransactionDone_refused {r : I2cResult} {i : Nat} (nack : r.nack = some i) :
    exec (.i2cTransactionDone t r) s = .next (withPart s <|
      finish j.desc j.origin 0x10 { status := stAborted, result := i, execHt := some j.execHt }
        { m with i2c := { m.i2c with busy := none } }) := by
  refine run_onTick ha ((finishI2c_busy busy).trans ?_)
  simp only [nack]

/-- Up to four bytes read stand in the completion. -/
theorem i2cTransactionDone_reads {r : I2cResult} (acked : r.nack = none) (short : j.params.rlen ≤ 4) :
    exec (.i2cTransactionDone t r) s = .next (withPart s <|
      finish j.desc j.origin 0x10 { status := stOk, result := leNat ((r.data.take j.params.rlen).take 4), execHt := some j.execHt }
        { m with i2c := { m.i2c with busy := none } }) := by
  refine run_onTick ha ((finishI2c_busy busy).trans ?_)
  simp only [acked, if_neg (Nat.not_lt.mpr short)]

theorem i2cClockHeld_aborts :
    exec (.i2cClockHeld t) s = .next (withPart s <|
      finish j.desc j.origin 0x10 { status := stAborted, execHt := some j.execHt } { m with i2c := { m.i2c with busy := none } }) :=
  run_onTick ha (finishI2c_busy busy)

end

end

/-- Settles O20: each row is the branch that its condition selects; how a transaction ends is `finishI2c_busy`. -/
theorem accessoryEventsComplete : Obligations.AccessoryEventsComplete := by
  unfold Obligations.AccessoryEventsComplete
  intro t s m
  have ha : advance t s.part = m := rfl
  clear_value m
  exact ⟨fun _ _ => gpioEdge_accepts ha, fun _ => muteLead_asserts ha, fun _ _ => muteTrail_releases ha,
    fun _ _ => i2cTransactionStart_starts ha, fun _ busy =>
      ⟨fun _ _ => i2cTransactionDone_refused ha busy, fun _ => i2cTransactionDone_reads ha busy, i2cClockHeld_aborts ha busy⟩⟩

end Sys2Proof.Accessories

/-! # Calibration runs, ramps, the estimator and the Kite run (R97, R98, R131-R144) -/

namespace Sys2Proof.Calibration

open Sys2Proof Sys2Proof.Machine Sys2Proof.Safety Sys2Proof.Laws

/-! ## Runs of a half (R133, R137) -/

/-- A placed run whose tick has come starts when nothing stands in its way. -/
theorem startPlaced_starts {h : Nat} {p : PlacedRun} {rest : List PlacedRun} {m : Part} (placed : (half h m).cal.placed = p :: rest)
    (due : p.start ≤ m.clock.elapsed) (ready : runReady p m = true) (idle : (half h m).cal.run = none) (free : tileFree h m = true) :
    startPlaced h m = startRun h p.cause p.command (onCal h (fun c => { c with placed := rest }) m) := by
  unfold startPlaced
  rw [placed]
  dsimp only
  rw [if_neg (by simp [ready, Nat.not_lt.mpr due]), if_neg (by simp [idle]), if_pos free]

/-- A ramp once it has moved by one increment, or none at its end. -/
def rampNext (r : CalRamp) : Option CalRamp :=
  if rampSteps ≤ r.done + 1 then none else some { r with done := r.done + 1, next := r.next + 256 }

/-- A ramp of which one increment is due moves by it. -/
theorem advance_one {r : CalRamp} {now : Nat} (running : r.paused = false) (due : r.next ≤ now) (single : now < r.next + 256) :
    r.advance now = rampNext r := by
  have one : (now - r.next) / 256 + 1 = 1 := by omega
  unfold CalRamp.advance
  rw [if_neg (by simp [running, Nat.not_lt.mpr due]), one]
  rfl

/-! ## The Kite run (R144) -/

/-- With no frame decided, none is returned. -/
theorem returnTxs_none {p : KiteTx → Bool} {m : Part} (empty : m.kite.txs = []) : returnTxs p m = m := by
  unfold returnTxs
  rw [empty]
  rfl

/-- The run of a CAL_RUN starts on a transmitter that neither sends nor hops. -/
theorem runKite_command {m : Part} (idle : m.kiteCal.running = none) (still : m.kite.txs = []) (settled : m.kite.hopAt = none)
    (asked : m.kiteCal.command.isSome = true) : runKite m = startKiteRun .command m := by
  unfold runKite
  rw [if_neg (by simp [idle]), if_pos asked]
  dsimp only
  rw [returnFrames, returnTxs_none still, if_neg (by simp [settled, still])]

/-! ## The rows -/

section
variable {t : Nat} {s : State} {m : Part} (ha : advance t s.part = m)
include ha

section
variable {h : Nat} (fitted : h < halvesFitted s.part)
include fitted

/-- A reading below the critical threshold is judged for a run that is due (R131). -/
theorem tempSensorRead_judges {reading : Int} (up : m.power.railsUp = true)
    (cool : ((readSensor h reading m).power.sensors.getD h {}).level ≠ .critical) :
    exec (.tempSensorRead t h reading) s = .next (withPart s (judgeDue h (readSensor h reading m))) := by
  have notGondola : h ≠ 16 := (fitted.trans_le (halvesFitted_le _)).ne
  refine runIf_onTick (decide_eq_true (.inl fitted)) ha ?_
  rw [if_neg (by simp [up]), if_neg notGondola, if_neg (mt of_decide_eq_true cool)]

/-- On a tick of which no action is left, a placed run that is due starts. -/
theorem calRunStart_starts {p : PlacedRun} {rest : List PlacedRun} (quiet : Quiet m)
    (placed : (half h (tidyPins m)).cal.placed = p :: rest) (due : p.start ≤ (tidyPins m).clock.elapsed)
    (ready : runReady p (tidyPins m) = true) (idle : (half h (tidyPins m)).cal.run = none) (free : tileFree h (tidyPins m) = true) :
    exec (.calRunStart t h) s = .next (withPart s <|
      startRun h p.cause p.command (onCal h (fun c => { c with placed := rest }) (tidyPins m))) := by
  refine runIf_onTick (decide_eq_true fitted) ha ?_
  rw [runThrough_quiet quiet, startPlaced_starts placed due ready idle free]

section
variable {r : CalRunning} (runs : (half h m).cal.run = some r)
include runs

/-- A phase ends on its tick (Table CAL-4); the switch closes when the reconnect phase begins (R135). -/
theorem calPhaseEnd_enters {ph : CalPhase} {off : Nat} (phase : nextPhase r.phase = some (ph, off))
    (ended : r.start + r.pass * runTicks + off ≤ m.clock.elapsed) :
    exec (.calPhaseEnd t h) s = .next (withPart s <|
      if ph = .reconnect then closeIso h (setPhase h r.pass ph m) else setPhase h r.pass ph m) := by
  refine runIf_onTick (decide_eq_true fitted) ha ?_
  rw [half] at runs
  simp only [runs, phase, if_neg (Nat.not_lt.mpr ended)]

theorem calRunEnd_ends {result : CalResult} (ended : runOver h m = true) :
    exec (.calRunEnd t h result) s = .next (withPart s (endRun h result.residual r m)) := by
  refine runIf_onTick (decide_eq_true fitted) ha ?_
  rw [half] at runs
  simp only [runs, if_pos ended]

end

section
variable {r : CalRamp} (running : r.paused = false) (due : r.next ≤ m.clock.elapsed) (single : m.clock.elapsed < r.next + 256)
include running due single

/-- The last increment of a run's ramp leaves the new correction (R137). -/
theorem calRampIncrement_run (ramps : (half h m).cal.ramp = some r) (alone : (half h m).cal.fineRamp = none) :
    exec (.calRampIncrement t h) s = .next (withPart s <|
      onCal h (fun c => { c with
        ramp := rampNext r, corr := if (rampNext r).isNone then c.corrNew else c.corr
        ended := if (rampNext r).isNone then some (c.corr, r.next + (rampSteps - r.done - 1) * 256) else c.ended }) m) := by
  refine runIf_onTick (decide_eq_true fitted) ha (onHalf_congr ?_)
  simp [ramps, alone, advance_one running due single]

/-- The last increment of the estimator's ramp leaves the new excursions (R139). -/
theorem calRampIncrement_fine (ramps : (half h m).cal.fineRamp = some r) (alone : (half h m).cal.ramp = none) :
    exec (.calRampIncrement t h) s = .next (withPart s <|
      onCal h (fun c => { c with
        fineRamp := rampNext r, fine := if (rampNext r).isNone then c.fineNew else c.fine }) m) := by
  refine runIf_onTick (decide_eq_true fitted) ha (onHalf_congr ?_)
  simp [ramps, alone, advance_one running due single]

end

theorem bgConverged_refines {e : BgEstimate} (same : e.half = h) (live : isLive h m = true) (works : bgPaused h m = false)
    (free : (half h m).cal.bg ≠ .held) :
    exec (.bgConverged t e) s = .next (withPart s <|
      onHalf h (fun x => { x with restored := false, cal := refine e m.clock.elapsed x.cal }) m) := by
  subst same
  refine runIf_onTick (decide_eq_true fitted) ha (if_pos ?_)
  rw [Bool.and_eq_true, Bool.and_eq_true, Bool.not_eq_true']
  exact ⟨⟨live, works⟩, decide_eq_true free⟩

/-- An estimator that has not converged within 3.6 s is held (R140). -/
theorem bgHeld_holds (runs : isLive h m = true ∨ (half h m).restored = true) (converging : (half h m).cal.bg = .converging)
    (late : (half h m).cal.bgSince + 88473600 ≤ m.clock.elapsed) :
    exec (.bgHeld t h) s = .next (withPart s <|
      onHalf h (fun x => { x with restored := false, cal := { x.cal with bg := .held } }) m) := by
  refine runIf_onTick (decide_eq_true fitted) ha (if_pos ?_)
  rw [Bool.and_eq_true, Bool.and_eq_true, Bool.or_eq_true]
  exact ⟨⟨runs, decide_eq_true converging⟩, decide_eq_true late⟩

end

/-- On a tick of which no action is left, the run of a CAL_RUN starts on a silent transmitter. -/
theorem kiteCalRun_starts (quiet : Quiet m) (idle : (settleTx (tidyPins m)).kiteCal.running = none)
    (still : (settleTx (tidyPins m)).kite.txs = []) (settled : (settleTx (tidyPins m)).kite.hopAt = none)
    (asked : (settleTx (tidyPins m)).kiteCal.command.isSome = true) :
    exec (.kiteCalRun t) s = .next (withPart s (startKiteRun .command (settleTx (tidyPins m)))) := by
  refine run_onTick ha ?_
  rw [runThrough_quiet quiet, runKite_command idle still settled asked]

/-- A run that no CAL_RUN has asked for ends with its record and its event alone (R144). -/
theorem kiteCalDone_ends {k : Part} (hk : settleTx m = k) {e : Nat} {image leakage : Int} (runs : k.kiteCal.running = some e)
    (ended : e + 9830 ≤ k.clock.elapsed) (own : k.kiteCal.runCause ≠ .command) :
    exec (.kiteCalDone t image leakage) s = .next (withPart s <| settleTx <|
      raise 208 0x63 [⟨0, 2, image⟩, ⟨2, 2, leakage⟩, ⟨4, 4, satBits 32 (k.kiteCal.count + 1)⟩]
        { k with
          free := k.free + 1
          kiteCal := { k.kiteCal with
            running := none, count := satBits 32 (k.kiteCal.count + 1), lastHt := k.kiteCal.startHt
            lastT := gondolaTemp k, image := image, leakage := leakage, cause := k.kiteCal.runCause, corrNew := k.free } }) := by
  refine run_kiteTick ha hk ?_
  simp only [runs, if_neg (Nat.not_lt.mpr ended), if_neg own]
  rfl

end

/-- Settles O21: each row is the branch that its condition selects; a ramp's increment is `advance_one`, and the start of a run
`startPlaced_starts` or `runKite_command`. -/
theorem calibrationEventsComplete : Obligations.CalibrationEventsComplete := by
  unfold Obligations.CalibrationEventsComplete
  intro t s m
  have ha : advance t s.part = m := rfl
  clear_value m
  refine ⟨fun _ _ fitted => tempSensorRead_judges ha fitted, fun _ _ _ fitted => calRunStart_starts ha fitted,
    fun _ _ _ _ fitted runs => calPhaseEnd_enters ha fitted runs, fun _ _ _ fitted runs => calRunEnd_ends ha fitted runs,
    fun _ _ fitted running due single => ?_, fun _ fitted => ?_, kiteCalRun_starts ha, fun _ _ _ => kiteCalDone_ends ha rfl⟩
  · exact ⟨calRampIncrement_run ha fitted running due single, calRampIncrement_fine ha fitted running due single⟩
  · exact ⟨fun _ => bgConverged_refines ha fitted, bgHeld_holds ha fitted⟩

end Sys2Proof.Calibration

/-! # What the spec gives for reset (R100, R123, R349, R472, R482) -/

namespace Sys2Proof.ResetState

open Sys2Proof Sys2Proof.Machine Sys2Proof.Safety Sys2Proof.Laws

/-- Where no source has a route of its own, each has the default route (R349). -/
theorem route_default {m : Part} (empty : m.hif.routes = []) (n : Nat) : route n m = {} := by
  rw [route, empty]
  rfl

/-- Settles O50: the pins and the halves of reset are copies of one value, and no source has a route of its own. -/
theorem resetValues : Obligations.ResetValues := by
  unfold Obligations.ResetValues
  refine ⟨rfl, fun g isPin => ?_, fun x isHalf => ?_, route_default rfl, rfl, rfl, rfl, rfl, rfl, rfl⟩
  · rw [List.eq_of_mem_replicate isPin]
  · rw [List.eq_of_mem_replicate isHalf]

end Sys2Proof.ResetState

/-! # The audio port and calibration commands (R131-R134, R403, R408, R409) -/

namespace Sys2Proof.PortCommands

open Sys2Proof Sys2Proof.Machine Sys2Proof.Safety Sys2Proof.Laws

section
variable {d : Desc} {s : State}

/-- The first data frame of a start at once lies at the first tick of its lead on the port's grid (R408). -/
theorem audioPortStart_queues {p : Nat} (ex : Executes d (.audioPortStart p) s.part)
    (room : (readPart d s.part).sched.queue.length < 1024) :
    exec (.audioPortStart d p) s = .next { s with
      part := enqueue (portTick (.audioPortStart p)
        ((readPart d s.part).clock.ht + leadOf (.audioPortStart p) (readPart d s.part)) (readPart d s.part))
        false d .ring (.audioPortStart p) (readPart d s.part) } :=
  PartCommands.run_to (accept_portStart ex room)

/-- The halves take their policy in turn, and each is judged as it takes it (R131, R132). -/
theorem calPolicy_sets {h auto deltaT : Nat} {ws : List CalWindow} (ex : Executes d (.calPolicy h auto deltaT ws) s.part) :
    exec (.calPolicy d h auto deltaT ws) s = .next (answered d (.calPolicy h auto deltaT ws) { status := stOk }
      ((calHalves h (readPart d s.part)).foldl (PartCommands.takePolicy (PartCommands.setPolicy auto deltaT ws)) (readPart d s.part)) s) :=
  run_answered ex (by simp) (by simp) (PartCommands.performCalPolicy_eq ..)

/-- A CAL_RUN waits in the queue, and its runs are fixed among those queued from its own order on (R133, R134). -/
theorem calRun_fixes {h : Nat} (ex : Executes d (.calRun h) s.part) (room : (readPart d s.part).sched.queue.length < 1024) :
    exec (.calRun d h) s = .next { s with
      part := fixAccepted s.part.sched.nextOrder
        (enqueue ((readPart d s.part).clock.ht + 2048) false d .ring (.calRun h) (readPart d s.part)) } :=
  PartCommands.run_to (f := fun m => fixAccepted m.sched.nextOrder (accept d _ _ (fun _ _ m => (m, none)) m))
    (congrArg (fixAccepted _) (accept_calRun ex room))

end

/-- Settles O11: CONFIG, STOP and CAL_POLICY are performed and answered; START and CAL_RUN take the queue entry of their lead. -/
theorem audioAndCalibrationCommandsComplete : Obligations.AudioAndCalibrationCommandsComplete := by
  unfold Obligations.AudioAndCalibrationCommandsComplete
  intro d s
  exact ⟨fun p ex => run_answered ex (by simp) (by simp) rfl, fun p => audioPortStart_queues,
    fun p ex => run_answered ex (by simp) (by simp) rfl, fun h auto deltaT ws => calPolicy_sets, fun h => calRun_fixes⟩

end Sys2Proof.PortCommands

/-! # The channelizer's commands: coefficients, fades and sync groups (R156-R164) -/

namespace Sys2Proof.Channelizer

open Sys2Proof Sys2Proof.Machine Sys2Proof.Safety Sys2Proof.Laws

/-! ## Fades (R158, R159) -/

/-- A change of a context is read back, with what its chains have noted of it. -/
theorem ctx_onCtx (c : Nat) (f : Ctx → Ctx) (m : Part) :
    ctx c (onCtx c f m) = (ctx c m).map fun x => Ctx.notePath m.clock.elapsed x (f x) := by
  simp only [ctx, onCtx, KiteCommands.look_change_same]

section
variable {c : Nat} {x : Ctx} {f : Fade} {m : Part} (found : ctx c m = some x)
include found

/-- A context whose fade is ended is open, and fades no more. -/
theorem endFade_over (stamp : Nat) : ∃ y, ctx c (endFade c stamp m) = some y ∧ y.chain.fade = none := by
  have read : ctx c (endFade c stamp m) = ctx c (onCtx c (fun x => { x with chain := { x.chain with fade := none } }) m) := by
    simp only [ctx, endFade, raiseAt_ctxs]
  rw [read, ctx_onCtx, found]
  exact ⟨_, rfl, rfl⟩

/-- A fade that has not reached its last output runs on. -/
theorem settleFade_running (fading : x.chain.fade = some f) (running : m.clock.elapsed < fadeEnd x f) : settleFade c m = m := by
  unfold settleFade
  simp only [found, fading, if_neg (Nat.not_le.mpr running)]

end

/-! ## COEF_LOAD and COEF_SWAP (R157-R161) -/

section
variable {c : Nat} {x : Ctx} {m : Part} {d : Desc} {o : Origin} (found : ctx c (settleFade c m) = some x)
include found

/-- While a fade runs both banks are in use, and neither takes words. -/
theorem performCoefLoad_busy {count scale : Nat} {words : List Nat} (fading : x.chain.fade.isSome = true) :
    performCoefLoad c count scale words d o m = (settleFade c m, reply stCoefBusy) := by
  unfold performCoefLoad
  simp only [found, if_pos fading]

/-- While a fade runs both banks are in use, and no other fade begins. -/
theorem performCoefSwap_busy {xfade : Nat} (fading : x.chain.fade.isSome = true) :
    performCoefSwap c xfade d o m = (settleFade c m, reply stCoefBusy) := by
  unfold performCoefSwap
  simp only [found, if_pos fading]

/-- With no fade running, as many words as the context's filter has taps go into the inactive bank. -/
theorem performCoefLoad_loads {count scale : Nat} {words : List Nat} (still : ¬x.chain.fade.isSome = true)
    (fits : tapsOf c x.cfg.type (settleFade c m) = count) :
    performCoefLoad c count scale words d o m =
      (onCtx c (fun y => { y with chain :=
          if y.chain.active1 then { y.chain with bank0 := { words := some words, scale := scale } }
          else { y.chain with bank1 := { words := some words, scale := scale } } }) (settleFade c m),
        some { status := stOk, result := Config.crc32 words }) := by
  unfold performCoefLoad
  simp only [found, if_neg still, fits, ne_eq, not_true_eq_false, if_false]

/-- With no fade running the inactive bank becomes the active one. -/
theorem performCoefSwap_swaps {xfade : Nat} (still : ¬x.chain.fade.isSome = true) :
    performCoefSwap c xfade d o m =
      (onCtx c (fun y => { y with chain := { y.chain with
          active1 := !y.chain.active1
          fade := if xfade = 0 then none
            else some { len := xfade, first := gridAt (family x.cfg.type).k (settleFade c m).clock.elapsed (settleFade c m) } } })
          (settleFade c m),
        reply stOk) := by
  unfold performCoefSwap
  simp only [found, if_neg still]

end

/-! ## Sync groups (R162, R163) -/

/-- An open context joins a group, or leaves its group. -/
theorem performGroup_open {c : Nat} {g : Option Nat} {d : Desc} {o : Origin} {m : Part} (there : (ctx c m).isSome = true) :
    performGroup c g d o m = (onCtx c (fun x => { x with group := g }) m, reply stOk) :=
  if_neg (by simpa using Option.isSome_iff_ne_none.mp there)

/-! ## The obligations -/

/-- Settles O6: of the coefficient commands each is busy or takes effect as a fade runs or not; JOIN and LEAVE find their context open. RESET,
ARM_SYNCIN and DISARM have no condition left to meet when they execute. -/
theorem filterCommandsComplete : Obligations.FilterCommandsComplete := by
  unfold Obligations.FilterCommandsComplete
  intro d s
  refine ⟨fun k count scale words x ex found fits => ?load, fun k xfade x ex found => ?swap,
    fun g k ex there => run_answered ex (by simp) (by simp) (performGroup_open there),
    fun k ex there => run_answered ex (by simp) (by simp) (performGroup_open there),
    fun g syncout phase ex => run_answered ex (by simp) (by simp) rfl,
    fun g every syncout phase ex => run_answered ex (by simp) (by simp) rfl,
    fun g ex => run_answered ex (by simp) (by simp) rfl⟩
  case load =>
    split
    next fading => exact run_answered ex (by simp) (by simp) (performCoefLoad_busy found fading)
    next still => exact run_answered ex (by simp) (by simp) (performCoefLoad_loads found still fits)
  case swap =>
    split
    next fading => exact run_answered ex (by simp) (by simp) (performCoefSwap_busy found fading)
    next still => exact run_answered ex (by simp) (by simp) (performCoefSwap_swaps found still)

/-- Settles O58: before its last output the fade is still there when the command looks at it; from that output on it is ended first. -/
theorem fadesRefuseCoefficients : Obligations.FadesRefuseCoefficients := by
  unfold Obligations.FadesRefuseCoefficients
  intro order d o c m x f found fading
  refine ⟨fun running => ?_, fun ended xfade => ?_⟩
  · have same : settleFade c m = m := settleFade_running found fading running
    have looked : ctx c (settleFade c m) = some x := same.symm ▸ found
    have busy : x.chain.fade.isSome = true := Option.isSome_of_mem fading
    have answer : (m, some { status := stCoefBusy }) = (settleFade c m, reply stCoefBusy) := by rw [same, reply]
    rw [answer]
    exact ⟨fun _ _ _ => performCoefLoad_busy (d := d) (o := o) looked busy,
      fun _ => performCoefSwap_busy (d := d) (o := o) looked busy⟩
  · obtain ⟨y, settled, idle⟩ := endFade_over found (htOf (fadeEnd x f) m)
    rw [← Blocks.settleFade_ended found fading ended] at settled
    exact ⟨_, performCoefSwap_swaps (d := d) (o := o) settled (by simp [idle])⟩

end Sys2Proof.Channelizer

/-! # Contexts: their commands, their life cycle and their quality windows (R168-R181, R187) -/

namespace Sys2Proof.Contexts

open Sys2Proof Sys2Proof.Machine Sys2Proof.Safety Sys2Proof.Laws

/-! ## The commands of a slot (Table CTX-2) -/

/-- An open context holds its slot. -/
theorem ctx_of_not_slotHeld {c : Nat} {m : Part} (free : slotHeld c m = false) : ctx c m = none := by
  by_contra open_
  have held : c ∈ heldSlots m := by
    simp only [heldSlots, List.mem_dedup, List.mem_append]
    exact .inl (.inl (.inl (Fencing.mem_of_look_some open_)))
  simp [slotHeld, held] at free

/-- CTX_OPEN or CTX_WATCH that passes its checks names a slot of a half that is not fenced, with no context in it. -/
theorem openStatus_ok {watch : Bool} {p : CtxParams} {m : Part} (ok : openStatus watch p m = stOk) :
    slotFenced p.ctx m = false ∧ ctx p.ctx m = none := by
  simp only [openStatus, firstStatus_ok (show stBadParam ≠ stOk by decide), firstStatus_ok (show stFenced ≠ stOk by decide),
    firstStatus_ok (show stNoCapacity ≠ stOk by decide), firstStatus_ok (show stBusy ≠ stOk by decide), Bool.or_eq_false_iff] at ok
  obtain ⟨-, unfenced, -, -, ⟨free, -⟩, -⟩ := ok
  exact ⟨unfenced, ctx_of_not_slotHeld free⟩

section
variable {m : Part} {d : Desc} {o : Origin}

/-- An open that passes its checks opens the context and answers the free load units of its half (R171, R334). -/
theorem performOpen_passed {watch : Bool} {p : CtxParams} (ok : openStatus watch p m = stOk) :
    performOpen watch p d o m = (openCtx p.ctx (decodeCtx watch p) m,
      some { status := stOk, result := freeLu (ctxHalf p.ctx) (openCtx p.ctx (decodeCtx watch p) m) }) := by
  obtain ⟨unfenced, free⟩ := openStatus_ok ok
  unfold performOpen
  simp [unfenced, free]

/-- A retune of a slot with no context says so (R173). -/
theorem performRetune_closed {p : CtxParams} (closed : (ctx p.ctx m).isNone = true) :
    performRetune p d o m = (m, reply (noCtx p.ctx m)) := if_pos closed

/-- A DAB context keeps its parameters when more is selected in it than its new reserve admits (R170). -/
theorem performRetune_short {p : CtxParams} (open_ : ¬(ctx p.ctx m).isNone = true)
    (short : (ctx p.ctx m).any (fun x => decide (x.cfg.type = 7 ∧ p.type = 7 ∧ (decodeCtx false p).reserve < x.sels.length)) = true) :
    performRetune p d o m = (m, reply stNoCapacity) := (if_neg open_).trans (if_pos short)

/-- Any other open context is retuned, and the free load units of its half are answered (R173, R334). -/
theorem performRetune_fits {p : CtxParams} (open_ : ¬(ctx p.ctx m).isNone = true)
    (fits : ¬(ctx p.ctx m).any (fun x => decide (x.cfg.type = 7 ∧ p.type = 7 ∧ (decodeCtx false p).reserve < x.sels.length)) = true) :
    performRetune p d o m = (retuneCtx p.ctx causeCommand (decodeCtx false p) m, some {
      status := stOk, result := freeLu (ctxHalf p.ctx) (retuneCtx p.ctx causeCommand (decodeCtx false p) m) }) :=
  (if_neg open_).trans (if_neg fits)

/-- A slot with a context, or held by an open that has not executed, is closed (R57, R171). -/
theorem performClose_held {c : Nat}
    (held : (ctx c m).isSome = true ∨ (m.sched.queue.any fun a => isOpen a.cmd && (ctxsOf a.cmd).contains c) = true) :
    performClose c d o m = (closeNow c m, reply stOk) := if_pos held

/-- A query of an open context changes nothing and answers its sections (R175, R336); how their fields are packed is log 23. -/
theorem performQuery_open {c : Nat} {x : Ctx} (open_ : ctx c m = some x) : performQuery c d o m =
    (m, some { status := stOk, chunks := [contextSection c x m] ++ qualitySection c x ++
      [frontSection c m, if digitalType x.cfg.type then digitalSection x else analogueSection x] }) := by
  simp only [performQuery, open_]

/-- A query of a slot with no context says so. -/
theorem performQuery_none {c : Nat} (closed : ctx c m = none) : performQuery c d o m = (m, reply (noCtx c m)) := by
  simp only [performQuery, closed]

end

/-- Settles O5: an open's checks exclude the two conditions under which it would be refused when it executes; a retune keeps its own two. -/
theorem contextCommandsComplete : Obligations.ContextCommandsComplete := by
  unfold Obligations.ContextCommandsComplete
  intro d s
  refine ⟨fun p ex => run_answered ex (by simp) (by simp) (performOpen_passed ex.passed),
    fun p ex => run_answered ex (by simp) (by simp) (performOpen_passed ex.passed), fun p ex => ?retune,
    fun k ex held => run_answered ex (by simp) (by simp) (performClose_held held),
    fun k x ex open_ => run_answered ex (by simp) (by simp) (performQuery_open open_),
    fun k ex closed => run_answered ex (by simp) (by simp) (performQuery_none closed)⟩
  case retune =>
    split
    next closed => exact run_answered ex (by simp) (by simp) (performRetune_closed closed)
    next open_ =>
      split
      next short => exact run_answered ex (by simp) (by simp) (performRetune_short open_ short)
      next fits => exact run_answered ex (by simp) (by simp) (performRetune_fits open_ fits)

/-! ## The life cycle (Table CTX-4) -/

/-- A row whose conditions all hold makes its move. -/
theorem run_met {t : Nat} {s : State} {b : Part → Bool} {f : Part → Part} (met : b (advance t s.part) = true) :
    s.run (onTick t fun m => if b m then f m else m) = .next (withPart s (f (advance t s.part))) :=
  run_onTick rfl (if_pos met)

/-- Settles O22: each transition is guarded by the state that the copy leaves and by its criterion or its timeout, and a quality window ends
whenever its row comes. -/
theorem lifeCycleEventsComplete : Obligations.LifeCycleEventsComplete := by
  unfold Obligations.LifeCycleEventsComplete
  intro t c k s m type
  refine ⟨?presence, fun acquiring => ⟨?detection, fun late => ?_⟩, fun detected => ⟨fun confirmed => ?_, fun late => ?_⟩,
    fun tracking lost => ?_, fun losing => ⟨fun confirmed => ?_, fun late => ?_⟩, fun h fitted => ?_, fun q => run_onTick rfl rfl⟩
  case presence =>
    rintro test rfl searching passed enough dip
    exact run_met (Bool.and_eq_true_iff.mpr ⟨Bool.and_eq_true_iff.mpr ⟨Bool.and_eq_true_iff.mpr ⟨searching, passed⟩, enough⟩, dip⟩)
  case detection =>
    rintro d rfl met
    exact run_met (Bool.and_eq_true_iff.mpr ⟨acquiring, met⟩)
  · exact run_met (Bool.and_eq_true_iff.mpr ⟨acquiring, late⟩)
  · exact run_met (Bool.and_eq_true_iff.mpr ⟨Bool.or_eq_true_iff.mpr (.inl detected), confirmed⟩)
  · exact run_met (Bool.and_eq_true_iff.mpr ⟨detected, late⟩)
  · exact run_met (Bool.and_eq_true_iff.mpr ⟨tracking, lost⟩)
  · exact run_met (Bool.and_eq_true_iff.mpr ⟨Bool.or_eq_true_iff.mpr (.inr losing), confirmed⟩)
  · exact run_met (Bool.and_eq_true_iff.mpr ⟨losing, late⟩)
  · exact runIf_onTick (decide_eq_true fitted) rfl rfl

end Sys2Proof.Contexts

/-! # DAB and DRM: frames, superframes, deadlines, reconfigurations, the pool and MOT objects (R194, R240-R255, R264, R283, R308) -/

namespace Sys2Proof.DigitalRows

open Sys2Proof Sys2Proof.Machine Sys2Proof.Safety Sys2Proof.Laws

/-- An object that is dropped is no longer among those being received (R308). -/
theorem sameMot_of_mem_dropMot {c sel tid : Nat} {m : Part} {o : MotObject} (kept : o ∈ (dropMot c sel tid m).service.mots) :
    sameMot c sel tid o = false := by
  have left : (dropMot c sel tid m).service.mots = m.service.mots.filter fun o => !sameMot c sel tid o := rfl
  rw [left, List.mem_filter] at kept
  simpa using kept.2

/-- Settles O24: each row's guard holds, so the row is its operations in their order. The guards are, for a frame, the context's type, its
running frames and for DRM its mode; for a selection's row, that the selection is found and its frame is due; for the pool, its figures; for
an object, its last segment. Raw data in the selection, which rows move a context and the pool's intervals are logs 30, 31 and 34. -/
theorem digitalEventsComplete : Obligations.DigitalEventsComplete := by
  unfold Obligations.DigitalEventsComplete
  intro t c x s m now found
  have ha : advance t s.part = m := rfl
  have open_ : ctx c m = some x := found
  refine ⟨fun f dab runs => ?dab, ?drm, fun sel y missing => ?absent,
    ⟨fun sel y f fed ends => ?superframe, fun sel y f fed due => ?layer2⟩, ?deadline, fun r runs => ?reconf,
    fun h fitted => ⟨fun clear judged short => ?saturated, fun saturated past => ?clear⟩, fun sel id overdue => ?object⟩
  case dab =>
    refine run_onTick ha ?_
    unfold dabFrame
    rw [open_]
    exact if_neg (by simp [dab, runs])
  case drm =>
    intro f' drm runs f fits
    refine run_onTick ha ?_
    unfold drmFrame
    rw [open_]
    refine if_neg fun refused => ?_
    rcases refused with other | still | unfit
    · exact drm.elim other.1 other.2
    · simp [runs] at still
    · exact absurd fits (by simpa using unfit)
  case absent =>
    refine run_onTick ha ?_
    simp only [found, missing]
  case superframe =>
    refine run_onTick ha ?_
    simp only [fed, ends, Bool.not_true, Bool.false_eq_true, if_false]
  case layer2 =>
    refine run_onTick ha ?_
    simp only [fed, due, Bool.not_true, Bool.false_eq_true, if_false]
  case deadline =>
    intro k sel b z y r waiting running selected
    have settled : settlePair c (runPools m) = k := rfl
    clear_value k
    refine run_onTick ha ?_
    unfold blockDeadline
    simp only [settled, waiting, running, Option.bind_some, selected]
  case reconf =>
    refine run_onTick ha ?_
    rw [found]
    exact if_neg (by simp [runs])
  case saturated =>
    refine runIf_onTick (decide_eq_true fitted) ha (if_pos (Bool.and_eq_true_iff.mpr ⟨Bool.and_eq_true_iff.mpr ⟨?_, ?_⟩, ?_⟩))
    · exact congrArg not clear
    · exact decide_eq_true judged
    · exact decide_eq_true short
  case clear =>
    exact runIf_onTick (decide_eq_true fitted) ha (if_pos (Bool.and_eq_true_iff.mpr ⟨saturated, decide_eq_true past⟩))
  case object => exact ⟨run_onTick ha (if_pos overdue), fun o => sameMot_of_mem_dropMot⟩

end Sys2Proof.DigitalRows

/-! # Source sets, following, scans and ageing (R277-R282, R287, R290, R291, R296, R308) -/

namespace Sys2Proof.ServiceRows

open Sys2Proof Sys2Proof.Machine Sys2Proof.Laws

/-- What a row does to a member, it does to the one that it names. -/
theorem withMember_found {n c sel i : Nat} {g : SourceSet} {y : Member} {f : Nat → SourceSet → Member → Part → Part} {m : Part}
    (found : sourceSet n m = some g) (place : memberIdx g c sel = some i) (member : g.members[i]? = some y) :
    withMember n c sel f m = f i g y m := by
  simp only [withMember, found, place, member]

/-- Following acts in the Context or the Close class, so nothing of it is left after the Close class (R54). -/
theorem followClass_le (a : FollowDue) : followClass a ≤ 6 := by
  unfold followClass
  split <;> decide

/-- A test that only the head of a list passes takes the head and leaves the tail. -/
theorem filter_head_only {α : Type} {p : α → Bool} {a : α} {l : List α} (head : p a = true) (tail : ∀ b ∈ l, p b = false) :
    (a :: l).filter p = [a] ∧ (a :: l).filter (fun b => !p b) = l := by
  constructor
  · rw [List.filter_cons_of_pos head, List.filter_eq_nil_iff.mpr fun b hb => by simp [tail b hb]]
  · rw [List.filter_cons_of_neg (by simp [head]), List.filter_eq_self.mpr fun b hb => by simp [tail b hb]]

/-- Settles O25: a window, a unit or 30 s in SEEK act on the member that `withMember_found` gives; a blend, an evaluation and an object's
timeout are the branch that their condition selects; following's one due action is `runThrough_follow`; the one dwell that ends and the one
entry that has aged are taken out by their filters. The number of a branch in the blend's event is log 33; services age by R287 and MOT
objects by R308. -/
theorem serviceEventsComplete : Obligations.ServiceEventsComplete := by
  unfold Obligations.ServiceEventsComplete
  intro t s m
  have ha : advance t s.part = m := rfl
  clear_value m
  refine ⟨fun n c sel g i y found place member => ⟨?window, ?unit, fun seeking unreported past => ?noMatch⟩, fun n g b found blends => ?blend,
    fun tenth => run_onTick ha (if_pos tenth), ?action, ?dwell, ?aged, fun c sel id overdue => run_onTick ha (if_pos overdue)⟩
  case window =>
    intro w second valid audio fit reference
    refine run_onTick ha ?_
    rw [if_pos second]
    unfold matchWindow
    rw [withMember_found found place member]
    exact if_neg (by simp [valid, audio, fit, reference])
  case unit =>
    intro u units k
    refine run_onTick ha ?_
    unfold unitMatch
    rw [withMember_found found place member, if_neg (by simp [units])]
    cases y.state with
    | idle => rfl
    | seek =>
      simp only [Bool.not_eq_true']
      rfl
    | verify =>
      simp only [Bool.not_eq_true']
      rfl
    | joined => rfl
  case noMatch =>
    refine run_onTick ha ?_
    rw [withMember_found found place member]
    exact if_pos ⟨seeking, congrArg not unreported, past⟩
  case blend =>
    refine run_onTick ha ?_
    simp only [found, blends]
  case action =>
    intro a rest actions due ready later queue resets m' quiet
    exact run_onTick ha (runThrough_follow queue resets actions due ready later (followClass_le a) quiet)
  case dwell =>
    intro r rest scans ended later
    refine run_onTick ha ?_
    obtain ⟨ends, stay⟩ := filter_head_only (p := fun r : ScanRun => decide (r.dwellEnd ≤ m.clock.elapsed)) (decide_eq_true ended)
      fun b hb => decide_eq_false (Nat.not_le.mpr (later b hb))
    simp only [scans, ends, stay, List.foldl_cons, List.foldl_nil]
  case aged =>
    intro e services old unkeyed freqs links
    refine run_onTick ha ?_
    simp only [onDb, services, freqs, links, List.filter_cons, List.filter_nil, old, unkeyed]
    rfl

end Sys2Proof.ServiceRows

/-! # Commands of service following: the database's dump and the scan (R290, R291, R293, R302) -/

namespace Sys2Proof.FollowCommands

open Sys2Proof Sys2Proof.Machine Sys2Proof.Safety Sys2Proof.Laws

/-- Items of the database one after the other, for the entries of a list, touch records only. -/
theorem foldl_dbItem_records {α : Type} (body : α → SideBody) (l : List α) (m : Part) :
    RecordsOnly m (l.foldl (fun m e => dbItem (body e) m) m) := by
  induction l generalizing m with
  | nil => exact .refl m
  | cons e l ih => exact (dbItem_records (body e) m).trans (ih _)

section
variable {d : Desc} {o : Origin} {m : Part}

/-- A dump writes the entries that stood in the database when it began: what it writes changes none of them (R291). -/
theorem performDbDump_dumps :
    let db := m.service.db
    let m1 := db.services.foldl (fun m e => dbItem (serviceBody opAdd e) m) (dbItem (markBody 0) m)
    let m2 := db.freqs.foldl (fun m e => dbItem (freqBody opAdd e) m) m1
    let m3 := db.links.foldl (fun m e => dbItem (linkBody opAdd e) m) m2
    performDbDump d o m = (dbItem (markBody 1) m3, reply stOk) := by
  intro db m1 m2 m3
  have begun : RecordsOnly m (dbItem (markBody 0) m) := dbItem_records _ m
  have services : RecordsOnly m m1 := begun.trans (foldl_dbItem_records (serviceBody opAdd) db.services _)
  have freqs : RecordsOnly m m2 := services.trans (foldl_dbItem_records (freqBody opAdd) db.freqs _)
  simp only [performDbDump, begun.service]
  rw [services.service, freqs.service]

/-- A scan that finds no slot to open is answered at once (R291). -/
theorem performScan_none {p : ScanParams} {left : List Nat} {m' : Part}
    (opened : scanOpen (scanSlots p.half p.watches m) (scanChannels p) [] m = ([], left, m')) :
    performScan p d o m = (m', reply stNoCapacity) := by
  simp only [performScan, opened]
  rfl

/-- A scan that has opened a watch runs until its last dwell ends, and is answered then (R291). -/
theorem performScan_runs {p : ScanParams} {ctxs : List (Nat × Nat)} {left : List Nat} {m' : Part}
    (opened : scanOpen (scanSlots p.half p.watches m) (scanChannels p) [] m = (ctxs, left, m')) (watching : ¬ctxs.isEmpty = true) :
    performScan p d o m = ({ m' with service := { m'.service with scans := m'.service.scans ++
      [{ desc := d, origin := o, execHt := m'.clock.ht, ctxs := ctxs, left := left, found := 0, dwell := tenth * orDefault 1 5 p.dwell,
         dwellEnd := m'.clock.elapsed + tenth * orDefault 1 5 p.dwell }] } }, none) := by
  simp only [performScan, opened]
  exact if_neg watching

end

/-- Settles O8: SET, CLEAR and DB_CONFIG (R290, R293, R295, R302) are performed and answered as they stand; a dump writes the entries of the
database as it found them (R291); a scan, over the channels of log 36, is answered at once where it got no context, and otherwise when its
last dwell ends (R291). -/
theorem followingCommandsComplete : Obligations.FollowingCommandsComplete := by
  unfold Obligations.FollowingCommandsComplete
  intro d s
  refine ⟨fun p ex => run_answered ex (by simp) (by simp) rfl, fun set ex => run_answered ex (by simp) (by simp) rfl,
    fun age keep mask ex => run_answered ex (by simp) (by simp) rfl, fun ex => run_answered ex (by simp) (by simp) performDbDump_dumps,
    fun p ex => ?scan⟩
  case scan =>
    split
    next empty => exact run_answered ex (by simp) (by simp) (performScan_none (Prod.ext (List.isEmpty_iff.mp empty) rfl))
    next watching => exact run_unanswered ex (by simp) (by simp) (performScan_runs rfl watching)

end Sys2Proof.FollowCommands

/-! # NOP, IDENTIFY, EVENT_ROUTE and the plans (R333, R335, R337-R341, R349, R350) -/

namespace Sys2Proof.HostCommands

open Sys2Proof Sys2Proof.Machine Sys2Proof.Safety Sys2Proof.Laws

/-- Settles O1: each command is performed as it stands and answered at once. EVENT_ROUTE VECTOR sends the message that its new values ask
for by the model's choice (log 37). -/
theorem hostCommandsComplete : Obligations.HostCommandsComplete := by
  unfold Obligations.HostCommandsComplete
  intro d s
  refine ⟨fun ex => run_answered ex (by simp) (by simp) rfl, fun ex => run_answered ex (by simp) (by simp) rfl, ?sources, ?vector⟩
  case sources =>
    intro first last toRing vec c m ex
    exact run_answered ex (by simp) (by simp) rfl
  case vector =>
    intro vec holdoff count c m x ex
    exact run_answered ex (by simp) (by simp) rfl

/-- Settles O4: PLAN_PREPARE branches on the validation of every entry (R338), PLAN_COMMIT on the plan that it finds (R340). -/
theorem planCommandsComplete : Obligations.PlanCommandsComplete := by
  unfold Obligations.PlanCommandsComplete
  intro d plan s m
  refine ⟨?prepare, ?commit, fun ex => run_answered ex (by simp) (by simp) rfl⟩
  case prepare =>
    intro entries c l targets ex
    split
    next passed => exact run_answered ex (by simp) (by simp) (if_pos passed)
    next failed => exact run_answered ex (by simp) (by simp) (if_neg failed)
  case commit =>
    intro p c r m' tiles ctxs ex prepared
    refine run_answered ex (by simp) (by simp) ?_
    simp only [performCommit]
    rw [show look plan (readPart d s.part).plans = some p from prepared]
    rfl

end Sys2Proof.HostCommands

/-! # What becomes of an event and of a completion (R324, R330, R346-R348) -/

namespace Sys2Proof.Reports

open Sys2Proof Sys2Proof.Machine Sys2Proof.Safety Sys2Proof.Laws

/-- Settles O47: what raising and finishing write is listed by their frames. -/
theorem answersAndEventsChangeNothingElse : Obligations.AnswersAndEventsChangeNothingElse := by
  unfold Obligations.AnswersAndEventsChangeNothingElse
  intro m
  refine ⟨fun src code p => ?_, fun d o op r => ?_⟩
  · obtain ⟨_, _, _, _, _, _, _, _, _, frame⟩ := raise_frame src code p m
    rw [frame]
    exact ⟨rfl, rfl, rfl, rfl⟩
  · obtain ⟨_, _, _, _, _, _, _, _, frame⟩ := finish_frame d o op r m
    rw [frame]
    exact ⟨rfl, rfl, rfl, rfl⟩

/-! ## Events (R347, R348) -/

section
variable {e : Event} {v : Nat} {m : Part}

/-- An event that nothing waits before, and that the ring can take, is written. -/
theorem postEvent_writes (first : m.hif.evq.held = []) (complete : m.hif.evq.dropped = 0) (room : evqOpen m = true) :
    postEvent e v m = writeEvent e v m :=
  if_pos (by simp [first, complete, room])

/-- An event that the ring cannot take is held behind the others, up to 1024. -/
theorem postEvent_holds (full : evqOpen m = false) (few : m.hif.evq.held.length < 1024) (complete : m.hif.evq.dropped = 0) :
    postEvent e v m = { m with hif := { m.hif with evq := { m.hif.evq with held := m.hif.evq.held ++ [(e, v)] } } } := by
  unfold postEvent
  rw [if_neg (by simp [full]), if_pos ⟨few, complete⟩]

/-- An event that the ring cannot take is dropped and counted once 1024 are held or some have been dropped. -/
theorem postEvent_drops (full : evqOpen m = false) (many : ¬(m.hif.evq.held.length < 1024 ∧ m.hif.evq.dropped = 0)) :
    postEvent e v m = { m with hif := { m.hif with evq := { m.hif.evq with dropped := m.hif.evq.dropped + 1 } } } := by
  unfold postEvent
  rw [if_neg (by simp [full]), if_neg many]

/-- Posting an event leaves the sequence number to the next. -/
theorem postEvent_seq : (postEvent e v m).hif.evq.seq = m.hif.evq.seq := by
  unfold postEvent
  split
  · obtain ⟨_, _, _, frame⟩ := writeEvent_frame e v m
    rw [frame]
  · split <;> rfl

end

/-- Logging an event touches the Oasis event log alone. -/
theorem logEvent_frame (e : Event) (m : Part) :
    ∃ log logHead, logEvent e m = { m with oasis := { m.oasis with log := log, logHead := logHead } } := by
  unfold logEvent
  split
  · exact ⟨_, _, rfl⟩
  · exact ⟨m.oasis.log, m.oasis.logHead, rfl⟩

/-- An event of the head that is routed to the ring is numbered and posted. -/
theorem raise_posts {src code : Nat} {p : List Field} {m : Part} (head : isHead m = true) (routed : (route src m).toRing = true) :
    ∃ y, raise src code p m = postEvent
        { source := src, origin := ownAddr m, code := code, seq := m.hif.evq.seq, stamp := m.clock.ht, payload := p } (route src m).vector y ∧
      y.host = m.host ∧ y.hif = { m.hif with evq := { m.hif.evq with seq := (m.hif.evq.seq + 1) % 65536 } } := by
  obtain ⟨log, logHead, entry⟩ := logEvent_frame
    { source := src, origin := ownAddr m, code := code, seq := m.hif.evq.seq, stamp := m.clock.ht, payload := p } m
  refine ⟨{ m with
    oasis := { m.oasis with log := log, logHead := logHead }
    hif := { m.hif with evq := { m.hif.evq with seq := (m.hif.evq.seq + 1) % 65536 } } }, ?_, rfl, rfl⟩
  unfold raise raiseAt
  dsimp only
  rw [if_pos routed, entry]
  exact if_pos (.inl head)

/-- Settles O46: the event is numbered and then posted, and posting is one of three: written, held, dropped. -/
theorem eventsAreHeldThenDropped : Obligations.EventsAreHeldThenDropped := by
  unfold Obligations.EventsAreHeldThenDropped
  intro src code p m head routed e u
  obtain ⟨y, posts, host, hif⟩ := raise_posts (code := code) (p := p) head routed
  have evq : y.hif.evq = { m.hif.evq with seq := (m.hif.evq.seq + 1) % 65536 } := by rw [hif]
  have same : evqOpen y = evqOpen m := by simp only [evqOpen, hif]
  have hu : u = postEvent e (route src m).vector y := posts
  clear_value u
  subst hu
  refine ⟨by rw [postEvent_seq, evq], fun first complete room => ?_, fun complete full few => ?_, fun full many => ?_⟩
  · rw [postEvent_writes (by rw [evq]; exact first) (by rw [evq]; exact complete) (same.trans room)]
    obtain ⟨_, _, _, frame⟩ := writeEvent_frame e (route src m).vector y
    rw [frame, host, evq]
    exact ⟨rfl, rfl, first⟩
  · rw [postEvent_holds (same.trans full) (by rw [evq]; exact few) (by rw [evq]; exact complete)]
    exact ⟨host, by rw [evq]⟩
  · rw [postEvent_drops (same.trans full) (by rw [evq]; exact fun room => Nat.not_lt.mpr many room.1)]
    exact ⟨host, by rw [evq], by rw [evq]⟩

/-! ## Full rings (R324) -/

/-- Reading the completion ring that has been changed. -/
theorem cplRing_onCpl {n : Nat} {f : CplRing → CplRing} {m : Part} (there : n < m.hif.cplq.length) :
    cplRing n (onCpl n f m) = f (cplRing n m) :=
  getD_modified (l := m.hif.cplq) {} there

/-- Writing a completion moves the producer index of its ring, and no other field of a completion ring. -/
theorem writeCompletion_cplq (c : Completion) (m : Part) :
    (writeCompletion c m).hif.cplq =
      m.hif.cplq.modify c.ring fun r => { r with prod := ((cplRing c.ring m).prod + 1) % 2 ^ 32 } := by
  unfold writeCompletion
  dsimp only
  obtain ⟨_, _, _, signalled⟩ := trigger_frame (cplRing c.ring m).vector _
  rw [signalled]
  cases c.block <;> rfl

section
variable {c : Completion} {m : Part} (there : c.ring < m.hif.cplq.length)
include there

/-- A completion that its ring can take is written. -/
theorem postCompletion_writes (on : m.hif.enable = true) (first : (cplRing c.ring m).held = []) (room : cplOpen (cplRing c.ring m) = true) :
    (postCompletion c m).host.completions = c :: m.host.completions ∧
      (cplRing c.ring (postCompletion c m)).prod = ((cplRing c.ring m).prod + 1) % 2 ^ 32 ∧
      (cplRing c.ring (postCompletion c m)).held = [] := by
  have written : postCompletion c m = writeCompletion c m := if_pos (by simp [on, first, room])
  have moved : cplRing c.ring (writeCompletion c m) = { cplRing c.ring m with prod := ((cplRing c.ring m).prod + 1) % 2 ^ 32 } := by
    unfold cplRing
    rw [writeCompletion_cplq]
    exact getD_modified {} there
  obtain ⟨_, _, _, _, frame⟩ := writeCompletion_frame c m
  rw [written, moved]
  exact ⟨by rw [frame], rfl, first⟩

/-- A completion that its ring cannot take is held behind the others. -/
theorem postCompletion_holds (shut : m.hif.enable = false ∨ (cplRing c.ring m).held ≠ [] ∨ cplOpen (cplRing c.ring m) = false) :
    (postCompletion c m).host = m.host ∧
      (cplRing c.ring (postCompletion c m)).held = (cplRing c.ring m).held ++ [c] ∧
      (cplRing c.ring (postCompletion c m)).prod = (cplRing c.ring m).prod := by
  have held : postCompletion c m = onCpl c.ring (fun r => { r with held := r.held ++ [c] }) m :=
    if_neg (by rcases shut with off | waiting | full <;> simp [*])
  rw [held, cplRing_onCpl there]
  exact ⟨rfl, rfl, rfl⟩

end

/-- While its completion ring is full a command ring is not read (R324). -/
theorem readDesc_of_cplFull {d : Desc} {m : Part} (full : cplFull (cplRing d.ring m) = true) : readDesc d m = none := by
  unfold readDesc
  split
  · rfl
  · exact if_neg (by simp [full])

/-- A command whose descriptor is not read has no effect (R320, R324). -/
theorem exec_unread {i : Instr} {d : Desc} {c : HostCmd} {s : State} (source : i.source = .inl (d, c))
    (unread : readDesc d s.part = none) : exec i s = .next s := by
  have same (p : Perform) : accept d c (checkCmd d c) p s.part = s.part := by
    unfold accept
    rw [unread]
  rcases exec_of_source (s := s) source with ⟨e, -⟩ | ⟨_, -, e⟩
  · rw [e, State.run, same]
  · rw [e, State.run, same, fixAccepted_same rfl]

/-- Settles O45: a ring that can take an entry has room by definition; a full one holds what is posted and keeps its command ring unread. -/
theorem fullRingsHold : Obligations.FullRingsHold := by
  unfold Obligations.FullRingsHold
  refine ⟨fun c m there => ⟨postCompletion_writes there, postCompletion_holds there⟩, fun r room => ?_, fun m room => ?_,
    fun i d c s source full => exec_unread source (readDesc_of_cplFull full), fun e v m full => ?_⟩
  · simp only [cplOpen, Bool.and_eq_true, decide_eq_true_eq] at room
    exact room.2
  · simp only [evqOpen, Bool.and_eq_true, decide_eq_true_eq] at room
    exact room.2
  · by_cases few : m.hif.evq.held.length < 1024 ∧ m.hif.evq.dropped = 0
    · rw [postEvent_holds full few.1 few.2]
      exact ⟨rfl, rfl, .inl rfl⟩
    · rw [postEvent_drops full few]
      exact ⟨rfl, rfl, .inr rfl⟩

end Sys2Proof.Reports

/-! # Descriptors that are answered unexecuted (R326, R429) -/

namespace Sys2Proof.Descriptors

open Sys2Proof Sys2Proof.Machine Sys2Proof.Safety Sys2Proof.Laws

section
variable {d : Desc} {c : HostCmd} {own : Part → Nat} {perform : Perform} {m : Part} (read : (readDesc d m).isSome = true)
include read

/-- What acceptance asks first of a descriptor that it has read; who the part is has not changed by reading. -/
theorem accept_read : accept d c own perform m =
    if !isHead m && !(secondaryAllows c && decide (d.dest = ownAddr m)) then finish d .ring (opcodeOf c) { status := stBusy } (readPart d m)
    else if !d.clean ∨ !d.readable ∨ m.chain.parts ≤ d.dest ∧ d.dest ≠ ownAddr m ∨ d.dest ≠ ownAddr m ∧ localOnly c then
      finish d .ring (opcodeOf c) { status := stBadParam } (readPart d m)
    else if d.dest = ownAddr m then acceptHere d .ring false c (own (readPart d m)) perform (readPart d m)
    else if forwardStatus d c (readPart d m) = stOk then forward d c (readPart d m)
    else finish d .ring (opcodeOf c) { status := forwardStatus d c (readPart d m) } (readPart d m) := by
  obtain ⟨m', e⟩ := Option.isSome_iff_exists.mp read
  have reads : readPart d m = m' := by rw [readPart, e]; rfl
  have chain : m'.chain = m.chain := by rw [← reads, readPart_chain]
  have addr : ownAddr m' = ownAddr m := congrArg (fun k => k.addr.getD 0) chain
  have head : isHead m' = isHead m := congrArg (fun a => decide (a = 0)) addr
  unfold accept
  simp only [e, reads, secondary, head, addr, chain]

/-- A secondary interface answers ST_BUSY to what R429 does not allow. -/
theorem accept_secondary (second : isHead m = false) (barred : secondaryAllows c = false ∨ d.dest ≠ ownAddr m) :
    accept d c own perform m = finish d .ring (opcodeOf c) { status := stBusy } (readPart d m) := by
  rw [accept_read read]
  exact if_pos (by rcases barred with kind | elsewhere <;> simp [*])

section
variable (allowed : isHead m = true ∨ secondaryAllows c = true ∧ d.dest = ownAddr m)
include allowed

/-- A descriptor that is not valid is answered ST_BAD_PARAM (order 2 of Table HIF-5). -/
theorem accept_invalid (bad : d.clean = false ∨ d.readable = false ∨ m.chain.parts ≤ d.dest ∧ d.dest ≠ ownAddr m) :
    accept d c own perform m = finish d .ring (opcodeOf c) { status := stBadParam } (readPart d m) := by
  rw [accept_read read, if_neg (by rcases allowed with head | ⟨kind, here⟩ <;> simp [*])]
  exact if_pos (by rcases bad with unclean | unreadable | beyond <;> simp [*])

/-- A quarantined part answers ST_QUARANTINED (order 3 of Table HIF-5). -/
theorem accept_quarantined (clean : d.clean = true) (readable : d.readable = true) (here : d.dest = ownAddr m)
    (quarantined : m.chain.quarantined = true) :
    accept d c own perform m = finish d .ring (opcodeOf c) { status := stQuarantined } (readPart d m) := by
  rw [accept_read read, if_neg (by rcases allowed with head | ⟨kind, -⟩ <;> simp [*]), if_neg (by simp [*]), if_pos here]
  exact if_pos (by rw [readPart_chain, quarantined])

end
end

/-- Settles O38: the first two branches of acceptance, and the first of the part that is to execute the command. -/
theorem badDescriptorsAreAnswered : Obligations.BadDescriptorsAreAnswered := by
  unfold Obligations.BadDescriptorsAreAnswered
  intro i d c s source read m
  refine ⟨fun second barred => exec_answered source _ fun _ => accept_secondary read second barred,
    fun allowed => ⟨fun bad => exec_answered source _ fun _ => accept_invalid read allowed bad,
      fun clean readable here quarantined =>
        exec_answered source _ fun _ => accept_quarantined read allowed clean readable here quarantined⟩⟩

end Sys2Proof.Descriptors

/-! # Doorbells, HIF_CTRL and MSI-X (R317-R320, R350, R472-R474, R482)

What a fetch leaves of the part is carried by `Tells` through everything that it reads and writes, and by `TellsElsewhere` through all but the
reading of the command rings. -/

namespace Sys2Proof.Doorbells

open Sys2Proof Sys2Proof.Machine Sys2Proof.Safety Sys2Proof.Laws Sys2Proof.InterfaceRows

/-! ## What reading doorbells and writing what was held leave of the part -/

/-- `m'` is `m` but for what a part tells others, and has the count of failed fetches of `m`. -/
structure Tells (m m' : Part) : Prop where
  frame : m' = told m m'
  fails : m'.hif.fetchFails = m.hif.fetchFails

/-- `m'` has the command rings of `m` too. -/
structure TellsElsewhere (m m' : Part) : Prop extends Tells m m' where
  cmdq : m'.hif.cmdq = m.hif.cmdq

section
variable {a b c : Part}

theorem Tells.refl (m : Part) : Tells m m := ⟨rfl, rfl⟩

theorem Tells.trans (h : Tells a b) (k : Tells b c) : Tells a c := by
  refine ⟨?_, k.fails.trans h.fails⟩
  have frame : told b c = told a c := by rw [h.frame]; rfl
  exact k.frame.trans frame

theorem TellsElsewhere.refl (m : Part) : TellsElsewhere m m := ⟨.refl m, rfl⟩

theorem TellsElsewhere.trans (h : TellsElsewhere a b) (k : TellsElsewhere b c) : TellsElsewhere a c :=
  ⟨h.toTells.trans k.toTells, k.cmdq.trans h.cmdq⟩

theorem TellsElsewhere.ite {p : Prop} [Decidable p] (h : TellsElsewhere a b) (k : TellsElsewhere a c) :
    TellsElsewhere a (if p then b else c) := by
  split <;> assumption

end

theorem tells_onCmd (n : Nat) (f : CmdRing → CmdRing) (m : Part) : Tells m (onCmd n f m) := ⟨rfl, rfl⟩

theorem tells_onCpl (n : Nat) (f : CplRing → CplRing) (m : Part) : TellsElsewhere m (onCpl n f m) := ⟨⟨rfl, rfl⟩, rfl⟩

theorem tells_onRing (n : Nat) (f : FlowRing → FlowRing) (m : Part) : TellsElsewhere m (onRing n f m) := ⟨⟨rfl, rfl⟩, rfl⟩

theorem tells_onEvq (q : EvtRing) (m : Part) : TellsElsewhere m { m with hif := { m.hif with evq := q } } := ⟨⟨rfl, rfl⟩, rfl⟩

theorem tells_raise (s c : Nat) (p : List Field) (m : Part) : TellsElsewhere m (raise s c p m) := by
  obtain ⟨_, _, _, _, _, _, _, _, _, e⟩ := raise_frame s c p m
  rw [e]
  exact ⟨⟨rfl, rfl⟩, rfl⟩

theorem tells_writeCompletion (c : Completion) (m : Part) : TellsElsewhere m (writeCompletion c m) := by
  obtain ⟨_, _, _, _, e⟩ := writeCompletion_frame c m
  rw [e]
  exact ⟨⟨rfl, rfl⟩, rfl⟩

theorem tells_writeEvent (e : Event) (v : Nat) (m : Part) : TellsElsewhere m (writeEvent e v m) := by
  obtain ⟨_, _, _, h⟩ := writeEvent_frame e v m
  rw [h]
  exact ⟨⟨rfl, rfl⟩, rfl⟩

theorem tells_stopRing (kind cause ring seen : Nat) (m : Part) : TellsElsewhere m (stopRing kind cause ring seen m) :=
  TellsElsewhere.trans (b := writeShadow 0x30 4 (ringStop m) m) ⟨⟨rfl, rfl⟩, rfl⟩ (tells_raise _ _ _ _)

/-! ### Reading the doorbell page -/

theorem tells_fetchCpl (n cons : Nat) (m : Part) : TellsElsewhere m (fetchCpl n cons m) :=
  .ite (.refl m) (.ite ((tells_onCpl _ _ _).trans (tells_stopRing _ _ _ _ _)) (tells_onCpl _ _ _))

theorem tells_fetchCpls (n : Nat) (l : List Nat) (m : Part) : TellsElsewhere m (fetchList fetchCpl n l m) := by
  induction l generalizing n m with
  | nil => exact .refl m
  | cons v l ih => exact (tells_fetchCpl n v m).trans (ih _ _)

theorem tells_fetchEvt (cons : Nat) (m : Part) : TellsElsewhere m (fetchEvt cons m) :=
  .ite (.refl m) (.ite ((tells_onEvq _ _).trans (tells_stopRing _ _ _ _ _)) (tells_onEvq _ _))

theorem tells_fetchFlow (x : FlowDoorbell) (m : Part) : TellsElsewhere m (fetchFlow x m) := by
  unfold fetchFlow
  split
  · exact .refl m
  · exact .ite (.refl m) (.ite ((tells_onRing _ _ _).trans (tells_stopRing _ _ _ _ _)) (tells_onRing _ _ _))

theorem tells_fetchFlows (l : List FlowDoorbell) (m : Part) : TellsElsewhere m (fetchFlows l m) := by
  induction l generalizing m with
  | nil => exact .refl m
  | cons x l ih => exact (tells_fetchFlow x m).trans (ih _)

/-! ### Writing what was held -/

theorem tells_drainCompletions (n fuel : Nat) (m : Part) : TellsElsewhere m (drainCompletions n fuel m) := by
  induction fuel generalizing m with
  | zero => exact .refl m
  | succ fuel ih =>
    unfold drainCompletions
    dsimp only
    split
    · exact .ite (((tells_onCpl _ _ _).trans (tells_writeCompletion _ _)).trans (ih _)) (.refl m)
    · exact .refl m

theorem tells_drainEvents (fuel : Nat) (m : Part) : TellsElsewhere m (drainEvents fuel m) := by
  induction fuel generalizing m with
  | zero => exact .refl m
  | succ fuel ih =>
    unfold drainEvents
    refine .ite ?_ (.refl m)
    split
    · exact ((tells_onEvq _ _).trans (tells_writeEvent _ _ _)).trans (ih _)
    · exact .ite (.refl m) ((tells_onEvq _ _).trans (tells_raise _ _ _ _))

theorem tells_drainHeld (m : Part) : TellsElsewhere m (drainHeld m) :=
  ((((tells_drainCompletions _ _ _).trans (tells_drainCompletions _ _ _)).trans
    (tells_drainCompletions _ _ _)).trans (tells_drainCompletions _ _ _)).trans (tells_drainEvents _ _)

/-! ### The producer indices of command rings -/

/-- What a command ring makes of a producer index: one beyond what it can hold stops it (R317; log 38). -/
def takeProd (prod : Nat) (q : CmdRing) : CmdRing :=
  if q.log2 = 0 ∨ q.stopped then q
  else if 2 ^ q.log2 < ringUsed prod q.cons then { q with stopped := true }
  else { q with prod := prod }

/-- Showing a ring its producer index changes that ring alone. -/
theorem fetchCmd_cmdq (n prod : Nat) (m : Part) : (fetchCmd n prod m).hif.cmdq = m.hif.cmdq.modify n (takeProd prod) := by
  unfold fetchCmd
  dsimp only
  split
  next idle =>
    have same : m.hif.cmdq.modify n (takeProd prod) = m.hif.cmdq.modify n id := modify_congr {} (if_pos idle)
    rw [same, List.modify_id]
  next runs =>
    split
    next beyond =>
      rw [(tells_stopRing _ _ _ _ _).cmdq]
      exact modify_congr {} (by rw [takeProd, if_neg runs, if_pos beyond])
    next fits => exact modify_congr {} (by rw [takeProd, if_neg runs, if_neg fits])

theorem tells_fetchCmd (n prod : Nat) (m : Part) : Tells m (fetchCmd n prod m) := by
  unfold fetchCmd
  dsimp only
  split
  · exact .refl m
  · split
    · exact (tells_onCmd _ _ _).trans (tells_stopRing _ _ _ _ _).toTells
    · exact tells_onCmd _ _ _

theorem tells_fetchCmds (n : Nat) (l : List Nat) (m : Part) : Tells m (fetchList fetchCmd n l m) := by
  induction l generalizing n m with
  | nil => exact .refl m
  | cons v l ih => exact (tells_fetchCmd n v m).trans (ih _ _)

/-- A ring before those of a list is not touched. -/
theorem fetchCmds_before {i n : Nat} (before : i < n) (l : List Nat) (m : Part) :
    (fetchList fetchCmd n l m).hif.cmdq.getD i {} = m.hif.cmdq.getD i {} := by
  induction l generalizing n m with
  | nil => rfl
  | cons v l ih =>
    have other : n ≠ i := by omega
    rw [fetchList, ih (by omega), fetchCmd_cmdq]
    simp [List.getD_eq_getElem?_getD, other]

/-- Each ring takes the producer index that the page gives it. -/
theorem fetchCmds_takes {n k prod : Nat} {l : List Nat} (given : l[k]? = some prod) (m : Part) :
    (fetchList fetchCmd n l m).hif.cmdq.getD (n + k) {} = takeProd prod (m.hif.cmdq.getD (n + k) {}) := by
  induction l generalizing n k m with
  | nil => cases given
  | cons v l ih =>
    rw [fetchList]
    cases k with
    | zero =>
      obtain rfl : v = prod := by simpa using given
      rw [fetchCmds_before (by omega), fetchCmd_cmdq]
      simp only [List.getD_eq_getElem?_getD, List.getElem?_modify, Nat.add_zero, if_true]
      cases m.hif.cmdq[n]? <;> rfl
    | succ k =>
      have given : l[k]? = some prod := given
      have other : n ≠ n + 1 + k := by omega
      rw [show n + (k + 1) = n + 1 + k by omega, ih given, fetchCmd_cmdq]
      simp [List.getD_eq_getElem?_getD, other]

/-! ## A doorbell fetch -/

/-- What is read of a page after the command rings, and what it allows to be written. -/
def readRest (p : DoorbellPage) (m : Part) : Part :=
  drainHeld (fetchFlows p.flows (fetchEvt p.evtCons (fetchList fetchCpl 0 (p.cplCons.take 4) m)))

theorem tells_readRest (p : DoorbellPage) (m : Part) : TellsElsewhere m (readRest p m) :=
  (((tells_fetchCpls _ _ _).trans (tells_fetchEvt _ _)).trans (tells_fetchFlows _ _)).trans (tells_drainHeld _)

/-- Bringing backlogs in line changes of a flow its backlog and its tag. -/
theorem retag_same (m : Part) (f : Flow) : { retag m f with tag := 0, backlogged := false } = { f with tag := 0, backlogged := false } := by
  unfold retag
  split
  · split <;> rfl
  · rfl

theorem refreshTags_hif (m : Part) : (refreshTags m).hif = m.hif := rfl

/-- Backlogs and tags apart, the flows stay as they are. -/
theorem refreshTags_flows (m : Part) :
    ((refreshTags m).flows.map fun f => (f.1, { f.2 with tag := 0, backlogged := false })) =
      m.flows.map fun f => (f.1, { f.2 with tag := 0, backlogged := false }) := by
  simp only [refreshTags, List.map_map]
  exact List.map_congr_left fun f _ => Prod.ext rfl (retag_same m f.2)

section
variable {page : DoorbellPage} {m : Part} (enabled : m.hif.enable = true) (due : fetchDue m = true) (read : page.ok = true)
  (clean : page.dmaErrors = [])
include enabled due read clean

/-- A fetch notes itself, then reads the command rings' indices, then the rest. -/
theorem fetchDoorbell_parts : fetchDoorbell page m =
    refreshTags (readRest page (fetchList fetchCmd 0 (page.cmdProd.take 4) (noteFetch m))) :=
  fetchDoorbell_reads enabled due read clean

/-- A fetch tells the host, and leaves the flows but for their backlogs and tags. -/
theorem fetchDoorbell_frame : fetchDoorbell page m = { told m (fetchDoorbell page m) with flows := (fetchDoorbell page m).flows } ∧
    (fetchDoorbell page m).hif.fetchFails = 0 ∧
    ((fetchDoorbell page m).flows.map fun f => (f.1, { f.2 with tag := 0, backlogged := false })) =
      m.flows.map fun f => (f.1, { f.2 with tag := 0, backlogged := false }) := by
  have noted : noteFetch m = told m (noteFetch m) := rfl
  have tells := (tells_fetchCmds 0 (page.cmdProd.take 4) (noteFetch m)).trans (tells_readRest page _).toTells
  rw [fetchDoorbell_parts enabled due read clean, refreshTags_flows]
  generalize readRest page (fetchList fetchCmd 0 (page.cmdProd.take 4) (noteFetch m)) = u at tells
  have frame : u = told m u := by
    refine tells.frame.trans ?_
    rw [noted]
    rfl
  refine ⟨?_, tells.fails, ?_⟩
  · rw [frame]
    rfl
  · rw [frame]
    rfl

/-- Each command ring takes the producer index that the page gives it (R320). -/
theorem fetchDoorbell_takes {n prod : Nat} (ring : n < 4) (given : page.cmdProd[n]? = some prod) :
    (fetchDoorbell page m).hif.cmdq.getD n {} = takeProd prod (m.hif.cmdq.getD n {}) := by
  have shown : (page.cmdProd.take 4)[n]? = some prod := by rw [List.getElem?_take_of_lt ring, given]
  have taken := fetchCmds_takes (n := 0) shown (noteFetch m)
  rw [Nat.zero_add] at taken
  rw [fetchDoorbell_parts enabled due read clean, refreshTags_hif, (tells_readRest page _).cmdq, taken]
  rfl

end

/-! ## The rows -/

section
variable {t v : Nat} {s : State} {m : Part} (ha : advance t s.part = m)
include ha

/-- An enable that passes its checks restarts the rings and writes what was held; otherwise the first check that fails is reported
(R472, R473). -/
theorem hifEnable_checks (off : m.hif.enable = false) :
    exec (.hifEnable t) s = .next (withPart s <|
      ((hifChecks m).find? fun c => c.2.isSome).elim (refreshTags (drainHeld (let x := restartRings m
        { x with hif := { x.hif with enabledAt := x.clock.elapsed, fetchedAt := none } }))) fun c =>
        { m with hif := { m.hif with cfgErr := c.1, errRing := c.2.getD 0 } }) := by
  refine run_onTick ha ?_
  unfold enableHif
  rw [if_neg (by simp [off])]
  cases (hifChecks m).find? fun c => c.2.isSome <;> rfl

/-- A holdoff that has run out sends the message (R350). -/
theorem msixHoldoffExpiry_sendsVector {e : Nat} (known : v < 64) (waits : 0 < (Machine.vector v m).triggers)
    (since : (Machine.vector v m).since = some e) (ended : e + holdoffTicks (Machine.vector v m).holdoff ≤ m.clock.elapsed) :
    exec (.msixHoldoffExpiry t v) s = .next (withPart s <| sendVector v m) :=
  runIf_onTick (decide_eq_true known) ha (if_pos ⟨waits, by simp [since, ended]⟩)

/-- An unmask of a vector whose pending bit is set sends its message (R350). -/
theorem msixUnmask_sendsPending (known : v < 64) :
    exec (.msixUnmask t v) s = .next (withPart s <|
      if (Machine.vector v m).pba then sendMsix v (setVector v { Machine.vector v m with masked := false, pba := false } m)
      else setVector v { Machine.vector v m with masked := false, pba := false } m) := by
  refine runIf_onTick (decide_eq_true known) ha ?_
  simp only [setMask, Bool.not_false, Bool.and_true, Bool.and_false]

/-- A fetch that is due and meets no error. -/
theorem doorbellFetch_takes {page : DoorbellPage} (enabled : m.hif.enable = true) (due : fetchDue m = true) (read : page.ok = true)
    (clean : page.dmaErrors = []) :
    ∃ u, exec (.doorbellFetch t page) s = .next u ∧ u.pending = s.pending ∧ u.part.hif.shadowHt = m.clock.ht ∧
      u.part.hif.fetchSeq = (m.hif.fetchSeq + 1) % 2 ^ 32 ∧ u.part.hif.fetchFails = 0 ∧
      u.part = { told m u.part with flows := u.part.flows } ∧
      (u.part.flows.map fun f => (f.1, { f.2 with tag := 0, backlogged := false })) =
        (m.flows.map fun f => (f.1, { f.2 with tag := 0, backlogged := false })) ∧
      ∀ n prod, n < 4 → page.cmdProd[n]? = some prod → (m.hif.cmdq.getD n {}).log2 ≠ 0 → (m.hif.cmdq.getD n {}).stopped = false →
        (ringUsed prod (m.hif.cmdq.getD n {}).cons ≤ 2 ^ (m.hif.cmdq.getD n {}).log2 →
          (u.part.hif.cmdq.getD n {}).prod = prod) ∧
        (2 ^ (m.hif.cmdq.getD n {}).log2 < ringUsed prod (m.hif.cmdq.getD n {}).cons →
          (u.part.hif.cmdq.getD n {}).stopped = true ∧ (u.part.hif.cmdq.getD n {}).prod = (m.hif.cmdq.getD n {}).prod) := by
  obtain ⟨seq, ht⟩ := fetchDoorbell_counts enabled due read clean
  obtain ⟨frame, fails, flows⟩ := fetchDoorbell_frame enabled due read clean
  refine ⟨withPart s (fetchDoorbell page m), run_onTick ha rfl, rfl, ht, seq, fails, frame, flows, fun n prod ring given used runs => ?_⟩
  have idle : ¬((m.hif.cmdq.getD n {}).log2 = 0 ∨ (m.hif.cmdq.getD n {}).stopped = true) := by simp only [used, runs]; decide
  rw [show (withPart s (fetchDoorbell page m)).part = fetchDoorbell page m from rfl,
    fetchDoorbell_takes enabled due read clean ring given, takeProd, if_neg idle]
  refine ⟨fun fits => ?_, fun beyond => ?_⟩
  · rw [if_neg (Nat.not_lt.mpr fits)]
  · rw [if_pos beyond]
    exact ⟨rfl, rfl⟩

end

/-- Settles O14: the fetch by the parts that it is made of, each other row by its own branch. A producer index beyond its ring stops the
ring by R317 (log 38); disable, quiesce and nudge are R474. -/
theorem interfaceEventsComplete : Obligations.InterfaceEventsComplete := by
  unfold Obligations.InterfaceEventsComplete
  intro t s m
  have ha : advance t s.part = m := rfl
  clear_value m
  exact ⟨fun page => doorbellFetch_takes ha, hifEnable_checks ha,
    fun enabled => ⟨run_onTick ha (if_pos enabled), fun v => run_onTick ha (if_pos enabled)⟩, run_onTick ha rfl,
    fun off => run_onTick ha (if_neg (by simp [off])),
    fun v known => ⟨fun e => msixHoldoffExpiry_sendsVector ha known, msixUnmask_sendsPending ha known⟩⟩

end Sys2Proof.Doorbells

/-! # Records, links, buffers, fills and DRAM errors (R344, R354, R363, R367, R371, R372) -/

namespace Sys2Proof.FlowRows

open Sys2Proof Sys2Proof.Machine Sys2Proof.Safety Sys2Proof.Laws

/-- A variable record of the flow has been open for 50 ms (R354). -/
def mustClose (n : Nat) (m : Part) : Bool :=
  (flow n m).any fun f => f.variable && f.opened.any fun o => decide (o.first + 1228800 ≤ m.clock.elapsed)

/-- One that was opened 1228800 ticks ago makes it so. -/
theorem mustClose_old {n : Nat} {m : Part} {f : Flow} {o : OpenRecord} (found : flow n m = some f) (varies : f.variable = true)
    (opened : f.opened = some o) (old : o.first + 1228800 ≤ m.clock.elapsed) : mustClose n m = true := by
  rw [mustClose, found, Option.any_some, varies, opened, Option.any_some, Bool.true_and]
  exact decide_eq_true old

section
variable {t n : Nat} {s : State} {m : Part} (ha : advance t s.part = m)
include ha

/-- RECORD_CLOSE_TIMEOUT closes what has been open for long enough, and nothing else. -/
theorem recordCloseTimeout_eq :
    exec (.recordCloseTimeout t n) s = .next (withPart s <| if mustClose n m then closeRecord n m else m) :=
  run_onTick ha rfl

section
variable {k r a g : Nat} {f : Flow} {x : Record} {rest : List Record} (link : k < 3) (picked : pickFlow k (refreshTags m) = some (n, f))
  (staged : f.staged = x :: rest)
include link picked staged

/-- A record of a flow bound to a ring leaves for the ring (R363). -/
theorem egressRecordStart_toRing (target : f.target = .ring r) :
    exec (.egressRecordStart t k) s = .next (withPart s <| refreshTags (freeCaptures (sendToRing r n x (refreshTags m)))) :=
  runIf_onTick (decide_eq_true link) ha (by simp only [startRecord, picked, staged, target])

/-- A record of a flow bound to another part leaves over the chain (R358, R363). -/
theorem egressRecordStart_toChain (target : f.target = .chain a g) :
    exec (.egressRecordStart t k) s = .next (withPart s <| refreshTags (freeCaptures
      (chargeFlow n k x (send a (.record g { x with flow := g }) (refreshTags m))))) :=
  runIf_onTick (decide_eq_true link) ha (by simp only [startRecord, picked, staged, target])

end

/-- A buffer whose flush time has passed returns to the host (R344). -/
theorem bufferFlush_returns {r : Nat} {q : FlowRing} {b : OpenBuffer} (on : m.hif.enable = true) (used : flowRing r m = some q)
    (runs : q.stopped = false) (open_ : q.current = some b) (due : b.first + ceilDiv (q.entry.flush * 24576) 10 ≤ m.clock.elapsed) :
    exec (.bufferFlush t r) s = .next (withPart s <| refreshTags (returnBuffer r
      { ring := r, desc := b.desc, used := b.used / 8, records := satBits 8 b.records, done := true, flushed := true, emptied := false }
      (onRing r (fun q => { q with current := none }) m))) := by
  have closes : closeBuffer r true m = returnBuffer r
      { ring := r, desc := b.desc, used := b.used / 8, records := satBits 8 b.records, done := true, flushed := true, emptied := false }
      (onRing r (fun q => { q with current := none }) m) := by
    simp only [closeBuffer, used, Option.bind_some, open_]
  rw [← closes]
  exact run_onTick ha (if_pos (by simp [on, used, runs, open_, due]))

/-- A member that cannot cover the present output is filled (R367). -/
theorem memberUnderrun_fills {span g : Nat} {f : Flow} (found : flow n m = some f) (member : groupOf f m = some g) (bound : f.bound = true)
    (delayed : groupDelay g m ≠ 0)
    (uncovered : (f.staged.any fun r => decide (r.tau ≤ tau m - groupDelay g m * msTicks ∧
      tau m - groupDelay g m * msTicks < r.tau + recordTicks f r m)) = false)
    (unfilled : (f.filled.any fun e => decide (tau m - groupDelay g m * msTicks < e)) = false) :
    exec (.memberUnderrun t n span) s = .next (withPart s <| refreshTags (onFlow n (fun x => { x with
      staged := x.staged ++ [fillRecord n f (tau m - groupDelay g m * msTicks) span m], seq := (x.seq + 1) % 2 ^ 32, disc := false
      filled := some (tau m - groupDelay g m * msTicks +
        if f.variable then max 1 span else recordTicks f (fillRecord n f (tau m - groupDelay g m * msTicks) span m) m) }) m)) := by
  refine run_onTick ha (congrArg refreshTags ?_)
  unfold fillMember
  simp only [found, member]
  exact if_neg (by simp only [delayed, bound, uncovered, unfilled]; decide)

/-- A second that has passed since the latest report lets a corrected line be reported (R371). -/
theorem dramCorrected_reports {line ch : Nat}
    (rested : (m.dram.correctedAt.all fun e => decide (e + ticksPerSecond ≤ m.clock.elapsed)) = true) :
    exec (.dramCorrected t line ch) s = .next (withPart s <|
      raise 69 0x35 [⟨0, 4, m.dram.corrected + 1⟩, ⟨4, 4, m.dram.correctedTotal + 1⟩, ⟨8, 1, ch⟩]
        { m with dram := { m.dram with
          corrected := 0, correctedTotal := m.dram.correctedTotal + 1, correctedAt := some m.clock.elapsed } }) :=
  run_onTick ha (if_pos rested)

/-- Within a second of the latest report a corrected line is counted only (R371). -/
theorem dramCorrected_counts {line ch : Nat}
    (lately : ¬(m.dram.correctedAt.all fun e => decide (e + ticksPerSecond ≤ m.clock.elapsed)) = true) :
    exec (.dramCorrected t line ch) s = .next (withPart s <|
        { m with dram := { m.dram with
          corrected := m.dram.corrected + 1, correctedTotal := m.dram.correctedTotal + 1 } }) :=
  run_onTick ha (if_neg lately)

end

/-- Settles O26: each row under the condition that its own branch asks for. A variable record closes by R354; a fill record takes a sequence
number by the model's choice (log 42). -/
theorem flowEventsComplete : Obligations.FlowEventsComplete := by
  unfold Obligations.FlowEventsComplete
  intro t s m
  have ha : advance t s.part = m := rfl
  clear_value m
  refine ⟨fun n f o found varies opened old => ?close, fun k n f x rest r => egressRecordStart_toRing ha,
    fun k n f x rest a g => egressRecordStart_toChain ha, fun r q b => bufferFlush_returns ha,
    fun n span f g found member bound delayed => memberUnderrun_fills ha found member bound delayed,
    fun line ch => ⟨fun never => ?reported, fun e reported lately => ?counted⟩, fun line ch owner => run_onTick ha rfl⟩
  case close => rw [recordCloseTimeout_eq ha, if_pos (mustClose_old found varies opened old)]
  case reported => exact dramCorrected_reports ha (by rw [never, Option.all_none])
  case counted =>
    refine dramCorrected_counts ha ?_
    rw [reported, Option.all_some, decide_eq_true_iff]
    exact Nat.not_le.mpr lately

end Sys2Proof.FlowRows

/-! # What the chain carries (R327, R346, R358, R432, R438-R440) -/

namespace Sys2Proof.Transfers

open Sys2Proof Sys2Proof.Machine Sys2Proof.Safety Sys2Proof.Laws

/-! ## Roll calls -/

/-- With no roll call open there is none to close. -/
theorem settleRoll_none {m : Part} (closed : m.chain.rollAt = none) : settleRoll m = m := by
  rw [settleRoll, closed, Option.any_none]
  rfl

/-- A roll call stays open for its 50 ms. -/
theorem settleRoll_open {m : Part} {at0 : Nat} (began : m.chain.rollAt = some at0) (within : m.clock.elapsed ≤ at0 + 1228800) :
    settleRoll m = m := by
  rw [settleRoll, began, Option.any_some]
  exact if_neg (of_decide_eq_false (by rw [Bool.decide_eq_true, decide_eq_false (Nat.not_lt.mpr within)]))

/-! ## Transfers -/

section
variable {src seq : Nat} {f : Part → Part × Nat} {m : Part}

/-- A part notes a transfer as received. -/
def noteTransfer (src seq : Nat) (m : Part) : Part := onChain (fun c => { c with seen := (src, seq) :: c.seen }) m

/-- A part acknowledges a transfer with a status. -/
def acknowledge (src seq status : Nat) (m : Part) : Part := onChain (fun c => { c with acks := (src, seq, status) :: c.acks }) m

/-- What arrives for the first time is acted on, and acknowledged with the status that the act gives (R432). -/
theorem receive_first (first : m.chain.seen.contains (src, seq) = false) :
    receive src seq f m = acknowledge src seq (f (noteTransfer src seq m)).2 (f (noteTransfer src seq m)).1 := by
  unfold receive
  rw [first]
  rfl

/-- A duplicate is acknowledged again and nothing more (R432). -/
theorem receive_again (again : m.chain.seen.contains (src, seq) = true) : receive src seq f m = acknowledge src seq stOk m := by
  unfold receive
  rw [again]
  rfl

end

section
variable {t : Nat} {s : State} {m : Part} (ha : advance t s.part = m)
include ha

/-- A part that is not the head judges its time, or enters QUARANTINE under another major version (R438, R439). -/
theorem rollCall_follower {p : RollPoll} (closed : m.chain.rollAt = none) (follower : isHead m = false)
    (trusted : m.chain.quarantined = false) :
    exec (.rollCall t p) s = .next (withPart s <| if p.fwMajor = m.ident.fw.major then judgeTime p m else enterQuarantine m) := by
  refine run_onTick ha ?_
  dsimp only
  rw [settleRoll_none closed, if_neg (by simp [follower]), if_neg (by simp [trusted])]
  exact ite_not _ _ _

/-- The head takes an answer while the roll call is open (R438). -/
theorem rollCallAnswer_taken {addr at0 : Nat} {a : RollAnswer} (head : isHead m = true) (other : 0 < addr) (known : addr < m.chain.parts)
    (began : m.chain.rollAt = some at0) (within : m.clock.elapsed ≤ at0 + 1228800) :
    exec (.rollCallAnswer t addr a) s = .next (withPart s <| takeAnswer addr a m) := by
  refine run_onTick ha ?_
  dsimp only
  rw [settleRoll_open began within]
  exact if_pos ⟨head, other, known, by rw [began]; rfl⟩

/-- The last acknowledgement that the one CHAIN_SEND waits for completes it (R432). -/
theorem chainTransferAck_completes {seq status : Nat} {x : Transfer} {c : ChainSend}
    (out : m.chain.transfers.find? (fun x => decide (x.seq = seq)) = some x) (sole : m.chain.sends = [c]) (last : c.waiting = [seq]) :
    exec (.chainTransferAck t seq status) s = .next (withPart s <| finish c.desc c.origin 0x72
      (sendReply c.single (if status = stOk then c.failed else c.failed ++ [failedPart x.dest status]))
      (onChain (fun k => { k with transfers := k.transfers.filter fun y => decide (y.seq ≠ seq), sends := [] }) m)) := by
  have waited : c.waiting.contains seq = true := by simp [last]
  have complete : c.waiting.filter (fun n => decide (n ≠ seq)) = [] := by simp [last]
  refine run_onTick ha ?_
  simp only [out, sole, List.map_cons, List.map_nil, waited, complete, if_true, List.filter_cons, List.filter_nil, List.isEmpty_nil,
    Bool.not_true, Bool.false_eq_true, if_false, List.foldl_cons, List.foldl_nil]

end

/-- Settles O30: every arrival is a first one or a duplicate (R432), and a first one is what its row acts. -/
theorem transferEventsComplete : Obligations.TransferEventsComplete := by
  unfold Obligations.TransferEventsComplete
  intro t s m
  have ha : advance t s.part = m := rfl
  clear_value m
  refine ⟨fun p => rollCall_follower ha, fun addr a at0 => rollCallAnswer_taken ha, fun seq status x c => chainTransferAck_completes ha,
    ?first, ?again, ?record⟩
  case first =>
    intro src seq first seen ack
    refine ⟨fun message => run_onTick ha (receive_first first), fun late d c => run_onTick ha (receive_first first),
      fun c d rest forwarded => run_onTick ha ?_, fun e head => run_onTick ha ?_⟩
    · rw [receive_first first]
      simp only [noteTransfer, onChain, forwarded]
      rfl
    · rw [receive_first first]
      simp only [show (!isHead (noteTransfer src seq m)) = false by rw [Bool.not_eq_false']; exact head]
      rfl
  case again =>
    intro src seq message late d c again
    exact ⟨run_onTick ha (receive_again again), run_onTick ha (receive_again again)⟩
  case record =>
    intro src r isNew trusted
    exact run_onTick ha (if_neg (by rw [isNew, trusted]; simp))

end Sys2Proof.Transfers

/-! # The set-up registers (R465, R471, R475, R477, R479-R481) -/

namespace Sys2Proof.SetupRegisters

open Sys2Proof Sys2Proof.Machine Sys2Proof.Safety Sys2Proof.Laws

/-- A part that has its main rails takes a register write. -/
theorem registerRow_railed {f : Part → Part} {m : Part} (rails : m.power.railsUp = true) : registerRow f m = f m := if_pos rails

/-- A value in its range is taken (R471). -/
theorem inRange_ok {ok : Bool} {off : Nat} {f : Part → Part} {m : Part} (fits : ok = true) : inRange ok off f m = f m := if_pos fits

/-- Before the lock a guarded write is taken (R482). -/
theorem unlessLocked_open {f : Part → Part} {m : Part} (h : m.hif.lock = false) : unlessLocked f m = f m :=
  if_neg (by rw [h]; exact Bool.false_ne_true)

section
variable {m : Part}

/-- A warning threshold of 10.0 V to 11.8 V is taken, and in BRACE the qualification of the exit restarts (R475). -/
theorem writeWarn_takes {off v : Nat} (unlocked : m.hif.lock = false) (least : 100 ≤ v) (most : v ≤ 118) :
    writeWarn off v m = { m with power := { m.power with
      warn := v, brace := m.power.brace.map fun b => { b with qualify := m.clock.elapsed } } } := by
  unfold writeWarn
  rw [unlessLocked_open unlocked, Nat.mod_eq_of_lt (by omega), inRange_ok (decide_eq_true ⟨least, most⟩)]
  rfl

/-- Away from the head TET_TIME_DISAGREE is taken without a new epoch (R477). -/
theorem writeDisagree_secondary {off v : Nat} (least : 50 ≤ v) (most : v ≤ 1000000) (second : isHead m = false) :
    writeDisagree off v m = { m with regs := { m.regs with timeDisagree := v } } := by
  unfold writeDisagree
  rw [Nat.mod_eq_of_lt (by omega), inRange_ok (decide_eq_true ⟨least, most⟩)]
  exact if_neg (by rw [show isHead (onRegs _ m) = false from second]; exact Bool.false_ne_true)

section
variable {slot : Nat} (free : keyInUse slot m = false)
include free

/-- WRITE moves the data registers into a slot that no session uses (R479). -/
theorem keyCommand_writes : keyCommand 1 slot m = { m with sec := { m.sec with
    keyData := [0, 0, 0, 0], held := put slot m.sec.keyData m.sec.held, result := 0, slot := slot } } := by
  unfold keyCommand
  rw [free]
  rfl

/-- ERASE empties a slot that no session uses (R479). -/
theorem keyCommand_erases : keyCommand 2 slot m = { m with sec := { m.sec with
    keyData := [0, 0, 0, 0], held := erase slot m.sec.held, result := 0, slot := slot } } := by
  unfold keyCommand
  rw [free]
  rfl

end

/-- An image of a length that fits, signed, and not below the rollback floor, is accepted (R480). -/
theorem offerState_accepted {i : ImageOffer} (long : lengthOk m.sec.hbootLen = true) (signed : i.signatureOk = true)
    (recent : wordRank m.sec.rollback ≤ revRank i.major i.minor i.patch) : offerState i m = 6 := by
  unfold offerState
  rw [if_neg (by simp [long]), if_neg (by simp [signed]), if_neg (Nat.not_lt.mpr recent)]

/-- A lock test starts on a synthesizer that is fitted while none runs (R481). -/
theorem startTest_starts {target : Nat} (fitted : testFitted target m = true) (idle : m.dbg.busy = none) :
    startTest target m = { m with dbg := { m.dbg with busy := some m.clock.elapsed, target := target } } :=
  if_neg (by simp [fitted, idle])

/-- DBG_LOCK_TEST with its start bit set starts the test of the target in its low bits (R481). -/
theorem writeDbg_starts {target : Nat} (known : target ≤ 9) : writeDbg 0x7000 (target % 16 + 16) m = startTest target m := by
  have low : (target % 16 + 16) % 16 = target := by omega
  have start : (target % 16 + 16) / 16 % 2 = 1 := by omega
  unfold writeDbg
  rw [if_pos rfl, low, start, inRange_ok (decide_eq_true known), if_pos rfl]

end

section
variable {t : Nat} {s : State} {m : Part} (ha : advance t s.part = m)
include ha

/-- A lock test ends when its cycles have passed, and is judged by the phase-window rule (R481). -/
theorem dbgLockTestDone_ends {longest e : Nat} (runs : m.dbg.busy = some e) (passed : e + testTicks m ≤ m.clock.elapsed) :
    exec (.dbgLockTestDone t longest) s = .next (withPart s <| { m with dbg := { m.dbg with
      busy := none, longest := satBits 16 longest, pass := decide (testLength m ≤ longest) } }) :=
  run_onTick ha (if_neg (by simp [runs, passed]))

section
variable (rails : m.power.railsUp = true)
include rails

/-- A row that writes a register, on a part that has its main rails. -/
theorem run_registerRow {f : Part → Part} {m' : Part} (h : f m = m') :
    s.run (onTick t (registerRow f)) = .next (withPart s m') :=
  run_onTick ha ((registerRow_railed rails).trans h)

/-- GEN_SCRATCH is written by its offset (R471). -/
theorem registerWrite_scratch {v : Nat} (word : v < 2 ^ 32) :
    exec (.registerWrite t 0x14 4 v) s = .next (withPart s <| { m with regs := { m.regs with scratch := v } }) := by
  refine run_registerRow ha rails ?_
  rw [Scope.writeRegister_word rfl]
  show onRegs (fun r => { r with scratch := v % 2 ^ 32 }) m = _
  rw [Nat.mod_eq_of_lt word]
  rfl

end

end

/-- Settles O15: each write passes its guard and its range. That an accepted request clears the refused bit, that an offered image is judged at
once, and that a lock test asks for a fitted synthesizer, are the model's choice (log 57). -/
theorem registerRowsComplete : Obligations.RegisterRowsComplete := by
  unfold Obligations.RegisterRowsComplete
  intro t s m rails
  have ha : advance t s.part = m := rfl
  clear_value m
  refine ⟨fun v unlocked least most => run_registerRow ha rails (writeWarn_takes unlocked least most),
    fun v least most second => run_registerRow ha rails (writeDisagree_secondary least most second),
    fun slot known free => ?keys,
    fun i waits long signed recent => ?offer,
    fun target known fitted idle => run_registerRow ha rails ((writeDbg_starts known).trans (startTest_starts fitted idle)),
    fun longest e => dbgLockTestDone_ends ha,
    fun tile known resettable => ?reset, fun v => registerWrite_scratch ha rails⟩
  case keys =>
    have named : slot % 128 = slot := Nat.mod_eq_of_lt known
    exact ⟨run_registerRow ha rails (by rw [named, keyCommand_writes free]),
      run_registerRow ha rails (by rw [named, keyCommand_erases free])⟩
  case offer =>
    refine run_registerRow ha rails ((if_pos waits).trans ?_)
    rw [offerState_accepted long signed recent]
  case reset =>
    refine run_registerRow ha rails ?_
    rw [Nat.mod_eq_of_lt known]
    exact if_pos resettable

end Sys2Proof.SetupRegisters

/-! # The flow, time-shift and capture commands (R351-R370) -/

namespace Sys2Proof.FlowCommands

open Sys2Proof Sys2Proof.Machine Sys2Proof.Safety Sys2Proof.Laws

section
variable {n : Nat} {d : Desc} {o : Origin} {m : Part}

/-! ## Flows (R358, R359, R361, R364) -/

/-- FLOW_BIND takes the ring of its target, and retargets its flow (R342, R358). -/
theorem performFlowBind_binds {p : BindParams} (valid : flowBindStatus n p m = stOk) (allowed : bindAllowed n p m = true) :
    performFlowBind n p d o m = (retarget n (bindTarget p) (if p.target = 1 then takeRing p.a p.entry m else m), reply stOk) :=
  if_neg (by simp [valid, allowed])

theorem flow_of_shapeStatus {weight rate burst : Nat} (valid : flowShapeStatus n weight rate burst m = stOk) :
    (flow n m).isNone = false :=
  ((firstStatus_ok (by decide)).mp valid).1

/-- FLOW_SHAPE accrues the balance at the old rate before it sets the new one (R361, R362). -/
theorem performFlowShape_shapes {weight rate burst : Nat} (there : (flow n m).isNone = false) :
    performFlowShape n weight rate burst d o m = (refreshTags (onFlow n (fun f => { accrue m f with
      weight := orDefault 2 256 weight, rate := if rate = 2 ^ 32 - 1 then none else some rate, burst := orDefault 4 65536 burst,
      ballast := min (accrue m f).ballast (65536 * orDefault 4 65536 burst) }) m), reply stOk) :=
  if_neg (by simp [there])

/-- Acceptance of TIMESHIFT_SET judges what its execution judges again (R364, R368). -/
theorem timeshiftAccept_ok {w delay : Nat} (accepted : timeshiftAccept n w delay m = stOk) :
    timeshiftStatus n w delay m = stOk ∧ windowFits n w m = true := by
  unfold timeshiftAccept at accepted
  split at accepted
  next => exact absurd accepted (by decide)
  next fits =>
    simp only [accepted, true_and, Bool.not_eq_true', Bool.not_eq_false] at fits
    exact ⟨accepted, fits⟩

/-- A window that fits is set (R364-R366). -/
theorem performTimeshift_sets {w delay : Nat} (valid : timeshiftStatus n w delay m = stOk) (fits : windowFits n w m = true) :
    performTimeshift n w delay d o m =
      (refreshTags (onFlow n (fun f => { f with window := w, delay := delay, windowBytes := windowSize f w m }) m), reply stOk) := by
  unfold performTimeshift
  rw [if_neg (by simp [valid]), if_neg (by simp [fits])]

/-! ## Raw captures (R368, R370) -/

/-- A CAPTURE_START that is accepted names a flow of raw capture. -/
theorem flow_of_captureStatus {mask mode bytes : Nat} (valid : captureStartStatus mask mode n bytes m = stOk) :
    (flow n m).any (fun f => decide (f.type = 6)) = true := by
  have checks := ((firstStatus_ok (by decide)).mp valid).1
  simpa using (Bool.or_eq_false_iff.mp checks).2

/-- While none of its halves is captured and the pool has room, a capture begins on each half that can be captured. -/
theorem performCaptureStart_begins {mask mode bytes : Nat} (raw : (flow n m).any (fun f => decide (f.type = 6)) = true)
    (free : (m.captures.any fun k => (maskHalves mask).contains k.half) = false) :
    let hs := maskHalves mask
    let ok := hs.filter fun h => decide (captureTarget h m = stOk)
    let size (h : Nat) : Nat := bytes / groupBytes (tile (halfTile h) m).plan * groupBytes (tile (halfTile h) m).plan
    2 ^ 30 + (ok.map size).sum ≤ poolSize m →
    performCaptureStart mask mode n bytes d o m =
      ({ m with captures := m.captures ++ ok.map fun h =>
          { half := h, circular := decide (mode = 1), flow := n, size := size h, produced := m.clock.elapsed } },
        some (targetsReply (hs.map fun h => { kind := 1, status := captureTarget h m, id := h, detail := 0 }))) := by
  intro hs ok size room
  unfold performCaptureStart
  rw [if_neg (by simp [raw]), if_neg (by simp only [free]; exact Bool.false_ne_true)]
  exact if_neg (Nat.not_lt.mpr room)

end

/-- Settles O9: what each command asks for when it executes has been judged at its acceptance, but for what a binding needs (R342, R359) and the
room of a capture (R368). That a start is judged half by half when it executes, and that stopping a half without a capture is ST_OK, are the
model's choice (log 41); so are the order of checks (log 39) and the capacity judged twice (log 42). -/
theorem flowCommandsComplete : Obligations.FlowCommandsComplete := by
  unfold Obligations.FlowCommandsComplete
  intro d n s m
  refine ⟨fun p ex => run_answered ex (by simp) (by simp) rfl, fun p ex allowed => ?bind, fun weight rate burst ex => ?shape,
    fun ex => run_answered ex (by simp) (by simp) rfl, fun w delay ex => ?timeshift,
    fun mask mode bytes ex free room => ?capture, fun mask ex => run_answered ex (by simp) (by simp) rfl⟩
  case bind => exact run_answered ex (by simp) (by simp) (performFlowBind_binds ex.passed allowed)
  case shape => exact run_answered ex (by simp) (by simp) (performFlowShape_shapes (flow_of_shapeStatus (rate := rate) ex.passed))
  case timeshift =>
    obtain ⟨valid, fits⟩ := timeshiftAccept_ok ex.passed
    exact run_answered ex (by simp) (by simp) (performTimeshift_sets valid fits)
  case capture =>
    exact run_answered ex (by simp) (by simp) (performCaptureStart_begins (flow_of_captureStatus (bytes := bytes) ex.passed) free room)

end Sys2Proof.FlowCommands

/-! # The chain and firmware commands (R426-R428, R440, R442, R459) -/

namespace Sys2Proof.ChainCommands

open Sys2Proof Sys2Proof.Machine Sys2Proof.Safety Sys2Proof.Laws

/-! ## CHAIN_ENUMERATE (R426, R427) -/

/-- `m'` holds chain `id` of `n` parts as its head, under the epoch after that of `m`. -/
structure Heads (id n : Nat) (ring : Bool) (m m' : Part) : Prop where
  addr : m'.chain.addr = some 0
  chainId : m'.chain.chainId = id
  parts : m'.chain.parts = n
  ring : m'.chain.ring = ring
  epoch : m'.chain.epoch = (m.chain.epoch + 1) % 2 ^ 32
  kept : m'.oasis.addr = some 0
  frame : m' = { told m m' with
    chain := m'.chain, clock := m'.clock, spll := m'.spll
    oasis := { (told m m').oasis with addr := some 0, chainId := id } }

/-- What changes the HT state and the elected master alone leaves a head what it is. -/
theorem Heads.of_ht {id n : Nat} {ring : Bool} {m a b : Part} (h : Heads id n ring m a) (k : HtOnly a b) : Heads id n ring m b := by
  obtain ⟨addr, chainId, parts, ring, epoch, kept, frame⟩ := h
  refine ⟨?_, ?_, ?_, ?_, ?_, ?_, ?_⟩
  · rw [k]; exact addr
  · rw [k]; exact chainId
  · rw [k]; exact parts
  · rw [k]; exact ring
  · rw [k]; exact epoch
  · rw [k]; exact kept
  · rw [k, frame]; rfl

section
variable {options : Nat} {w : WalkResult} {d : Desc} {o : Origin} {m : Part}

/-- A part that holds work under an address that would change refuses the enumeration, which lists it (R427). -/
theorem performEnumerate_busy (busy : busyParts (w.parts.take 1023) ≠ []) :
    performEnumerate options w d o m = (m, some { status := stBusy, targets := busyParts (w.parts.take 1023) }) :=
  if_pos (by simp [busy])

/-- An enumeration that no part refuses makes this part the head of those found, and its walk's end is its status (R426). -/
theorem performEnumerate_heads (free : busyParts (w.parts.take 1023) = []) :
    let found := w.parts.take 1023
    let closed := decide (options % 2 = 1) && w.returned && !w.broken
    ∃ m', Heads m.regs.chainId (found.length + 1) closed m m' ∧
      performEnumerate options w d o m = (m', some {
        status := if w.broken ∨ (decide (options % 2 = 1) ∧ !closed) then stPartial else stOk,
        result := found.length + 1 + if closed then 65536 else 0 }) := by
  intro found closed
  unfold performEnumerate
  extract_lets busy asked _ n walked _ noted announced crowded open_
  rw [if_neg (by simp [busy, found, free])]
  have named : Heads m.regs.chainId n closed m noted := ⟨rfl, rfl, rfl, rfl, rfl, rfl, rfl⟩
  have s1 : HtOnly noted announced := (sendConfigs_ht _ _).trans (topology_ht _ _ _ _ _ _)
  have s2 : HtOnly announced crowded := .ite (topology_ht _ _ _ _ _ _) (.refl _)
  have s3 : HtOnly crowded open_ := .ite (topology_ht _ _ _ _ _ _) (.refl _)
  exact ⟨_, named.of_ht (((s1.trans s2).trans s3).trans (elect_ht _ _)), rfl⟩

/-! ## CHAIN_SEND (R442) -/

/-- The parts that a CHAIN_SEND to `dest` is for: all others that can be reached, or the one named. -/
def destinations (dest : Nat) (m : Part) : List Nat :=
  if dest = 0xFFFF then (List.range m.chain.parts).filter fun a => decide (a ≠ ownAddr m) && joined (ownAddr m) a m else [dest]

/-- With no transfer out a CHAIN_SEND is answered at once. -/
theorem performChainSend_answered {dest : Nat} {message : List Nat}
    (none_ : (sendTo message (destinations dest m) [] [] m).1.isEmpty = true) :
    performChainSend dest message d o m = ((sendTo message (destinations dest m) [] [] m).2.2,
      some (sendReply (decide (dest ≠ 0xFFFF)) (sendTo message (destinations dest m) [] [] m).2.1)) :=
  if_pos none_

/-- With transfers out a CHAIN_SEND waits for their acknowledgements. -/
theorem performChainSend_pending {dest : Nat} {message : List Nat}
    (none_ : ¬(sendTo message (destinations dest m) [] [] m).1.isEmpty = true) :
    performChainSend dest message d o m = (onChain (fun k => { k with
      sends := k.sends ++ [{
        desc := d, origin := o, waiting := (sendTo message (destinations dest m) [] [] m).1,
        failed := (sendTo message (destinations dest m) [] [] m).2.1, single := decide (dest ≠ 0xFFFF) }] })
      (sendTo message (destinations dest m) [] [] m).2.2, none) :=
  if_neg none_

/-! ## FW_LOAD STAGE (R459) -/

/-- The slot that the part does not run from is given up for a new image. -/
def clearSpare (m : Part) : Part := { m with flash := { m.flash with images := m.flash.images.set (spareSlot m) none, staged := false } }

section
variable {i : ImageOffer} (free : m.flash.staging.isSome = false)
include free

/-- A valid image is being written, and its command waits. -/
theorem performStage_valid (valid : imageValid i (clearSpare m) = true) :
    performStage i d o m =
      ({ clearSpare m with flash := { (clearSpare m).flash with staging := some (d, o, i) } }, none) := by
  unfold performStage
  rw [if_neg (by simp [free])]
  exact if_pos valid

/-- One that is not valid leaves the slot empty. -/
theorem performStage_invalid (invalid : ¬imageValid i (clearSpare m) = true) :
    performStage i d o m = (clearSpare m, reply stBadParam) := by
  unfold performStage
  rw [if_neg (by simp [free])]
  exact if_neg invalid

end

end

/-- Settles O13: an enumeration changes the chain once and the HT state, the elected master and what is told after that (`Heads.of_ht`); the
other commands branch on what they find. -/
theorem chainCommandsComplete : Obligations.ChainCommandsComplete := by
  unfold Obligations.ChainCommandsComplete
  intro d s m
  refine ⟨fun options w ex => ⟨fun busy => ?busy, fun free => ?free⟩, fun ex => run_answered ex (by simp) (by simp) rfl,
    fun dest message ex => ?send, fun length image ex => ?stage, fun ex => run_answered ex (by simp) (by simp) rfl⟩
  case busy => exact run_answered ex (by simp) (by simp) (performEnumerate_busy busy)
  case free =>
    obtain ⟨m', heads, performed⟩ := performEnumerate_heads (options := options) (d := d) (o := .ring) (m := m) free
    exact ⟨m', heads.addr, heads.chainId, heads.parts, heads.ring, heads.epoch, heads.kept, heads.frame,
      run_answered ex (by simp) (by simp) performed⟩
  case send =>
    by_cases none_ : (sendTo message (destinations dest m) [] [] m).1.isEmpty = true
    · exact (run_answered ex (by simp) (by simp) (performChainSend_answered none_)).trans (congrArg _ (if_pos none_).symm)
    · exact (run_unanswered ex (by simp) (by simp) (performChainSend_pending none_)).trans (congrArg _ (if_neg none_).symm)
  case stage =>
    have free : m.flash.staging.isSome = false := PartCommands.stageStatus_free ex.passed
    split
    next valid => exact run_unanswered ex (by simp) (by simp) (performStage_valid free valid)
    next invalid => exact run_answered ex (by simp) (by simp) (performStage_invalid free invalid)

end Sys2Proof.ChainCommands

/-! # Links, routes, elections and power over the chain (R424-R434, R443) -/

namespace Sys2Proof.Topology

open Sys2Proof Sys2Proof.Machine Sys2Proof.Safety Sys2Proof.Laws

/-- A change of the chain that leaves the address leaves the head the head. -/
theorem isHead_onChain {f : Chain → Chain} {m : Part} (addr : (f m.chain).addr = m.chain.addr) : isHead (onChain f m) = isHead m := by
  show decide ((f m.chain).addr.getD 0 = 0) = decide (m.chain.addr.getD 0 = 0)
  rw [addr]

theorem isHead_resend (m : Part) : isHead (resend m) = isHead m := rfl

section
variable {t : Nat} {s : State} {m : Part} (ha : advance t s.part = m)
include ha

/-! ## Links (R424, R431) -/

/-- A part that is not the head notes a new break elsewhere, and sends again what is unacknowledged (R431, R432). -/
theorem tetherLinkDown_elsewhere {port : TetherPort} {x : TopologyChange} (other : x.near ≠ ownAddr m) (follower : isHead m = false)
    (isNew : m.chain.breaks.contains (linkIndex x.near port m) = false) :
    exec (.tetherLinkDown t port x) s = .next (withPart s <| elect m (resend
      (onChain (fun c => { c with breaks := c.breaks ++ [linkIndex x.near port m] }) m))) := by
  refine run_onTick ha ?_
  simp only [if_neg other, isNew, isHead_onChain, follower, Bool.false_eq_true, if_false]

/-- A link of the part's own that trains on its own name stays down, with WIRING (R424). -/
theorem tetherLinkUp_wiring {port : TetherPort} {x : LinkAnnounce} (own : x.near = ownAddr m) (same : x.sameName = true) :
    exec (.tetherLinkUp t port x) s = .next (withPart s <| topology topoWiring x.near x.far (portCode port) 0
      (onLink port (fun l => { l with up := false, wiring := true }) m)) :=
  run_onTick ha ((if_pos same).trans (if_pos (decide_eq_true own)))

/-- A part that is not the head forgets a break elsewhere that has healed (R431, R432). -/
theorem tetherLinkUp_heals {port : TetherPort} {x : LinkAnnounce} (other : x.near ≠ ownAddr m) (named : x.sameName = false)
    (follower : isHead m = false) (broken : m.chain.breaks.contains (linkIndex x.near port m) = true) :
    exec (.tetherLinkUp t port x) s = .next (withPart s <| elect m (resend
      (onChain (fun c => { c with breaks := c.breaks.filter fun b => decide (b ≠ linkIndex x.near port m) }) m))) := by
  refine run_onTick ha ?_
  simp only [named, other, decide_false, broken, isHead_resend, isHead_onChain, follower, Bool.false_eq_true, false_and, if_false, if_true]

/-! ## What a part that is not the head takes (R426, R431, R438) -/

theorem chainRouteUpdate_taken {r : RouteUpdate} (follower : isHead m = false) :
    exec (.chainRouteUpdate t r) s = .next (withPart s <| elect m (resend (onChain (fun c => { c with breaks := r.breaks }) m))) :=
  run_onTick ha (if_neg (by simp [follower]))

theorem chainConfigArrival_taken {c : ChainConfig} (follower : isHead m = false) :
    exec (.chainConfigArrival t c) s = .next (withPart s <| elect m (onChain (fun x => { x with
      chainId := c.chainId, epoch := c.epoch, applied := c.epoch, parts := c.parts, ring := c.ring
      timeDisagree := c.timeDisagree }) m)) :=
  run_onTick ha (if_neg (by simp [follower]))

/-- A walk gives its address to a part that has it already or holds no work (R426, R427). -/
theorem chainEnumerationWalk_taken {addr chainId epoch : Nat} (other : 0 < addr) (known : addr ≤ 1023)
    (free : m.chain.addr = some addr ∨ holdsWork m = false) :
    exec (.chainEnumerationWalk t addr chainId epoch) s = .next (withPart s <| elect m { m with
      chain := { m.chain with addr := some addr, chainId := chainId, epoch := epoch }
      oasis := { m.oasis with addr := some addr, chainId := chainId } }) := by
  refine run_onTick ha (if_neg ?_)
  rintro (none_ | beyond | ⟨moved, works⟩)
  · omega
  · omega
  · rcases free with same | idle
    · exact moved same
    · exact absurd works (by simp [idle])

/-! ## Power over the chain (R425) -/

/-- A source that has gone off is tried again, and goes off again while it is in limit. -/
theorem tetherDcRetry_tries (failed : m.chain.up.dcFault = true) :
    exec (.tetherDcRetry t .up false) s = .next (withPart s <| onLink .up (fun l => { l with dcOn := true, dcFault := false }) m) ∧
      exec (.tetherDcRetry t .up true) s = .next (withPart s <| topology topoDcFault (ownAddr m) 0xFFFF (portCode .up) 0 m) := by
  have tried : ¬(!m.chain.up.dcFault) = true := by simp [failed]
  exact ⟨run_onTick ha ((if_neg tried).trans (if_neg Bool.false_ne_true)), run_onTick ha ((if_neg tried).trans (if_pos rfl))⟩

/-! ## Elections (R434) -/

theorem masterClaim_elects {addr : Nat} {c : Claim} (other : addr ≠ ownAddr m) :
    exec (.masterClaim t addr c) s = .next (withPart s <| elect m { m with chain := { m.chain with
      claims := if c.claims then put addr c m.chain.claims else erase addr m.chain.claims } }) :=
  run_onTick ha (if_neg other)

end

/-- Settles O29: each row under the condition that its own branch asks for; a DC port that fails has none. -/
theorem topologyEventsComplete : Obligations.TopologyEventsComplete := by
  unfold Obligations.TopologyEventsComplete
  intro t s m
  have ha : advance t s.part = m := rfl
  clear_value m
  exact ⟨fun _ _ => tetherLinkDown_elsewhere ha, fun _ _ => tetherLinkUp_wiring ha, fun _ _ => tetherLinkUp_heals ha,
    fun _ => chainRouteUpdate_taken ha, fun _ => chainConfigArrival_taken ha, fun _ _ _ => chainEnumerationWalk_taken ha,
    fun _ => run_onTick ha rfl, tetherDcRetry_tries ha, fun _ _ => masterClaim_elects ha⟩

end Sys2Proof.Topology

/-! # Boot, firmware images and fences (R440, R457-R465) -/

namespace Sys2Proof.BootRows

open Sys2Proof Sys2Proof.Machine Sys2Proof.Safety Sys2Proof.Laws

/-! ## First light (R448, R460) -/

/-- `m'` differs from `m` in the boot progress, the Oasis and what is told alone. -/
def BootOnly (m m' : Part) : Prop := m' = { told m m' with boot := m'.boot, oasis := m'.oasis }

theorem BootOnly.trans {a b c : Part} (h : BootOnly a b) (k : BootOnly b c) : BootOnly a c := by
  unfold BootOnly at *
  rw [k, h]
  rfl

/-- `m'` differs from `m` in what is told alone. -/
def Tells (m m' : Part) : Prop := m' = told m m'

section
variable {a b : Part} (h : Tells a b)
include h

theorem Tells.boot : b.boot = a.boot := by rw [h]; rfl
theorem Tells.resetFault : b.oasis.resetFault = a.oasis.resetFault := by rw [h]; rfl
theorem Tells.failedBoots : b.oasis.failedBoots = a.oasis.failedBoots := by rw [h]; rfl
theorem Tells.chainBoot : b.oasis.chainBoot = a.oasis.chainBoot := by rw [h]; rfl

theorem Tells.bootOnly : BootOnly a b := by
  unfold BootOnly
  rw [h]
  rfl

end

theorem tells_raise (s c : Nat) (p : List Field) (m : Part) : Tells m (raise s c p m) :=
  ((Reports.answersAndEventsChangeNothingElse m).1 s c p).1

/-- A fault that reset the part is told of, when there is one. -/
theorem tells_resetFault (o : Option PmuFault) (m : Part) : Tells m (o.elim m fun f => pmuFault f m) := by
  cases o with
  | none => exact rfl
  | some f => exact tells_raise _ _ _ m

/-- The part as a boot that reaches first light leaves it, before it tells of the fault that reset it (R457, R458). -/
def lightUp (m : Part) : Part :=
  let m := enterStage 8 m
  { m with oasis := { m.oasis with
      failedBoots := if m.boot.source ≤ 1 then m.oasis.failedBoots.set m.boot.source 0 else m.oasis.failedBoots,
      chainBoot := m.oasis.chainBoot && decide (m.boot.source ≠ 3) } }

/-- The part after the fault that reset it has been told of (R448). -/
def forgetFault (m : Part) : Part := { m with oasis := { m.oasis with resetFault := none } }

/-- What first light leaves: the part as it boots on, its fault told of, its status told. -/
def firstLit (m : Part) : Part :=
  partStatus 0 255 (forgetFault ((lightUp m).oasis.resetFault.elim (lightUp m) fun f => pmuFault f (lightUp m)))

theorem firstLit_leaves (m : Part) :
    (firstLit m).boot.stage = 8 ∧ (firstLit m).boot.since = m.clock.elapsed ∧ (firstLit m).oasis.resetFault = none ∧
      (m.boot.source ≤ 1 → (firstLit m).oasis.failedBoots = m.oasis.failedBoots.set m.boot.source 0) ∧
      (m.boot.source = 3 → (firstLit m).oasis.chainBoot = false) ∧ BootOnly m (firstLit m) := by
  unfold firstLit
  have faultTold := tells_resetFault (lightUp m).oasis.resetFault (lightUp m)
  generalize (lightUp m).oasis.resetFault.elim (lightUp m) (fun f => pmuFault f (lightUp m)) = r at faultTold ⊢
  have statusTold : Tells (forgetFault r) (partStatus 0 255 (forgetFault r)) := tells_raise _ _ _ _
  have boot := statusTold.boot.trans faultTold.boot
  refine ⟨?_, ?_, statusTold.resetFault, fun flash => ?_, fun chain => ?_, ?_⟩
  · rw [boot]; rfl
  · rw [boot]; rfl
  · rw [statusTold.failedBoots.trans faultTold.failedBoots]
    exact if_pos flash
  · rw [statusTold.chainBoot.trans faultTold.chainBoot]
    show (m.oasis.chainBoot && decide (m.boot.source ≠ 3)) = false
    simp [chain]
  · have lit : BootOnly m (lightUp m) := rfl
    have forgot : BootOnly r (forgetFault r) := rfl
    exact ((lit.trans faultTold.bootOnly).trans forgot).trans statusTold.bootOnly

section
variable {t : Nat} {s : State} {m : Part} (ha : advance t s.part = m)
include ha

/-! ## The boot ROM (R457, R458) -/

section
variable {b : BootOutcome} (rails : m.power.railsUp = true) (begins : m.boot.stage = 0)
include rails begins

/-- With no image the boot ROM waits at stage 3. -/
theorem bootImageSearch_waits (none_ : b.source = none) : exec (.bootImageSearch t b) s = .next (withPart s <| enterStage 3 m) := by
  refine run_onTick ha ((if_neg (by simp [rails, begins])).trans ?_)
  rw [none_]
  exact if_pos begins

/-- A valid image of a source that the boot ROM can have come to is started. -/
theorem bootImageSearch_starts {src : Nat} (found : b.source = some src) (allowed : sourceAllowed src m = true)
    (valid : imageValid b.image m = true) : exec (.bootImageSearch t b) s = .next (withPart s <| startImage src b m) := by
  refine run_onTick ha ((if_neg (by simp [rails, begins])).trans ?_)
  rw [found]
  exact if_pos (by rw [allowed, valid]; rfl)

end

/-- FIRST_LIGHT comes when every half has had its bring-up run (R460). -/
theorem firstLight_lights (stage : m.boot.stage = 7) (done : bringUpDone m = true) :
    exec (.firstLight t) s = .next (withPart s (firstLit m)) :=
  run_onTick ha (if_neg (by simp [stage, done]))

/-! ## Firmware (R459) -/

/-- QUARANTINE resets the part when its time has come; `rebootHt` is counted in HT. -/
theorem quarantineReboot_resets (quarantined : m.chain.quarantined = true)
    (reached : (m.chain.rebootAt.any fun e => decide (e ≤ m.clock.elapsed)) = true) :
    exec (.quarantineReboot t) s = .next (withPart s <|
      systemReset srcFirmware 255 none { m with oasis := { m.oasis with rebootHt := some m.clock.ht } }) :=
  run_onTick ha (if_pos (by rw [quarantined, reached]; rfl))

/-- The reset that ACTIVATE asked for leaves no fault behind. -/
theorem fwActivateReset_resets (reached : (m.power.resetAt.any fun e => decide (e ≤ m.clock.elapsed)) = true)
    (sound : m.dram.firmwareBad = false) :
    exec (.fwActivateReset t) s = .next (withPart s <| systemReset srcFirmware 255 none m) := by
  refine run_onTick ha ((if_pos reached).trans ?_)
  rw [sound]
  rfl

/-- The image that has been written is verified, and its command ends (R459). -/
theorem fwLoadStageDone_verifies {d : Desc} {o : Origin} {i : ImageOffer} (calm : m.power.brace = none)
    (staging : m.flash.staging = some (d, o, i)) :
    exec (.fwLoadStageDone t true) s = .next (withPart s <| finish d o 0x7E { status := stOk } { m with
        flash := { m.flash with staging := none, staged := true, images := m.flash.images.set (spareSlot m) (some i) }
        oasis := { m.oasis with failedBoots := m.oasis.failedBoots.set (spareSlot m) 0 } }) ∧
      exec (.fwLoadStageDone t false) s = .next (withPart s <| finish d o 0x7E { status := stBadParam } { m with
        flash := { m.flash with staging := none, staged := false, images := m.flash.images.set (spareSlot m) none } }) := by
  have runs : (if m.power.brace.isSome = true then none else m.flash.staging) = some (d, o, i) := by rw [calm]; exact staging
  constructor <;> refine run_onTick ha ?_ <;> dsimp only <;> rw [runs] <;> rfl

/-! ## Fences and tile resets (R464, R465) -/

section
variable {k : Nat} (fitted : k < tilesFitted s.part)
include fitted

theorem tileLinkFault_fences {detail : Nat} :
    exec (.tileLinkFault t k detail) s = .next (withPart s <| fenceTile k fenceLink detail m) :=
  runIf_onTick (decide_eq_true fitted) ha rfl

/-- A tile reset that ends restores the halves that passed, and fails the others. -/
theorem tileResetDone_ends {r : TileResetResult} (resets : (m.tiles.getD k {}).inReset = true) :
    let m1 := fillMemory k (onTile k (fun _ => {}) m)
    let m2 := if r.passA then restoreHalf (2 * k) r.residualA m1 else failHalf (2 * k) m1
    let m3 := if r.passB then restoreHalf (2 * k + 1) r.residualB m2 else failHalf (2 * k + 1) m2
    exec (.tileResetDone t k r) s = .next (withPart s <|
      partStatus ((if r.passA then 1 else 0) + if r.passB then 2 else 0) k m3) :=
  runIf_onTick (decide_eq_true fitted) ha (if_neg (by rw [resets]; exact Bool.false_ne_true))

end

section
variable {h : Nat} (fitted : h < halvesFitted s.part)
include fitted

theorem memoryFault_fences {detail : Nat} :
    exec (.memoryFault t h detail) s = .next (withPart s <| fenceHalf h fenceMemory 0 detail m) :=
  runIf_onTick (decide_eq_true fitted) ha rfl

/-- A converter that is not idled is fenced when it sticks. -/
theorem converterStuck_fences (live : isLive h m = true) (runs : tileHolds h m = false) :
    exec (.converterStuck t h) s = .next (withPart s <| fenceHalf h fenceConverter 0 0 m) :=
  runIf_onTick (decide_eq_true fitted) ha (if_pos (by rw [live, runs]; rfl))

end

end

/-- Settles O32: each row under the condition that its own branch asks for; first light is `firstLit`, which touches the boot progress and the
Oasis alone. That a staged image clears the failed boots of its slot and that the time of a reboot is counted in HT are the model's choice
(log 55). -/
theorem bootEventsComplete : Obligations.BootEventsComplete := by
  unfold Obligations.BootEventsComplete
  intro t s m
  have ha : advance t s.part = m := rfl
  clear_value m
  refine ⟨fun b rails begins => ⟨bootImageSearch_waits ha rails begins, fun src => bootImageSearch_starts ha rails begins⟩,
    fun early => ⟨fun rails late => run_onTick ha (if_pos ⟨rails, early, late⟩),
      fun asked late => run_onTick ha (if_pos ⟨asked, early, late⟩)⟩,
    fun stage done => ⟨_, firstLight_lights ha stage done, rfl, firstLit_leaves m⟩,
    fun stage ready => run_onTick ha (if_pos ⟨stage, ready⟩), quarantineReboot_resets ha, fwActivateReset_resets ha,
    fun d o i => fwLoadStageDone_verifies ha, fun k detail fitted => ⟨tileLinkFault_fences ha fitted, fun r => tileResetDone_ends ha fitted⟩,
    fun h detail fitted => ⟨memoryFault_fences ha fitted, converterStuck_fences ha fitted⟩⟩

end Sys2Proof.BootRows

/-! # Audio ports (R408-R417) -/

namespace Sys2Proof.AudioRows

open Sys2Proof Sys2Proof.Machine Sys2Proof.Safety Sys2Proof.Laws

/-- The frames of a stall that its end reports: none of a port that was still in LEAD (R415). -/
def stallFrames (p : Nat) (m : Part) : Nat := if (port p m).held = .lead then 0 else framesDue (port p m).stalledAt m

/-- How long the input of a port has waited: a slave's, as long as the frames in its FIFO take (R413). -/
def inputWait (p : Nat) (m : Part) : Nat := if (port p m).slave then 512 * (port p m).rxFill else 0

/-- A frame begins: its input enters the flows of the port, and its output is still empty (R411, R413). -/
def takeInput (p : Nat) (sdi : List Nat) (m : Part) : Part :=
  onPort p (fun y => { y with frame := y.frame + 1, slipped := false, lastIn := sdi, out := [] })
    (inputFrames p 1 (m.clock.ht - inputWait p m) (tau m - inputWait p m) (flagIf (port p m).slipped flagSlipped) sdi m)

section
variable {t p : Nat} {s : State} {m : Part} (ha : advance t s.part = m) (known : p < 8)
include ha known

/-! ## Starting and stopping (R408-R410) -/

theorem audioClockStart_begins {a : Action} (queued : m.sched.queue.find? (startsPort p) = some a) (idle : (port p m).start = none)
    (reached : a.due ≤ m.clock.ht + 512 * (port p m).cfg.elim 0 PortCfg.clkLead) :
    exec (.audioClockStart t p) s = .next (withPart s <| clockStart p a.due m) := by
  refine runIf_onTick (decide_eq_true known) ha ?_
  rw [queued]
  exact if_pos ⟨by rw [idle]; rfl, reached⟩

/-- A locked port in LEAD runs from the tick of its first frame on, and the start that waited for it completes. -/
theorem audioFirstFrame_runs {st : PortStart} (started : (port p m).start = some st) (lead : (port p m).state = .lead)
    (reached : st.due ≤ m.clock.ht) (locked : (port p m).locked = true) (placed : (port p m).slave = true ∨ tau m % 512 = 0) :
    exec (.audioFirstFrame t p) s = .next (withPart s <|
      ((port p (takeStart p m)).start.bind PortStart.job).elim
        (onPort p (fun x => { x with state := .run, start := none }) (takeStart p m))
        fun j => finish j.1 j.2 0x59 { status := stOk } (onPort p (fun x => { x with state := .run, start := none }) (takeStart p m))) := by
  refine runIf_onTick (decide_eq_true known) ha ?_
  unfold firstFrame
  simp only [started]
  rw [if_pos ⟨lead, reached, locked, placed⟩]
  cases (port p (takeStart p m)).start.bind PortStart.job <;> rfl

theorem audioTrailEnd_idles {e : Nat} (trail : (port p m).state = .trail) (ends : (port p m).trailEnd = some e)
    (reached : e ≤ m.clock.elapsed) :
    exec (.audioTrailEnd t p) s = .next (withPart s <| onPort p (fun x => { x with state := .idle, trailEnd := none }) m) :=
  runIf_onTick (decide_eq_true known) ha (if_pos ⟨trail, by rw [ends]; exact decide_eq_true reached⟩)

/-! ## The FS of a slave port (R408, R416) -/

theorem audioFsEdge_counts {c : PortCfg} {n : Nat} {edge : Bool} (configured : (port p m).cfg = some c) (slave : c.slave = true)
    (lead : (port p m).state = .lead) :
    exec (.audioFsEdge t p n edge) s = .next (withPart s <| lockWord p n edge m) := by
  refine runIf_onTick (decide_eq_true known) ha ?_
  simp only [configured, slave, Bool.not_true, Bool.false_eq_true, if_false]
  exact if_pos lead

/-- An edge before the frame's last BCLK is FS_EARLY: the port loses the BCLKs that were missing. -/
theorem audioFsEdge_early {c : PortCfg} {n : Nat} (configured : (port p m).cfg = some c) (slave : c.slave = true)
    (runs : (port p m).state = .run) (early : n < c.frameBits) :
    exec (.audioFsEdge t p n true) s = .next (withPart s <| portXrun p false 0 (some (c.frameBits - n)) m) := by
  refine runIf_onTick (decide_eq_true known) ha ?_
  simp [configured, slave, runs, early]

/-- A frame whose BCLKs have all come without an edge is FS_LATE. -/
theorem audioFsEdge_late {c : PortCfg} {n : Nat} (configured : (port p m).cfg = some c) (slave : c.slave = true)
    (runs : (port p m).state = .run) (late : c.frameBits ≤ n) :
    exec (.audioFsEdge t p n false) s = .next (withPart s <| portXrun p true 1 none m) := by
  refine runIf_onTick (decide_eq_true known) ha ?_
  simp [configured, slave, runs, late]

/-! ## Slips, underruns and overruns (R414, R417) -/

/-- A transmit FIFO that has filled to 18 frames drops one, and the slip is counted. -/
theorem audioSlip_drops {fill : Nat} (slave : (port p m).slave = true) (runs : (port p m).state = .run) (filled : 18 ≤ fill)
    (fits : fill ≤ 32) (first : (port p m).lastTx = none) :
    exec (.audioSlip t p fill .tx) s = .next (withPart s <|
      countPort p 0 1 (onPort p (fun y => { y with txFill := fill - 1, lastTx := some y.frame }) m)) := by
  refine runIf_onTick (decide_eq_true known) ha ?_
  simp [slave, runs, first, filled, Nat.not_lt.mpr fits]

theorem audioXrun_reports {dir : PortDir} {overrun : Bool} {cause : Nat} (fits : xrunFits (port p m) dir overrun cause = true) :
    exec (.audioXrun t p dir overrun cause) s = .next (withPart s <| portXrun p overrun cause none m) :=
  runIf_onTick (decide_eq_true known) ha (if_pos fits)

/-! ## Stalls (R415) -/

theorem audioStall_holds (slave : (port p m).slave = true) (runs : (port p m).state = .run) :
    exec (.audioStall t p) s = .next (withPart s <| raise (224 + p) 0x68 [⟨0, 1, p⟩, ⟨4, 4, (port p m).frame - 1⟩]
      (onPort p (fun x => { x with
        state := .stalled, held := x.state, stalledAt := m.clock.elapsed, stallDue := m.clock.elapsed }) m)) :=
  runIf_onTick (decide_eq_true known) ha (if_pos ⟨slave, .inl runs⟩)

/-- A stalled port resumes the state it held, with the frames of the stall reported as dropped and repeated. -/
theorem audioResume_resumes (stalled : (port p m).state = .stalled) :
    exec (.audioResume t p true) s = .next (withPart s <| raise (224 + p) 0x69
      [⟨0, 1, p⟩, ⟨1, 1, 1⟩, ⟨4, 4, ((followStall p m).clock.elapsed - (port p m).stalledAt) / 512⟩,
       ⟨8, 4, stallFrames p m⟩, ⟨12, 4, stallFrames p m⟩]
      (onPort p (fun x => { x with state := x.held }) (followStall p m))) :=
  runIf_onTick (decide_eq_true known) ha ((if_neg (not_not_intro stalled)).trans (if_pos rfl))

/-! ## Frames (R411-R413) -/

theorem audioPortFrame_presents {sdi : List Nat} (grid : tau m % 512 = 0) (runs : (port p m).state = .run) :
    exec (.audioPortFrame t ⟨p, sdi⟩) s = .next (withPart s <| freeCaptures
      ((port p (takeInput p sdi m)).pairs.foldl (fun m q => presentPair p q m) (takeInput p sdi m))) :=
  runIf_onTick (decide_eq_true known) ha (if_neg (by simp [grid, runs]))

end

/-- Settles O28, a row at a time: under a clause's conditions the row takes the branch named in the clause. Of the details, a slave's input
stamped 512 ticks earlier for each frame of its FIFO's fill is the model's choice of log 48, and the frame counts of a stall, with 0 in
LEAD, those of log 49. -/
theorem audioEventsComplete : Obligations.AudioEventsComplete := by
  unfold Obligations.AudioEventsComplete
  intro t p s m x known
  have ha : advance t s.part = m := rfl
  clear_value m
  refine ⟨fun a queued idle reached => audioClockStart_begins ha known queued idle reached,
    fun st started lead reached locked placed => audioFirstFrame_runs ha known started lead reached locked placed,
    fun e trail ends reached => audioTrailEnd_idles ha known trail ends reached,
    fun c n edge configured slave => ⟨audioFsEdge_counts ha known configured slave, audioFsEdge_early ha known configured slave,
      audioFsEdge_late ha known configured slave⟩,
    fun fill slave runs filled fits first => audioSlip_drops ha known slave runs filled fits first,
    fun dir overrun cause fits => audioXrun_reports ha known fits, audioStall_holds ha known,
    fun stalled => audioResume_resumes ha known stalled, fun sdi grid runs => audioPortFrame_presents ha known grid runs⟩

end Sys2Proof.AudioRows

/-! # Frames, hops and receptions of the Kite link (R376, R381-R383, R387-R392) -/

namespace Sys2Proof.KiteRows

open Sys2Proof Sys2Proof.Machine Sys2Proof.Safety Sys2Proof.Laws

theorem demodIn_eq {i : Nat} {st : DemodState} {d : Demod} {m : Part} (at_ : m.kite.demods[i]? = some d) (is : d.state = st) :
    demodIn i st m = some d := by
  rw [demodIn, at_]
  exact Option.filter_some_pos (decide_eq_true is)

/-! ## Slots and windows, after the actions of their tick (R58, R387, R392) -/

section
variable {t : Nat} {s : State} {k : Part} (quiet : Quiet (advance t s.part)) (hk : settleTx (tidyPins (advance t s.part)) = k)
include quiet hk

/-- A free slot boundary decides a frame. -/
theorem kiteDecision_decides {b : KiteBlock} (configured : k.kite.cfg = some b) (slot : onSlot k = true)
    (free : k.kite.committed ≤ k.clock.elapsed) (applied : k.kite.pending = none) (powered : k.power.brace = none)
    (up : ksynUp k = true) (room : k.kite.txs.length < 2) :
    exec (.kiteDecision t) s = .next (withPart s <| decideKite b k) := by
  refine run_onTick rfl ?_
  rw [runThrough_quiet quiet, hk]
  simp [decideSlot, configured, slot, free, applied, powered, up, room]

/-- A window's boundary inside a second hops the receiver to the window's channel. -/
theorem kiteWindowBoundary_hops (configured : k.kite.cfg.isSome = true) (boundary : k.clock.ht % ticksPerSecond % windowTicks = 0)
    (applied : k.kite.pending = none) (within : onSecond k = false) :
    exec (.kiteWindowBoundary t) s = .next (withPart s <| hopRx (windowOf k.clock.ht) k) := by
  refine run_onTick rfl ?_
  rw [runThrough_quiet quiet, hk]
  simp [crossWindow, configured, boundary, applied, within]

end

section
variable {t : Nat} {s : State} {m : Part} (hm : settleTx (advance t s.part) = m)
include hm

/-! ## Configurations and the end of a frame (R376, R383) -/

theorem kiteConfigApply_applies {p : KitePending} (pending : m.kite.pending = some p) (second : onSecond m = true)
    (silent : m.kite.txs = []) : exec (.kiteConfigApply t) s = .next (withPart s <| applyKite p m) := by
  refine run_kiteTick rfl hm ?_
  rw [pending]
  exact if_pos ⟨second, by rw [silent]; rfl⟩

theorem kiteTxEnd_reports {x : KiteTx} {rest : List KiteTx} (sent : m.kite.txs = x :: rest) (ends : x.finish ≤ m.clock.elapsed) :
    exec (.kiteTxEnd t) s = .next (withPart s <| reportTx x.session x.channel x.sf x.frame txSent (x.finish - x.start) x.startHt
      (returnRx x.finish (countKite cntSent 1 (onKite (fun k => { k with txs := rest }) m)))) := by
  refine run_kiteTick rfl hm ?_
  rw [sent]
  exact if_neg (Nat.not_lt.mpr ends)

/-! ## Receptions (R388-R391) -/

/-- A detection that no reception in progress yields to takes the first free demodulator (Table KTE-8). -/
theorem kiteDetection_assigns {p : KiteDetect} {i : Nat} (above : 7 ≤ p.sf) (below : p.sf ≤ 12)
    (sees : kiteBlind (applyPilots p.pilots m) = false)
    (isNew : ((applyPilots p.pilots m).kite.demods.any fun d => duplicate p d (applyPilots p.pilots m)) = false)
    (noWeaker : ((weakest [.sync, .header] (applyPilots p.pilots m)).filter fun e => decide (e.2.level + 30 ≤ p.level)) = none)
    (free : ((applyPilots p.pilots m).kite.demods.findIdx? fun d => decide (d.state = .free)) = some i) :
    exec (.kiteDetection t p) s = .next (withPart s <| dropEvent (assign i p (applyPilots p.pilots m))) := by
  have assigned : arbitrate p (applyPilots p.pilots m) = assign i p (applyPilots p.pilots m) := by
    unfold arbitrate
    rw [noWeaker, free]
  exact runIf_kiteTick (decide_eq_true ⟨above, below⟩) rfl hm
    ((if_neg (by rw [sees, isNew]; exact Bool.false_ne_true)).trans (congrArg dropEvent assigned))

variable {i : Nat} {d : Demod} (known : i < 8)
include known

/-- A mode chirp of the preamble's SF takes the reception to its header, stamped 11 symbols back. -/
theorem kiteSyncDone_header {shift : Nat} {pilots : List KitePilot} (at_ : (applyPilots pilots m).kite.demods[i]? = some d)
    (syncing : d.state = .sync) (same : (modeOf d.sf shift).1 = d.sf) :
    exec (.kiteSyncDone t i shift pilots) s = .next (withPart s <| setDemod i
      { d with state := .header, rate := (modeOf d.sf shift).2,
               stamp := (applyPilots pilots m).clock.ht - symbolTicks 11 d.sf (rxBw (applyPilots pilots m)) } (applyPilots pilots m)) := by
  refine runIf_kiteTick (decide_eq_true known) rfl hm ?_
  simp only [demodIn_eq at_ syncing]
  exact if_pos same

theorem kiteSyncDone_fails {shift : Nat} {pilots : List KitePilot} (at_ : (applyPilots pilots m).kite.demods[i]? = some d)
    (syncing : d.state = .sync) (other : (modeOf d.sf shift).1 ≠ d.sf) :
    exec (.kiteSyncDone t i shift pilots) s = .next (withPart s <| failDemod i cntSyncFail (applyPilots pilots m)) := by
  refine runIf_kiteTick (decide_eq_true known) rfl hm ?_
  simp only [demodIn_eq at_ syncing]
  exact if_neg other

theorem kiteSyncTimeout_fails (at_ : m.kite.demods[i]? = some d) (syncing : d.state = .sync)
    (passed : d.since + symbolTicks 10 d.sf (rxBw m) ≤ m.clock.elapsed) :
    exec (.kiteSyncTimeout t i) s = .next (withPart s <| failDemod i cntSyncFail m) := by
  refine runIf_kiteTick (decide_eq_true known) rfl hm ?_
  simp only [demodIn_eq at_ syncing]
  exact if_pos passed

/-- A header whose check holds leads to the payload; another frees the demodulator. -/
theorem kiteHeaderDone_decides {h : KiteHeader} (at_ : (applyPilots h.pilots m).kite.demods[i]? = some d) (inHeader : d.state = .header) :
    exec (.kiteHeaderDone t i h) s = .next (withPart s <|
      if (rowHeader h).ok then setDemod i { d with state := .payload, head := some (rowHeader h) } (applyPilots h.pilots m)
      else failDemod i cntFalseDetect (applyPilots h.pilots m)) := by
  refine runIf_kiteTick (decide_eq_true known) rfl hm ?_
  simp only [demodIn_eq at_ inHeader]

theorem kitePayloadDone_checks {h : KiteHeader} {r : KitePayload} (at_ : (applyPilots r.pilots m).kite.demods[i]? = some d)
    (inPayload : d.state = .payload) (headed : d.head = some h) :
    exec (.kitePayloadDone t i r) s = .next (withPart s <|
      dropEvent (checkFrame h d (rowPayload d.rate h.length r) (setDemod i {} (applyPilots r.pilots m)))) := by
  refine runIf_kiteTick (decide_eq_true known) rfl hm ?_
  simp only [demodIn_eq at_ inPayload, headed, Option.elim_some]

end

/-- Settles O27, a row at a time, on the frames as they stand at the row's tick. That a reception's stamp lies 11 symbols before the end of
its sync is the model's choice of log 47. -/
theorem kiteEventsComplete : Obligations.KiteEventsComplete := by
  unfold Obligations.KiteEventsComplete
  intro t s m k
  have hm : settleTx (advance t s.part) = m := rfl
  have hk : settleTx (tidyPins (advance t s.part)) = k := rfl
  clear_value m k
  exact ⟨fun p pending second silent => kiteConfigApply_applies hm pending second silent,
    fun b quiet configured slot free applied powered up room =>
      kiteDecision_decides quiet hk configured slot free applied powered up room,
    fun x rest sent ends => kiteTxEnd_reports hm sent ends,
    fun quiet configured boundary applied within => kiteWindowBoundary_hops quiet hk configured boundary applied within,
    fun p i above below sees isNew noWeaker free => kiteDetection_assigns hm above below sees isNew noWeaker free,
    fun i d shift pilots known at_ syncing => ⟨kiteSyncDone_header hm known at_ syncing, kiteSyncDone_fails hm known at_ syncing⟩,
    fun i d known at_ syncing passed => kiteSyncTimeout_fails hm known at_ syncing passed,
    fun i d h known at_ inHeader => kiteHeaderDone_decides hm known at_ inHeader,
    fun i d h r known at_ inPayload headed => kitePayloadDone_checks hm known at_ inPayload headed⟩

end Sys2Proof.KiteRows

/-! # What ending the work of a part leaves (R449, R454)

BRACE and a host's reset end work in progress: records, source sets, contexts, calibration runs, frames of the Kite link. `Lasts` carries
through it what the work does not own, and that nothing new is made. -/

namespace Sys2Proof.Lasting

open Sys2Proof Sys2Proof.Machine Sys2Proof.Safety Sys2Proof.Laws

/-- What the work of a part does not own. -/
def lasting (m : Part) : Ident × Clock × Spll × List Tile × Sched × List (Nat × Plan) × Option Nat :=
  (m.ident, m.clock, m.spll, m.tiles, m.sched, m.plans, m.chain.addr)

/-- What the host has made of contexts, flows, source sets and policies. -/
def made (m : Part) : List (Nat × Ctx) × List (Nat × Flow) × List (Nat × SourceSet) × List (Nat × Follow) :=
  (m.ctxs, m.flows, m.sets, m.service.policies)

/-- `m'` keeps what lasts of `m`, and has none made where `m` has none. -/
structure Lasts (m m' : Part) : Prop where
  kept : lasting m' = lasting m
  ctxs : m.ctxs = [] → m'.ctxs = []
  flows : m.flows = [] → m'.flows = []
  sets : m.sets = [] → m'.sets = []
  policies : m.service.policies = [] → m'.service.policies = []

section
variable {a b c m : Part}

theorem Lasts.refl (m : Part) : Lasts m m := ⟨rfl, id, id, id, id⟩

theorem Lasts.trans (h : Lasts a b) (k : Lasts b c) : Lasts a c :=
  ⟨k.kept.trans h.kept, k.ctxs ∘ h.ctxs, k.flows ∘ h.flows, k.sets ∘ h.sets, k.policies ∘ h.policies⟩

theorem Lasts.fields (h : Lasts a b) : b.ident = a.ident ∧ b.clock = a.clock ∧ b.spll = a.spll ∧ b.tiles = a.tiles ∧ b.sched = a.sched ∧
    b.plans = a.plans ∧ b.chain.addr = a.chain.addr := by
  simpa [lasting] using h.kept

/-- An operation that makes and ends nothing. -/
theorem Lasts.of_same (kept : lasting b = lasting a) (same : made b = made a) : Lasts a b := by
  obtain ⟨ctxs, flows, sets, policies⟩ : b.ctxs = a.ctxs ∧ b.flows = a.flows ∧ b.sets = a.sets ∧ b.service.policies = a.service.policies := by
    simpa [made] using same
  exact ⟨kept, ctxs.trans, flows.trans, sets.trans, policies.trans⟩

/-- An operation that begins from a part in which neither what lasts nor what is made has changed. -/
theorem Lasts.of_begun (h : Lasts b c) (kept : lasting b = lasting a) (same : made b = made a) : Lasts a c :=
  (Lasts.of_same kept same).trans h

theorem Lasts.ite {p : Prop} [Decidable p] (h : Lasts a b) (k : Lasts a c) : Lasts a (if p then b else c) := by
  split <;> assumption

theorem Lasts.foldl {β : Type} {f : Part → β → Part} (h : ∀ m x, Lasts m (f m x)) (l : List β) (m : Part) :
    Lasts m (l.foldl f m) := by
  induction l generalizing m with
  | nil => exact .refl m
  | cons x l ih => exact (h m x).trans (ih _)

theorem Lasts.elim {β : Type} {f : β → Part} (h : ∀ x, Lasts m (f x)) (o : Option β) : Lasts m (o.elim m f) := by
  cases o with
  | none => exact .refl m
  | some x => exact h x

end

/-! ## Tables, events and answers -/

theorem change_nil {α : Type} {k : Nat} {f : α → α} {l : List (Nat × α)} (none_ : l = []) : change k f l = [] := by
  rw [none_]; rfl

theorem erase_nil {α : Type} {k : Nat} {l : List (Nat × α)} (none_ : l = []) : erase k l = [] := by
  rw [none_]; rfl

theorem lasts_onFlow (n : Nat) (f : Flow → Flow) (m : Part) : Lasts m (onFlow n f m) := ⟨rfl, id, change_nil, id, id⟩

theorem lasts_onCtx (c : Nat) (f : Ctx → Ctx) (m : Part) : Lasts m (onCtx c f m) :=
  ⟨rfl, fun none_ => by simp [onCtx, change, none_], id, id, id⟩

theorem lasts_onSet (n : Nat) (f : SourceSet → SourceSet) (m : Part) : Lasts m (onSet n f m) := ⟨rfl, id, id, change_nil, id⟩

theorem lasts_onHalf (h : Nat) (f : Half → Half) (m : Part) : Lasts m (onHalf h f m) := .of_same rfl rfl

theorem lasts_onKite (f : Kite → Kite) (m : Part) : Lasts m (onKite f m) := .of_same rfl rfl

theorem lasts_onPort (p : Nat) (f : Port → Port) (m : Part) : Lasts m (onPort p f m) := .of_same rfl rfl

theorem lasts_raiseAt (t s c : Nat) (p : List Field) (m : Part) : Lasts m (raiseAt t s c p m) := by
  obtain ⟨_, _, _, _, _, _, _, _, _, e⟩ := raiseAt_frame t s c p m
  rw [e]
  exact .of_same rfl rfl

theorem lasts_raise (s c : Nat) (p : List Field) (m : Part) : Lasts m (raise s c p m) := lasts_raiseAt _ _ _ _ _

theorem lasts_finish (d : Desc) (o : Origin) (c : Nat) (r : Reply) (m : Part) : Lasts m (finish d o c r m) :=
  .of_same (by simp [lasting]) (by simp [made])

/-! ## Records -/

theorem lasts_overflowEvent (n cause : Nat) (m : Part) : Lasts m (overflowEvent n cause m) := by
  unfold overflowEvent
  split
  · exact .refl m
  · exact .ite ((lasts_onFlow _ _ _).trans (lasts_raise _ _ _ _)) (.refl m)

theorem lasts_dropRecord (n cause length : Nat) (m : Part) : Lasts m (dropRecord n cause length m) :=
  (lasts_onFlow _ _ _).trans (lasts_overflowEvent _ _ _)

theorem lasts_countLate (n bytes : Nat) (m : Part) : Lasts m (countLate n bytes m) :=
  (lasts_onFlow _ _ _).trans (lasts_overflowEvent _ _ _)

theorem lasts_fixDelay (n : Nat) (stamp : Int) (m : Part) : Lasts m (fixDelay n stamp m) := .of_same rfl rfl

theorem lasts_stageRecord (n : Nat) (o : OpenRecord) (m : Part) : Lasts m (stageRecord n o m) := by
  unfold stageRecord
  split
  · exact .refl m
  · exact .ite (lasts_dropRecord _ _ _ _) (.ite (lasts_dropRecord _ _ _ _) ((lasts_onFlow _ _ _).trans (lasts_fixDelay _ _ _)))

theorem lasts_closeRecord (n : Nat) (m : Part) : Lasts m (closeRecord n m) := by
  unfold closeRecord
  split
  · exact .refl m
  · split
    · exact .refl m
    · refine (lasts_onFlow n (fun f => { f with opened := none }) m).trans ?_
      dsimp only
      split
      · exact lasts_countLate _ _ _
      · exact (Lasts.ite (lasts_countLate _ _ _) (.refl _)).trans (lasts_stageRecord _ _ _)

theorem lasts_appendItem (n ht : Nat) (t : Int) (flags : Nat) (it : Item) (m : Part) : Lasts m (appendItem n ht t flags it m) := by
  unfold appendItem
  split
  · exact .refl m
  · refine .ite (.refl m) ?_
    extract_lets full closed o o' opened
    have hc : Lasts m closed := .ite (lasts_closeRecord _ _) (.refl m)
    have ho : Lasts m opened := hc.trans (lasts_onFlow _ _ _)
    exact .ite (ho.trans (lasts_closeRecord _ _)) ho

theorem lasts_appendItems (ht : Nat) (t : Int) (flags : Nat) (it : Item) (l : List Nat) (m : Part) :
    Lasts m (appendItems ht t flags it l m) := by
  induction l generalizing m with
  | nil => exact .refl m
  | cons n l ih => exact (lasts_appendItem _ _ _ _ _ _).trans (ih _)

theorem lasts_appendFixed (n fuel : Nat) (c : Content) (m : Part) : Lasts m (appendFixed n fuel c m) := by
  induction fuel generalizing c m with
  | zero => exact .refl m
  | succ fuel ih =>
    unfold appendFixed
    refine .ite (.refl m) ?_
    split
    · exact .refl m
    · exact ((lasts_onFlow _ _ _).trans (.ite (lasts_closeRecord _ _) (.refl _))).trans (ih _ _)

theorem lasts_iqSpans (n : Nat) (x : Ctx) (blank : Bool) (lo hi : Nat) (l : List Nat) (m : Part) :
    Lasts m (iqSpans n x blank lo hi l m) := by
  induction l generalizing lo m with
  | nil => exact lasts_appendFixed _ _ _ _
  | cons p l ih => exact (lasts_appendFixed _ _ _ _).trans (ih _ _)

theorem lasts_catchIq (hi n : Nat) (x : Ctx) (m : Part) : Lasts m (catchIq hi n x m) := by
  unfold catchIq
  split
  · exact .refl m
  · exact .ite (.refl m) ((Lasts.ite (.refl m) (lasts_iqSpans _ _ _ _ _ _ _)).trans (lasts_onFlow _ _ _))

theorem lasts_catchAll (hi : Nat) (x : Ctx) (l : List Nat) (m : Part) : Lasts m (catchAll hi x l m) := by
  induction l generalizing m with
  | nil => exact .refl m
  | cons n l ih => exact (lasts_catchIq _ _ _ _).trans (ih _)

theorem lasts_pcmSpans (n : Nat) (g : PcmGrid) (words : Nat → Nat → Nat → List Int) (silent : Nat → Bool) (flags : Nat → Nat)
    (lo hi : Nat) (l : List Nat) (m : Part) : Lasts m (pcmSpans n g words silent flags lo hi l m) := by
  induction l generalizing lo m with
  | nil => exact lasts_appendFixed _ _ _ _
  | cons p l ih => exact (lasts_appendFixed _ _ _ _).trans (ih _ _)

theorem lasts_catchPcm (c : Nat) (x : Ctx) (hi n : Nat) (m : Part) : Lasts m (catchPcm c x hi n m) := by
  unfold catchPcm
  split
  · exact .refl m
  · exact .ite (.refl m) ((lasts_pcmSpans _ _ _ _ _ _ _ _ _).trans (lasts_onFlow _ _ _))

theorem lasts_catchPcmAll (c : Nat) (x : Ctx) (hi : Nat) (l : List Nat) (m : Part) : Lasts m (catchPcmAll c x hi l m) := by
  induction l generalizing m with
  | nil => exact .refl m
  | cons n l ih => exact (lasts_catchPcm _ _ _ _ _).trans (ih _)

theorem lasts_catchTo (c hi : Nat) (iq : Ctx → Part → Nat) (m : Part) : Lasts m (catchTo c hi iq m) := by
  unfold catchTo
  split
  · exact .refl m
  · exact (lasts_catchAll _ _ _ _).trans (lasts_catchPcmAll _ _ _ _ _)

theorem lasts_breakFlows (l : List Nat) (m : Part) : Lasts m (breakFlows l m) := by
  induction l generalizing m with
  | nil => exact .refl m
  | cons n l ih => exact ((lasts_closeRecord _ _).trans (lasts_onFlow _ _ _)).trans (ih _)

/-! ## Captures -/

theorem lasts_closeCapture (c : Capture) (m : Part) : Lasts m (closeCapture c m).2 :=
  (lasts_onFlow _ _ _).trans (lasts_closeRecord _ _)

theorem lasts_fillGroups (c : Capture) (s : CapSpan) (n flags : Nat) (m : Part) : Lasts m (fillGroups c s n flags m).2 :=
  ((lasts_onFlow _ _ _).trans (lasts_appendFixed _ _ _ _)).trans (lasts_onFlow _ _ _)

theorem lasts_deliverSpan (c : Capture) (s : CapSpan) (m : Part) : Lasts m (deliverSpan c s m).2 := by
  unfold deliverSpan
  split
  · exact ((lasts_closeCapture _ _).trans (lasts_fillGroups _ _ _ _ _)).trans (lasts_fillGroups _ _ _ _ _)
  · exact lasts_fillGroups _ _ _ _ _

theorem lasts_deliverSpans (l : List CapSpan) (c : Capture) (m : Part) : Lasts m (deliverSpans l c m).2 := by
  induction l generalizing c m with
  | nil => exact .refl m
  | cons s l ih => exact (lasts_deliverSpan _ _ _).trans (ih _ _)

theorem lasts_releaseCapture (c : Capture) (m : Part) : Lasts m (releaseCapture c m).2 := by
  unfold releaseCapture
  split
  · dsimp only
    split
    · exact (lasts_deliverSpans _ _ _).trans (lasts_closeCapture _ _)
    · exact lasts_deliverSpans _ _ _
  · exact .refl m

theorem lasts_catchCapture (c : Capture) (m : Part) : Lasts m (catchCapture c m).2 := by
  unfold catchCapture
  split <;> exact lasts_releaseCapture _ _

theorem lasts_catchWhere (p : Capture → Bool) (f : Capture → Capture) (l done : List Capture) (m : Part) :
    Lasts m (catchWhere p f l done m) := by
  induction l generalizing done m with
  | nil => exact .of_same rfl rfl
  | cons c l ih =>
    unfold catchWhere
    refine .ite ?_ (ih _ _)
    have caught : Lasts m (catchCapture c m).2 := lasts_catchCapture _ _
    dsimp only
    split
    · exact (caught.trans (lasts_releaseCapture _ _)).trans (ih _ _)
    · exact caught.trans (ih _ _)

/-! ## Source sets -/

theorem lasts_moveMember (n i : Nat) (new : MemberState) (cause : LinkCause) (m : Part) : Lasts m (moveMember n i new cause m) := by
  unfold moveMember
  split
  · exact .refl m
  · exact .ite (.refl m) ((lasts_raise _ _ _ _).trans (lasts_onSet _ _ _))

theorem lasts_joinReference (n : Nat) (m : Part) : Lasts m (joinReference n m) := by
  unfold joinReference
  split
  · exact .refl m
  · exact .ite (lasts_moveMember _ _ _ _ _) (.refl m)

theorem lasts_takeReference (n i : Nat) (m : Part) : Lasts m (takeReference n i m) :=
  (lasts_onSet _ _ _).trans (lasts_joinReference _ _)

theorem lasts_passReference (n : Nat) (m : Part) : Lasts m (passReference n m) := by
  unfold passReference
  split
  · exact .refl m
  · refine .ite (.refl m) ?_
    split
    · exact .refl m
    · exact lasts_takeReference _ _ _

theorem lasts_rebranch (n i : Nat) (m : Part) : Lasts m (rebranch n i m) := by
  unfold rebranch
  split
  · exact .refl m
  · exact .ite (.refl m) (lasts_onSet _ _ _)

theorem lasts_refreshMember (n i : Nat) (m : Part) : Lasts m (refreshMember n i m) := by
  unfold refreshMember
  split
  · exact .refl m
  · split
    · exact .refl m
    · exact .ite (lasts_moveMember _ _ _ _ _) (.ite ((lasts_rebranch _ _ _).trans (lasts_moveMember _ _ _ _ _)) (.refl m))

theorem lasts_refreshSet (n : Nat) (m : Part) : Lasts m (refreshSet n m) :=
  (Lasts.foldl (fun _ _ => lasts_refreshMember _ _ _) _ _).trans (lasts_passReference _ _)

theorem lasts_refreshCtx (c : Nat) (m : Part) : Lasts m (refreshCtx c m) := .foldl (fun _ _ => lasts_refreshSet _ _) _ _

theorem lasts_endSet (n : Nat) (m : Part) : Lasts m (endSet n m) := ⟨rfl, id, id, erase_nil, id⟩

theorem lasts_removeMember (n i : Nat) (m : Part) : Lasts m (removeMember n i m) := by
  unfold removeMember
  split
  · exact .refl m
  · exact ((lasts_raise _ _ _ _).trans (lasts_onSet _ _ _)).trans (.ite (lasts_takeReference _ _ _) (lasts_passReference _ _))

theorem lasts_dropFromSet (c n : Nat) (m : Part) : Lasts m (dropFromSet c n m) := by
  unfold dropFromSet
  split
  · exact .refl m
  · exact .ite ((lasts_endSet _ _).trans (lasts_raise _ _ _ _)) (.foldl (fun m _ => .ite (lasts_removeMember _ _ _) (.refl m)) _ _)

theorem lasts_dropFromSets (c : Nat) (m : Part) : Lasts m (dropFromSets c m) := .foldl (fun _ _ => lasts_dropFromSet _ _ _) _ _

theorem lasts_noteSets (c : Nat) (m : Part) : Lasts m (noteSets c m) := .foldl (fun _ _ => lasts_onSet _ _ _) _ _

/-! ## Contexts -/

theorem lasts_catchUp (c : Nat) (m : Part) : Lasts m (catchUp c m) := (lasts_noteSets _ _).trans (lasts_catchTo _ _ _ _)

theorem lasts_flushUp (c : Nat) (m : Part) : Lasts m (flushUp c m) := (lasts_noteSets _ _).trans (lasts_catchTo _ _ _ _)

theorem lasts_notePilot (c : Nat) (before : Pilot) (m : Part) : Lasts m (notePilot c before m) := by
  unfold notePilot
  split
  · exact .refl m
  · exact .ite (.refl m) (lasts_raise _ _ _ _)

theorem lasts_changeCtx (c cause : Nat) (f : Ctx → Ctx) (m : Part) : Lasts m (changeCtx c cause f m) := by
  unfold changeCtx
  extract_lets settled
  have hs : Lasts m settled := .ite (lasts_onCtx _ _ _) (.refl m)
  refine hs.trans ?_
  split
  · exact .refl _
  · exact (((lasts_onCtx _ _ _).trans (.ite (.refl _) (lasts_raise _ _ _ _))).trans (lasts_notePilot _ _ _)).trans (lasts_refreshCtx _ _)

theorem lasts_cutWindow (c : Nat) (state : CtxState) (m : Part) : Lasts m (cutWindow c state m) := by
  unfold cutWindow
  split
  · exact .refl m
  · exact .of_begun (lasts_appendItems _ _ _ _ _ _) rfl rfl

/-- A context leaves its slot, with what the part held for it. -/
theorem Lasts.of_freed {a b : Part} {c : Nat} {blocks : List IterBlock} {service : Service} (h : Lasts a b)
    (policies : service.policies = b.service.policies) :
    Lasts a { b with ctxs := erase c b.ctxs, blocks := blocks, service := service } :=
  ⟨h.kept, fun none_ => erase_nil (h.ctxs none_), h.flows, h.sets, fun none_ => policies.trans (h.policies none_)⟩

theorem lasts_dropCtx (c : Nat) (state : CtxState) (cause : Nat) (m : Part) : Lasts m (dropCtx c state cause m) := by
  unfold dropCtx
  split
  · exact .refl m
  · extract_lets broken told
    have h : Lasts m told :=
      (((lasts_flushUp _ _).trans (lasts_cutWindow _ _ _)).trans (lasts_breakFlows _ _)).trans (lasts_raise _ _ _ _)
    clear_value told
    refine (Lasts.of_freed h ?_).trans (lasts_dropFromSets _ _)
    rfl

theorem lasts_closePolicyCtxs (set : Nat) (l : List Nat) (m : Part) : Lasts m (closePolicyCtxs set l m) := by
  induction l generalizing m with
  | nil => exact .refl m
  | cons c l ih => exact ((lasts_dropCtx _ _ _ _).trans (lasts_raise _ _ _ _)).trans (ih _)

theorem lasts_endPolicy (set : Nat) (m : Part) : Lasts m (endPolicy set m) :=
  have ended := ((Lasts.elim (fun p : Follow => lasts_flushUp p.params.ctx m) (policy set m)).trans
    (lasts_closePolicyCtxs set _ _)).trans (lasts_endSet set _)
  ⟨ended.kept, ended.ctxs, ended.flows, ended.sets, fun none_ => erase_nil (ended.policies none_)⟩

theorem lasts_endPolicies (home kHz : Nat) (l : List Nat) (m : Part) : Lasts m (endPolicies home kHz l m) := by
  induction l generalizing m with
  | nil => exact .refl m
  | cons n l ih => exact ((lasts_endPolicy _ _).trans (lasts_raise _ _ _ _)).trans (ih _)

theorem lasts_forgetWatch (c : Nat) (m : Part) : Lasts m (forgetWatch c m) :=
  ⟨rfl, id, id, id, fun none_ => by simp [forgetWatch, none_]⟩

theorem lasts_closeCtx (c : Nat) (state : CtxState) (cause : Nat) (m : Part) : Lasts m (closeCtx c state cause m) := by
  unfold closeCtx
  split
  · exact .refl m
  · exact (((lasts_dropCtx _ _ _ _).trans (lasts_forgetWatch _ _)).trans (.elim (fun _ => lasts_raise _ _ _ _) _)).trans
      (lasts_endPolicies _ _ _ _)

theorem lasts_closeCtxs (state : CtxState) (cause : Nat) (l : List Nat) (m : Part) : Lasts m (closeCtxs state cause l m) := by
  induction l generalizing m with
  | nil => exact .refl m
  | cons c l ih => exact (lasts_closeCtx _ _ _ _).trans (ih _)

/-! ## Calibration -/

theorem lasts_settleCal (id : Nat) (m : Part) : Lasts m (settleCal id m) := by
  unfold settleCal
  split
  · exact .refl m
  · exact .ite (.of_begun (lasts_finish _ _ _ _ _) rfl rfl) (.refl m)

theorem lasts_endTarget (command : Option Nat) (h status : Nat) (m : Part) : Lasts m (endTarget command h status m) := by
  unfold endTarget
  split
  · exact .refl m
  · exact .of_begun (lasts_settleCal _ _) rfl rfl

theorem lasts_releaseOn (h : Nat) (cause : HoldCause) (c : Nat) (m : Part) : Lasts m (releaseOn h cause c m) :=
  (lasts_catchUp _ _).trans (lasts_changeCtx _ _ _ _)

theorem lasts_releaseCtx (cause : HoldCause) (c : Nat) (m : Part) : Lasts m (releaseCtx cause c m) :=
  (lasts_catchUp _ _).trans (lasts_changeCtx _ _ _ _)

theorem lasts_endCalHold (h c : Nat) (m : Part) : Lasts m (endCalHold h c m) := by
  unfold endCalHold
  exact .ite ((lasts_releaseOn _ _ _ _).trans (.ite (lasts_onCtx _ _ _) ((lasts_catchUp _ _).trans (lasts_onCtx _ _ _)))) (.refl m)

theorem lasts_endHolds (h : Nat) (m : Part) : Lasts m (endHolds h m) := by
  refine .foldl (fun m c => ?_) _ _
  exact ((Lasts.ite (.refl m) (lasts_endCalHold _ _ _)).trans (.ite (.refl _) (lasts_releaseOn _ _ _ _))).trans
    (.ite (.refl _) (lasts_releaseCtx _ _ _))

theorem lasts_followShared (h : Nat) (m : Part) : Lasts m (followShared h m) := .ite (lasts_onHalf _ _ _) (.refl m)

theorem lasts_unfreezeBands (h : Nat) (m : Part) : Lasts m (unfreezeBands h m) :=
  .ite (.refl m) ((lasts_onHalf _ _ _).trans (lasts_followShared _ _))

theorem lasts_freezeBands (h : Nat) (m : Part) : Lasts m (freezeBands h m) :=
  (lasts_onHalf _ _ _).trans (.ite (lasts_onHalf _ _ _) (.refl _))

theorem lasts_closeIfLive (h : Nat) (m : Part) : Lasts m (closeIfLive h m) := .ite (.of_same rfl rfl) (.refl m)

theorem lasts_abandonRun (h : Nat) (m : Part) : Lasts m (abandonRun h m) := by
  unfold abandonRun
  split
  · exact .refl m
  · exact (((((lasts_catchWhere _ _ _ _ _).trans (lasts_onHalf _ _ _)).trans (lasts_closeIfLive _ _)).trans
      (lasts_unfreezeBands _ _)).trans (lasts_endHolds _ _)).trans (lasts_endTarget _ _ _ _)

theorem lasts_releasePins (h : Nat) (m : Part) : Lasts m (releasePins h m) := .of_same rfl rfl

theorem lasts_tidyPins (m : Part) : Lasts m (tidyPins m) := .foldl (fun _ _ => lasts_releasePins _ _) _ _

theorem lasts_dropPlaced (h : Nat) (p : PlacedRun) (status : Nat) (m : Part) : Lasts m (dropPlaced h p status m) :=
  (((lasts_onHalf _ _ _).trans (lasts_releasePins _ _)).trans (lasts_endHolds _ _)).trans (lasts_endTarget _ _ _ _)

theorem lasts_dropOrphans (m : Part) : Lasts m (dropOrphans m) :=
  .foldl (fun _ _ => .foldl (fun _ _ => lasts_dropPlaced _ _ _ _) _ _) _ _

/-! ## The Kite link -/

theorem lasts_appendKite (subtype session status channel cls ht : Nat) (fields : List Field) (bytes : Nat) (body : List Byte) (m : Part) :
    Lasts m (appendKite subtype session status channel cls ht fields bytes body m) := by
  refine .foldl (fun m n => ?_) _ m
  dsimp only
  split
  · exact .refl m
  · exact lasts_appendItem _ _ _ _ _ _

theorem lasts_reportTx (session channel sf : Nat) (fr : KiteFrame) (status used ht : Nat) (m : Part) :
    Lasts m (reportTx session channel sf fr status used ht m) :=
  (lasts_appendKite _ _ _ _ _ _ _ _ _ _).trans (lasts_raiseAt _ _ _ _ _)

theorem lasts_hopBack (h : Nat) (m : Part) : Lasts m (hopBack h m) := by
  unfold hopBack
  extract_lets
  refine Lasts.of_begun (.elim (fun c => ?_) _) rfl rfl
  exact .ite (.refl _) (.of_same rfl rfl)

theorem lasts_dropEvent (m : Part) : Lasts m (dropEvent m) := by
  unfold dropEvent
  extract_lets
  exact .ite ((lasts_onKite _ _).trans (lasts_raise _ _ _ _)) (.refl m)

theorem lasts_chargeBucket (subBand cls : Nat) (air : Int) (e : Nat) (m : Part) : Lasts m (chargeBucket subBand cls air e m) :=
  .of_same rfl rfl

theorem lasts_settleTx (m : Part) : Lasts m (settleTx m) := by
  unfold settleTx
  extract_lets e hopped freed begin_ charged begun lead air trail _ corrected
  have s1 : Lasts m hopped := by
    unfold hopped
    split
    · exact .ite (lasts_hopBack _ _) (.refl m)
    · exact .refl m
  have s2 : Lasts hopped freed := .ite (.of_same rfl rfl) (.refl _)
  have s3 : Lasts freed charged := .foldl (fun _ _ => lasts_chargeBucket _ _ _ _ _) _ _
  have s4 : Lasts charged begun := .of_same rfl rfl
  have s5 : Lasts begun corrected := .ite (.refl _) (.of_same rfl rfl)
  have s : Lasts m corrected := s1.trans (s2.trans (s3.trans (s4.trans s5)))
  clear_value corrected
  exact s.trans (.of_begun (lasts_dropEvent _) rfl rfl)

theorem lasts_abortOne (status ramp : Nat) (x : KiteTx) (m : Part) : Lasts m (abortOne status ramp x m) := by
  unfold abortOne
  extract_lets used charged
  have s : Lasts m charged := .ite (lasts_chargeBucket _ _ _ _ _) (.refl m)
  exact (s.trans (lasts_onKite _ _)).trans (lasts_reportTx _ _ _ _ _ _ _ _)

theorem lasts_tuneKsyn (ch : Nat) (m : Part) : Lasts m (tuneKsyn ch m) := .of_same rfl rfl

theorem lasts_returnRx (e : Nat) (m : Part) : Lasts m (returnRx e m) := by
  unfold returnRx
  split
  · exact .ite (.refl m) (lasts_tuneKsyn _ _)
  · exact (Lasts.elim (fun _ => lasts_tuneKsyn _ _) _).trans (lasts_onKite _ _)

theorem lasts_abortKite (status : Nat) (m : Part) : Lasts m (abortKite status m) := by
  unfold abortKite
  extract_lets settled ramp l down aborted e b hop
  have s1 : Lasts m settled := lasts_settleTx m
  have s2 : Lasts settled aborted := (lasts_onKite _ _).trans (.foldl (fun _ _ => lasts_abortOne _ _ _ _) _ _)
  exact s1.trans (.ite (.refl _) (.ite (s2.trans (lasts_returnRx _ _)) (s2.trans (lasts_onKite _ _))))

theorem lasts_discardFrames (session channel sf status : Nat) (l : List KiteFrame) (m : Part) :
    Lasts m (discardFrames session channel sf status l m) := by
  induction l generalizing m with
  | nil => exact .refl m
  | cons fr l ih => exact (lasts_reportTx _ _ _ _ _ _ _ _).trans (ih _)

theorem lasts_discardWhere (n status : Nat) (p : KiteFrame → Bool) (m : Part) : Lasts m (discardWhere n status p m) := by
  unfold discardWhere
  split
  · exact .refl m
  · exact (lasts_onKite _ _).trans (lasts_discardFrames _ _ _ _ _ _)

theorem lasts_closeSession (n cause status : Nat) (m : Part) : Lasts m (closeSession n cause status m) := by
  unfold closeSession
  split
  · exact .refl m
  · exact ((lasts_discardWhere _ _ _ _).trans (lasts_onKite _ _)).trans (lasts_raise _ _ _ _)

theorem lasts_kiteOff (m : Part) : Lasts m (kiteOff m) :=
  (Lasts.foldl (fun _ _ => lasts_closeSession _ _ _ _) _ _).trans (.of_same rfl rfl)

/-! ## Flows and audio ports -/

theorem lasts_trigger (v : Nat) (m : Part) : Lasts m (trigger v m) := .of_same (by simp [lasting]) (by simp [made])

theorem lasts_returnBuffer (r : Nat) (b : ReturnedBuffer) (m : Part) : Lasts m (returnBuffer r b m) := by
  unfold returnBuffer
  split
  · exact .refl m
  · extract_lets cons written shown
    have hs : Lasts m shown := .of_same rfl rfl
    refine (hs.trans ?_).trans (lasts_trigger _ _)
    exact .of_same rfl rfl

theorem lasts_closeBuffer (r : Nat) (flushed : Bool) (m : Part) : Lasts m (closeBuffer r flushed m) := by
  unfold closeBuffer
  split
  · exact .refl m
  · exact .of_begun (lasts_returnBuffer _ _ _) rfl rfl

theorem lasts_emptyBuffers (r : Nat) (l : List BufferDesc) (m : Part) : Lasts m (emptyBuffers r l m) := by
  induction l generalizing m with
  | nil => exact .refl m
  | cons d l ih => exact (lasts_returnBuffer _ _ _).trans (ih _)

theorem lasts_releaseRing (r : Nat) (m : Part) : Lasts m (releaseRing r m) :=
  .ite (.refl m) ((lasts_closeBuffer _ _ _).trans (.of_begun (lasts_emptyBuffers _ _ _) rfl rfl))

theorem lasts_bindPair (n : Nat) (t : FlowTarget) (m : Part) : Lasts m (bindPair n t m) := by
  unfold bindPair
  extract_lets
  split <;> exact .of_same rfl rfl

theorem lasts_refreshTags (m : Part) : Lasts m (refreshTags m) :=
  ⟨rfl, id, fun none_ => by simp [refreshTags, none_], id, id⟩

theorem lasts_retarget (n : Nat) (t : FlowTarget) (m : Part) : Lasts m (retarget n t m) := by
  unfold retarget
  split
  · exact .refl m
  next f _ =>
    extract_lets caught changed bound released
    have s1 : Lasts m caught := .ite (lasts_catchUp _ _) (.refl m)
    have s2 : Lasts caught bound := (lasts_onFlow _ _ _).trans (lasts_bindPair _ _ _)
    have s3 : Lasts bound released := by
      unfold released
      split
      · exact lasts_releaseRing _ _
      · exact .refl _
    have s4 : Lasts released (freeCaptures (catchWhere (fun c => decide (c.flow = n)) id released.captures [] released)) :=
      (lasts_catchWhere _ _ _ _ _).trans (.of_same rfl rfl)
    exact (s1.trans (s2.trans (s3.trans s4))).trans (lasts_refreshTags _)

theorem lasts_unbindAll (l : List Nat) (m : Part) : Lasts m (unbindAll l m) := by
  induction l generalizing m with
  | nil => exact .refl m
  | cons n l ih => exact (lasts_retarget _ _ _).trans (ih _)

theorem lasts_inputFrames (p n ht : Nat) (t : Int) (flags : Nat) (words : List Nat) (m : Part) :
    Lasts m (inputFrames p n ht t flags words m) :=
  .elim (fun _ => .foldl (fun _ _ => lasts_appendFixed _ _ _ _) _ _) _

theorem lasts_followStall (p : Nat) (m : Part) : Lasts m (followStall p m) :=
  .ite (.refl m) ((lasts_onPort p _ m).trans
    (.ite (.refl _) (((lasts_onPort _ _ _).trans (lasts_onPort _ _ _)).trans (lasts_inputFrames _ _ _ _ _ _ _))))

theorem lasts_stopPort (p : Nat) (m : Part) : Lasts m (stopPort p m) := by
  unfold stopPort
  extract_lets x followed broken stopped
  have s : Lasts m stopped := ((lasts_followStall _ _).trans (lasts_breakFlows _ _)).trans (lasts_onPort _ _ _)
  refine .ite (.refl m) (s.trans ?_)
  split
  · split
    · exact (lasts_onPort _ _ _).trans (lasts_finish _ _ _ _ _)
    · exact .refl _
  · exact .refl _

end Sys2Proof.Lasting

/-! # Supply, BRACE, rail groups, watchdogs and resets (R446-R456) -/

namespace Sys2Proof.PowerRows

open Sys2Proof Sys2Proof.Machine Sys2Proof.Safety Sys2Proof.Laws Sys2Proof.Lasting

/-- What ends work in progress at an entry to BRACE leaves the rest of the part (R449). -/
theorem lasts_enterBrace (vin : Nat) (m : Part) : Lasts m (HouseTime.enterBrace vin m) :=
  .of_begun (((lasts_raise _ _ _ _).trans (lasts_abortKite _ _)).trans (.foldl (fun _ _ =>
    ((lasts_abandonRun _ _).trans (lasts_onHalf _ _ _)).trans (lasts_freezeBands _ _)) _ _)) rfl rfl

/-- Every half resumes (R450). -/
def resumeAll (m : Part) : Part := (allHalves m).foldl (fun m h => resumeHalf h m) m

/-- What a part keeps that has entered BRACE, and what it has noted, once HT is stored (R449). -/
theorem braceStored_keeps {vin : Nat} {s u : State} {m e : Part} (stored : u = withPart s (storeHt e))
    (noted : HouseTime.Steady (HouseTime.noteBrace vin m) e) (lasts : Lasts m e) :
    u.part.power.brace = some
        { entered := m.clock.elapsed, qualify := m.clock.elapsed, since := (m.clock.elapsed : Int) - 246, vinMin := vin } ∧
      u.part.power.vin = vin ∧ u.part.oasis.lastHt = some m.clock.ht ∧ u.part.clock = m.clock ∧ u.pending = s.pending ∧
      u.part.ident = m.ident ∧ u.part.spll = m.spll ∧ u.part.sched = m.sched ∧ u.part.tiles = m.tiles ∧ u.part.plans = m.plans := by
  subst stored
  have power : (storeHt e).power = (HouseTime.noteBrace vin m).power := noted.power
  obtain ⟨ident, clock, spll, tiles, sched, plans, -⟩ := lasts.fields
  exact ⟨congrArg Power.brace power, congrArg Power.vin power, congrArg (fun c : Clock => some c.ht) clock, clock, rfl, ident, spll, sched,
    tiles, plans⟩

section
variable {t : Nat} {s : State} {m : Part} (ha : advance t s.part = m)
include ha

/-! ## Start and supply (R446, R447) -/

theorem vinStart_starts {vin : Nat} (off : m.power.railsUp = false) (released : m.power.overVoltage = false) (cool : m.power.hot = false)
    (high : 10800 ≤ vin) : exec (.vinStart t vin) s = .next (withPart s <| railsOn vin m) :=
  run_onTick ha (if_neg (by simp [off, released, cool, high]))

theorem vinOverVoltageRelease_starts {vin : Nat} (high : m.power.overVoltage = true) (below : vin < 13800) :
    exec (.vinOverVoltageRelease t vin) s =
      .next (withPart s <| railsOn vin (onPower (fun p => { p with overVoltage := false }) m)) :=
  run_onTick ha (if_neg (by simp [high, below]))

theorem vinReset_resets {vin : Nat} (rails : m.power.railsUp = true) (low : vin < 9600) :
    exec (.vinReset t vin true) s = .next (withPart s <| railsOff (systemReset srcVin 255 none (sampleVin vin m))) ∧
      exec (.vinReset t vin false) s = .next (withPart s <| powerOff (sampleVin vin m)) := by
  have fits : ¬(9600 ≤ vin ∨ (!m.power.railsUp) = true) := by simp [rails, low]
  exact ⟨run_onTick ha ((if_neg fits).trans (if_pos rfl)), run_onTick ha ((if_neg fits).trans (if_neg Bool.false_ne_true))⟩

theorem vinOverVoltage_resets {vin : Nat} (rails : m.power.railsUp = true) (high : 14500 < vin) :
    exec (.vinOverVoltage t vin) s = .next (withPart s <| onPower (fun p => { p with overVoltage := true }) (railsOff (systemReset srcFault
      255 (some { cause := pmuVinOv, group := 255, value := vin, ht := m.clock.ht }) (sampleVin vin m)))) :=
  run_onTick ha (if_neg (by simp [rails, high]))

/-! ## BRACE (R449, R450) -/

/-- An entry to BRACE notes the dip and stores HT; what it ends leaves identity, clock, SPLL, actions, tiles and plans. -/
theorem braceEntry_enters {vin : Nat} (rails : m.power.railsUp = true) (calm : m.power.brace = none) (low : vin < 100 * m.power.warn) :
    ∃ u, exec (.braceEntry t vin) s = .next u ∧ u.part.power.brace = some
        { entered := m.clock.elapsed, qualify := m.clock.elapsed, since := (m.clock.elapsed : Int) - 246, vinMin := vin } ∧
      u.part.power.vin = vin ∧ u.part.oasis.lastHt = some m.clock.ht ∧ u.part.clock = m.clock ∧ u.pending = s.pending ∧
      u.part.ident = m.ident ∧ u.part.spll = m.spll ∧ u.part.sched = m.sched ∧ u.part.tiles = m.tiles ∧ u.part.plans = m.plans :=
  ⟨_, HouseTime.exec_braceEntry ha rails calm low, braceStored_keeps rfl (HouseTime.steady_enterBrace vin m) (lasts_enterBrace vin m)⟩

/-- An exit from BRACE reports how long the supply was low and how low it went, and resumes the halves. -/
theorem braceExit_resumes {b : Brace} {vin low : Nat} (braced : m.power.brace = some b) (high : 100 * m.power.warn + 200 < vin)
    (stayed : b.qualify + 24576 ≤ m.clock.elapsed) :
    exec (.braceExit t vin low) s = .next (withPart s <| resumeAll (raise 16 0x10
      [⟨0, 1, 1⟩, ⟨4, 4, roundDiv (1000 * ((m.clock.elapsed : Int) - 24576 - b.since)) 24576⟩, ⟨8, 2, min b.vinMin low⟩]
      (onPower (fun p => { p with brace := none }) (sampleVin vin (sampleVin (min b.vinMin low) m))))) := by
  refine run_onTick ha ?_
  rw [braced]
  dsimp only
  rw [if_neg (by simp [high, stayed])]
  simp only [Nat.cast_min]
  rfl

/-- A dip that has lasted a second is told once. -/
theorem braceVinLow_tells {b : Brace} (braced : m.power.brace = some b) (untold : b.lowRaised = false)
    (long : b.entered + ticksPerSecond ≤ m.clock.elapsed) :
    exec (.braceVinLow t) s = .next (withPart s <| pmuFault { cause := pmuVinLow, group := 255, value := m.power.vin, ht := m.clock.ht }
      (onPower (fun p => { p with brace := some { b with lowRaised := true } }) m)) := by
  refine run_onTick ha ?_
  rw [braced]
  exact if_neg (by simp [untold, long])

/-! ## Rail groups (R448) -/

/-- The Gondola's group takes the part with it. -/
theorem railTrip_resets {value : Nat} :
    exec (.railTrip t 1 value false) s = .next (withPart s <| systemReset srcFault 1
      (some { cause := pmuRailUv, group := 1, value := value, ht := m.clock.ht }) m) :=
  runIf_onTick (decide_eq_true (.inl (by omega))) ha rfl

/-- A tile's group takes the tile alone, which is fenced and leaves its plans. -/
theorem railTrip_fences {k value : Nat} (fitted : k < tilesFitted s.part) (known : k < 8) :
    exec (.railTrip t (3 + k) value true) s = .next (withPart s <| leavePlans k (fenceTile k fenceRail (3 + k)
      (onTile k (fun x => { x with railOff := true, switch := none })
        (pmuFault { cause := pmuRailOc, group := 3 + k, value := value, ht := m.clock.ht }
          (onPower (fun p => { p with groups := p.groups.set (3 + k) false }) m))))) := by
  refine runIf_onTick (decide_eq_true (.inl (by omega))) ha ?_
  have tileGroup : ¬(3 + k = 0) ∧ ¬(3 + k = 1 ∨ 3 + k = 2 ∨ 3 + k = 11) := by omega
  simp only [if_neg tileGroup.1, if_neg tileGroup.2, Nat.add_sub_cancel_left]
  rfl

/-! ## Resets (R453, R454) -/

theorem porstN_resets (rails : m.power.railsUp = true) : exec (.porstN t) s = .next (withPart s <| systemReset srcPorst 255 none m) :=
  run_onTick ha (if_pos rails)

/-- A host's reset ends on the head what the host made. -/
theorem hostReset_head (head : isHead m = true) :
    exec (.hostReset t) s = .next (withPart s <| { dropHostState { m with hif := {} } with
      hif := {}, regs := { (dropHostState { m with hif := {} }).regs with msgBase := 0 } }) :=
  run_onTick ha (if_pos head)

theorem hostReset_follower (follower : isHead m = false) :
    exec (.hostReset t) s = .next (withPart s <| { m with hif := {}, regs := { m.regs with msgBase := 0 } }) :=
  run_onTick ha (if_neg (by simp [follower]))

end

/-- Settles O31, a row at a time: under a clause's conditions the row takes the branch named in the clause, and an entry to BRACE is framed
by `Lasts`. That a host's reset on a part whose host interface is secondary clears that interface alone is the model's choice of log 54. -/
theorem powerEventsComplete : Obligations.PowerEventsComplete := by
  unfold Obligations.PowerEventsComplete
  intro t s m
  have ha : advance t s.part = m := rfl
  clear_value m
  refine ⟨fun vin off => ⟨vinStart_starts ha off, vinOverVoltageRelease_starts ha⟩, run_onTick ha rfl, hostReset_follower ha,
    fun head => hostReset_head ha head, fun rails => ⟨porstN_resets ha rails, fun vin low => vinReset_resets ha rails low,
      fun vin high => vinOverVoltage_resets ha rails high, fun vin calm low => braceEntry_enters ha rails calm low⟩,
    fun b braced => ⟨fun vin low high stayed => braceExit_resumes ha braced high stayed,
      fun untold long => braceVinLow_tells ha braced untold long⟩,
    fun value => railTrip_resets ha, fun k value fitted known => railTrip_fences ha fitted known, fun cpu => run_onTick ha rfl⟩

end Sys2Proof.PowerRows

/-! # A reset by the host (R454) -/

namespace Sys2Proof.HostReset

open Sys2Proof Sys2Proof.Machine Sys2Proof.Safety Sys2Proof.Laws Sys2Proof.Lasting

/-- A table without an entry at any key is empty. -/
theorem nil_of_look_none {α : Type} {l : List (Nat × α)} (free : ∀ k, look k l = none) : l = [] := by
  cases l with
  | nil => rfl
  | cons e l => exact absurd ((if_pos rfl).symm.trans (free e.1)) (Option.some_ne_none e.2)

/-- Once every context has closed, the part holds none. -/
theorem closeCtxs_all (state : CtxState) (cause : Nat) (m : Part) : (closeCtxs state cause (m.ctxs.map (·.1)) m).ctxs = [] := by
  obtain ⟨only, frees⟩ := Fencing.closeCtxs_frees state cause (m.ctxs.map (·.1)) m
  refine nil_of_look_none fun c => ?_
  by_cases held : look c m.ctxs = none
  · exact only.slots c held
  · exact frees c (Fencing.mem_of_look_some held)

/-- The part once the contexts of the host have closed and its flows have gone. -/
def withoutFlows (m : Part) : Part :=
  let m := closeCtxs .closed causeCommand ((forgetActions m).ctxs.map (·.1)) (forgetActions m)
  forgetFlows (unbindAll (m.flows.map (·.1)) m)

theorem withoutFlows_keeps (m : Part) : lasting (withoutFlows m) = lasting (forgetActions m) :=
  ((lasts_closeCtxs _ _ _ _).trans (lasts_unbindAll _ _)).kept

theorem withoutFlows_made (m : Part) : made (withoutFlows m) = ([], [], [], []) := by
  have ctxs : (withoutFlows m).ctxs = [] := (lasts_unbindAll _ _).ctxs (closeCtxs_all _ _ _)
  exact congrArg (fun l => (l, [], [], [])) ctxs

theorem lasts_defaultPolicies (m : Part) : Lasts m (defaultPolicies m) := .of_same rfl rfl

/-- What goes after the flows: the ports stop, the Kite link turns off, orphaned runs and pins follow. -/
theorem lasts_afterFlows (m : Part) : Lasts (withoutFlows m) (dropHostState m) := by
  have ports : ∀ x : Part, Lasts x ((List.range 8).foldl (fun m p => onPort p (fun x => { x with start := none }) (stopPort p m)) x) :=
    fun x => .foldl (fun _ _ => (lasts_stopPort _ _).trans (lasts_onPort _ _ _)) _ _
  exact ((((ports _).trans (lasts_kiteOff _)).trans (lasts_defaultPolicies _)).trans (lasts_dropOrphans _)).trans (lasts_tidyPins _)

/-- Nothing that the host made is left once its state has been dropped. -/
theorem dropHostState_made (m : Part) : (dropHostState m).ctxs = [] ∧ (dropHostState m).flows = [] ∧ (dropHostState m).sets = [] ∧
    (dropHostState m).service.policies = [] := by
  obtain ⟨ctxs, flows, sets, policies⟩ : (withoutFlows m).ctxs = [] ∧ (withoutFlows m).flows = [] ∧ (withoutFlows m).sets = [] ∧
      (withoutFlows m).service.policies = [] := by simpa [made] using withoutFlows_made m
  have after := lasts_afterFlows m
  exact ⟨after.ctxs ctxs, after.flows flows, after.sets sets, after.policies policies⟩

/-- Of what lasts, dropping the host's state clears only the actions and the plans. -/
theorem dropHostState_keeps (m : Part) : lasting (dropHostState m) = lasting (forgetActions m) :=
  (lasts_afterFlows m).kept.trans (withoutFlows_keeps m)

/-- The part after a reset by the host. -/
def afterReset (dropped : Part) : Part := { dropped with hif := {}, regs := { dropped.regs with msgBase := 0 } }

/-- What a reset clears and keeps, read off the part whose host state has been dropped. -/
theorem afterReset_clearsAndKeeps {s u : State} {m d : Part} (reset : u = withPart s (afterReset d))
    (none_ : d.ctxs = [] ∧ d.flows = [] ∧ d.sets = [] ∧ d.service.policies = [])
    (kept : lasting d = lasting (forgetActions { m with hif := {} })) :
    u.pending = s.pending ∧ u.part.hif = {} ∧ u.part.ctxs = [] ∧ u.part.flows = [] ∧ u.part.sets = [] ∧ u.part.service.policies = [] ∧
      u.part.sched = {} ∧ u.part.plans = [] ∧ u.part.regs.msgBase = 0 ∧
      u.part.clock = m.clock ∧ u.part.spll = m.spll ∧ u.part.chain.addr = m.chain.addr ∧ u.part.ident = m.ident := by
  subst reset
  obtain ⟨ctxs, flows, sets, policies⟩ := none_
  simp only [lasting, Prod.mk.injEq] at kept
  obtain ⟨ident, clock, spll, -, sched, plans, addr⟩ := kept
  exact ⟨rfl, rfl, ctxs, flows, sets, policies, sched, plans, rfl, clock, spll, addr, ident⟩

/-- Settles O55: `dropHostState` leaves nothing made and keeps what lasts; the reset then clears the host interface again. That commands,
plans and armed work go without completions is the model's choice of log 54. -/
theorem hostResetClearsAndKeeps : Obligations.HostResetClearsAndKeeps := by
  unfold Obligations.HostResetClearsAndKeeps
  intro t s m head
  exact ⟨_, PowerRows.hostReset_head rfl head, afterReset_clearsAndKeeps rfl (dropHostState_made _) (dropHostState_keeps _)⟩

end Sys2Proof.HostReset
